-- ==== Sys2Proof/Word.lean ====
section
/-! DEFINITION. The words of the hardware, its part numbers (00 R5) and the operand types of the commands. -/

namespace Sys2Proof

/-- One byte, the smallest addressable unit. -/
abbrev Byte := BitVec 8
/-- A device register's width (00 R6). -/
abbrev Word := BitVec 32
/-- An address, a 64-bit register, a DEVTIME. -/
abbrev DWord := BitVec 64
/-- A context identifier (11 R214). -/
abbrev Cid := BitVec 16
/-- A completion status code (13 R278). -/
abbrev Status := BitVec 16

/-- Ochre die O0-O3 (00 R5). -/
abbrev DieId := Fin 4
/-- Umber die U0, U1 (00 R5). -/
abbrev UmberId := Fin 2
/-- Global cell number 64·d + n (00 R5). -/
abbrev CellId := Fin 256
/-- Global host-core number (00 R5). -/
abbrev HostId := Fin 96
/-- HBM4E stack and Lake slice S0-S11 (00 R5). -/
abbrev StackId := Fin 12
/-- Package channel 32s + c (10 R191). -/
abbrev ChanId := Fin 384
/-- Package ring 256d + i (13 R262). -/
abbrev RingId := Fin 1024
/-- Isobar port (00 R5). -/
abbrev PortId := Fin 20
/-- Root port (00 R5). -/
abbrev RootId := Fin 4
/-- Package link index: SL01, SL13, SL32, SL20, HL0-HL3 (15 R326). -/
abbrev LinkId := Fin 8
/-- A control-core register x0-x31. -/
abbrev Reg := Fin 32

/-- The two kinds of core that make scalar accesses (12 R238). -/
inductive Core where
  | host (c : HostId)
  | cell (g : CellId)
deriving DecidableEq, Repr

/-- The widths of a scalar access (12 R237). -/
inductive Width where
  | b1 | b2 | b4 | b8
deriving DecidableEq, Repr

/-- Bytes of a scalar access. -/
def Width.bytes : Width → Nat
  | .b1 => 1
  | .b2 => 2
  | .b4 => 4
  | .b8 => 8

/-- The integer functions of an atomic (09 R180, 10 R206). -/
inductive AtomicFn where
  | add | smin | smax | umin | umax | and | or | xor | exch | cas
deriving DecidableEq, Repr

/-- The three engines of a cell that number tickets (05 R91). -/
inductive Engine where
  | matrix | vector | stream
deriving DecidableEq, Repr

/-- Scalar load: a host core names the address; a control core names registers (05 R88). -/
inductive LoadOp where
  | host (c : HostId) (w : Width) (addr : DWord)
  | cell (g : CellId) (w : Width) (signed : Bool) (rd rs1 : Reg) (imm : BitVec 12) (compressed : Bool)
deriving DecidableEq, Repr

/-- Scalar store. -/
inductive StoreOp where
  | host (c : HostId) (w : Width) (addr value : DWord)
  | cell (g : CellId) (w : Width) (rs1 rs2 : Reg) (imm : BitVec 12) (compressed : Bool)
deriving DecidableEq, Repr

/-- Atomic read-modify-write of 4 or 8 bytes (12 R258). -/
inductive AtomicOp where
  | host (c : HostId) (fn : AtomicFn) (dword : Bool) (addr operand compare : DWord)
  | cell (g : CellId) (fn : AtomicFn) (dword : Bool) (rd rs1 rs2 : Reg)
deriving DecidableEq, Repr

/-- Load-reserved. -/
inductive LrOp where
  | host (c : HostId) (dword : Bool) (addr : DWord)
  | cell (g : CellId) (dword : Bool) (rd rs1 : Reg)
deriving DecidableEq, Repr

/-- Store-conditional. -/
inductive ScOp where
  | host (c : HostId) (dword : Bool) (addr value : DWord)
  | cell (g : CellId) (dword : Bool) (rd rs1 rs2 : Reg)
deriving DecidableEq, Repr

/-- The caches that the directory tracks (12 R254). -/
inductive Holder where
  | l2 (c : HostId)
  | l3 (u : UmberId)
  | dcache (g : CellId)
deriving DecidableEq, Repr

/-- A memory access of an I/O-coherent requester (12 R240): a read of n bytes, a write of bytes, an atomic. -/
inductive IoAccess where
  | read (n : Nat)
  | write (data : List Byte)
  | atomic (fn : AtomicFn) (dword : Bool) (operand compare : DWord)
deriving DecidableEq, Repr

/-- Lanes, speed in GT/s and Max_Payload_Size in bytes of a root port's link (13 R285). -/
inductive PcieWidth where
  | x16 | x8 | x4 | x2 | x1
deriving DecidableEq, Repr
inductive PcieSpeed where
  | gt2p5 | gt5 | gt8 | gt16 | gt32 | gt64
deriving DecidableEq, Repr
inductive PcieMps where
  | b128 | b256 | b512
deriving DecidableEq, Repr

def PcieMps.bytes : PcieMps → Nat
  | .b128 => 128
  | .b256 => 256
  | .b512 => 512

/-- A root port whose link has trained, with its width and its speed (13 R285, R288). -/
structure TrainedPort where
  port : RootId
  lanes : PcieWidth
  speed : PcieSpeed
deriving DecidableEq, Repr

/-- A word that a cell's control core is to run (05 R91, R95, R431). -/
structure CoreWord where
  cell : CellId
  word : BitVec 32
deriving DecidableEq, Repr

/-- The sender of a PREPARE: its rank, and whether it asks the package to stand by for a missing rank (14 R310, R312). -/
structure PrepareSender where
  rank : BitVec 20
  standby : Bool
deriving DecidableEq, Repr

/-- Who makes an access in the third-device MMIO window (13 R434). -/
inductive MmioSource where
  | host (c : HostId)
  | cell (g : CellId)
  | dispatch (r : RingId)
  | peer (p : RootId)
deriving DecidableEq, Repr

/-- How a third device answers a non-posted request (13 R434). -/
inductive MmioAnswer where
  | data (v : List Byte)
  | refused
deriving DecidableEq, Repr

/-- A request of a third device on a root port (11 R229). -/
structure DeviceRequest where
  rid        : BitVec 16
  pasid      : Option (BitVec 20)
  translated : Bool
  addr       : DWord
  access     : IoAccess
deriving DecidableEq, Repr

/-- The key under which a packet's GCM tag verifies, if any: that of its epoch, the management key, the previous one (14 R298, 17 R359;
log 12). -/
inductive TagKey where
  | epochKey | mgmtKey | mgmtOld | none
deriving DecidableEq, Repr

/-- An Isobar packet (14 R298): the fields of its header, its data, the IV and the key of its GCM tag (17 R359). -/
structure Packet where
  ver     : BitVec 4
  cls     : BitVec 2
  vl      : BitVec 2
  op      : BitVec 6
  priv    : Bool
  epoch   : BitVec 32
  dst     : BitVec 20
  src     : BitVec 20
  dstRank : BitVec 20
  srcRank : BitVec 20
  tid     : BitVec 16
  hop     : BitVec 3
  nhopm1  : BitVec 3
  route   : BitVec 40
  gmask   : BitVec 8
  addr    : BitVec 44
  resv    : Bool
  len32   : BitVec 5
  iv      : BitVec 96
  tag     : TagKey
  data    : List Byte
deriving DecidableEq, Repr

/-- The status that a fabric response carries (14 R301). -/
inductive FabStatus where
  | ok | notMapped | access | ue | wrongRank | format
deriving DecidableEq, Repr

/-- STATUS of a response (14 R301). -/
def FabStatus.code : FabStatus → Nat
  | .ok => 0
  | .notMapped => 1
  | .access => 2
  | .ue => 3
  | .wrongRank => 4
  | .format => 5

/-- The status a package reports to its parent at PREP_DONE (14 R310). -/
inductive PrepStatus where
  | ready | scrubbing | refused
deriving DecidableEq, Repr

/-- A 16-byte edge-table entry (14 R294) and a 256-bit digest travel in launch messages. -/
abbrev EdgeEntry := BitVec 128
abbrev Digest := BitVec 256

/-- The agent that first needs uncorrectable data (18 R363). -/
inductive UeConsumer where
  | cell (g : CellId)
  | block (g : CellId) (b : Nat)
  | command (r : RingId) (seq : BitVec 32)
  | hostCore (c : HostId)
  | thirdDevice (p : RootId)
  | fabric (tid : BitVec 16) (src : BitVec 20)
  | background
  | migrationCopy
deriving DecidableEq, Repr

/-- Severity of an error record (18 R367). -/
inductive Severity where
  | corrected | contained | fatal | event
deriving DecidableEq, Repr

/-- What a structure found (18 R362): the fields of the record it will write. -/
structure ErrorEvent where
  typ      : BitVec 16
  sev      : Severity
  inst     : BitVec 32
  addr     : DWord
  cid      : Cid
  owner    : Cid
  layer    : BitVec 16
  operator : BitVec 32
  detail   : DWord
deriving DecidableEq, Repr

/-- A hardware loss that a degrade event takes out of service (18 R372). -/
inductive Loss where
  | cell (g : CellId)
  | channel (c : ChanId)
  | band (c : ChanId) (b : Nat)
  | linkGroup (l : LinkId) (g : Nat)
  | portWidth (p : PortId)
deriving DecidableEq, Repr

/-- The source of an analogue test bus (20 R400): its code 0-6 and the island, sensor, PLL or lane named. -/
structure AtbSource where
  code : Nat
  name : Nat
deriving DecidableEq, Repr

/-- Instruments of the 1687 network (20 R401). -/
inductive Instrument where
  | sensor | counter | eyeMonitor | atbSelect
  | scan | memoryBist | logicBist | laneMargin
deriving DecidableEq, Repr

/-- The part a test instrument acts on. -/
inductive TestPart where
  | cell (g : CellId)
  | other (die : Nat) (n : Nat)
deriving DecidableEq, Repr

end Sys2Proof
end

