-- ==== Sys2Proof/Syntax.lean ====
section
/-! DEFINITION. The commands of the block: one constructor per row of spec/opcode_table.json, in the table's order. The table gives
no operands; each constructor carries what the rule named in its docstring needs to know from outside. -/

namespace Sys2Proof

/-- The commands (and events) that change the package, each whole and indivisible (95). -/
inductive Instr where
  /-- REGISTER_WRITE (00 R6, R7). A write to a register field that has no row of its own takes effect by its access code. -/
  | registerWrite (cid : Cid) (addr : DWord) (data : List Byte)
  /-- STAGED_WRITE (00 R7, R8). A write to an STG field updates only the shadow copy, for the next Front apply. -/
  | stagedWrite (cid : Cid) (addr : DWord) (data : List Byte)
  /-- LOW_HALF_READ_LATCH (21 R404). A read of the low half of a 64-bit register latches the high half for the next read of the high half. -/
  | lowHalfReadLatch (cid : Cid) (addr : DWord) (n : Nat)
  /-- LOW_HALF_WRITE_HOLD (21 R404). A write to the low half of a 64-bit RW or STG register is held until the high half is written. -/
  | lowHalfWriteHold (cid : Cid) (addr : DWord) (v : Word)
  /-- HIGH_HALF_WRITE (21 R404). A write to the high half applies both halves of the 64-bit register together. -/
  | highHalfWrite (cid : Cid) (addr : DWord) (v : Word)
  /-- DISPATCH_WORK_ITEM (05 R104). The dispatch unit hands the next work item or copy piece to the lowest-numbered idle cell of the set, which zeroes its memory first if the CID changed. -/
  | dispatchWorkItem (r : RingId) (seq : Word)
  /-- WORK_ITEM_START (05 R90). Once any zeroing has ended, the control core starts the work item at its entry address in its initial register state. -/
  | workItemStart (g : CellId)
  /-- WORK_ITEM_END (05 R104). A work item or copy piece ends, is freed for dispatch, and the command completes once every item has ended. -/
  | workItemEnd (g : CellId) (item : Nat)
  /-- WORK_ITEM_TIMEOUT (05 R95). A work item, block or copy piece whose time limit passes ends with E_TIMEOUT. -/
  | workItemTimeout (g : CellId) (item : Nat)
  /-- EMAT (05 R91). The control core issues a matrix operation block, which is checked at issue, and receives a matrix ticket. -/
  | emat (g : CellId) (rd rs1 : Reg)
  /-- EVEC (05 R91). The control core issues a vector instruction word with one scalar operand and receives a vector ticket. -/
  | evec (g : CellId) (rd rs1 rs2 : Reg)
  /-- EVEC2 (05 R91). The control core issues a vector instruction word with two scalar operands and receives a vector ticket. -/
  | evec2 (g : CellId) (rd rs1 rs2 rs3 : Reg)
  /-- ESTR (05 R91). The control core issues a stream descriptor and receives a stream ticket. -/
  | estr (g : CellId) (rd rs1 : Reg)
  /-- EWAIT (05 R91). The control core stalls until the named engine has completed the named ticket. -/
  | ewait (g : CellId) (rd rs1 rs2 : Reg)
  /-- ESIG (05 R91). The control core schedules an addition to a sync object, to be made after every earlier engine instruction has completed. -/
  | esig (g : CellId) (rs1 rs2 : Reg)
  /-- ESIG_ADDITION (05 R91). The addition of an ESIG is made once every earlier engine instruction of the cell has completed. -/
  | esigAddition (g : CellId)
  /-- EWSO (05 R91). The control core stalls until a sync object reaches a value. -/
  | ewso (g : CellId) (rd rs1 rs2 : Reg)
  /-- EFENCE (05 R91). The control core waits for its earlier engine instructions and then applies a barrier of the named scope. -/
  | efence (g : CellId) (scope : BitVec 7)
  /-- EDONE (05 R91). The control core waits for every engine to go idle and then ends the work item with a status. -/
  | edone (g : CellId) (rs1 : Reg)
  /-- FENCE_I (05 R430). The control core makes its later fetches see the bytes stored before the fence. -/
  | fenceI (g : CellId)
  /-- EBREAK (05 R96). Under a debug unlock the control core halts at EBREAK, and otherwise the work item ends with E_FORMAT. -/
  | ebreak (g : CellId) (compressed : Bool)
  /-- DBG_RESUME (05 R96). A write of 1 to a bit of DBG_RESUME.MASK resumes the halted core of that cell. -/
  | dbgResume (d : DieId) (mask : DWord)
  /-- DBG_DATA_WRITE (05 R96). A write to DBG_DATA changes the selected register of a halted control core. -/
  | dbgDataWrite (d : DieId) (v : DWord)
  /-- MATRIX_BLOCK_START (06 R118). A queued matrix block starts its accumulation once its predecessor has accumulated and its bank is free. -/
  | matrixBlockStart (g : CellId)
  /-- READY_RECEIVED (06 R122). A READY message from a side-link neighbour is held for a matching raw stream. -/
  | readyReceived (g : CellId) (higher : Bool)
  /-- RAW_STREAM_SEND (06 R122). After accumulation and a matching READY, the sending block compares CID, M and N and writes its bank as LONG elements to the landing area. -/
  | rawStreamSend (g : CellId)
  /-- RAW_STREAM_LANDED (06 R122). A raw stream finishes landing in the receiving cell. -/
  | rawStreamLanded (g : CellId) (higher : Bool)
  /-- MATRIX_DRAIN (06 R119). Once accumulation has ended and every expected stream has landed and been added, the block drains its bank to its destination. -/
  | matrixDrain (g : CellId)
  /-- DRAIN_QUEUE_PUSH (05 R103). A drain that stalled on a full drain queue pushes its tile once an entry frees. -/
  | drainQueuePush (g : CellId)
  /-- MATRIX_TICKET_COMPLETE (05 R93). An engine instruction completes its ticket, in issue order. -/
  | matrixTicketComplete (g : CellId) (e : Engine)
  /-- VLD (07 R133). Copies rows of elements from cell memory into a tile buffer. -/
  | vld (g : CellId)
  /-- VST (07 R145). Copies a tile buffer to cell memory and reports to Tint watch when TW is set. -/
  | vst (g : CellId)
  /-- POP (05 R102). Pops the head tile of the drain queue into a tile buffer, stalling while a drain will still come. -/
  | pop (g : CellId)
  /-- CVT (07 R133). Converts elements from one float format to another. -/
  | cvt (g : CellId)
  /-- QUANT (07 R135). Quantises elements to the destination format. -/
  | quant (g : CellId)
  /-- DEQUANT (07 R135). Dequantises elements to the destination format. -/
  | dequant (g : CellId)
  /-- SLICE (07 R144). Writes a sliced operand set to cell memory. -/
  | slice (g : CellId)
  /-- EXPV (07 R145). Writes the alignment exponent code of each magnitude. -/
  | expv (g : CellId)
  /-- ADD (07 R133). Adds element by element under IEEE rules. -/
  | add (g : CellId)
  /-- SUB (07 R133). Subtracts element by element under IEEE rules. -/
  | sub (g : CellId)
  /-- MUL (07 R133). Multiplies element by element under IEEE rules. -/
  | mul (g : CellId)
  /-- DIV (07 R133). Divides element by element under IEEE rules. -/
  | div (g : CellId)
  /-- FMA (07 R133). Computes S1 × B + c with one rounding. -/
  | fma (g : CellId)
  /-- MAX (07 R134). Takes the larger of two elements. -/
  | max (g : CellId)
  /-- MIN (07 R134). Takes the smaller of two elements. -/
  | min (g : CellId)
  /-- SDIV (07 R136). Divides by smoothing factors after checking every factor. -/
  | sdiv (g : CellId)
  /-- SMUL (07 R136). Multiplies by smoothing factors after checking every factor. -/
  | smul (g : CellId)
  /-- SQRT (07 R133). Takes the IEEE square root of each element. -/
  | sqrt (g : CellId)
  /-- ABS (07 R133). Clears the sign of each element. -/
  | abs (g : CellId)
  /-- NEG (07 R133). Inverts the sign of each element. -/
  | neg (g : CellId)
  /-- RSUM (07 R138). Sums exactly in an accumulator and rounds once per result. -/
  | rsum (g : CellId)
  /-- RMAX (07 R140). Gives the largest element of each scope. -/
  | rmax (g : CellId)
  /-- RMIN (07 R140). Gives the smallest element of each scope. -/
  | rmin (g : CellId)
  /-- RAMAX (07 R140). Gives the largest magnitude of each scope. -/
  | ramax (g : CellId)
  /-- RDOT (07 R138). Sums products exactly and rounds once per result. -/
  | rdot (g : CellId)
  /-- RSTAT (07 R142). Writes the mean and reciprocal standard deviation of each scope from exact sums. -/
  | rstat (g : CellId)
  /-- RXS (07 R143). Writes the exact-state record of the accumulators. -/
  | rxs (g : CellId)
  /-- RXA (07 R143). Adds an exact-state record to the accumulators. -/
  | rxa (g : CellId)
  /-- FUNC (07 R137). Computes a correctly rounded FP32 function of each element. -/
  | func (g : CellId)
  /-- STREAM_TRANSFER (05 R100). The stream engine moves a descriptor's rows or gathered words between memory and cell memory. -/
  | streamTransfer (g : CellId)
  /-- DISPATCH_BLOCK (09 R160). The dispatch unit hands a kernel block to the cell with the fewest resident blocks that has room, and the cell invalidates its L1 at kernel start. -/
  | dispatchBlock (r : RingId) (seq : Word)
  /-- GMMA (09 R174). A group adds a 16 × 16 × 32 exact product into a register accumulator tile. -/
  | gmma (g : CellId) (b t : Nat) (w : DWord)
  /-- GMLD (09 R176). A group loads a fragment or LONG tile from block-local memory. -/
  | gmld (g : CellId) (b t : Nat) (w : DWord)
  /-- GDRAIN (09 R176). A group drains an accumulator tile to block-local memory. -/
  | gdrain (g : CellId) (b t : Nat) (w : DWord)
  /-- BAR (09 R171). A thread waits at a block barrier, which releases when the last thread arrives. -/
  | bar (g : CellId) (b t : Nat) (w : DWord)
  /-- GSYNC (09 R172). Group-wide synchronisation of the member threads. -/
  | gsync (g : CellId) (b t : Nat) (w : DWord)
  /-- GVOTE (09 R172). Group-wide vote on a predicate over the member threads. -/
  | gvote (g : CellId) (b t : Nat) (w : DWord)
  /-- GSHFL (09 R172). Group-wide exchange of a value between member lanes. -/
  | gshfl (g : CellId) (b t : Nat) (w : DWord)
  /-- E_GROUP_STALL (09 R172, R173). A group-wide or group matrix wait that has lasted 2^24 cell cycles ends the block. -/
  | eGroupStall (g : CellId) (b grp : Nat)
  /-- SOADD (09 R181). A thread adds a value to a sync object after its earlier accesses are performed. -/
  | soadd (g : CellId) (b t : Nat) (w : DWord)
  /-- SOWAIT (09 R181). A thread blocks until a sync object reaches a value, then acquires. -/
  | sowait (g : CellId) (b t : Nat) (w : DWord)
  /-- SOREAD (09 R181). A thread reads a sync object's value. -/
  | soread (g : CellId) (b t : Nat) (w : DWord)
  /-- TFENCE (09 R179). A thread orders its accesses at a scope with release, acquire or both. -/
  | tfence (g : CellId) (b t : Nat) (w : DWord)
  /-- ATOMG (09 R180). A thread performs an integer read-modify-write on global memory. -/
  | atomg (g : CellId) (b t : Nat) (w : DWord)
  /-- ATOMB (09 R180). A thread performs an integer read-modify-write on block-local memory. -/
  | atomb (g : CellId) (b t : Nat) (w : DWord)
  /-- EXIT (09 R166). A thread ends, and the block ends once all its threads have ended. -/
  | exit (g : CellId) (b t : Nat) (w : DWord)
  /-- THREAD_LOAD (09 R177, R178). A thread loads from global or block-local memory through the L1. -/
  | threadLoad (g : CellId) (b t : Nat) (global bypass : Bool) (w : Width) (dst addr : Nat)
  /-- THREAD_STORE (09 R177, R178). A thread stores to global or block-local memory, writing through the L1. -/
  | threadStore (g : CellId) (b t : Nat) (global : Bool) (w : Width) (addr src : Nat)
  /-- LOAD (12 R238). A host core or control core loads from memory. -/
  | load (op : LoadOp)
  /-- STORE (12 R238). A host core or control core stores to memory. -/
  | store (op : StoreOp)
  /-- ATOMIC (12 R258). A host core or control core performs an atomic at the site that Vane chooses. -/
  | atomic (op : AtomicOp)
  /-- LR (12 R256). A core performs a load-reserved at the near site. -/
  | lr (op : LrOp)
  /-- SC (12 R256). A core performs a store-conditional at the near site. -/
  | sc (op : ScOp)
  /-- FENCE (12 R245). A core applies a FENCE barrier of CORE or SYSTEM scope. -/
  | fence (c : Core) (pred succ : BitVec 4) (tso : Bool)
  /-- YFENCE (12 R245). A host core applies a barrier of the scope its funct7 names. -/
  | yfence (c : HostId) (word : Word)
  /-- GETS (12 R254). A home receives a request for a shared copy of a line. -/
  | getS (h : Holder) (pa : DWord)
  /-- GETM (12 R254). A home receives a request for a modifiable copy of a line. -/
  | getM (h : Holder) (pa : DWord)
  /-- WRITEBACK (12 R254). A home receives the writeback of an M or E line. -/
  | writeback (h : Holder) (pa : DWord)
  /-- FORWARDED_REQUEST (12 R255). A holder receives a forwarded GetS, forwarded GetM or invalidation from the home. -/
  | forwardedRequest (h : Holder) (pa : DWord)
  /-- HOLD_END (12 R256). A core's 32-cycle hold on a received line ends and a pending forward is honoured. -/
  | holdEnd (h : Holder) (pa : DWord)
  /-- HOME_RETRY (12 R257). A requester receives RETRY with a token and resends the same request. -/
  | homeRetry (h : Holder) (pa : DWord)
  /-- IO_COHERENT_ACCESS (12 R240). The home directory performs an engine, dispatch, thread or fabric request after snooping or removing cached copies. -/
  | ioCoherentAccess (cid : Cid) (pa : DWord) (noAlloc : Bool) (a : IoAccess)
  /-- NEAR_ATOMIC (10 R206). The near-atomic unit of a base die performs an atomic that has arrived at it. -/
  | nearAtomic (cid : Cid) (pa : DWord) (fn : AtomicFn) (dword : Bool) (operand compare : DWord)
  /-- FINE_PATH_ACCESS (10 R199). A base die serves a 32-byte fine-path read or write. -/
  | finePathAccess (cid : Cid) (pa : DWord) (a : IoAccess)
  /-- LAKE_WAY_CLEAN (10 R204). A line of a way group that is powering down is written back if dirty and invalidated. -/
  | lakeWayClean (s : StackId) (set way : Nat)
  /-- BAND_ZEROED (10 R196). The scrubber finishes zeroing a freed band, which then counts as free. -/
  | bandZeroed (c : ChanId) (b : Nat)
  /-- PATROL_SCRUB_PASS (10 R207). Patrol scrub reads and corrects memory within its budget, setting SCRUB_LAG when it falls behind. -/
  | patrolScrubPass (s : StackId) (behind : Bool) (broken : List DWord)
  /-- QUOTA_ADMISSION (10 R208). At the next package tick, a request held by its partition's quota is admitted. -/
  | quotaAdmission
  /-- HBM_LANE_FAILURE (10 R211). A lane of a channel fails, and the channel retires if no spare is left. -/
  | hbmLaneFailure (c : ChanId) (lane : Nat)
  /-- HBM_RETRAIN (10 R209). A channel retrains and switches a spare lane in for a failed lane. -/
  | hbmRetrain (c : ChanId)
  /-- ROW_SOFT_REPAIR (10 R210). A row with repeated correctable errors is repaired in service, or its band becomes retiring. -/
  | rowSoftRepair (c : ChanId) (band row : Nat) (spareLeft : Bool)
  /-- XLT_INV (11 R221). An aligned 32-byte store to XLT_INV queues an invalidation broadcast. -/
  | xltInv (c : HostId) (u : UmberId) (data : List Byte)
  /-- INVALIDATION_BROADCAST (11 R222). The next queued broadcast takes a new generation and drops matching entries in every translation cache. -/
  | invalidationBroadcast
  /-- INVALIDATION_COMPLETE (11 R223). Once every condition holds, the broadcast adds 1 to its sync object with release. -/
  | invalidationComplete
  /-- TRANSLATION_WALK (11 R218). A walker searches a range table for a missed address and decides the access's outcome. -/
  | translationWalk (d : DieId) (cid : Cid) (va : DWord) (kind : Nat)
  /-- WALK_FINISH (11 R222). A walk finishes and installs its result, or discards it and walks again after a broadcast. -/
  | walkFinish (d : DieId) (i : Nat)
  /-- FAULT_RECORD_WRITE (11 R227). A held fault record is written to the die's fault queue once room or enable allows, and the interrupt fires. -/
  | faultRecordWrite (d : DieId)
  /-- XLT_RESUME_RETRY (11 R228). RETRY drops the record's granule entries and the waiting requesters translate again. -/
  | xltResumeRetry (d : DieId) (fid : BitVec 16)
  /-- XLT_RESUME_ABORT (11 R228). ABORT ends each waiting requester with E_ACCESS, or answers a PRI record with Response Failure. -/
  | xltResumeAbort (d : DieId) (fid : BitVec 16)
  /-- THIRD_DEVICE_REQUEST (11 R229). A request from a third device takes a CID by its PASID and is translated and checked. -/
  | thirdDeviceRequest (p : RootId) (q : DeviceRequest)
  /-- ATS_TRANSLATION_REQUEST (11 R230). A third device's ATS request receives a translation completion. -/
  | atsTranslationRequest (p : RootId) (rid : BitVec 16) (pasid : Option (BitVec 20)) (va : DWord)
  /-- PRI_PAGE_REQUEST (11 R230). A PRI page request becomes a fault record with CAUSE 2. -/
  | priPageRequest (p : RootId) (rid : BitVec 16) (pasid : Option (BitVec 20)) (va : DWord) (prg : BitVec 16)
  /-- ATS_INVALIDATE_COMPLETION (11 R231). A function acknowledges an ATS invalidation. -/
  | atsInvalidateCompletion (p : RootId) (rid : BitVec 16)
  /-- ATS_INVALIDATE_TIMEOUT (11 R231). A function that has not answered within RP_ATS_TMO loses ATS and counts as having acknowledged. -/
  | atsInvalidateTimeout (p : RootId) (rid : BitVec 16)
  /-- PASID_ENTRY_WRITE (21 R411). A write of the high half of a PASID map entry adds or removes a binding, refusing duplicates and sealed CIDs. -/
  | pasidEntryWrite (p : RootId) (e : Fin 4096) (hi : Word)
  /-- RP_DEFCID_WRITE (21 R411). A write to RP_DEFCID sets the port's default CID unless that CID is SEALED. -/
  | rpDefcidWrite (p : RootId) (cid : Cid)
  /-- DOORBELL (13 R265, R266). A doorbell write of a new tail is accepted or refused by sequence and CID. -/
  | doorbell (r : RingId) (cid : Cid) (tail : Word)
  /-- RING_CONFIG_WRITE (13 R263). A write to a ring base, CID, head or tail register is accepted only while the ring is STOPPED. -/
  | ringConfigWrite (r : RingId) (off : Nat) (v : Word)
  /-- RING_CTL_SETTING (13 R263). A write of LOG2SIZE or REPLAY in RING_CTL takes effect or is refused. -/
  | ringCtlSetting (r : RingId) (log2size : BitVec 4) (replay : Bool)
  /-- RUN (13 R263). RUN = 1 starts a STOPPED ring if it passes its checks, and RUN = 0 moves a RUNNING ring to DRAINING. -/
  | run (r : RingId) (on : Bool)
  /-- CLEAR (13 R279). CLEAR moves a FAULTED ring to STOPPED when its context is OPEN or SEALED. -/
  | clear (r : RingId)
  /-- ABORT (13 R279). ABORT ends every command in progress on the ring with E_ABORT and then stops the ring. -/
  | abort (r : RingId)
  /-- DESCRIPTOR_FETCH (13 R436). The dispatch unit reads a submitted descriptor and its extension slots under the ring's CID. -/
  | descriptorFetch (r : RingId)
  /-- COMMAND_ADMIT (13 R273). Once a command's order and capacity conditions hold, it passes the first stage of checks or completes at once. -/
  | commandAdmit (r : RingId)
  /-- COMMAND_START (13 R273). Once a command's WAIT condition holds, it passes the second stage of checks and starts. -/
  | commandStart (r : RingId)
  /-- NOP (13 R269). A command that only waits, signals and fences. -/
  | nop (r : RingId) (seq : Word)
  /-- CELL (05 R104). Launches N control-core work items over a cell set. -/
  | cell (r : RingId) (seq : Word)
  /-- KERNEL (09 R160). Launches B thread blocks over a cell set. -/
  | kernel (r : RingId) (seq : Word)
  /-- COPY (13 R271). Moves bytes in 64 KiB pieces by the stream engines, possibly as a migration transfer. -/
  | copy (r : RingId) (seq : Word)
  /-- WRITE (13 R272). Stores in-line payload bytes to a destination. -/
  | write (r : RingId) (seq : Word)
  /-- COLLECTIVE (14 R306). Runs a collective operation on the collective engine of its Umber die. -/
  | collective (r : RingId) (seq : Word)
  /-- CTX_OPEN (13 R280). Opens a FREE context. -/
  | ctxOpen (r : RingId) (seq : Word)
  /-- CTX_SEAL (17 R355). Seals a prepared context after checking the tenant's tag. -/
  | ctxSeal (r : RingId) (seq : Word)
  /-- CTX_THAW (13 R280). Returns a FROZEN context to the state it held before the freeze. -/
  | ctxThaw (r : RingId) (seq : Word)
  /-- CTX_CLOSE (13 R280). Frees a context, stops its rings and returns its sync objects and sealed granules. -/
  | ctxClose (r : RingId) (seq : Word)
  /-- COMMAND_COMPLETE (13 R275). A command completes: its writes are performed, it signals, and its records are committed and notified. -/
  | commandComplete (r : RingId) (seq : Word)
  /-- HOST_WARM_RESET (13 R283). A host warm reset resets the host cores, stops dispatch and freezes contexts as their rings stop. -/
  | hostWarmReset (lost : List (HostId × DWord))
  /-- PRESERVED_STATE_WRITE (13 R284). When no ring remains running or draining, the management controller writes the preserved-state table and COMPLETE. -/
  | preservedStateWrite
  /-- POSTED_WRITE (13 R286). A third device's posted write is performed in arrival order under the ownership check. -/
  | postedWrite (p : RootId) (q : DeviceRequest) (relaxed : Bool)
  /-- MMIO_ACCESS (13 R434). An access in the PCIe MMIO window is sent to its root port or ends as unmapped. -/
  | mmioAccess (src : MmioSource) (addr : DWord) (data : List Byte) (n : Nat) (answer : MmioAnswer)
  /-- ROOT_PORT_LINK_DOWN (13 R288). A root-port link leaves L0 and Yotus holds requests toward it. -/
  | rootPortLinkDown (p : RootId)
  /-- ROOT_PORT_LINK_UP (13 R288). A root-port link returns to L0 and held requests are sent in order. -/
  | rootPortLinkUp (p : TrainedPort)
  /-- HOSTPATH_TIMEOUT (13 R288). After 50 ms down, held requests are dropped and affected work ends with E_HOSTPATH. -/
  | hostpathTimeout (p : RootId)
  /-- FABRIC_READ (14 R300). An arriving read request passes the checks and is performed at its address. -/
  | fabricRead (p : PortId) (k : Packet) (n : Nat)
  /-- FABRIC_WRITE (14 R300). An arriving write request passes the checks and is performed at its address. -/
  | fabricWrite (p : PortId) (k : Packet)
  /-- FABRIC_ATOMIC (14 R300). An arriving atomic request is performed at the home site. -/
  | fabricAtomic (p : PortId) (k : Packet) (fn : AtomicFn) (dword : Bool) (operand compare : DWord)
  /-- COLLECTIVE_DATA (14 R309). Collective data from a peer arrives and is combined by the collective engine. -/
  | collectiveData (u : UmberId) (group : DWord) (tag : Word) (member : Nat) (packets : List (PortId × Packet)) (lost : Bool)
  /-- FABRIC_RESPONSE (14 R301). A data or acknowledgement response arrives and completes its request with the outcome for its status. -/
  | fabricResponse (p : PortId) (k : Packet) (st : FabStatus)
  /-- FABRIC_FORWARD (14 R302). A FWD packet for a served rank arrives at the station now serving it. -/
  | fabricForward (p : PortId) (k : Packet)
  /-- PACKET_TRANSIT (14 R297). A package forwards a transit packet out of the port of its next hop, or drops it. -/
  | packetTransit (p : PortId) (k : Packet)
  /-- FABRIC_REQUEST_TIMEOUT (14 R301, R302). A request without response within FAB_TMO.REQ fails, or a PRIV request is resent once to its standby. -/
  | fabricRequestTimeout (tid : BitVec 16)
  /-- WRONG_RANK_RESEND (14 R302). 100 µs after WRONG_RANK the requester resends the request to the same station. -/
  | wrongRankResend (tid : BitVec 16)
  /-- ROUTE_CHOICE_CHANGE (14 R296). When the number of usable routes changes, the die holds new requests toward the affected stations. -/
  | routeChoiceChange (u : UmberId) (station : BitVec 20)
  /-- ROUTE_RESUME (14 R296). Once old-route requests have completed or timed out, held requests resume under the new choice. -/
  | routeResume (u : UmberId) (station : BitVec 20)
  /-- ISOBAR_LANE_FAILURE (14 R290). An Isobar port loses lanes and runs x4 or goes down. -/
  | isobarLaneFailure (p : PortId) (lanesLeft : Nat)
  /-- PREPARE (14 R310). A package receives PREPARE, acknowledges, passes it on and finds its own status. -/
  | prepare (epoch : Word) (n : Nat) (root : BitVec 20) (sender : PrepareSender) (digest : Digest)
  /-- PREP_ACK (14 R310). A parent receives a child's acknowledgement of PREPARE. -/
  | prepAck (child : BitVec 20)
  /-- PREP_DONE (14 R310). A parent receives a child's aggregate status and reports once all children have. -/
  | prepDone (child : BitVec 20) (st : PrepStatus)
  /-- PREP_ACK_TIMEOUT (14 R310). A parent without a child's PREP_ACK after 200 µs sends MISSING for that child. -/
  | prepAckTimeout (child : BitVec 20)
  /-- MISSING (14 R312). The root receives MISSING and maps the rank to a standby by EDGE_UPDATE. -/
  | missing (rank : BitVec 20) (standby : Option EdgeEntry) (digest : Digest)
  /-- EDGE_UPDATE (14 R312). A package writes a new edge entry into its staged table and takes the new digest. -/
  | edgeUpdate (rank : BitVec 20) (entry : EdgeEntry) (digest : Digest)
  /-- COMMIT (14 R311). A package receives COMMIT with its apply time, acknowledges it and enters COMMITTED. -/
  | commit (epoch : Word) (at_ : DWord)
  /-- COMMIT_ACK (14 R311). A parent receives a child's acknowledgement of COMMIT. -/
  | commitAck (child : BitVec 20)
  /-- COMMIT_ACK_TIMEOUT (14 R311). A parent without a child's COMMIT_ACK sends COMMIT directly to that child's children. -/
  | commitAckTimeout (child : BitVec 20)
  /-- REVERT (14 R313). A package discards the launch's staged fields and returns to IDLE. -/
  | revert
  /-- PREPARED_TIMEOUT (14 R313). A package that has held PREPARED for 5 s without COMMIT reverts. -/
  | preparedTimeout
  /-- TEARDOWN (14 R314). A package aborts the job's rings, clears its epoch and closes the job context. -/
  | teardown
  /-- TEARDOWN_SCRUB_DONE (14 R314). When the job context's zeroing ends, the package returns to IDLE and sends TEARDOWN_DONE. -/
  | teardownScrubDone
  /-- TEARDOWN_DONE (14 R314). A parent receives a child's report that teardown has ended. -/
  | teardownDone (child : BitVec 20)
  /-- SCRUBBING_REPREPARE (14 R315). Every 10 ms the root sends PREPARE again to a subtree that reported SCRUBBING. -/
  | scrubbingReprepare (child : BitVec 20)
  /-- TIME_SYNC (14 R303, 19 R380). An IEEE 1588 exchange over MGMT aligns DEVTIME with the job root. -/
  | timeSync (adjust : Int)
  /-- COLLECTIVE_ANNOUNCE (14 R309). A peer's announcement that its collective has started lets members send it data. -/
  | collectiveAnnounce (u : UmberId) (group : DWord) (tag : Word) (member : Nat)
  /-- COLLECTIVE_TIMEOUT (14 R309). A member that has not announced itself within FAB_TMO.COLL ends the command with E_TIMEOUT. -/
  | collectiveTimeout (u : UmberId) (group : DWord) (tag : Word)
  /-- QP_DOORBELL (14 R292). A write to a queue-pair doorbell gives a new send or receive tail. -/
  | qpDoorbell (p : PortId) (n : Fin 256) (cid : Cid) (recv : Bool) (tail : Word)
  /-- SEND (14 R292). A work-queue element sends a message to the remote queue pair. -/
  | send (p : PortId) (n : Fin 256)
  /-- RDMA_WRITE (14 R292). A work-queue element writes local bytes to a remote address. -/
  | rdmaWrite (p : PortId) (n : Fin 256)
  /-- RDMA_READ (14 R292). A work-queue element reads remote bytes into local memory. -/
  | rdmaRead (p : PortId) (n : Fin 256)
  /-- INCOMING_RDMA (21 R416). An incoming RDMA is checked against its key-table entry and performed or refused with a NAK. -/
  | incomingRdma (p : PortId) (n : Fin 256) (rkey : Word) (va : DWord) (a : IoAccess)
  /-- INCOMING_SEND (21 R415). An incoming SEND fills the buffer of the next receive-queue element. -/
  | incomingSend (p : PortId) (n : Fin 256) (data : List Byte)
  /-- QP_RUN (21 R415). RUN starts or stops a queue pair. -/
  | qpRun (p : PortId) (n : Fin 256) (on : Bool)
  /-- KEY_ENTRY_WRITE (21 R416). A write to bytes 16–19 of a key-table entry makes its fields take effect. -/
  | keyEntryWrite (p : PortId) (e : Fin 4096) (v : Word)
  /-- FLIT_RECEIVE (15 R318). A receiver corrects and checks a flit, delivering it or answering NAK. -/
  | flitReceive (l : LinkId) (toHigh : Bool) (corrected : Bool) (flit : List Byte)
  /-- NAK (15 R318). A sender receives NAK and resends from that flit out of its replay buffer. -/
  | nak (l : LinkId) (toHigh : Bool) (seq : BitVec 12)
  /-- LINK_RETRAIN (15 R319). A package link starts a retraining and carries nothing meanwhile. -/
  | linkRetrain (l : LinkId)
  /-- RETRAIN (15 R326). A write of PLINK_CTL_l.RETRAIN starts a retraining. -/
  | retrain (l : LinkId)
  /-- RETRAIN_COMPLETE (15 R320). A retraining ends, keeping passing groups and narrowing or downing the link. -/
  | retrainComplete (l : LinkId) (pass : BitVec 12)
  /-- RETRAIN_TIMEOUT (15 R319). A retraining not ended within 1 ms sends the link DOWN. -/
  | retrainTimeout (l : LinkId)
  /-- PATH_RESUME (15 R322). After old-path messages are delivered, unacknowledged ones are resent and new messages resume on the new path. -/
  | pathResume (src dst : Fin 6)
  /-- ACTIVITY_ESTIMATE (16 R329). Every 100 ns the power controller estimates each die's current and applies the Gust limiter and ballast. -/
  | activityEstimate (die : Fin 6) (demand : Nat)
  /-- BALLAST_HOLD_END (16 R331). HOLD µs after demand drops, the die's activity begins to fall. -/
  | ballastHoldEnd (die : Fin 6)
  /-- PREWARM (16 R334). Ballast ramps a die toward the prewarm target when its next command waits only on WAIT. -/
  | prewarm (d : DieId) (r : RingId)
  /-- PREWARM_TIMEOUT (16 R334). Prewarm that has held 200 µs without the command starting falls away. -/
  | prewarmTimeout (d : DieId)
  /-- OP_REQ (16 R336). A parent receives a child's operating-point request for boundary k. -/
  | opReq (child : BitVec 20) (k : Nat) (op : Fin 8)
  /-- OP_REQ_TIMEOUT (16 R336). 150 µs after the boundary a parent forwards its minimum without late children. -/
  | opReqTimeout (k : Nat)
  /-- OP_SET (16 R336). A package receives the agreed operating point and passes it down. -/
  | opSet (k : Nat) (op : Fin 8)
  /-- OP_APPLY (16 R336). At B_k + 500 µs the package applies the agreed point or sets EXCH_MISS. -/
  | opApply (k : Nat)
  /-- POWER_CAP_WINDOW (16 R338). At the end of each averaging window the controller takes or reverses one cap step. -/
  | powerCapWindow (watts : Nat)
  /-- PWR_ALERT (16 R339). A regulator alert or rail-limit estimate stretches the rail's islands to half rate. -/
  | pwrAlert (rail : Fin 6)
  /-- STRETCH_RELEASE (16 R339). 100 µs after the condition clears, the fast-current stretch ends. -/
  | stretchRelease (rail : Fin 6)
  /-- DROOP (16 R340). A supply droop stretches an island's clock and counts a droop event. -/
  | droop (die : Fin 6) (island : Nat)
  /-- THERMAL_POLL (16 R342). Every 100 µs the controller reads the sensors and applies the thermal responses. -/
  | thermalPoll (tj : List Nat) (hbm : List Nat)
  /-- THERMTRIP (16 R342). Tj at or above 110 °C for 1 ms asserts THERMTRIP_N. -/
  | thermtrip
  /-- GO (17 R351). A write of SP_MBOX_CTL.GO starts the mailbox request at ADDR. -/
  | go
  /-- GRANULE_SET (17 R439). Sets the ownership entries of a span of granules. -/
  | granuleSet
  /-- KEY_NEW (17 R352). Places a fresh random key in a key slot. -/
  | keyNew
  /-- REPORT (17 R357). Returns a signed attestation report, optionally with a new encapsulation key. -/
  | report
  /-- SEAL_PREP (17 R354). Prepares a context for sealing, measuring it and returning a report. -/
  | sealPrep
  /-- TENANT (17 R358). Authenticates a wrapped tenant request and serves its operation. -/
  | tenant
  /-- IMPORT (17 R358). Writes tenant plaintext to a context address. -/
  | importTenant (va : DWord) (data : List Byte)
  /-- EXPORT (17 R358). Returns context bytes encrypted for the tenant. -/
  | exportTenant (va : DWord) (n : Nat)
  /-- SET_RT (17 R358). Replaces the sealed word 0 of the context. -/
  | setRt (word0 : DWord)
  /-- PASID_GRANT (17 R358). Adds a PASID grant to the sealed context. -/
  | pasidGrant (p : RootId) (rid : BitVec 16) (pasid : BitVec 20)
  /-- EPOCH_KEY (17 R358). Imports a fabric key for a given epoch. -/
  | epochKey (epoch : Word) (key : BitVec 256)
  /-- TENANT_REPORT (17 R358). Returns a report with a nonce to the tenant. -/
  | tenantReport (nonce : BitVec 256)
  /-- OPERATOR (17 R359). Accepts an operator-signed request that delivers an epoch or management key. -/
  | operatorReq (management : Bool) (epoch : Word) (key : BitVec 256) (nonce : BitVec 256)
  /-- MGMT_KEY_GRACE_END (17 R359). 10 ms after a new management key takes effect, the previous key is no longer accepted. -/
  | mgmtKeyGraceEnd
  /-- DEBUG_CHALLENGE (17 R360). Returns a nonce for a debug token. -/
  | debugChallenge
  /-- DEBUG_UNLOCK (17 R361). Grants an accepted debug token after faulting sealed contexts and erasing their keys. -/
  | debugUnlock
  /-- EXTEND (17 R348). Extends MR6 with a digest. -/
  | extend
  /-- ERROR_DETECTED (18 R362). A structure detects an error and corrects it or contains it, writing a record. -/
  | errorDetected (die : Nat) (e : ErrorEvent)
  /-- UE_CONSUMED (18 R363). The first consumer of uncorrectable data ends as its row of the containment table states. -/
  | ueConsumed (c : UeConsumer) (pa : DWord)
  /-- OPEN_RECORD_FLUSH (18 R368). An open corrected record is written 1 s after its first event. -/
  | openRecordFlush (die : Fin 6) (i : Nat)
  /-- HELD_RECORD_WRITE (18 R368). Held records are written in order once the log has room or is enabled. -/
  | heldRecordWrite (die : Fin 6)
  /-- DEGRADE_EVENT (18 R372). Figures shrink with GEN advanced around the change and a degrade record written. -/
  | degradeEvent (l : Loss)
  /-- PWR_GOOD_RISE (19 R377). PWR_GOOD rises and Yotus runs the power-up sequence to the release of host core 0. -/
  | pwrGoodRise
  /-- STRAP_SAMPLE (22 R424). 500 µs after PWR_GOOD rises the straps are sampled into STRAP_WORD. -/
  | strapSample
  /-- PWR_GOOD_FALL (22 R419). PWR_GOOD falls and every island stops with all state lost. -/
  | pwrGoodFall
  /-- PACKAGE_RESET (19 R375). PKG_RST_N held low resets the package as power-on does. -/
  | packageReset
  /-- HOST_RST_N (22 R424). A falling edge of HOST_RST_N starts a host warm reset. -/
  | hostRstN
  /-- HOST_RST_CTL_GO (19 R375). A write of HOST_RST_CTL.GO starts a host warm reset. -/
  | hostRstCtlGo
  /-- FC_CHECK (19 R382). A write of FC_CHECK.GO checks the shadow state. -/
  | fcCheck
  /-- FC_CHECK_DONE (19 R382). A check ends and reports PASS or FAIL in FC_STATUS. -/
  | fcCheckDone
  /-- FC_APPLY (19 R383). A write of FC_APPLY.GO takes a snapshot and starts an apply. -/
  | fcApply (sched : Bool)
  /-- CANCEL (19 R384). FC_APPLY.CANCEL discards a pending apply before its tick. -/
  | cancel
  /-- FRONT_APPLY (19 R381). At its package tick a pending apply changes every field of its snapshot in every die. -/
  | frontApply
  /-- DEVTIME_STEP (19 R380). Outside a job the management controller steps DEVTIME forward to follow a time source. -/
  | devtimeStep (t : DWord)
  /-- MC_WIN_READ (19 R385). A read through the management window is served or refused. -/
  | mcWinRead (off : Nat) (n : Nat)
  /-- MC_WIN_WRITE (19 R385). A write through the management window is performed or dropped. -/
  | mcWinWrite (off : Nat) (data : List Byte)
  /-- FREEZE (20 R388). PMC_CTL.FREEZE stops every counter of the die in the same cycle. -/
  | freeze (die : Fin 6) (on : Bool)
  /-- PMC_CLEAR (20 R388). PMC_CTL.CLEAR sets all 16 counters to 0 in the same cycle. -/
  | pmcClear (die : Fin 6)
  /-- COUNTER_SAMPLE (20 R394). At each sampling tick every die writes a record for each enabled counter. -/
  | counterSample
  /-- TRACE_LOST_RECORD (20 R392). When tracing room returns after discards, a LOST record is written first. -/
  | traceLostRecord (die : Fin 6)
  /-- SO_VAL_WRITE (21 R412). A write to SO_VAL adds the written value to a sync object as a signal. -/
  | soValWrite (o : BitVec 16) (wide : Bool) (v : DWord)
  /-- SO_OWN_WRITE (21 R412). A write to SO_OWN changes sync-object owners, except owners that are SEALED. -/
  | soOwnWrite (u : UmberId) (j : Fin 16384) (v : Word)
  /-- ATB_SELECT (20 R400). An instrument connects an analogue test bus to a source, breaking before making. -/
  | atbSelect (die : Fin 6) (bus : Bool) (src : AtbSource)
  /-- TEST_INSTRUMENT_REQUEST (20 R401). A request for a state-changing test instrument runs or is refused. -/
  | testInstrumentRequest (i : Instrument) (part : TestPart)
  /-- GRANULE_ZEROING_DONE (11 R235). The zeroing of granules whose OWNER or KSLOT changed ends, after which the ownership change, and a CTX_CLOSE of a once-sealed context, completes. -/
  | granuleZeroingDone
  /-- ROCE_ACKNOWLEDGEMENT (14 R292). A RoCEv2 acknowledgement, read response or NAK arrives for a work-queue element, which then completes or faults its queue pair with a NAK syndrome. -/
  | roceAcknowledgement (p : PortId) (n : Fin 256) (data : List Byte) (nak : Option (BitVec 8))
  /-- TRANSPORT_RETRIES_EXHAUSTED (21 R415). When the RoCEv2 transport retries of an element run out, it completes with E_LINK. -/
  | transportRetriesExhausted (p : PortId) (n : Fin 256)
  /-- PKG_RST_N_RISE (22 R424). The rise of PKG_RST_N releases the held start-up, and t = 0 of the power-up sequence begins there. -/
  | pkgRstNRise
  /-- HOST_RST_N_RISE (22 R424). The rise of HOST_RST_N ends the reset of the host cores that was held while the input stayed low. -/
  | hostRstNRise
  /-- DROOP_RECOVERY (16 R340). When the local supply recovers, the island keeps its droop stretch for 64 cycles and then returns to full rate. -/
  | droopRecovery (die : Fin 6) (island : Nat)
  /-- OP_EXCHANGE_BOUNDARY (16 R336). At each boundary B_k of DEVTIME, every package sends OP_REQ with its minimum request to its parent. -/
  | opExchangeBoundary (k : Nat)
  /-- WB_DONE (12 R250). The host cores' write-back of L1 and L2 after a warm reset ends, setting HRST_STATUS.WB_DONE and letting the cores enter firmware. -/
  | wbDone
  /-- ISOBAR_PORT_TRAINED (14 R289). An Isobar port that retrained after a mode change finishes training and reports its width. -/
  | isobarPortTrained (p : PortId) (lanes : Nat)
  /-- ILLEGAL_INSTRUCTION (05 R95). An illegal instruction, ECALL, misaligned access or write to a Zicntr counter by the control core ends the work item with E_FORMAT. -/
  | illegalInstruction (g : CoreWord)
deriving DecidableEq, Repr

end Sys2Proof
end

