-- ==== Sys2Proof/Decode.lean ====
section
/-! DEFINITION. The command that a word spells by the bits of spec/opcode_table.json, which gives bits to no row; and the encodings that
05 R91 gives the engine instructions of the control core, with the reads and writes of its counters (05 R431). -/

namespace Sys2Proof

/-- The table gives bits to no row, so no word spells a command (log 16). -/
def decodeTableWord (_nbits _w : Nat) : Option Instr := none

/-! ### The engine extension (05 R91) -/

/-- Fields of an instruction word: opcode, rd, funct3, rs1, rs2, funct7, and rs3 over a 2-bit field. -/
def wOpcode (w : Word) : BitVec 7 := w.extractLsb' 0 7
def wRd (w : Word) : Reg := Fin.ofNat 32 (w.extractLsb' 7 5).toNat
def wFunct3 (w : Word) : BitVec 3 := w.extractLsb' 12 3
def wRs1 (w : Word) : Reg := Fin.ofNat 32 (w.extractLsb' 15 5).toNat
def wRs2 (w : Word) : Reg := Fin.ofNat 32 (w.extractLsb' 20 5).toNat
def wFunct7 (w : Word) : BitVec 7 := w.extractLsb' 25 7
def wRs3 (w : Word) : Reg := Fin.ofNat 32 (w.extractLsb' 27 5).toNat
def wFmt (w : Word) : BitVec 2 := w.extractLsb' 25 2

/-- The engine instruction of a cell that a word encodes, none where the word traps or lies in another opcode. Fields that the table
gives an instruction no operand in are not looked at. -/
def customInstr (g : CellId) (w : Word) : Option Instr :=
  if wOpcode w = 0x0B then
    if wFunct3 w = 6 then (if (wFunct7 w).toNat ≤ 2 then some (.efence g (wFunct7 w)) else none)
    else if wFunct7 w ≠ 0 then none
    else match (wFunct3 w).toNat with
      | 0 => some (.emat g (wRd w) (wRs1 w))
      | 1 => some (.evec g (wRd w) (wRs1 w) (wRs2 w))
      | 2 => some (.estr g (wRd w) (wRs1 w))
      | 3 => some (.ewait g (wRd w) (wRs1 w) (wRs2 w))
      | 4 => some (.esig g (wRs1 w) (wRs2 w))
      | 5 => some (.ewso g (wRd w) (wRs1 w) (wRs2 w))
      | _ => some (.edone g (wRs1 w))
  else if wOpcode w = 0x2B && wFunct3 w = 1 && wFmt w = 0 then some (.evec2 g (wRd w) (wRs1 w) (wRs2 w) (wRs3 w))
  else none

/-- A word in the register-register format. -/
def rWord (funct7 : BitVec 7) (rs2 rs1 : Nat) (funct3 : BitVec 3) (rd : Nat) (opcode : BitVec 7) : Word :=
  funct7 ++ BitVec.ofNat 5 rs2 ++ BitVec.ofNat 5 rs1 ++ funct3 ++ BitVec.ofNat 5 rd ++ opcode

/-- The word of an engine instruction, with 0 in fields that it does not use (05 R91). -/
def customWord : Instr → Option Word
  | .emat _ rd rs1 => some (rWord 0 0 rs1 0 rd 0x0B)
  | .evec _ rd rs1 rs2 => some (rWord 0 rs2 rs1 1 rd 0x0B)
  | .evec2 _ rd rs1 rs2 rs3 => some (rWord (BitVec.ofNat 5 rs3 ++ (0 : BitVec 2)) rs2 rs1 1 rd 0x2B)
  | .estr _ rd rs1 => some (rWord 0 0 rs1 2 rd 0x0B)
  | .ewait _ rd rs1 rs2 => some (rWord 0 rs2 rs1 3 rd 0x0B)
  | .esig _ rs1 rs2 => some (rWord 0 rs2 rs1 4 0 0x0B)
  | .ewso _ rd rs1 rs2 => some (rWord 0 rs2 rs1 5 rd 0x0B)
  | .efence _ scope => some (rWord scope 0 0 6 0 0x0B)
  | .edone _ rs1 => some (rWord 0 0 rs1 7 0 0x0B)
  | _ => none

/-! ### Counters (05 R431) -/

/-- The Zicntr counters. -/
inductive Zicntr where
  | time | cycle | instret
deriving DecidableEq, Repr

/-- A word that reads a counter and writes none: CSRRS, CSRRC, CSRRSI or CSRRCI with a zero source, at the counter's number of the
RISC-V standard that 05 R88 names (log 37); rd and the counter. -/
def zicntrRead (w : Word) : Option (Reg × Zicntr) :=
  let f := (wFunct3 w).toNat
  if wOpcode w = 0x73 && (f = 2 || f = 3 || f = 6 || f = 7) && wRs1 w = 0 then
    match (w.extractLsb' 20 12).toNat with
    | 0xC00 => some (wRd w, .cycle)
    | 0xC01 => some (wRd w, .time)
    | 0xC02 => some (wRd w, .instret)
    | _ => none
  else none

end Sys2Proof
end

