-- ==== Sys2Proof/Config.lean ====
section
/-! DEFINITION. What one package fixes and what the manual leaves open: free values, which no proof can see, and the public
standards that the manual names without restating them (ML-DSA-44, ML-KEM-768, AES-256-GCM). -/

namespace Sys2Proof

/-- The n-th free value of width w: an outcome that the manual leaves open, or a fresh random value (log 4). -/
opaque Config.freeBits : (w : Nat) → Nat → BitVec w

/-- The n-th free number below a bound of the caller's choice (log 4). -/
opaque Config.freeNat : Nat → Nat

/-- Pseudo-channel, 0 or 1 by its parity, that holds a 32-byte word of a channel: its number in the channel (10 R209; log 48). -/
opaque Config.pseudoOf : Nat → Nat

/-- Row of a band in which the word at an offset of the band lies (18 R369; log 48). -/
opaque Config.hbmRow : Nat → Nat

/-- Cell cycles between two times, in nanoseconds: the clocks of cells vary (05 R431; log 37). -/
opaque Config.cellCycles : Nat → Nat → BitVec 64

/-- Set of a home's directory, modulo their number, that holds the entry of a line (12 R254; log 61). -/
opaque Config.dirSet : Nat → Nat

/-- Transactions that a home's table holds beyond the first (12 R257; log 61). -/
opaque Config.homeTable : Nat

/-- The seed that the physical unclonable function of Umber die u gives at every start-up (17 R346; log 12). -/
opaque Config.pufSeed : Nat → BitVec 256

/-- The 1,312-byte ML-DSA-44 public key generated from ξ (17 R346, FIPS 204; log 12). -/
opaque Config.mlDsaPublic : Digest → List Byte

/-- The 2,420-byte ML-DSA-44 signature by the key generated from ξ (17 R357, FIPS 204; log 12). -/
opaque Config.mlDsaSign : Digest → List Byte → List Byte

/-- Whether a signature is good under a key that a hash names (17 R359, R360, FIPS 204; log 12). -/
opaque Config.mlDsaVerify : Digest → List Byte → List Byte → Bool

/-- The SHA3-256 hash of Weninaid's debug key, held in the ROM (17 R360; log 12). -/
opaque Config.debugKeyHash : Digest

/-- The 1,184-byte encapsulation key of the n-th ML-KEM-768 key pair (17 R354, FIPS 203; log 12). -/
opaque Config.mlKemPublic : Nat → List Byte

/-- The shared secret that key pair n decapsulates from a ciphertext (17 R355, FIPS 203; log 12). -/
opaque Config.mlKemDecaps : Nat → List Byte → BitVec 256

/-- AES-256-GCM: key, IV, additional data, plaintext; the ciphertext, then the 16-byte tag (17 R355, R358; log 12). -/
opaque Config.gcmSeal : BitVec 256 → BitVec 96 → List Byte → List Byte → List Byte

/-- AES-256-GCM: key, IV, additional data, ciphertext with tag; the plaintext of a good tag (17 R355, R358; log 12). -/
opaque Config.gcmOpen : BitVec 256 → BitVec 96 → List Byte → List Byte → Option (List Byte)

end Sys2Proof
end

