-- ==== Sys2Proof/Machine/Hash.lean ====
section
/-! DEFINITION. SHA3-256 (FIPS 202), which 17 R346-R361 name, over lists of bytes, and the identity of a die. -/

namespace Sys2Proof.Machine

/-- Little-endian value of a list of bytes (00, byte order). -/
def leNat : List Byte → Nat
  | [] => 0
  | b :: bs => b.toNat + 256 * leNat bs

/-- The n low bytes of a number, little-endian. -/
def leBytes : Nat → Nat → List Byte
  | 0, _ => []
  | n + 1, v => BitVec.ofNat 8 v :: leBytes n (v / 256)

/-- Lane i of a Keccak state of 25 lanes; lane (x, y) is number x + 5y. -/
def lane (a : List DWord) (i : Nat) : DWord := a.getD i 0

/-- Walk of rho over the lanes but (0, 0): lane and offset at each of n moves (x, y) to (y, 2x + 3y), from move t (FIPS 202, 3.2.2). -/
def rhoWalk : Nat → Nat → Nat → Nat → List (Nat × Nat)
  | 0, _, _, _ => []
  | n + 1, t, x, y => (x + 5 * y, (t + 1) * (t + 2) / 2 % 64) :: rhoWalk n (t + 1) y ((2 * x + 3 * y) % 5)

/-- Rotation of a lane under rho, 0 for lane (0, 0). -/
def rhoOffset (i : Nat) : Nat := (((rhoWalk 24 0 1 0).find? fun p => p.1 == i).map (·.2)).getD 0

/-- Output bits of the register of FIPS 202, 3.2.5, with feedback x^8 + x^6 + x^5 + x^4 + 1, from contents r. -/
def iotaBits : Nat → Nat → List Nat
  | 0, _ => []
  | n + 1, r => r % 2 :: iotaBits n (if r < 128 then 2 * r else (2 * r) ^^^ 0x171)

/-- Constant of round i: seven bits of the register, at positions 2^j - 1 (FIPS 202, 3.2.5). -/
def iotaConstant (i : Nat) : DWord :=
  BitVec.ofNat 64 ((((iotaBits 168 1).drop (7 * i)).take 7).zipIdx.foldl (fun v b => v + b.1 * 2 ^ (2 ^ b.2 - 1)) 0)

/-- Parity of column x. -/
def columnParity (a : List DWord) (x : Nat) : DWord := (List.range 5).foldl (fun v y => v ^^^ lane a (x % 5 + 5 * y)) 0

/-- Theta, then rho (FIPS 202, 3.2.1, 3.2.2). -/
def thetaRho (a : List DWord) : List DWord :=
  let p := (List.range 5).map (columnParity a)
  a.zipIdx.map fun v => (v.1 ^^^ (lane p ((v.2 + 4) % 5) ^^^ (lane p ((v.2 + 1) % 5)).rotateLeft 1)).rotateLeft (rhoOffset v.2)

/-- Lane (x, y) after pi: the lane ((x + 3y) mod 5, x) before it (FIPS 202, 3.2.3). -/
def piLane (a : List DWord) (x y : Nat) : DWord := lane a ((x + 3 * y) % 5 + 5 * (x % 5))

/-- One round of Keccak-f[1600]: theta and rho, then pi, chi and iota together (FIPS 202, 3.2, 3.3). -/
def keccakRound (a : List DWord) (i : Nat) : List DWord :=
  let t := thetaRho a
  (List.range 25).map fun k =>
    let (x, y) := (k % 5, k / 5)
    let chi := piLane t x y ^^^ (piLane t ((x + 2) % 5) y &&& ~~~ piLane t ((x + 1) % 5) y)
    if k = 0 then chi ^^^ iotaConstant i else chi

/-- Keccak-f[1600]. -/
def keccakF (a : List DWord) : List DWord := (List.range 24).foldl keccakRound a

/-- The eight-byte lanes of a padded message. -/
def toLanes : Nat → List Byte → List DWord
  | 0, _ => []
  | n + 1, bs => BitVec.ofNat 64 (leNat (bs.take 8)) :: toLanes n (bs.drop 8)

/-- Absorb blocks of 136 bytes (rate 1,088 bits). -/
def absorb : Nat → List DWord → List DWord → List DWord
  | 0, a, _ => a
  | n + 1, a, m =>
    absorb n (keccakF ((List.range 25).map fun i => if i < 17 then lane a i ^^^ m.getD i 0 else lane a i)) (m.drop 17)

/-- SHA3-256: domain bits 01, pad10*1, rate 136 bytes; byte 0 of the digest is its low byte. -/
def sha3 (m : List Byte) : Digest :=
  let blocks := m.length / 136 + 1
  let padLen := 136 * blocks - m.length
  let pad : List Byte := if padLen = 1 then [0x86] else [0x06] ++ List.replicate (padLen - 2) 0 ++ [0x80]
  let a := absorb blocks (List.replicate 25 0) (toLanes (17 * blocks) (m ++ pad))
  lane a 3 ++ lane a 2 ++ lane a 1 ++ lane a 0

/-- Extending a measurement register (17 R348). -/
def mrExtend (mr d : Digest) : Digest := sha3 (leBytes 32 mr.toNat ++ leBytes 32 d.toNat)

/-- ξ of an Umber die (17 R346). -/
def dieSecret (u : Nat) : Digest := sha3 ([0x01] ++ leBytes 32 (Config.pufSeed u).toNat)

/-- DEV_ID of an Umber die (17 R346). -/
def devId (u : Nat) : Digest := sha3 (Config.mlDsaPublic (dieSecret u))

end Sys2Proof.Machine
end

