-- ==== Sys2Proof/Machine/State.lean ====
section
/-! DEFINITION. The state of the package: everything the manual gives it, as plain data, and the state at reset. Each field's
docstring names the rule that gives it and its reset value. A sparse table lists only the entries that differ from its default. -/

namespace Sys2Proof.Machine

/-- A sparse table: keys strictly rising, no entry equal to what an unlisted key reads as. -/
abbrev Tab (α : Type) := List (Nat × α)

/-- Why the machine stops. -/
inductive Fault where
  /-- Raised by no command: a command that reaches a package without power, in reset or in a stopped boot finds no island that runs and
  has no effect (19 R377, 22 R419, R424; log 33). It stands here because an outcome names a type of faults. Safe: no run ends in it. -/
  | noPower
deriving DecidableEq, Repr

/-- Why a command has no meaning here. -/
inductive Refusal where
  /-- A command that has no meaning yet. Safe: nothing is claimed of it. -/
  | notModelled (mnemonic : String)
deriving DecidableEq, Repr

/-- Power and reset (19 R375): no power; start-up held by PKG_RST_N (22 R424); start-up before the straps are sampled, or stopped by
a failed boot (17 R347); running. -/
inductive Phase where
  | off | held | starting | up
deriving DecidableEq, Repr

/-- Levels at the package's pins (22 R421). -/
structure Pins where
  /-- PWR_GOOD (22 R421; reset 1). -/
  pwrGood : Bool
  /-- PKG_RST_N level (22 R421; reset 1). -/
  pkgRstN : Bool
  /-- HOST_RST_N level (22 R421; reset 1). -/
  hostRstN : Bool
  /-- PWR_ALERT_N asserted, bit per rail O0-O3, U0, U1 (22 R421, 16 R339; reset 0). -/
  pwrAlert : BitVec 6
  /-- THERMTRIP_N asserted (16 R342, 22 R419; reset 0). -/
  thermtrip : Bool
  /-- Station straps STN_0-STN_19 (22 R421; reset DESIGN CHOICE 0, log 6). -/
  stn : BitVec 20
  /-- PROD_TEST strap (22 R421; reset 0, the pull-down). -/
  prodTest : Bool
  /-- Source of ATB0 and ATB1 of each die, key 2·die + bus; unlisted: none (20 R400; reset none). -/
  atb : Tab AtbSource
deriving DecidableEq, Repr

/-- The carrier's xSPI flash: the signed manifest and the repair list (17 R347, R350, 18 R369). It survives every reset. -/
structure Flash where
  /-- The flash answers, and the signatures and digests of the manifest and of every firmware image but the host's verify (17 R347 steps 1
  to 3; DESIGN CHOICE true, log 6). -/
  good : Bool
  /-- The host firmware verifies (17 R347 step 5; DESIGN CHOICE true, log 6). -/
  hostGood : Bool
  /-- Manifest SVN (17 R347; DESIGN CHOICE 1, log 6). -/
  svn : Word
  /-- Declared tier-B capacity code, none when absent (10 R188; DESIGN CHOICE 3 = 64 GiB, log 6). -/
  tierB : Option (BitVec 2)
  /-- IMAP word of each region; unlisted: KIND PKG (10 R192: the shipped manifest). -/
  imap : Tab Word
  /-- ISO_PORT_CTL mode of each port; unlisted: 0 ISOBAR (14 R289; DESIGN CHOICE, log 6). -/
  portMode : Tab (BitVec 2)
  /-- Digests of the manifest, security-processor firmware, management-controller firmware of U0 and U1, power-controller
  firmware of U0 and U1, host firmware (17 R348; DESIGN CHOICE 0, log 6). -/
  digests : List Digest
  /-- Bytes of the configuration section (17 R350; DESIGN CHOICE empty, log 6). -/
  config : List Byte
  /-- OP_KEY_HASH of the manifest (17 R359; DESIGN CHOICE 0, log 6). -/
  opKeyHash : Digest
  /-- Rows awaiting hard repair: channel, band, row (18 R369; DESIGN CHOICE none, log 6). -/
  rows : List (Nat × Nat × Nat)
  /-- Cells kept disabled (18 R369; DESIGN CHOICE none, log 6). -/
  cells : List Nat
deriving DecidableEq, Repr

/-- What the parts of this package do at the next start-up or training (the model's own field, log 64). It survives every reset. -/
structure BringUp where
  /-- Lane groups of each link whose 16 lanes all pass the error-rate test (15 R320; reset DESIGN CHOICE: every group, log 64). -/
  links : Tab (BitVec 12)
  /-- LPDDR5X channels that fail training or disagree with the declared capacity (10 R188; reset DESIGN CHOICE none, log 64). -/
  lpBad : List Nat
  /-- Umber dies whose seed cannot be reconstructed (17 R346; reset DESIGN CHOICE none, log 64). -/
  noSeed : List Nat
  /-- HBM channels with a failed lane and no spare left for it (19 R378; reset DESIGN CHOICE none, log 64). -/
  chanBad : List Nat
  /-- Cells that fail their self-test (18 R369, 19 R378; reset DESIGN CHOICE none, log 64). -/
  cellBad : List Nat
  /-- Good lanes of Isobar ports that train with fewer than eight (19 R378; reset DESIGN CHOICE none, log 64). -/
  isoLanes : Tab Nat
  /-- Spare lanes that training switches in, by HBM channel, at most 4 (10 R209, 19 R377; reset DESIGN CHOICE none, log 64). -/
  spares : Tab Nat
  /-- Root ports at which no device answers training (19 R378; reset DESIGN CHOICE none, log 64). -/
  noDevice : List RootId
  /-- Lanes and speed to which root ports train; unlisted: x16 at 64 GT/s (13 R285, 19 R377; reset DESIGN CHOICE none, log 64). -/
  roots : List TrainedPort
deriving DecidableEq, Repr

/-- A precise exception of a host core (10 R187, 18 R363). -/
inductive HostTrap where
  | accessFault | machineCheck | illegal
deriving DecidableEq, Repr

/-- One host core, as far as the manual names it. -/
structure HostCore where
  /-- Value its last load, LR, SC or atomic returned (12 R238; DESIGN CHOICE 0, log 7). -/
  loaded : DWord
  /-- The exception taken last since the core's reset (10 R187, 12 R249; reset none). -/
  trap : Option HostTrap
  /-- Waits for a slot of the XLT_INV queue with this store to the window of an Umber die (11 R221; reset none). -/
  invStore : Option (Nat × List Byte)
  /-- Stores of the store buffer that the package has not accepted yet, oldest first: address, data (12 R249, R250; reset none). -/
  buffer : List (Nat × List Byte)
  /-- A barrier of SYSTEM scope awaits the core's remote and MMIO accesses (12 R243; reset 0). -/
  barrier : Bool
  /-- An exception that the core takes once the stores older than it have committed (12 R249; reset none). -/
  due : Option HostTrap
deriving DecidableEq, Repr

/-- Why a control core does not go on (05 R93, R96, 11 R227). -/
inductive CoreWait where
  | running
  | zeroing -- handed an item or a piece, which has not started
  | halted
  | faultOn (granule : Nat)
  | remote
deriving DecidableEq, Repr

/-- One control core (05 R88, R90). -/
structure ControlCore where
  /-- x1-x31, 64 bits; x0 reads 0 (05 R88, R90; reset 0 DESIGN CHOICE, log 8). -/
  x : Tab DWord
  /-- Program counter (05 R90; reset 0 DESIGN CHOICE, log 8). -/
  pc : DWord
  /-- DEVTIME at the work item's start, from which the cell cycles are counted (05 R431; reset 0). -/
  started : DWord
  /-- Instructions retired since the work item's start (05 R431; reset 0). -/
  instret : DWord
  /-- Running, zeroing before the item, halted at an EBREAK, stalled on a migratable fault, or awaiting a fabric response
  (05 R96, R98, 11 R227, 14 R301; reset running). -/
  wait : CoreWait
  /-- How many of the package's overwritten parcels the instruction cache has certainly left behind: their number at its last FENCE.I or
  work-item start (05 R430; reset 0). -/
  fenced : Nat
deriving DecidableEq, Repr

/-- One element of a long accumulator: A and its NaN flag (03 R51). -/
structure Elem where
  a   : BitVec 112
  nan : Bool
deriving DecidableEq, Repr

/-- An accumulator bank (06 R115). -/
structure Bank where
  /-- EMPTY (06 R115; reset true). -/
  empty : Bool
  /-- Kind: false float, true integer (03 R51, 06 R115). -/
  int : Bool
  /-- Elements, key 128·i + j; unlisted: A = 0, NAN = 0 (06 R115). -/
  elems : Tab Elem
deriving DecidableEq, Repr

/-- Where a queued matrix block stands (06 R118, R119, R122). -/
inductive BlockPhase where
  | queued       -- issued, not started
  | accumulated  -- its products are in the bank
  | stalled      -- its tile waits for room in the drain queue
  | done         -- complete, ticket not yet counted
deriving DecidableEq, Repr

/-- An issued matrix block (06 R109, 05 R93): the captured bytes and its progress. -/
structure MatBlock where
  ticket : Word
  blk    : BitVec 1024
  phase  : BlockPhase
  /-- Raw streams that have landed: bit 0 lower, bit 1 higher neighbour (06 R122). -/
  landed : BitVec 2
deriving DecidableEq, Repr

/-- A tile of the drain queue: its format code and its bytes (05 R102). -/
structure QueueTile where
  fmt   : Nat
  bytes : List Byte
deriving DecidableEq, Repr

/-- A READY message (06 R122). -/
structure Ready where
  tag : BitVec 16
  cid : Cid
  m   : Nat
  n   : Nat
deriving DecidableEq, Repr

/-- A raw stream on a side link (06 R122): LONG containers in row-major order, or a failed comparison. -/
structure RawStream where
  tag   : BitVec 16
  src   : Nat
  bytes : List Byte
  /-- Status with which the receiving work item ends instead, 0 for none (06 R123). -/
  bad   : Status
deriving DecidableEq, Repr

/-- The matrix engine of a cell. -/
structure MatrixEngine where
  /-- Issued blocks, oldest first, at most 4 (05 R93; reset none). -/
  queue : List MatBlock
  /-- Last ticket issued (05 R93; reset 0). -/
  issued : Word
  /-- Last ticket completed (05 R93; reset 0). -/
  done : Word
  /-- Accumulator bank 0 (06 R115; reset EMPTY). -/
  bank0 : Bank
  /-- Accumulator bank 1 (06 R115; reset EMPTY). -/
  bank1 : Bank
  /-- Held READY messages of the lower-numbered neighbour, at most 8 (06 R122; reset none). -/
  readyLo : List Ready
  /-- Held READY messages of the higher-numbered neighbour, at most 8 (06 R122; reset none). -/
  readyHi : List Ready
  /-- READY messages on their way to this cell from the lower neighbour (06 R122; reset none). -/
  netLo : List Ready
  /-- READY messages on their way to this cell from the higher neighbour (06 R122; reset none). -/
  netHi : List Ready
  /-- Raw streams on their way to this cell from the lower neighbour (06 R122; reset none). -/
  rawLo : List RawStream
  /-- Raw streams on their way to this cell from the higher neighbour (06 R122; reset none). -/
  rawHi : List RawStream
  /-- Tags this cell has outstanding toward the lower neighbour (06 R122; reset none). -/
  outLo : List (BitVec 16)
  /-- Tags this cell has outstanding toward the higher neighbour (06 R122; reset none). -/
  outHi : List (BitVec 16)
deriving DecidableEq, Repr

/-- An issued vector instruction (05 R93, 07 R131): the word and its two scalars; done once its row has acted. -/
structure VecInstr where
  ticket : Word
  word   : DWord
  rs2    : DWord
  rs3    : DWord
  done   : Bool
deriving DecidableEq, Repr

/-- Special flags of a reduction accumulator (07 R128, R139). -/
structure AccFlags where
  nan  : Bool
  pinf : Bool
  ninf : Bool
  nz   : Bool
deriving DecidableEq, Repr

/-- The vector engine of a cell (07 R128). -/
structure VectorEngine where
  /-- Issued instructions, oldest first, at most 16 (05 R93; reset none). -/
  queue : List VecInstr
  /-- Last ticket issued (05 R93; reset 0). -/
  issued : Word
  /-- Last ticket completed (05 R93; reset 0). -/
  done : Word
  /-- TB0-TB5, 64 KiB each, key 65,536·n + byte; unlisted: 0 (07 R128; reset 0, log 8). -/
  tb : Tab Byte
  /-- Narrow accumulator, 320 bits (07 R128; reset 0, log 8). -/
  narrow : BitVec 320
  /-- Wide accumulator, 4,352 bits (07 R128; reset 0, log 8). -/
  wide : BitVec 4352
  /-- Special flags of the narrow accumulator (07 R128; reset clear, log 8). -/
  nflags : AccFlags
  /-- Special flags of the wide accumulator (07 R128; reset clear, log 8). -/
  wflags : AccFlags
  /-- Term counter, saturating at 2^32 - 1 (07 R128, R130; reset 0, log 8). -/
  terms : Word
deriving DecidableEq, Repr

/-- An issued stream descriptor (05 R100): the captured bytes; rows moved so far. -/
structure StreamDesc where
  ticket : Word
  desc   : BitVec 256
  moved  : Nat
  done   : Bool
deriving DecidableEq, Repr

/-- The stream engine of a cell. -/
structure StreamEngine where
  /-- Issued descriptors, oldest first, at most 32 (05 R93; reset none). -/
  queue : List StreamDesc
  /-- Last ticket issued (05 R93; reset 0). -/
  issued : Word
  /-- Last ticket completed (05 R93; reset 0). -/
  done : Word
  /-- The granule of virtual address on which the engine stalls (11 R227; reset none). -/
  stall : Option Nat
  /-- The fabric requests of the transfer in progress have been sent (14 R301; reset 0). -/
  sent : Bool
  /-- Bytes of a copy piece read so far from another package, by offset in the piece (13 R435; reset none). -/
  staged : Tab Byte
deriving DecidableEq, Repr

/-- A scheduled ESIG addition: object, value, and the tickets that must complete before it (05 R91). -/
structure EsigAdd where
  obj    : BitVec 16
  val    : DWord
  mat    : Word
  vec    : Word
  str    : Word
deriving DecidableEq, Repr

/-- A cached range (11 R217, R220): the CID and the fields of the entry. -/
structure XEntry where
  cid    : Cid
  start  : Nat
  length : Nat
  pbase  : Nat
  r      : Bool
  w      : Bool
  x      : Bool
  mig    : Bool
  nolake : Bool
deriving DecidableEq, Repr

/-- Kinds of what occupies a cell (05 R104, 13 R435). -/
inductive JobKind where
  | item | piece
deriving DecidableEq, Repr

/-- The work item or copy piece a cell runs (05 R104). -/
structure Job where
  ring  : Nat
  seq   : Word
  index : Nat
  kind  : JobKind
  cid   : Cid
  /-- Set when the item has ended, with its status, until WORK_ITEM_END frees the cell. -/
  ended : Option Status
deriving DecidableEq, Repr

/-- The partition of cell memory (05 R97): bytes of block-local memory and of L1. -/
structure Partition where
  bl : Nat
  l1 : Nat
deriving DecidableEq, Repr

/-- What a thread waits for (09 R168). -/
inductive ThreadWait where
  | none
  | bar (n : Nat)
  | groupWide (w : DWord) (mask : Word)
  | groupMatrix (w : DWord)
  | faultOn (granule : Nat)
  | remote
deriving DecidableEq, Repr

/-- One thread of a block (09 R165, R168). -/
structure Thread where
  /-- w0 to w(Rq-1), 32 bits each; unlisted: 0. -/
  w : Tab Word
  /-- Predicates q0-q6. -/
  q : BitVec 7
  pc : DWord
  ended : Bool
  wait : ThreadWait
deriving DecidableEq, Repr

/-- A resident block of a kernel (09 R160-R166). -/
structure Block where
  ring  : Nat
  seq   : Word
  index : Nat
  cid   : Cid
  /-- Threads, registers per thread (Rq), block-local KiB. -/
  nthr  : Nat
  rq    : Nat
  lkib  : Nat
  /-- Base of the block's share of the block-local region. -/
  base  : Nat
  /-- Scheduler 0-3 of each group (09 R164). -/
  sched : List Nat
  threads : List Thread
  /-- Set when the block has ended, until WORK_ITEM_END frees it. -/
  ended : Option Status
deriving DecidableEq, Repr

/-- A line of the thread-group L1 (09 R178): its own 128 bytes. -/
structure L1Line where
  pa    : Nat
  bytes : List Byte
deriving DecidableEq, Repr

/-- One cell (05 R87). -/
structure Cell where
  /-- The item or piece it runs (05 R104; reset none). -/
  job : Option Job
  /-- CID of its last work item (05 R98; reset none: the first item counts as a change). -/
  lastCid : Option Cid
  core : ControlCore
  /-- Partition in force (05 R97; reset DESIGN CHOICE 0, 0, log 8). -/
  part : Partition
  /-- Cell memory, 2 MiB; unlisted: 0 (05 R87; reset 0 DESIGN CHOICE, log 8; R98 zeroes it before the first item). -/
  mem : Tab Byte
  matrix : MatrixEngine
  vec : VectorEngine
  str : StreamEngine
  /-- Drain queue, head first; an FP64 tile takes two entries (05 R102; reset empty). -/
  dq : List QueueTile
  /-- Scheduled ESIG additions, in issue order (05 R91, R432; reset none). -/
  esig : List EsigAdd
  /-- Resident kernel blocks (09 R160; reset none). -/
  blocks : List Block
  /-- The kernel command, ring and sequence, that has taken over the cell's L1 and partition (09 R167; reset none). -/
  kernel : Option (Nat × Word)
  /-- Thread-group L1 lines (09 R178; reset none). -/
  l1 : List L1Line
  /-- Translation cache, 64 ranges, newest first (11 R220; reset empty). -/
  xc : List XEntry
deriving DecidableEq, Repr

/-- Where a command of a ring stands (13 R273). -/
inductive CmdStage where
  | fetched   -- its slots are read (13 R436)
  | waiting   -- passed the first stage, holds on WAIT
  | started   -- passed the second stage
  | running   -- its opcode's effect has begun
  | finished  -- every item has ended; ready to complete
  | recording -- its writes are performed and its signal made; its records are due (13 R275)
deriving DecidableEq, Repr

/-- One observation-directory entry as read at the command's start (20 R389). -/
structure Obs where
  twVa   : DWord
  twLog2 : Nat
  ctrOn  : Bool
  trcOn  : Bool
  trcLog2 : Nat
  pctrVa : DWord
  trcVa  : DWord
deriving DecidableEq, Repr

/-- A command's Tint watch reports, merged by the die (20 R395, R397). -/
structure Tint where
  count  : DWord
  pinf   : Bool
  ninf   : Bool
  sumOvf : Bool
  mn     : Word
  mx     : Word
  amax   : Word
  sat    : DWord
  nan    : DWord
  sum    : Int
  digest : DWord
deriving DecidableEq, Repr

/-- A command in progress (13 R268-R277). -/
structure Cmd where
  ring  : Nat
  seq   : Word
  cid   : Cid
  /-- The slots read: the descriptor and its extension slots, 64 bytes each. -/
  slots : List (List Byte)
  stage : CmdStage
  status : Status
  /-- Overflow mode read at start (02 R38, R39). -/
  strict : Bool
  /-- Parameter table read at start (06 R107). -/
  params : List (BitVec 512)
  /-- Work items, blocks or pieces: total, next to hand out, ended, ended OK. Total of a WRITE or COLLECTIVE: the bytes that it stores. -/
  total : Nat
  next  : Nat
  ended : Nat
  ok    : Nat
  firstBad : Option (Nat × Status)
  partWrites : Bool
  ctxFault : Bool
  longOvf  : Bool
  /-- No further item is handed out (05 R104 SOE, 13 R437). -/
  stopped : Bool
  obs  : Option Obs
  tint : Option Tint
  /-- Context counts 0-7 of the command (20 R391). -/
  counts : List DWord
  startTime : DWord
  /-- DEVTIME of its records (13 R276). -/
  recTime : DWord
  /-- It has passed the checks of R273 and started (13 R273, R437). -/
  passed : Bool
  /-- Bytes of a WRITE stored so far (13 R272, R277). -/
  moved : Nat
  /-- It is a CTX_SEAL whose tag or grants failed, so that TCID faults (17 R355; log 32). -/
  sealBad : Bool
  /-- Records that are due, in order: slot, whether of an extension slot; the first has been sent to another package (13 R275, R438). -/
  due : List (Word × Bool)
  sent : Bool
  /-- The granule on which a read of its parameter table, a store of it or its record stalls (11 R227, 13 R438). -/
  stall : Option Nat
deriving DecidableEq, Repr

/-- Ring states (13 R262). -/
inductive RingState where
  | stopped | running | draining | faulted
deriving DecidableEq, Repr

/-- One ring (13 R262). -/
structure Ring where
  /-- RING_DBASE, 64 bits (13 R262; reset 0). -/
  dbase : DWord
  /-- RING_CBASE, 64 bits (13 R262; reset 0). -/
  cbase : DWord
  /-- RING_CID, 16 bits (13 R262; reset 0). -/
  cid : Cid
  /-- RING_HEAD, 32 bits (13 R262; reset 0). -/
  head : Word
  /-- RING_TAIL, 32 bits (13 R262; reset 0). -/
  tail : Word
  /-- RING_CTL.REPLAY (13 R262; reset 0). -/
  replay : Bool
  /-- RING_CTL.LOG2SIZE, 4 bits (13 R262; reset 2). -/
  log2 : BitVec 4
  /-- RING_CTL.RUN as last written (13 R262, 00 R7; reset 0). -/
  run : Bool
  /-- RING_STATUS.STATE (13 R262; reset STOPPED). -/
  state : RingState
  /-- RING_STATUS.DB_ERR (13 R262; reset 0). -/
  dbErr : Bool
  /-- RING_STATUS.CFG_ERR (13 R262; reset 0). -/
  cfgErr : Bool
  /-- RING_STATUS.SOE_STOP (13 R262; reset 0). -/
  soeStop : Bool
  /-- RING_STATUS.CTX_FAULT (13 R262; reset 0). -/
  ctxFault : Bool
  /-- RING_STATUS.REC_FAIL (13 R262; reset 0). -/
  recFail : Bool
  /-- An ABORT is under way (13 R279; reset 0). -/
  aborting : Bool
  /-- Next sequence the dispatch unit fetches (13 R267; reset 0). -/
  fetch : Word
  /-- Sequences whose records are committed and that RING_HEAD has not passed (13 R275; reset none). -/
  commits : List Word
  /-- Commands completed since the last warm reset (13 R284; reset 0). -/
  after : Word
  /-- The granule on which a descriptor read stalls (13 R436; reset none). -/
  stall : Option Nat
  /-- The next command's own slot, once read while its extension slots are not (13 R436; reset none). -/
  own : List Byte
deriving DecidableEq, Repr

/-- Context states (13 R280). -/
inductive CtxState where
  | free | opened | sealed | faulted | frozen
deriving DecidableEq, Repr

/-- What SEAL_PREP leaves pending (17 R354). -/
structure SealPrep where
  word0 : DWord
  meas  : Digest
  key   : Nat
deriving DecidableEq, Repr

/-- One context (13 R280). -/
structure Ctx where
  /-- State (13 R280; reset OPEN for CID 0, FREE for every other). -/
  state : CtxState
  /-- State before the freeze (13 R280, R284; reset FREE). -/
  before : CtxState
  /-- DEVTIME at which it became FROZEN, or 0 (13 R284; reset 0). -/
  frozenAt : DWord
  /-- DEVTIME at which it became FAULTED, or 0 (13 R282; reset 0). -/
  faultedAt : DWord
  /-- It was ever SEALED since it was opened (13 R280; reset 0). -/
  everSealed : Bool
  /-- SEAL_PREP pending (17 R354; reset none). -/
  prep : Option SealPrep
  /-- Sealed copy of word 0 (17 R354, R356; reset 0). -/
  word0 : DWord
  /-- CTX_MEAS (17 R354; reset 0). -/
  meas : Digest
  /-- SHA3-256 of the policy records, or 0 (17 R357; reset 0). -/
  policy : Digest
  /-- Session key KS, held by the security processor (17 R355; reset 0). -/
  ks : BitVec 256
  /-- Last tenant counter accepted, none before the first (17 R358; reset none). -/
  counter : Option DWord
  /-- CTX_CLOSE awaits the zeroing of its granules (13 R280; reset 0). -/
  closing : Bool
deriving DecidableEq, Repr

/-- A walk in flight (11 R222): what it found and the generation at which it began. -/
structure Walk where
  cid    : Cid
  va     : Nat
  kind   : Nat
  gen    : BitVec 16
  found  : Option XEntry
  status : Status
  /-- A broadcast for its CID has reached its die since it began. -/
  stale  : Bool
deriving DecidableEq, Repr

/-- A fault record (11 R227), pending until it is resolved; written once it stands in the queue. -/
structure FaultRec where
  fid     : BitVec 16
  va      : Nat
  cid     : Cid
  req     : BitVec 16
  kind    : Nat
  cause   : Nat
  prg     : BitVec 16
  /-- The command that the access serves, for the tags of its trace record (20 R392, R393). -/
  cmd     : Option (Nat × Word)
  written : Bool
deriving DecidableEq, Repr

/-- An error record before its sequence is known (18 R367): the merged event. -/
structure ErrRec where
  e     : ErrorEvent
  die   : Nat
  count : Word
  first : DWord
  last  : DWord
deriving DecidableEq, Repr

/-- A trace record before its sequence is known (20 R392). -/
structure TraceRec where
  kind     : Nat
  layer    : BitVec 16
  operator : Word
  cid      : Cid
  arg16    : BitVec 16
  time     : DWord
  arg56    : BitVec 56
  /-- The context ring it goes into: its CID, its address and log2 of its records; none: the global ring (20 R393). -/
  ctxRing  : Option (Cid × Nat × Nat)
deriving DecidableEq, Repr

/-- What each of the six large dies keeps for errors, counters and trace (18 R368, 20 R387, R392). -/
structure DieLog where
  /-- ERR_LOG_TAIL, 32 bits (18 R368; reset 0). -/
  errTail : Word
  /-- Held CONTAINED, FATAL and EVENT records, oldest first, at most 64 (18 R368; reset none). -/
  held : List ErrRec
  /-- Open corrected records, at most 16 (18 R368; reset none). -/
  opened : List ErrRec
  /-- ERR_STATUS.CE_DROPPED, 16 bits, saturating (18 R368; reset 0). -/
  ceDropped : BitVec 16
  /-- DEVTIME of the latest corrected records written, newest first, at most 1,001 (18 R370 bit 24; reset none). -/
  ceTimes : List DWord
  /-- PMC_0-PMC_15, 64 bits each, key n (20 R387; reset 0). -/
  pmc : Tab DWord
  /-- DROOP_EVT, 32 bits (20 R387; reset 0). -/
  droop : Word
  /-- Sequence of the global trace ring, 32 bits (20 R392; reset 0 DESIGN CHOICE, log 9). -/
  trcSeq : Word
  /-- Trace records held while the tracing budget is spent, at most 256 (20 R392; reset none). -/
  trcHeld : List TraceRec
  /-- Records of the global ring discarded since its last LOST record (20 R392; reset 0). -/
  trcLost : Nat
  /-- The same of context rings: CID, address, log2 of the ring's records, number discarded (20 R392, R393; reset none). -/
  ctxLost : List ((Cid × Nat × Nat) × Nat)
  /-- OBS_STATUS.LOST, 16 bits, saturating (20 R394; reset 0). -/
  lost : BitVec 16
deriving DecidableEq, Repr

/-- One Ochre die. -/
structure Ochre where
  /-- CELL_EN.MASK, 64 bits (21 R407; reset from self-test: all ones, log 3). -/
  cellEn : DWord
  /-- DBG_HALT.MASK, 64 bits (05 R96; reset 0). -/
  dbgHalt : DWord
  /-- ARITH_STATUS.STRICT_FORCED (02 R39, 21 R407; reset 0). -/
  strictForced : Bool
  /-- Die translation cache, 2,048 ranges, newest first (11 R220; reset empty). -/
  xc : List XEntry
  /-- Walks in flight, at most 32 (11 R220; reset none). -/
  walks : List Walk
  /-- Misses that wait for a walker: CID, virtual address, kind (11 R220; reset none). -/
  missQ : List (Cid × Nat × Nat)
  /-- Pending fault records, oldest first (11 R227; reset none). -/
  faults : List FaultRec
  /-- XLT_FQ_TAIL, 32 bits (21 R407; reset 0). -/
  fqTail : Word
  /-- Context trace ring sequence of this die, key = CID (20 R393; reset 0 DESIGN CHOICE, log 9). -/
  ctxSeq : Tab Word
  /-- The die has no path to an Umber die and is disabled (15 R323; reset 0). -/
  disabled : Bool
deriving DecidableEq, Repr

/-- Channel states (10 R191). -/
inductive ChanState where
  | inService | retiring | offline
deriving DecidableEq, Repr

/-- One HBM channel (10 R191, R209). -/
structure Channel where
  /-- State (10 R191; reset IN_SERVICE). -/
  state : ChanState
  /-- Spare lanes switched in, 0-4 (10 R209; reset 0). -/
  spares : Nat
  /-- Failed lanes not yet replaced (10 R209; reset none). -/
  failed : List Nat
deriving DecidableEq, Repr

/-- State of one 16 MiB band (10 R194, R196, R210). -/
inductive BandState where
  | used | zeroing | free | retiring | offline
deriving DecidableEq, Repr

/-- One 1 GiB region (10 R192): the map in force and its 64 bands in member order. -/
structure Region where
  /-- IMAP_r.KIND in force: 0 FREE, 1 NEAR, 2 PKG (10 R192; reset from manifest: PKG). -/
  kind : BitVec 2
  /-- IMAP_r.DIE (10 R192; reset from manifest: 0). -/
  die : BitVec 2
  /-- IMAP_r.FORMED (10 R192; reset from manifest: 1). -/
  formed : Bool
  /-- IMAP_r.RETIRING (10 R192; reset 0). -/
  retiring : Bool
  /-- Package channel and band of member m (10 R194, 21 R414). -/
  members : List (Nat × Nat)
deriving DecidableEq, Repr

/-- A line of a Lake slice (10 R201-R203). -/
structure LakeLine where
  tag   : Nat
  dirty : Bool
deriving DecidableEq, Repr

/-- HBM, its bands and the Lake. -/
structure Hbm where
  /-- 384 channels; unlisted: IN_SERVICE, no spare used (10 R191; reset that). -/
  chans : Tab Channel
  /-- 768 regions; unlisted: as the shipped map places it (10 R192, R194; reset none listed). -/
  regions : Tab Region
  /-- Bands, key 128·channel + band; unlisted: used (10 R194; reset all used). -/
  bands : Tab BandState
  /-- Shift register of each Lake slice, 16 bits (10 R203; reset 0xACE1). -/
  lfsr : Tab (BitVec 16)
  /-- Lake lines, key 2^20·slice + 16·set + way (10 R201; reset none valid). -/
  lake : Tab LakeLine
  /-- Powered way groups of each slice, bit per group (10 R204; reset 0xF). -/
  ways : Tab (BitVec 4)
  /-- Way groups that are powering down, bit per group (10 R204; reset 0). -/
  cleaning : Tab (BitVec 4)
  /-- 32-byte words that hold a broken code word, by address / 32 (18 R364; reset none). -/
  broken : List Nat
  /-- DEVTIME of the latest scrub record of an uncorrectable word, by address / 32 (18 R364; reset none). -/
  scrubbed : Tab DWord
  /-- Corrected errors of HBM rows within 24 h, oldest first: channel, band, row, DEVTIME (18 R369; reset none). -/
  rowErrs : List (Nat × Nat × Nat × DWord)
  /-- Rows whose soft repair has started: channel, band, row (18 R369; reset none). -/
  rowDue : List (Nat × Nat × Nat)
  /-- TYPE of the structure in which a broken word was found, where it is not its place's own, by address / 32 (18 R362; reset none). -/
  ueTyp : Tab (BitVec 16)
  /-- Quota use of a partition on a stack in this tick, key 12·p + s (10 R208; reset 0). -/
  quota : Tab Nat
  /-- Requests held at their home, by a quota or by a line that is not free, in arrival order: CID, address, no-allocate, access (10 R208,
  12 R257; reset none). -/
  quotaHeld : List (Cid × Nat × Bool × IoAccess)
  /-- HBM_CAP as last set at a Front apply or a retirement (10 R198, 21 R413; reset 384 channels, 49,152 bands). -/
  cap : DWord
  /-- Bytes that the last access performed at a home returned to its requester (10 R199, R206, 12 R240; reset none). -/
  data : List Byte
deriving DecidableEq, Repr

/-- Ownership entry of a 2 MiB granule (11 R232). -/
structure Own where
  owner : Cid
  kslot : BitVec 12
  mode  : BitVec 2
deriving DecidableEq, Repr

/-- A granule whose OWNER or KSLOT change awaits its zeroing (11 R235), and the entry it will have. -/
structure Zeroing where
  granule : Nat
  entry   : Own
deriving DecidableEq, Repr

/-- A directory entry (12 R254): the holder in M or E, whether it is M, and the holders in S. -/
structure DirEntry where
  owner    : Option Holder
  modified : Bool
  sharers  : List Holder
  /-- The owner stored to it through a range with NOLAKE = 1, so that its write-back does not allocate (11 R217). -/
  noLake   : Bool := false
deriving DecidableEq, Repr

/-- Messages from a home to a holder (12 R254). -/
inductive FwdKind where
  | getS | getM | inv
deriving DecidableEq, Repr

/-- A forwarded request on its way to a holder (12 R255). -/
structure Fwd where
  dst  : Holder
  line : Nat
  kind : FwdKind
  req  : Option Holder
  /-- The core's 32-cycle hold defers it (12 R256). -/
  deferred : Bool
deriving DecidableEq, Repr

/-- A REQ that a home answered RETRY (12 R257). -/
inductive ReqKind where
  | getS | getM | writeback | atomic
deriving DecidableEq, Repr

/-- Coherence and Vane (12 R253-R259). -/
structure Coherence where
  /-- Directory entries by line number; unlisted: no cached copy (12 R254; reset none). -/
  dir : Tab DirEntry
  /-- Transactions in progress: line, requester, modifiable (12 R257; reset none). -/
  busy : List (Nat × Holder × Bool)
  /-- Requests that the home has accepted on a line with a transaction in progress, in order: line, requester, modifiable (12 R257; reset
  none). -/
  accepted : List (Nat × Holder × Bool)
  /-- Forwards not yet answered (12 R255; reset none). -/
  fwds : List Fwd
  /-- Lines that a core holds for 32 of its cycles (12 R256; reset none). -/
  holds : List (Nat × Holder)
  /-- Reservations of LR: core, physical address, doubleword (12 R256; reset none). -/
  resv : List (Core × Nat × Bool)
  /-- Tokens of RETRY answers: line, requester, request (12 R257; reset none). -/
  tokens : List (Nat × Holder × ReqKind)
  /-- Vane counters, 3 bits, key 1,024·table + index; tables 0-95 host cores, 96-351 cells (12 R259; reset 0). -/
  vane : Tab (BitVec 3)
  /-- Last atomic of each requester at the home of a line: line, requester (table number), DEVTIME (12 R259; reset none). -/
  lastHome : List (Nat × Nat × Nat)
deriving DecidableEq, Repr

/-- Link states (15 R326). -/
inductive LinkState where
  | training | up | retraining | down
deriving DecidableEq, Repr

/-- One direction of a package link: what its receiver and its sender keep (15 R316, R318, R319). -/
structure LinkDir where
  /-- CRC failures in a row of one flit (15 R319; reset 0). -/
  crc : Nat
  /-- SEQ of the next flit that the receiver expects, 12 bits (15 R316, R318; reset 0 DESIGN CHOICE, log 10). -/
  exp : BitVec 12
  /-- SEQ of the oldest flit in the sender's replay buffer of 1,024 (15 R318; reset 0 DESIGN CHOICE, log 10). -/
  acked : BitVec 12
  /-- SEQ that the receiver's NAK names, while it awaits that flit again (15 R318; reset none). -/
  nak : Option (BitVec 12)
  /-- SEQ from which the sender resends (15 R318; reset none). -/
  resend : Option (BitVec 12)
  /-- Lane group on which the next flit arrives (15 R316; reset 0 DESIGN CHOICE, log 10). -/
  group : Nat
deriving DecidableEq, Repr

/-- One package link (15 R316-R326). -/
structure PLink where
  /-- PLINK_STATUS.STATE (15 R326; reset 0 TRAINING; UP once R377 step 4 has run, log 3). -/
  state : LinkState
  /-- PLINK_STATUS.GROUP_UP, 12 bits (15 R326; reset 0; all after training, log 3). -/
  groups : BitVec 12
  /-- PLINK_ERRCNT.FEC_CORR, 16 bits, saturating (15 R326; reset 0). -/
  fecCorr : BitVec 16
  /-- PLINK_ERRCNT.REPLAYS, 16 bits, saturating (15 R326; reset 0). -/
  replays : BitVec 16
  /-- The direction toward the second of the link's dies, and toward the first (15 R316, R318). -/
  hi : LinkDir
  lo : LinkDir
  /-- The die at the second end found the failure that started the last retraining, not the one at the first (18 R367; reset 0 DESIGN CHOICE,
  log 67). -/
  rxHigh : Bool
deriving DecidableEq, Repr

/-- Package links and the paths that changed (15). -/
structure Links where
  /-- Eight links; unlisted: UP with every group (15 R326; see PLink). -/
  tab : Tab PLink
  /-- Pairs of dies whose sender holds new messages after a path change (15 R322; reset none). -/
  held : List (Nat × Nat)
deriving DecidableEq, Repr

/-- An Isobar port (14 R289). -/
structure IsoPort where
  /-- ISO_PORT_STATUS.WIDTH: 0 down, 1 x4, 2 x8 (14 R289; reset 0; 2 once R377 step 8 has run, log 3). -/
  width : BitVec 2
  /-- ISO_PORT_STATUS.DEGRADED (14 R289; reset 0). -/
  degraded : Bool
  /-- The most that WIDTH may be until the next package reset (18 R371; reset 2). -/
  most : BitVec 2
  /-- The port retrains after a mode change (14 R289; reset 0). -/
  training : Bool
  /-- Packets dropped and counted at the port (14 R299; reset 0 DESIGN CHOICE, log 10). -/
  drops : Nat
  /-- Packets of an older epoch (14 R299; reset 0 DESIGN CHOICE, log 10). -/
  stale : Nat
  /-- Packets of a newer epoch (14 R299; reset 0 DESIGN CHOICE, log 10). -/
  early : Nat
deriving DecidableEq, Repr

/-- A piece of work whose accesses in another package come piece by piece: the read of a descriptor or of a parameter table of a ring (13
R267, R436), an element that starts, the data of a READ, an incoming message or a completion record of a queue pair (14 R292), the request of a tenant (17 R358). -/
inductive ErrandKey where
  | ring (r : Nat) (seq : Word)
  | qpOut (p n : Nat)
  | qpBack (p n : Nat)
  | qpIn (p n : Nat)
  | qpRecord (p n : Nat)
  | tenant
deriving DecidableEq, Repr

/-- What such a work has had from other packages so far: bytes read, by global address; its writes that have been sent, as address and
length; the status of one that failed (14 R301). -/
structure Errand where
  key   : ErrandKey
  bytes : Tab Byte
  wrote : List (Nat × Nat)
  bad   : Status
deriving DecidableEq, Repr

/-- Who waits for a fabric response (14 R301). -/
inductive FabWho where
  | host (c : Nat) (isLoad : Bool)
  | cell (g : Nat) (ring : Nat) (seq : Word) (index : Nat) (rd : Nat) (signed : Bool)
  | thread (g : Nat) (ring : Nat) (seq : Word) (index : Nat) (t : Nat) (dst : Nat)
  | stream (g : Nat) (ring : Nat) (seq : Word) (index : Nat) (off : Nat)
  | command (ring : Nat) (seq : Word)
  | port (p : Nat) (rid : BitVec 16) (isRead : Bool)
  | errand (k : ErrandKey) (off : Nat)
  | area (d : Nat) (cmd : Option (Nat × Word))
  | posted
deriving DecidableEq, Repr

/-- An outstanding fabric request (14 R298-R302). -/
structure FabReq where
  tid     : BitVec 16
  who     : FabWho
  station : BitVec 20
  rank    : BitVec 20
  /-- The route that it took, the 8 bytes of 14 R295. -/
  route   : Nat
  priv    : Bool
  resent  : Bool
  /-- A WRONG_RANK answer has been received; it may be resent after 100 µs (14 R302). -/
  wrong   : Bool
  /-- Some response to it has been received (14 R302). -/
  heard   : Bool
  cid     : Cid
  addr    : Nat
  access  : IoAccess
deriving DecidableEq, Repr

/-- Launch, teardown and operating-point messages that a package sends (14 R310-R315, 16 R336). -/
inductive Mgmt where
  | prepare (to_ : BitVec 20) (epoch n : Word) (root sender : BitVec 20) (digest : Digest) (standby : Bool)
  | prepAck (to_ : BitVec 20)
  | prepDone (to_ : BitVec 20) (st : PrepStatus)
  | missing (rank : BitVec 20)
  | edgeUpdate (to_ rank : BitVec 20) (entry : EdgeEntry) (digest : Digest)
  | commit (to_ : BitVec 20) (epoch : Word) (at_ : DWord)
  | commitAck (to_ : BitVec 20)
  | revert (to_ : BitVec 20)
  | teardown (to_ : BitVec 20)
  | teardownDone (to_ : BitVec 20)
  | opReq (to_ : BitVec 20) (k : Nat) (op : Nat)
  | opSet (to_ : BitVec 20) (k : Nat) (op : Nat)
deriving DecidableEq, Repr

/-- FAB_STATE (14 R305). -/
inductive FabState where
  | idle | prepared | committed | active | teardown | scrubbing
deriving DecidableEq, Repr

/-- A child of this package in a launch (14 R310-R314). -/
structure Child where
  rank : BitVec 20
  ack  : Bool
  done : Option PrepStatus
  commitAck : Bool
  missing : Bool
  /-- A standby that has taken the rank: it has no children in this launch (14 R312). -/
  standby : Bool
  torn : Bool
deriving DecidableEq, Repr

/-- The launch in progress (14 R310-R315). -/
structure Launch where
  /-- Epoch, number of ranks, root station, parent's rank and digest of the last PREPARE (14 R310; reset 0). -/
  epoch : Word
  n : Word
  root : BitVec 20
  parent : BitVec 20
  digest : Digest
  /-- This package's own status found at PREPARE (14 R310; reset none). -/
  own : Option PrepStatus
  /-- PREP_DONE has been sent (14 R310; reset 0). -/
  sent : Bool
  children : List Child
  /-- T_apply of COMMIT (14 R311; reset none). -/
  applyAt : Option DWord
  /-- Packets of the committed epoch held until the apply (14 R311; reset none). -/
  held : List (Nat × Packet × Option IoAccess)
  /-- Digest of the staged tables (14 R305, R312; reset none). -/
  staged : Option Digest
  /-- Edge updates that have come for this launch or for the next one, oldest first: rank, entry, digest (14 R312; reset none). -/
  edges : List (BitVec 20 × EdgeEntry × Digest)
deriving DecidableEq, Repr

/-- A collective in progress (14 R306-R309). -/
structure Coll where
  u     : Nat
  ring  : Nat
  seq   : Word
  group : DWord
  tag   : Word
  /-- Members that have announced themselves. -/
  here  : List Nat
  /-- Data received, by member. -/
  data  : Tab (List Byte)
deriving DecidableEq, Repr

/-- The fabric (14). -/
structure Fabric where
  /-- FAB_STATE.STATE (14 R305; reset IDLE). -/
  state : FabState
  /-- Twenty ports; unlisted: x8, not degraded (14 R289; see IsoPort). -/
  ports : Tab IsoPort
  /-- Requests outstanding, oldest first (14 R298; reset none). -/
  reqs : List FabReq
  /-- Next transaction identifier of U0 and of U1 (14 R298; reset 0, 32,768 DESIGN CHOICE, log 10). -/
  tid0 : BitVec 16
  tid1 : BitVec 16
  /-- Stations toward which a die holds new requests (14 R296; reset none). -/
  heldTo : List (Nat × BitVec 20)
  /-- Packets handed to a port, oldest first (14 R297, R300; reset none). -/
  outbox : List (Nat × Packet)
  /-- Packets that have arrived and wait: requests for their home, with the access they carry, and transit packets for the path between the
  Umber dies, without; port, packet (10 R208, 12 R257, 15 R319; reset none). -/
  waiting : List (Nat × Packet × Option IoAccess)
  /-- Responses sent, oldest first; their route stays 0 (14 R298-R300; reset none; log 26). -/
  responses : List Packet
  /-- MGMT messages sent, oldest first, and the packet of each (14 R298, R303; reset none). -/
  mgmt : List Mgmt
  heads : List Packet
  /-- Works that await accesses in other packages (14 R301; reset none). -/
  errands : List Errand
  launch : Launch
  /-- A launch whose PREPARE reached the package while another one stood or was torn down (14 R310, R313, R315; reset none). -/
  second : Launch
  /-- CID and rank of the job that TEARDOWN ends (14 R314; reset 0, 0). -/
  leaving : Cid × BitVec 20
  /-- Epoch of the job torn down last, 0 for none (14 R314; reset 0). -/
  lastEpoch : Word
  /-- Collectives in progress (14 R309; reset none). -/
  colls : List Coll
  /-- Announcements of peers whose collective has not started here: die, group, tag, member (14 R309; reset none). -/
  annc : List (Nat × DWord × Word × Nat)
deriving DecidableEq, Repr

/-- A request toward a third device (13 R287, R288, R434): its number at the port, its source, the command, work item and thread that it
serves, the requester ID of a peer device, its CID, address, data (empty: a read) and length. -/
structure MmioReq where
  id   : Nat
  src  : MmioSource
  cmd  : Option (Nat × Word)
  item : Nat
  thr  : Option Nat
  rid  : BitVec 16
  cid  : Cid
  addr : Nat
  data : List Byte
  n    : Nat
deriving DecidableEq, Repr

/-- An ATS Invalidate Request that awaits its acknowledgement (11 R231): the function, its number at the port, and the PASIDs under
which the function holds nothing any more once it has acknowledged. -/
structure AtsReq where
  rid   : BitVec 16
  tag   : Nat
  wipes : List (BitVec 20)
deriving DecidableEq, Repr

/-- A PASID entry whose removal is not acknowledged (21 R411): the function, the number of the Invalidate Request that it awaits, and
what the entry mapped. -/
structure PasidRemoval where
  rid   : BitVec 16
  tag   : Nat
  pasid : BitVec 20
  cid   : Cid
deriving DecidableEq, Repr

/-- A root port (13 R285-R288, 11 R229-R231, 10 R190). -/
structure RootPort where
  /-- CXL mode, with the bytes of its HDM range (10 R190; DESIGN CHOICE PCIe mode, log 6). -/
  cxl : Bool
  hdm : Nat
  /-- Memory windows of the Type 1 header: base, limit (10 R187; reset none DESIGN CHOICE, log 6). -/
  windows : List (Nat × Nat)
  /-- The link is in L0 (13 R288; reset DESIGN CHOICE true, log 6). -/
  l0 : Bool
  /-- Lanes and speed to which the link has trained, and Max_Payload_Size in bytes (13 R285; reset DESIGN CHOICE x16, 64 GT/s, 512,
  log 6). -/
  lanes : PcieWidth
  speed : PcieSpeed
  mps : PcieMps
  /-- The link has been down for 50 ms (13 R288; reset 0). -/
  dead : Bool
  /-- Number of the next request toward the link (the model's own field; reset 0 DESIGN CHOICE, log 65). -/
  nextId : Nat
  /-- Requests held toward the link, oldest first (13 R288; reset none). -/
  held : List MmioReq
  /-- Requests sent over the link, newest last (13 R434; reset none). -/
  sent : List MmioReq
  /-- Held reads of engines that have returned and that their requester has not taken: the data, none when the device refused
  (13 R288, R434; reset none). -/
  ready : List (MmioReq × Option (List Byte))
  /-- Writes of devices that have arrived and are not performed, oldest first (13 R286; reset none). -/
  posted : List DeviceRequest
  /-- Functions that hold ATS translations: requester ID, PASID (11 R230; reset none). -/
  ats : List (BitVec 16 × BitVec 20)
  /-- Functions that lost ATS (11 R231; reset none). -/
  atsOff : List (BitVec 16)
  /-- Functions that owe an ATS invalidation acknowledgement (11 R231; reset none). -/
  atsOwed : List AtsReq
  /-- Number of the next ATS Invalidate Request (the model's own field; reset 0 DESIGN CHOICE, log 65). -/
  atsTag : Nat
  /-- RP_STATUS.ATS_OFF, DUP (21 R411; reset 0). -/
  atsEvt : Bool
  dup : Bool
  /-- PASID entries being removed: they count as mapped until the function has acknowledged (21 R411; reset none). -/
  removing : List PasidRemoval
  /-- Entries of the PASID map that a tenant's grant installed (17 R344, R355, R356; reset none). -/
  granted : List Nat
  /-- AER log: errors recorded (13 R434, 18 R363; reset 0 DESIGN CHOICE, log 10). -/
  aer : Nat
  /-- What the port answered last to a device: PCIe completion status (0 successful, 1 Unsupported Request, 4 Completer Abort) and
  data (11 R229, R230, 18 R363; reset none). -/
  answer : Option (BitVec 3 × List Byte)
  /-- PRG responses sent: index, success (11 R228, R230; reset none). -/
  prg : List (BitVec 16 × Bool)
deriving DecidableEq, Repr

/-- Queue-pair states (21 R415). -/
inductive QpState where
  | stopped | running | faulted
deriving DecidableEq, Repr

/-- A queue pair (14 R292, 21 R415); its configuration words lie in the register file. -/
structure Qp where
  /-- QP_CTL.RUN as last written (21 R415, 00 R7; reset 0). -/
  run : Bool
  /-- QP_STATUS.STATE (21 R415; reset STOPPED). -/
  state : QpState
  /-- Stop requested while elements are in progress (21 R415; reset 0). -/
  stopping : Bool
  /-- QP_STATUS.DB_ERR, CFG_ERR (21 R415; reset 0). -/
  dbErr : Bool
  cfgErr : Bool
  /-- QP_STATUS.SYNDROME (21 R415; reset 0). -/
  syndrome : BitVec 8
  /-- QP_SQHEAD, QP_RQHEAD (21 R415; reset 0). -/
  sqHead : Word
  rqHead : Word
  /-- Send and receive tails (14 R292; reset 0). -/
  sqTail : Word
  rqTail : Word
  /-- Next send element to start (14 R292; reset 0). -/
  sqNext : Word
  /-- Next completion sequence (21 R415; reset 0 DESIGN CHOICE, log 10). -/
  cqSeq : Word
  /-- Elements in progress: sequence and bytes of the element (14 R292; reset none). -/
  flying : List (Word × List Byte)
  /-- Completion records that are not written yet, oldest first: virtual address, bytes (14 R292; reset none). -/
  due : List (Nat × List Byte)
  /-- Messages sent on the wire, oldest first (14 R292; reset none). -/
  wire : List (List Byte)
deriving DecidableEq, Repr

/-- FC_STATUS.STATE and what a check serves (19 R381-R384). -/
inductive FcState where
  | idle
  | checking (forApply : Bool)
  | pending
deriving DecidableEq, Repr

/-- A check in progress: the shadow words that it reads, and whether an STG field has been written since its GO (19 R382). -/
structure FcRun where
  words   : Tab Word
  dirtied : Bool
deriving DecidableEq, Repr

/-- The Front controller (19 R381). -/
structure Front where
  /-- FC_STATUS.STATE (19 R381; reset IDLE). -/
  state : FcState
  /-- The shadow words that the check in progress reads, as they stood at its GO, and whether an STG field was written since (19 R382; reset
  none). -/
  main : FcRun
  /-- Checks that FC_CHECK started while an apply was pending, oldest first (19 R384; reset none). -/
  sides : List FcRun
  /-- FC_STATUS.RESULT: 0 none, 1 PASS, 2 FAIL (19 R381; reset 0). -/
  result : BitVec 2
  /-- FC_STATUS.FAIL_CODE (19 R381; reset 0). -/
  failCode : BitVec 8
  /-- FC_STATUS.LATE, REJ, APPLIED (19 R381; reset 0). -/
  late : Bool
  rej : Bool
  applied : Bool
  /-- FC_STATUS.REUSED (19 R381; reset 0). -/
  reused : Bool
  /-- FC_COUNT, 32 bits (19 R381; reset 0). -/
  count : Word
  /-- FC_LAST_TIME, 64 bits (19 R381; reset 0). -/
  lastTime : DWord
  /-- No STG field has been written since a check that ended with PASS (19 R383; reset 0). -/
  clean : Bool
  /-- DEGRADE_GEN at the last check that passed, and its placement of the regions that form: region, KIND, DIE, bands (10 R194, 19 R373,
  R383; reset 0, none). -/
  gen : Word
  plan : List (Nat × Nat × Nat × List (Nat × Nat))
  /-- Shadow words of the snapshot of the apply that is checked or pending (00 R8; reset none). -/
  snapshot : Tab Word
  /-- DEGRADE_GEN and placement at the check that the pending apply rests on (19 R373, R383; reset 0, none). -/
  applyGen : Word
  applyPlan : List (Nat × Nat × Nat × List (Nat × Nat))
  /-- SCHED of the apply, and the tick at which it takes effect (19 R381; reset 0). -/
  sched : Bool
  applyAt : DWord
deriving DecidableEq, Repr

/-- Voltage of a die's cell islands: nominal for the operating point, 20 mV below it, or 0.50 V with the clocks gated (16 R333). -/
inductive Volt where
  | nominal | lowered | gated
deriving DecidableEq, Repr

/-- A die's activity and ballast (16 R329-R334), in units of 2^-20 of its full load (log 11). -/
structure Gust where
  /-- Activity in force, ballast included (16 R329, R331; reset 0 DESIGN CHOICE, log 11). -/
  activity : Nat
  /-- Demand last estimated (16 R329; reset 0). -/
  demand : Nat
  /-- Ballast in force (16 R331; reset 0). -/
  ballast : Nat
  /-- The hold of R331 runs; it has ended and the activity falls (16 R331; reset 0). -/
  holding : Bool
  falling : Bool
  /-- Prewarms in force, oldest first: the ring whose waiting command each is for, and its target in 1/1,024 (16 R334; reset none). -/
  warming : List (Nat × Nat)
  /-- Forecast phase in force (16 R333; reset 3 DESIGN CHOICE, log 11). -/
  phase : BitVec 2
  /-- Voltage of the cell islands of an Ochre die (16 R333; reset gated DESIGN CHOICE, log 11). -/
  volt : Volt
  /-- Estimates of 100 ns until a return to nominal voltage is complete, none when no return is under way (16 R333; reset none). -/
  rising : Option Nat
deriving DecidableEq, Repr

/-- Power, clocks and thermal control (16). -/
structure Power where
  /-- PWR_OP_STATUS.CUR_OP, JOB_OP, REQ_OP (16 R343; reset 7). -/
  curOp : BitVec 3
  jobOp : BitVec 3
  reqOp : BitVec 3
  /-- Point the cap permits, point temperature permits (16 R335; reset 7). -/
  capOp : BitVec 3
  thermOp : BitVec 3
  /-- PWR_OP_STATUS.EXCH_MISS (16 R343; reset 0). -/
  exchMiss : Bool
  /-- Cap steps taken on the host-cluster ceiling, 400 MHz each, and on memory admission, 1/8 each (16 R338; reset 0). -/
  hostSteps : Nat
  memSteps : Nat
  /-- Averaging windows in a row at 5 % or more below CAP (16 R338; reset 0). -/
  under : Nat
  /-- Gust state of each die, key 0-5; unlisted: at rest (16 R329). -/
  gust : Tab Gust
  /-- Rails whose islands are stretched by the fast current limit (16 R339; reset 0). -/
  fast : BitVec 6
  /-- Islands stretched by droop: die, island (16 R340; reset none). -/
  droops : List (Nat × Nat)
  /-- THERM_STATUS.TJ_MAX (16 R343; reset 0). -/
  tjMax : BitVec 8
  /-- Dies stretched for temperature: O0-O3, U0, U1, then the base dies of S0-S11; THROTTLE reads the first six (16 R342, R343;
  reset 0). -/
  throttle : BitVec 18
  /-- Dies stretched to quarter rate (16 R342; reset 0). -/
  quarter : BitVec 18
  /-- THERM_STATUS.HOT_EVT (16 R343; reset 0). -/
  hotEvt : Bool
  /-- Dies at or above 105 °C at the last poll: an entry into the row writes a record (16 R342; reset 0). -/
  hot : BitVec 18
  /-- Polls since the thermal point fell, and since it may rise (16 R342; reset 0). -/
  fallPolls : Nat
  risePolls : Nat
  /-- Stacks at doubled refresh; stacks at half admission (16 R342; reset 0). -/
  refresh2 : BitVec 12
  halfAdmit : BitVec 12
  /-- Some die is at or above 110 °C (16 R342; reset 0). -/
  trip : Bool
  /-- Operating-point exchange: boundary k, minimum so far, children heard, forwarded, OP_SET received (16 R336; reset none). -/
  exK : Nat
  exMin : Nat
  exHeard : List (BitVec 20)
  exSent : Bool
  exSet : Option (Nat × Nat)
deriving DecidableEq, Repr

/-- The operation of a tenant request (17 R358). -/
inductive TenantOp where
  | import_ (va : DWord) (data : List Byte)
  | export_ (va : DWord) (n : Nat)
  | setRt (word0 : DWord)
  | pasidGrant (p : Nat) (rid : BitVec 16) (pasid : BitVec 20)
  | epochKey (epoch : Word) (key : BitVec 256)
  | report (nonce : BitVec 256)
deriving DecidableEq, Repr

/-- Mailbox and secrets of the security processor (17). -/
structure Security where
  /-- MR0-MR6, 32 bytes each (17 R348; reset 0, then extended by start-up, log 3). -/
  mr : List Digest
  /-- SP_MBOX_STATUS.STATE: 0 IDLE, 1 BUSY, 2 DONE (17 R351; reset 0). -/
  mboxState : BitVec 2
  /-- SP_MBOX_STATUS.RESULT (17 R351; reset 0). -/
  mboxResult : BitVec 4
  /-- SP_MBOX_STATUS.DONE_EVT (17 R351; reset 0). -/
  doneEvt : Bool
  /-- Header and body of the request being served (17 R352; reset none). -/
  header : List Byte
  body : List Byte
  /-- The wrapped tenant request was authenticated for this TCID and counter, and this operation of it is not yet served (17 R358; reset
  none). -/
  tenant : Option (Cid × DWord × TenantOp)
  /-- A GRANULE_SET of the mailbox awaits the zeroing of its granules (11 R235; reset 0). -/
  setting : Bool
  /-- Key slots that hold a key: slot 0 from start-up on, the others by KEY_NEW (17 R352, R353, 11 R234; reset slot 0 alone, its key
  DESIGN CHOICE 0, log 12). -/
  keys : Tab (BitVec 256)
  /-- A GRANULE_SET or release whose zeroing is under way (11 R235; reset none). -/
  zeroing : List Zeroing
  /-- Epoch key in force and staged, with the epoch, and the CID whose tenant imported it (17 R356, R359; reset none). -/
  epochKey : Option (Word × BitVec 256 × Option Cid)
  stagedKey : Option (Word × BitVec 256 × Option Cid)
  /-- Management key in force, staged for the next tick, and the previous one in its grace (17 R359; reset none). -/
  mgmtKey : Option (BitVec 256)
  mgmtNew : Option (BitVec 256)
  mgmtOld : Option (BitVec 256)
  /-- Packets sealed under the epoch key and under the management key by U0 and U1: the low 64 bits of the next IV (17 R359; reset 0). -/
  epochIv : Tab DWord
  mgmtIv  : Tab DWord
  /-- Nonce and ML-KEM key pair of the latest REPORT with EK, while they may be used (17 R359; reset none). -/
  ek : Option (BitVec 256 × Nat)
  /-- Nonces of DEBUG_CHALLENGE that no token has used, with their DEVTIME (17 R360; reset none). -/
  dbgNonces : List (BitVec 256 × DWord)
  /-- Scope of the debug unlock in force (17 R361; reset none). -/
  unlock : Option Word
  /-- An accepted token whose zeroing is under way (17 R361; reset none). -/
  unlocking : Option (List Byte)
  /-- The DEBUG flag of reports (17 R361; reset 0). -/
  debugged : Bool
deriving DecidableEq, Repr

/-- Host warm reset (13 R283, 12 R250). -/
structure Warm where
  /-- A warm reset is in progress: the host cores are in reset (13 R283; reset 0). -/
  active : Bool
  /-- DEVTIME at its assertion (13 R284; reset 0). -/
  at_ : DWord
  /-- States of the contexts at its assertion, key = CID (13 R284; reset none). -/
  before : Tab CtxState
  /-- Host clusters that discarded stores: HRST_STATUS.LOST_STORE, bit k (12 R250; reset 0). -/
  lost : BitVec 12
  /-- HRST_STATUS.WB_DONE (12 R250; reset 0). -/
  wbDone : Bool
  /-- The preserved-state table is complete (13 R284; reset 0). -/
  complete : Bool
deriving DecidableEq, Repr

/-- An invalidation broadcast (11 R221-R226): CID, sync object, all, start, length; what it awaits: fabric requests, ATS Invalidate
Requests (port, number) and requests held toward third devices (port, number). -/
structure Inv where
  cid : Cid
  so  : BitVec 16
  all : Bool
  start : Nat
  length : Nat
  tids : List (BitVec 16)
  owed : List (Nat × Nat)
  mmio : List (Nat × Nat)
deriving DecidableEq, Repr

/-- Translation control common to the package (11 R221-R226, 21 R410). -/
structure Xlt where
  /-- XLT_GEN, 16 bits (21 R410; reset 0). -/
  gen : BitVec 16
  /-- Queued broadcasts, oldest first, at most 64 (11 R221; reset none). -/
  queue : List Inv
  /-- Broadcasts that await their conditions (11 R223; reset none). -/
  flying : List Inv
  /-- XLT_STATUS.INV_ERR of U0 and U1 (21 R410; reset 0). -/
  err0 : Bool
  err1 : Bool
deriving DecidableEq, Repr

/-- The management window (19 R385). -/
structure McWin where
  /-- MC_WIN_BASE, 64 bits (19 R385; reset 0). -/
  base : DWord
  /-- MC_WIN_STATUS.REFUSED, UE (19 R385; reset 0). -/
  refused : Bool
  ue : Bool
  /-- Bytes the last read returned (19 R385; reset none). -/
  data : List Byte
deriving DecidableEq, Repr

/-- The package. -/
structure State where
  /-- Commands that wait, first in first out (the model's own field; reset empty). -/
  pending : List Instr
  /-- Power and reset (19 R375; reset up, log 3). -/
  phase : Phase
  pins : Pins
  flash : Flash
  bring : BringUp
  /-- DEVTIME, 64 bits (19 R380; reset 13,000,000,000 DESIGN CHOICE, log 3). -/
  time : DWord
  /-- Counter of free values drawn (the model's own field; reset 0 DESIGN CHOICE, log 4). -/
  fresh : Nat
  /-- Memory of the package: HBM, tier B and CXL, by local physical address (10 R186; reset 0 in every byte, log 5). -/
  mem : List Host.Cell
  /-- Aligned 16-bit parcels of memory that a write has changed while some cell ran a work item, oldest first: local physical address, value
  before; what an instruction cache may still give (05 R430; reset none). -/
  older : List (Nat × BitVec 16)
  /-- Ownership by granule number; unlisted: OWNER 0, KSLOT 0, PRIVATE (11 R232; reset that). -/
  own : Tab Own
  /-- Software-written words in force, by physical address of the register (21; reset: the register's column). -/
  regs : Tab Word
  /-- Shadow words of STG registers, by physical address (00 R7; reset: the register's column, as the value in force). -/
  shadow : Tab Word
  /-- Latched high halves, by address of the low half (21 R404; reset none). -/
  latch : Tab Word
  /-- Held low halves, by address of the low half (21 R404; reset none). -/
  held : Tab Word
  /-- TIERB_CAP.HALF0 and HALF1 (10 R188, 21 R413; reset from training: both, log 6). -/
  tierB0 : Bool
  tierB1 : Bool
  /-- DEGRADE_GEN.GEN, 32 bits (18 R372, 21 R409; reset 0). -/
  degradeGen : Word
  /-- SVC_STATUS, 32 bits (18 R370; reset 0). -/
  svc : Word
  /-- A FATAL error has stopped dispatch (18 R365; reset 0). -/
  fatal : Bool
  /-- The host cores are out of reset: core 0 runs, and the others start when firmware asks (19 R377; reset 1; log 20). -/
  released : Bool
  /-- Host cores that firmware has started since their release, bit c for core c; core 0 needs no bit (19 R377; reset 0; log 20). -/
  hostsOn : BitVec 96
  /-- Host core 0 of U0 has been released since the last package reset (22 R424; reset 1). -/
  everReleased : Bool
  /-- Rate of DEVTIME above its nominal one, in ppm, by which it follows the job root (14 R303, 19 R380; reset 0). -/
  rate : Int
  /-- Host cores; unlisted: at reset (12 R249; log 7). -/
  hosts : Tab HostCore
  /-- Cells; unlisted: at reset (05 R87). -/
  cells : Tab Cell
  /-- Ochre dies; unlisted: at reset. -/
  ochres : Tab Ochre
  /-- Logs, counters and trace of O0-O3 (0-3), U0 (4), U1 (5); unlisted: at reset. -/
  logs : Tab DieLog
  /-- Rings; unlisted: at reset (13 R262). -/
  rings : Tab Ring
  /-- Commands in progress, oldest first (13 R273; reset none). -/
  cmds : List Cmd
  /-- Contexts; unlisted: CID 0 OPEN, every other FREE (13 R280; reset that). -/
  ctxs : Tab Ctx
  /-- Sync-object values, 64 bits (21 R412; reset 0). -/
  soVal : Tab DWord
  /-- Sync-object owners (21 R412; reset 0). -/
  soOwn : Tab Cid
  /-- Sync objects in the uncorrectable state (18 R362; reset none). -/
  soBad : List Nat
  /-- DEVTIME of the latest uncorrectable error of a cell's memories (18 R369; reset none). -/
  cellErr : Tab DWord
  /-- FATAL records held for the management controller, oldest first (18 R365; reset none). -/
  fatalRecs : List ErrRec
  hbm : Hbm
  coh : Coherence
  links : Links
  fab : Fabric
  /-- Root ports; unlisted: at reset (13 R285). -/
  roots : Tab RootPort
  /-- Queue pairs, key 256·port + n; unlisted: at reset (21 R415). -/
  qps : Tab Qp
  front : Front
  power : Power
  sec : Security
  warm : Warm
  xlt : Xlt
  mc : McWin
  /-- MSI-X vectors delivered to the host cores, newest last: die 0-5, vector (13 R261; reset none). -/
  irqs : List (Nat × Nat)
deriving DecidableEq, Repr

/-- A control core before its first work item. -/
def ControlCore.reset : ControlCore :=
  { x := [], pc := 0, started := 0, instret := 0, wait := .running, fenced := 0 }

/-- An EMPTY bank (06 R115). -/
def Bank.reset : Bank := { empty := true, int := false, elems := [] }

/-- The matrix engine at reset. -/
def MatrixEngine.reset : MatrixEngine :=
  { queue := [], issued := 0, done := 0, bank0 := Bank.reset, bank1 := Bank.reset, readyLo := [], readyHi := [],
    netLo := [], netHi := [], rawLo := [], rawHi := [], outLo := [], outHi := [] }

/-- No special value seen and no term other than -0 (07 R139). -/
def AccFlags.clear : AccFlags := { nan := false, pinf := false, ninf := false, nz := false }

/-- The vector engine at reset. -/
def VectorEngine.reset : VectorEngine :=
  { queue := [], issued := 0, done := 0, tb := [], narrow := 0, wide := 0, nflags := AccFlags.clear,
    wflags := AccFlags.clear, terms := 0 }

/-- The stream engine at reset. -/
def StreamEngine.reset : StreamEngine := { queue := [], issued := 0, done := 0, stall := none, sent := false, staged := [] }

/-- A cell at reset. -/
def Cell.reset : Cell :=
  { job := none, lastCid := none, core := ControlCore.reset, part := { bl := 0, l1 := 0 }, mem := [],
    matrix := MatrixEngine.reset, vec := VectorEngine.reset, str := StreamEngine.reset, dq := [], esig := [],
    blocks := [], kernel := none, l1 := [], xc := [] }

/-- A host core at reset. -/
def HostCore.reset : HostCore := { loaded := 0, trap := none, invStore := none, buffer := [], barrier := false, due := none }

/-- A ring at reset (13 R262). -/
def Ring.reset : Ring :=
  { dbase := 0, cbase := 0, cid := 0, head := 0, tail := 0, replay := false, log2 := 2, run := false, state := .stopped,
    dbErr := false, cfgErr := false, soeStop := false, ctxFault := false, recFail := false, aborting := false,
    fetch := 0, commits := [], after := 0, stall := none, own := [] }

/-- A context at package reset (13 R280). -/
def Ctx.reset (cid : Nat) : Ctx :=
  { state := if cid = 0 then .opened else .free, before := .free, frozenAt := 0, faultedAt := 0, everSealed := false, prep := none,
    word0 := 0, meas := 0, policy := 0, ks := 0, counter := none, closing := false }

/-- An Ochre die at reset: every cell enabled (00 R5). -/
def Ochre.reset : Ochre :=
  { cellEn := BitVec.allOnes 64, dbgHalt := 0, strictForced := false, xc := [], walks := [], missQ := [], faults := [],
    fqTail := 0, ctxSeq := [], disabled := false }

/-- Logs, counters and trace of a die at reset. -/
def DieLog.reset : DieLog :=
  { errTail := 0, held := [], opened := [], ceDropped := 0, ceTimes := [], pmc := [], droop := 0, trcSeq := 0,
    trcHeld := [], trcLost := 0, ctxLost := [], lost := 0 }

/-- A channel at full health (10 R191). -/
def Channel.reset : Channel := { state := .inService, spares := 0, failed := [] }

/-- HBM after start-up under the shipped map: every band used, the Lake empty. -/
def Hbm.reset : Hbm :=
  { chans := [], regions := [], bands := [], lfsr := [], lake := [], ways := [], cleaning := [],
    broken := [], scrubbed := [], rowErrs := [], rowDue := [], ueTyp := [], quota := [], quotaHeld := [], cap := BitVec.ofNat 64 (49152 + 384 * 2 ^ 48), data := [] }

/-- No line cached anywhere. -/
def Coherence.reset : Coherence :=
  { dir := [], busy := [], accepted := [], fwds := [], holds := [], resv := [], tokens := [], vane := [], lastHome := [] }

/-- A direction of a link once it has trained (15 R316, R318; log 10). -/
def LinkDir.reset : LinkDir := { crc := 0, exp := 0, acked := 0, nak := none, resend := none, group := 0 }

/-- A package link once it has trained (15 R320): 12 groups on a side link, 6 on a host link. -/
def PLink.trained (l : Nat) : PLink :=
  { state := .up, groups := if l < 4 then 0xFFF else 0x03F, fecCorr := 0, replays := 0, hi := LinkDir.reset, lo := LinkDir.reset,
    rxHigh := false }

/-- An Isobar port once it has trained at full width (14 R289). -/
def IsoPort.trained : IsoPort :=
  { width := 2, degraded := false, most := 2, training := false, drops := 0, stale := 0, early := 0 }

/-- No launch. -/
def Launch.reset : Launch :=
  { epoch := 0, n := 0, root := 0, parent := 0, digest := 0, own := none, sent := false, children := [],
    applyAt := none, held := [], staged := none, edges := [] }

/-- The fabric at reset: the package belongs to no job (14 R304). -/
def Fabric.reset : Fabric :=
  { state := .idle, ports := [], reqs := [], tid0 := 0, tid1 := 0x8000, heldTo := [], outbox := [], waiting := [], responses := [],
    mgmt := [], heads := [], errands := [], launch := Launch.reset, second := Launch.reset, leaving := (0, 0), lastEpoch := 0, colls := [], annc := [] }

/-- A root port at reset: PCIe mode, no window, its link in L0. -/
def RootPort.reset : RootPort :=
  { cxl := false, hdm := 0, windows := [], l0 := true, lanes := .x16, speed := .gt64, mps := .b512, dead := false, nextId := 0, held := [],
    sent := [], ready := [], posted := [], ats := [], atsOff := [], atsOwed := [], atsTag := 0, atsEvt := false, dup := false, removing := [],
    granted := [], aer := 0, answer := none, prg := [] }

/-- A queue pair at reset (21 R415). -/
def Qp.reset : Qp :=
  { run := false, state := .stopped, stopping := false, dbErr := false, cfgErr := false, syndrome := 0, sqHead := 0, rqHead := 0,
    sqTail := 0, rqTail := 0, sqNext := 0, cqSeq := 0, flying := [], due := [], wire := [] }

/-- The Front controller at reset (19 R381). -/
def Front.reset : Front :=
  { state := .idle, main := { words := [], dirtied := false }, sides := [], result := 0, failCode := 0, late := false, rej := false, applied := false,
    reused := false, count := 0, lastTime := 0, clean := false, gen := 0, plan := [], snapshot := [], applyGen := 0, applyPlan := [],
    sched := false,
    applyAt := 0 }

/-- A die at rest (16 R329). -/
def Gust.reset : Gust :=
  { activity := 0, demand := 0, ballast := 0, holding := false, falling := false, warming := [], phase := 3,
    volt := .gated, rising := none }

/-- The power controller at reset (16 R343). -/
def Power.reset : Power :=
  { curOp := 7, jobOp := 7, reqOp := 7, capOp := 7, thermOp := 7, exchMiss := false, hostSteps := 0,
    memSteps := 0, under := 0, gust := [], fast := 0, droops := [], tjMax := 0, throttle := 0, quarter := 0,
    hotEvt := false, hot := 0, fallPolls := 0, risePolls := 0, refresh2 := 0, halfAdmit := 0, trip := false, exK := 0,
    exMin := 7, exHeard := [], exSent := false, exSet := none }

/-- The security processor once start-up has measured into MR0-MR6 (17 R348). -/
def Security.reset (mr : List Digest) : Security :=
  { mr := mr, mboxState := 0, mboxResult := 0, doneEvt := false, header := [], body := [], tenant := none, setting := false,
    keys := [(0, 0)], zeroing := [], epochKey := none, stagedKey := none, mgmtKey := none, mgmtNew := none,
    mgmtOld := none, epochIv := [], mgmtIv := [], ek := none, dbgNonces := [], unlock := none, unlocking := none, debugged := false }

/-- No warm reset (12 R250). -/
def Warm.reset : Warm := { active := false, at_ := 0, before := [], lost := 0, wbDone := false, complete := false }

/-- Every part passes (log 64). -/
def BringUp.reset : BringUp :=
  { links := [], lpBad := [], noSeed := [], chanBad := [], cellBad := [], isoLanes := [], spares := [], noDevice := [], roots := [] }

/-- No broadcast (21 R410). -/
def Xlt.reset : Xlt := { gen := 0, queue := [], flying := [], err0 := false, err1 := false }

/-- The management window at reset (19 R385). -/
def McWin.reset : McWin := { base := 0, refused := false, ue := false, data := [] }

/-- The flash with the shipped manifest (10 R192) and an empty repair list (log 6). -/
def Flash.shipped : Flash :=
  { good := true, hostGood := true, svn := 1, tierB := some 3, imap := [], portMode := [], digests := [], config := [], opKeyHash := 0, rows := [],
    cells := [] }

/-- Pins of a powered package with no reset asserted. -/
def Pins.reset : Pins :=
  { pwrGood := true, pkgRstN := true, hostRstN := true, pwrAlert := 0, thermtrip := false, stn := 0, prodTest := false,
    atb := [] }

/-- STRAP_WORD as sampled (19 R380). -/
def Pins.strapWord (p : Pins) : Word := (p.prodTest.toNat * 2 ^ 20 + p.stn.toNat : Nat)

/-- MR0-MR6 after the measurements of start-up (17 R348, R350). -/
def Flash.measured (f : Flash) (p : Pins) : List Digest :=
  let d := fun n => f.digests.getD n 0
  [mrExtend (mrExtend (mrExtend 0 (d 0)) (d 1)) (devId 1), mrExtend (mrExtend 0 (d 2)) (d 3),
   mrExtend (mrExtend 0 (d 4)) (d 5), mrExtend 0 (d 6), mrExtend 0 (sha3 (f.config ++ leBytes 4 p.strapWord.toNat)), 0, 0]

/-- The machine right after reset: the moment start-up releases host core 0 (19 R377, log 3). -/
def State.reset : State :=
  { pending := [], phase := .up, pins := Pins.reset, flash := Flash.shipped, bring := BringUp.reset, time := 13000000000, fresh := 0, mem := [], older := [],
    own := [], regs := [], shadow := [], latch := [], held := [], tierB0 := true, tierB1 := true, degradeGen := 0, svc := 0,
    fatal := false, released := true, hostsOn := 0, everReleased := true, rate := 0, hosts := [], cells := [], ochres := [], logs := [], rings := [], cmds := [],
    ctxs := [], soVal := [], soOwn := [], soBad := [], cellErr := [], fatalRecs := [], hbm := Hbm.reset, coh := Coherence.reset,
    links := { tab := [], held := [] }, fab := Fabric.reset, roots := [], qps := [], front := Front.reset,
    power := Power.reset, sec := Security.reset (Flash.shipped.measured Pins.reset), warm := Warm.reset, xlt := Xlt.reset,
    mc := McWin.reset, irqs := [] }

end Sys2Proof.Machine
end

