-- ==== Sys2Proof/Machine/Ops.lean ====
section
/-! DEFINITION. The named operations over tables, memory, registers and the parts of State; the address map (10 R186, 13 R260);
ownership (11 R232-R233). -/

namespace Sys2Proof.Machine

/-- What key k of a table reads as. -/
def tabGet {α : Type} (dflt : Nat → α) : Tab α → Nat → α
  | [], k => dflt k
  | (j, v) :: r, k => if j = k then v else tabGet dflt r k

/-- Insert a key that the table does not hold, before the first larger key. -/
def tabInsert {α : Type} (k : Nat) (v : α) : Tab α → Tab α
  | [] => [(k, v)]
  | (j, w) :: r => if k < j then (k, v) :: (j, w) :: r else (j, w) :: tabInsert k v r

/-- The table without key k. -/
def tabErase {α : Type} (t : Tab α) (k : Nat) : Tab α := t.filter fun p => decide (p.1 ≠ k)

/-- Key k reads as v from here on; the canonical form is kept. -/
def tabSet {α : Type} [DecidableEq α] (dflt : Nat → α) (t : Tab α) (k : Nat) (v : α) : Tab α :=
  if v = dflt k then tabErase t k else tabInsert k v (tabErase t k)

/-- What a table holds under a key, for tables whose keys are present or absent. -/
def tabFind {α : Type} : Tab α → Nat → Option α
  | [], _ => none
  | (j, v) :: r, k => if j = k then some v else tabFind r k

/-- A key becomes present with a value. -/
def tabPut {α : Type} (t : Tab α) (k : Nat) (v : α) : Tab α := tabInsert k v (tabErase t k)

/-- Keys strictly rising, and no entry equal to what an unlisted key reads as. -/
def tabWf {α : Type} [DecidableEq α] (dflt : Nat → α) : Tab α → Bool
  | [] => true
  | (j, v) :: r => decide (v ≠ dflt j) && r.all (fun p => decide (j < p.1)) && tabWf dflt r

/-- Consecutive keys from k take the values of a list. -/
def tabSetMany {α : Type} [DecidableEq α] (dflt : Nat → α) : Tab α → Nat → List α → Tab α
  | t, _, [] => t
  | t, k, v :: vs => tabSetMany dflt (tabSet dflt t k v) (k + 1) vs

/-- n consecutive values from key k. -/
def tabGetMany {α : Type} (dflt : Nat → α) (t : Tab α) (k : Nat) : Nat → List α
  | 0 => []
  | n + 1 => tabGet dflt t k :: tabGetMany dflt t (k + 1) n

/-- Every listed value changed by a function that leaves defaults alone; the canonical form is kept. -/
def tabMap {α : Type} [DecidableEq α] (dflt : Nat → α) (t : Tab α) (f : Nat → α → α) : Tab α :=
  (t.map fun p => (p.1, f p.1 p.2)).filter fun p => decide (p.2 ≠ dflt p.1)

/-- Every byte starts as zero (10 R196, 19 R379; 05 R98 for cell memory). -/
def zeroByte (_ : Nat) : Byte := 0

/-- The memory's canonical form: addresses strictly rising, no byte listed that is zero. -/
abbrev Memory.wf (m : List Host.Cell) : Bool := tabWf zeroByte m

/-- What no command but a pin event changes: the queue of waiting commands, whether the package runs, and the levels that the carrier
drives at its input pins (22 R421). -/
def State.keepInputs (s t : State) : State :=
  { t with pending := s.pending, phase := s.phase,
           pins := { t.pins with pwrGood := s.pins.pwrGood, pkgRstN := s.pins.pkgRstN, hostRstN := s.pins.hostRstN,
                                 stn := s.pins.stn, prodTest := s.pins.prodTest } }

/-- A command takes effect while the package runs; without power, in reset or in a stopped boot no island runs, and it has none (19 R377,
22 R419, R424; log 33). -/
def State.live (s : State) (f : State → State) : Host.Outcome State Fault Refusal :=
  match s.phase with
  | .up => .next (s.keepInputs (f s))
  | _ => .next s

/-- A pin event takes effect with or without power. -/
def State.pinEvent (s : State) (f : State → State) : Host.Outcome State Fault Refusal :=
  .next { f s with pending := s.pending }

/-! ### Parts of the state -/

def hostDflt (_ : Nat) : HostCore := HostCore.reset
def State.host (s : State) (c : Nat) : HostCore := tabGet hostDflt s.hosts c
def State.setHost (s : State) (c : Nat) (h : HostCore) : State := { s with hosts := tabSet hostDflt s.hosts c h }
/-- A host core runs: it is out of reset, and core 0 or started by firmware (19 R377). -/
def State.hostRuns (s : State) (c : Nat) : Bool := s.released && (c = 0 || s.hostsOn.getLsbD c)
/-- A host core takes an exception once the stores older than it have committed (12 R249). -/
def HostCore.takes (h : HostCore) (t : HostTrap) : HostCore :=
  if h.buffer.isEmpty && h.invStore.isNone then { h with trap := some t, due := none } else { h with due := some t }
/-- An exception that is due is taken, once nothing older waits (12 R249). -/
def HostCore.settle (h : HostCore) : HostCore :=
  match h.due with
  | some t => h.takes t
  | none => h

def cellDflt (_ : Nat) : Cell := Cell.reset
def State.cell (s : State) (g : Nat) : Cell := tabGet cellDflt s.cells g
def State.setCell (s : State) (g : Nat) (c : Cell) : State := { s with cells := tabSet cellDflt s.cells g c }

def ochreDflt (_ : Nat) : Ochre := Ochre.reset
def State.ochre (s : State) (d : Nat) : Ochre := tabGet ochreDflt s.ochres d
def State.setOchre (s : State) (d : Nat) (o : Ochre) : State := { s with ochres := tabSet ochreDflt s.ochres d o }

def logDflt (_ : Nat) : DieLog := DieLog.reset
def State.log (s : State) (d : Nat) : DieLog := tabGet logDflt s.logs d
def State.setLog (s : State) (d : Nat) (l : DieLog) : State := { s with logs := tabSet logDflt s.logs d l }

def ringDflt (_ : Nat) : Ring := Ring.reset
def State.ring (s : State) (r : Nat) : Ring := tabGet ringDflt s.rings r
def State.setRing (s : State) (r : Nat) (x : Ring) : State := { s with rings := tabSet ringDflt s.rings r x }

def State.ctx (s : State) (cid : Cid) : Ctx := tabGet Ctx.reset s.ctxs cid.toNat
/-- A context is under the protection of R344: it is SEALED, or was and has frozen or faulted since, its granules not yet zeroed (13 R280,
17 R344; log 70). -/
def Ctx.isSealed (x : Ctx) : Bool := x.state = .sealed || (x.everSealed && (x.state = .frozen || x.state = .faulted))
def State.sealedCid (s : State) (cid : Cid) : Bool := (s.ctx cid).isSealed
def State.setCtx (s : State) (cid : Cid) (x : Ctx) : State := { s with ctxs := tabSet Ctx.reset s.ctxs cid.toNat x }

def rootDflt (_ : Nat) : RootPort := RootPort.reset
def State.root (s : State) (p : Nat) : RootPort := tabGet rootDflt s.roots p
def State.setRoot (s : State) (p : Nat) (x : RootPort) : State := { s with roots := tabSet rootDflt s.roots p x }

def qpDflt (_ : Nat) : Qp := Qp.reset
def State.qp (s : State) (p n : Nat) : Qp := tabGet qpDflt s.qps (256 * p + n)
def State.setQp (s : State) (p n : Nat) (x : Qp) : State := { s with qps := tabSet qpDflt s.qps (256 * p + n) x }

def State.link (s : State) (l : Nat) : PLink := tabGet PLink.trained s.links.tab l
def State.setLink (s : State) (l : Nat) (x : PLink) : State :=
  { s with links := { s.links with tab := tabSet PLink.trained s.links.tab l x } }

def portDflt (_ : Nat) : IsoPort := IsoPort.trained
def State.port (s : State) (p : Nat) : IsoPort := tabGet portDflt s.fab.ports p
def State.setPort (s : State) (p : Nat) (x : IsoPort) : State :=
  { s with fab := { s.fab with ports := tabSet portDflt s.fab.ports p x } }

def gustDflt (_ : Nat) : Gust := Gust.reset
def State.gust (s : State) (d : Nat) : Gust := tabGet gustDflt s.power.gust d
def State.setGust (s : State) (d : Nat) (x : Gust) : State :=
  { s with power := { s.power with gust := tabSet gustDflt s.power.gust d x } }

/-- A command in progress by its ring and sequence. -/
def State.cmd (s : State) (r : Nat) (q : Word) : Option Cmd := s.cmds.find? fun c => c.ring == r && c.seq == q
def State.setCmd (s : State) (c : Cmd) : State :=
  { s with cmds := s.cmds.map fun x => if x.ring == c.ring && x.seq == c.seq then c else x }
def State.dropCmd (s : State) (r : Nat) (q : Word) : State :=
  { s with cmds := s.cmds.filter fun x => !(x.ring == r && x.seq == q) }

/-- Change every cell, Ochre die or ring that is not at reset. -/
def State.mapCells (s : State) (f : Nat → Cell → Cell) : State := { s with cells := tabMap cellDflt s.cells f }
def State.mapOchres (s : State) (f : Nat → Ochre → Ochre) : State := { s with ochres := tabMap ochreDflt s.ochres f }
def State.mapRings (s : State) (f : Nat → Ring → Ring) : State := { s with rings := tabMap ringDflt s.rings f }

/-- The next free value of width w (log 4). -/
def State.draw (s : State) (w : Nat) : State × BitVec w :=
  ({ s with fresh := s.fresh + 1 }, Config.freeBits w s.fresh)

/-! ### Memory -/

def State.readByte (s : State) (a : Nat) : Byte := tabGet zeroByte s.mem a
def State.readBytes (s : State) (a n : Nat) : List Byte := tabGetMany zeroByte s.mem a n
def State.readNat (s : State) (a n : Nat) : Nat := leNat (s.readBytes a n)

/-- The 16-bit parcel at an address of memory. -/
def parcelAt (m : List Host.Cell) (a : Nat) : BitVec 16 := tabGet zeroByte m (a + 1) ++ tabGet zeroByte m a

/-- Parcels of n bytes from an address that two contents of memory give differently, with their values in the first (05 R430). -/
def changedParcels (m m' : List Host.Cell) (a n : Nat) : List (Nat × BitVec 16) :=
  (List.range ((a + n + 1) / 2 - a / 2)).filterMap fun i =>
    let p := (a / 2 + i) * 2
    if parcelAt m p = parcelAt m' p then none else some (p, parcelAt m p)

/-- Some cell runs a work item, whose instruction cache may hold bytes of memory (05 R430). -/
def State.coresRun (s : State) : Bool := s.cells.any fun p => p.2.job.isSome

/-- Bytes of memory change; instruction caches may still give the parcels that were there (05 R430). -/
def State.writeBytes (s : State) (a : Nat) (bs : List Byte) : State :=
  { s with mem := tabSetMany zeroByte s.mem a bs,
           older := if s.coresRun then s.older ++ changedParcels s.mem (tabSetMany zeroByte s.mem a bs) a bs.length else s.older }
/-- The bytes of some addresses read as unwritten memory does; instruction caches may still give their parcels (05 R430). -/
def State.forget (s : State) (p : Nat → Bool) : State :=
  let gone := s.mem.filter fun c => p c.1
  { s with mem := s.mem.filter fun c => !p c.1,
           older := if s.coresRun then s.older ++ ((gone.map fun c => c.1 / 2 * 2).eraseDups.map fun a => (a, parcelAt s.mem a)) else s.older }
def State.writeNat (s : State) (a n v : Nat) : State := s.writeBytes a (leBytes n v)

/-- Cell memory (05 R87). -/
def Cell.read (c : Cell) (a n : Nat) : List Byte := tabGetMany zeroByte c.mem a n
def Cell.readNat (c : Cell) (a n : Nat) : Nat := leNat (c.read a n)
def Cell.write (c : Cell) (a : Nat) (bs : List Byte) : Cell := { c with mem := tabSetMany zeroByte c.mem a bs }

/-- CRC-64 by the ECMA-182 polynomial with initial value 0, most significant bit first (15 R316, 20 R398). -/
def crcBits : Nat → DWord → DWord
  | 0, c => c
  | n + 1, c => crcBits n (if c.msb then (c <<< 1) ^^^ 0x42F0E1EBA9EA3693 else c <<< 1)
def crc64 (bs : List Byte) : DWord := bs.foldl (fun c b => crcBits 8 (c ^^^ (b ++ (0 : BitVec 56)))) 0

/-- Pieces of a span that each lie within one aligned block of k bytes, as address and length. -/
def alignedPieces (k a n : Nat) : List (Nat × Nat) :=
  if n = 0 then []
  else (List.range ((a + n - 1) / k + 1 - a / k)).map fun i =>
    let lo := max a ((a / k + i) * k)
    (lo, min (a + n) ((a / k + i + 1) * k) - lo)

/-- Bits [hi:lo] of a number (00, bit numbering). -/
def bitsOf (v hi lo : Nat) : Nat := v / 2 ^ lo % 2 ^ (hi + 1 - lo)
def bitOf (v i : Nat) : Bool := v / 2 ^ i % 2 = 1

/-- Byte n and little-endian fields of a list of bytes. -/
def byteAt (bs : List Byte) (i : Nat) : Nat := (bs.getD i 0).toNat
def field (bs : List Byte) (i n : Nat) : Nat := leNat ((bs.drop i).take n)

/-- Every byte of a span is zero (13 R270: reserved bytes). -/
def zeroSpan (bs : List Byte) (i n : Nat) : Bool := ((bs.drop i).take n).all fun b => b = 0

/-- The header fields of a command (13 R268): byte 1 of its own slot. -/
def Cmd.slot (c : Cmd) : List Byte := c.slots.getD 0 []
def Cmd.opcode (c : Cmd) : Nat := byteAt c.slot 0
def Cmd.flag (c : Cmd) (i : Nat) : Bool := bitOf (field c.slot 0 4) i
def Cmd.soe (c : Cmd) : Bool := c.flag 8
def Cmd.layer (c : Cmd) : BitVec 16 := BitVec.ofNat 16 (field c.slot 4 2)
def Cmd.operator (c : Cmd) : Word := BitVec.ofNat 32 (field c.slot 8 4)

/-! ### Device registers -/

/-- BAR0 of Ochre die d and of platform function u, BAR2 of Ochre die d (13 R260). -/
def ochreBar (d : Nat) : Nat := 0x0F0000000000 + d * 0x1000000
def umberBar (u : Nat) : Nat := 0x0F0004000000 + u * 0x1000000
def bellBar (d : Nat) : Nat := 0x0F4000000000 + d * 0x100000

/-- Reset values that are not 0 of the words that Ochre endpoints and platform functions share (18 R368, 20 R394). -/
def commonDflt (o : Nat) : Word :=
  if o = 0x2004 then 0x6000          -- ERR_LOG_BASE.LOG2SIZE 6
  else if o = 0x4004 then 0xA000     -- TRC_BASE.LOG2SIZE 10
  else 0

/-- Reset values that are not 0 of the U0 platform function. -/
def primaryDflt (o : Nat) : Word :=
  if o = 0x5000 then 7                                                          -- PWR_OP_CTL.OP_MAX (16 R343)
  else if o = 0x5008 then (3600 + 10 * 2 ^ 12 : Nat)                            -- PWR_CAP (16 R343)
  else if o = 0x500C then (32 + 2 ^ 18 : Nat)                                   -- GUST_CTL (16 R343)
  else if o = 0x5014 then 1                                                     -- SSC_CTL (16 R343)
  else if 0x5040 ≤ o && o < 0x5070 then 24                                      -- HOST_CLK_k (16 R343)
  else if o = 0x8028 then (1000 + 1000 * 2 ^ 16 : Nat)                          -- FAB_TMO (14 R305)
  else if 0x9000 ≤ o && o < 0x9040 && o % 16 = 0 then 4                         -- PLINK_CTL.RAWSHARE, l = 0-3 (15 R326)
  else if o = 0xA008 then 4                                                     -- LAKE_CTL.WAYS (21 R413)
  else if o = 0xA010 then (10 + 10 * 2 ^ 7 + 20 * 2 ^ 13 + 5 * 2 ^ 22 : Nat)    -- ACT_BUDGET (21 R413)
  else if o = 0xA014 then 5                                                     -- ACT_BUDGET.TRACE
  else if 0xB000 ≤ o && o < 0xBC00 then 2                                       -- IMAP_r: PKG in the shipped manifest (10 R192)
  else 0

/-- Reset column of a software-written word. -/
def regDflt (a : Nat) : Word :=
  let o := a % 0x1000000
  if ochreBar 0 ≤ a && a < ochreBar 4 then commonDflt o
  else if umberBar 0 ≤ a && a < umberBar 2 then
    if o = 0x30004 || o = 0x40004 then 10                                       -- RP_ATS_TMO.MS (21 R411)
    else if 0x200000 ≤ o && o < 0x250000 && o % 128 = 0x18 then 2               -- QP_CTL.LOG2SIZE (21 R415)
    else if commonDflt o ≠ 0 then commonDflt o
    else if a < umberBar 1 then primaryDflt o
    else 0
  else 0

/-- Word in force of a software-written register. -/
def State.reg (s : State) (a : Nat) : Word := tabGet regDflt s.regs a
def State.setReg (s : State) (a : Nat) (v : Word) : State := { s with regs := tabSet regDflt s.regs a v }
/-- A 64-bit register in force. -/
def State.reg64 (s : State) (a : Nat) : DWord := s.reg (a + 4) ++ s.reg a
/-- Shadow word of an STG register (00 R7). -/
def State.shadowOf (s : State) (a : Nat) : Word := tabGet regDflt s.shadow a
def State.setShadow (s : State) (a : Nat) (v : Word) : State := { s with shadow := tabSet regDflt s.shadow a v }

end Sys2Proof.Machine
end

