-- ==== Sys2Proof/Machine/Flags.lean ====
section
/-! DEFINITION. Completion statuses (13 R278), the order in which checks of several kinds decide (05 R433), and the sticky flags
that commands set in device registers. -/

namespace Sys2Proof.Machine

def stOk : Status := 0x0000
def stState : Status := 0x0101
def stFormat : Status := 0x0102
def stRange : Status := 0x0201
def stAccess : Status := 0x0202
def stMemUe : Status := 0x0301
def stLink : Status := 0x0401
def stHostpath : Status := 0x0402
def stGroupIncomplete : Status := 0x0501
def stGroupMismatch : Status := 0x0502
def stGroupStall : Status := 0x0503
def stTimeout : Status := 0x0601
def stAbort : Status := 0x0701

/-- The statuses whose effect is "Context" (13 R278). -/
def faultsContext (st : Status) : Bool := st = stAccess || st = stMemUe

/-- Status of an instruction, block, word or descriptor whose checks of each kind passed or failed (05 R433). -/
def checkOrder (formatOk rangeOk stateOk : Bool) : Status :=
  if !formatOk then stFormat else if !rangeOk then stRange else if !stateOk then stState else stOk

/-- a has reached b by serial arithmetic in the window of 2^63 (05 R91, 13 R273). -/
def reached64 (a b : DWord) : Bool := (a - b).toNat < 2 ^ 63

/-- a has reached b by serial arithmetic in the window of 2^31 (05 R93, 14 R304). -/
def reached32 (a b : Word) : Bool := (a - b).toNat < 2 ^ 31

/-- Set bit i of the register at an address. -/
def State.setRegBit (s : State) (a i : Nat) : State := s.setReg a (s.reg a ||| (1 <<< i : Word))

/-- ARITH_STATUS of die d: LONG_OVF (03 R54) and SLICE_NF (04 R79). -/
def State.setLongOvf (s : State) (d : Nat) : State := s.setRegBit (ochreBar d + 0x14) 1
def State.setSliceNf (s : State) (d : Nat) : State := s.setRegBit (ochreBar d + 0x14) 2

/-- BAR0 of the function that holds the registers of die 0-5 (21 R406, R408). -/
def dieBar (die : Nat) : Nat := if die < 4 then ochreBar die else umberBar (die - 4)

/-- OBS_STATUS.WR_FAIL and TW_COLLIDE of a die (20 R390, R397). -/
def State.setWrFail (s : State) (die : Nat) : State := s.setRegBit (dieBar die + 0x400C) 16
def State.setTwCollide (s : State) (die : Nat) : State := s.setRegBit (dieBar die + 0x400C) 17

/-- Add to a counter of w bits that stops at its largest value (18 R368, 15 R326). -/
def satAdd (w v n : Nat) : Nat := min (v + n) (2 ^ w - 1)

/-! ### Counters -/

def pmcDflt (_ : Nat) : DWord := 0

/-- Counters of a die that select an event add n for a requester of a CID (20 R387, R388). -/
def State.count (s : State) (die event : Nat) (cid : Option Cid) (n : Nat) : State :=
  if n = 0 || bitOf (s.reg (dieBar die + 0x3100)).toNat 0 then s
  else
    (List.range 16).foldl (fun s i =>
      let v := (s.reg (dieBar die + 0x3000 + 4 * i)).toNat
      if bitOf v 8 && v % 256 = event && (!bitOf v 9 || cid = some (BitVec.ofNat 16 (v / 2 ^ 16))) then
        let l := s.log die
        s.setLog die { l with pmc := tabSet pmcDflt l.pmc i (tabGet pmcDflt l.pmc i + BitVec.ofNat 64 n) }
      else s) s

/-- Context counts of a command (20 R391): count i rises by n. -/
def State.tally (s : State) (who : Option (Nat × Word)) (i n : Nat) : State :=
  match who with
  | none => s
  | some (r, q) =>
    if n = 0 then s
    else { s with cmds := s.cmds.map fun c =>
      if c.ring == r && c.seq == q then { c with counts := c.counts.modify i (· + BitVec.ofNat 64 n) } else c }

end Sys2Proof.Machine
end

