-- ==== Sys2Proof/Machine/Memory.lean ====
section
/-! DEFINITION. The local physical map (10 R186-R190), regions and bands (10 R191-R198), the Lake (10 R201-R204), quotas (10 R208),
ownership (11 R232-R233). -/

namespace Sys2Proof.Machine

/-- What lies at a local physical address (10 R186). -/
inductive Place where
  | hbm (region : Nat)
  | tierB (u : Nat)
  | cxl (p : Nat)
  | mmio
  | device
  | hole
deriving DecidableEq, Repr

def placeOf (a : Nat) : Place :=
  if a < 768 * 2 ^ 30 then .hbm (a / 2 ^ 30)
  else if 0x010000000000 ≤ a && a < 0x020000000000 then .tierB 0
  else if 0x020000000000 ≤ a && a < 0x030000000000 then .tierB 1
  else if 0x080000000000 ≤ a && a < 0x090000000000 then .cxl ((a - 0x080000000000) / 2 ^ 38)
  else if 0x0E0000000000 ≤ a && a < 0x0F0000000000 then .mmio
  else if 0x0F0000000000 ≤ a && a < 0x100000000000 then .device
  else .hole

/-- Member m of region r when start-up forms all 768 regions as PKG in increasing number (10 R194): package channel and band. -/
def shippedMember (r m : Nat) : Nat × Nat :=
  let key := (16 * r + m / 4) % 96
  (32 * (3 * (m % 4) + key % 3) + key / 3, r / 6)

/-- A region of the shipped map. -/
def regionDflt (r : Nat) : Region :=
  { kind := 2, die := 0, formed := true, retiring := false, members := (List.range 64).map (shippedMember r) }

def State.region (s : State) (r : Nat) : Region := tabGet regionDflt s.hbm.regions r
def State.setRegion (s : State) (r : Nat) (x : Region) : State :=
  { s with hbm := { s.hbm with regions := tabSet regionDflt s.hbm.regions r x } }

def bandDflt (_ : Nat) : BandState := .used
def State.band (s : State) (c b : Nat) : BandState := tabGet bandDflt s.hbm.bands (128 * c + b)
def State.setBand (s : State) (c b : Nat) (x : BandState) : State :=
  { s with hbm := { s.hbm with bands := tabSet bandDflt s.hbm.bands (128 * c + b) x } }

def chanDflt (_ : Nat) : Channel := Channel.reset
def State.chan (s : State) (c : Nat) : Channel := tabGet chanDflt s.hbm.chans c
def State.setChan (s : State) (c : Nat) (x : Channel) : State :=
  { s with hbm := { s.hbm with chans := tabSet chanDflt s.hbm.chans c x } }

/-- Bytes of one half of tier B (10 R188). -/
def State.tierBytes (s : State) : Nat :=
  match s.flash.tierB with
  | none => 0
  | some c => 16 * (8 * 2 ^ c.toNat) * 2 ^ 30

/-- The device-register range lies in the BARs of 13 R260. -/
def inBar (a : Nat) : Bool :=
  (ochreBar 0 ≤ a && a < ochreBar 4) || (umberBar 0 ≤ a && a < umberBar 2) || (bellBar 0 ≤ a && a < bellBar 4)

/-- The root port in PCIe mode that has a memory window at an address (10 R187, 13 R434). -/
def State.portOf (s : State) (a : Nat) : Option Nat :=
  (List.range 4).find? fun p => !(s.root p).cxl && (s.root p).windows.any fun w => w.1 ≤ a && a ≤ w.2

/-- An address that is not unmapped (10 R187). -/
def State.mapped (s : State) (a : Nat) : Bool :=
  match placeOf a with
  | .hbm r => (s.region r).formed
  | .tierB u => (if u = 0 then s.tierB0 else s.tierB1) && a % 2 ^ 40 < s.tierBytes
  | .cxl p => (s.root p).cxl && a % 2 ^ 38 < (s.root p).hdm
  | .mmio => (s.portOf a).isSome
  | .device => inBar a
  | .hole => false

/-- Memory proper: HBM, tier B and the CXL window (12 R236). -/
def isMemory (a : Nat) : Bool :=
  match placeOf a with
  | .hbm _ | .tierB _ | .cxl _ => true
  | _ => false

/-- Every granule of a span, from its first byte to its last. -/
def granulesOf (a n : Nat) : List Nat :=
  (List.range ((a + n - 1) / 2 ^ 21 + 1 - a / 2 ^ 21)).map fun i => a / 2 ^ 21 + i

/-- Every piece of a span that lies within one granule, so that one address of each decides what is mapped. -/
def State.spanMapped (s : State) (a n : Nat) : Bool :=
  s.mapped a && s.mapped (a + n - 1) && (granulesOf a n).all fun g => s.mapped (max a (g * 2 ^ 21))

def ownDflt (_ : Nat) : Own := { owner := 0, kslot := 0, mode := 0 }
def State.owner (s : State) (granule : Nat) : Own := tabGet ownDflt s.own granule
def State.setOwner (s : State) (granule : Nat) (o : Own) : State := { s with own := tabSet ownDflt s.own granule o }

/-- The granules that an ownership table covers: HBM and tier B (11 R232). -/
def hasOwner (a : Nat) : Bool :=
  match placeOf a with
  | .hbm _ | .tierB _ => true
  | _ => false

/-- What the mode of an entry allows (11 R233). -/
def Own.allows (o : Own) (cid : Cid) (write : Bool) : Bool :=
  o.owner == cid || (if cid = 0 then o.mode == 1 || o.mode == 2 else o.mode == 2 && !write)

/-- The ownership check of memory; the CXL window has none (10 R189, 11 R232, R233). -/
def State.ownOk (s : State) (cid : Cid) (write : Bool) (a n : Nat) : Bool :=
  !hasOwner a || (granulesOf a n).all fun g => (s.owner g).allows cid write

/-- A granule of the address is in a RETIRING region (10 R212). -/
def State.retiring (s : State) (a : Nat) : Bool :=
  match placeOf a with
  | .hbm r => (s.region r).retiring
  | _ => false

/-- Writes that cover a whole word clear its broken code word (18 R364). -/
def State.clearBroken (s : State) (a n : Nat) : State :=
  if s.hbm.broken.isEmpty then s
  else
    let kept : Nat → Bool := fun w => !(a ≤ w * 32 && w * 32 + 32 ≤ a + n)
    { s with hbm := { s.hbm with broken := s.hbm.broken.filter kept, ueTyp := s.hbm.ueTyp.filter fun p => kept p.1,
                                 scrubbed := s.hbm.scrubbed.filter fun p => kept p.1 } }

/-! ### Where a byte of HBM lies -/

/-- Member and byte in band of offset o of a region (10 R195). -/
def hbmDecode (near : Bool) (o : Nat) : Nat × Nat :=
  if near then
    let q := o / 2 ^ 8
    ((q ^^^ (q / 2 ^ 6) ^^^ (q / 2 ^ 12) ^^^ (q / 2 ^ 18)) % 64, q / 2 ^ 6 * 2 ^ 8 + o % 2 ^ 8)
  else
    let b := o / 2 ^ 12
    ((b ^^^ (b / 2 ^ 6) ^^^ (b / 2 ^ 12)) % 64, b / 2 ^ 6 * 2 ^ 12 + o % 2 ^ 12)

/-- Package channel, band and byte in band of an HBM address. -/
def State.hbmPlace (s : State) (a : Nat) : Nat × Nat × Nat :=
  let r := s.region (a / 2 ^ 30)
  let (m, t) := hbmDecode (r.kind = 1) (a % 2 ^ 30)
  let (c, b) := r.members.getD m (0, 0)
  (c, b, t)

/-- Stack-local line number (10 R191). -/
def stackLine (c b t : Nat) : Nat := c % 32 * 2 ^ 24 + b * 2 ^ 17 + t / 128

/-- Set and tag of a line of the Lake (10 R202). -/
def lakeSet (q : Nat) : Nat := 16384 * (q % 3) + (q ^^^ (q / 2 ^ 14 % 2 ^ 14) ^^^ (q / 2 ^ 28 * 2 ^ 13)) % 2 ^ 14
def lakeTag (q : Nat) : Nat := q / 2 ^ 14

/-- The shift register's next value (10 R203). -/
def lakeNext (r : BitVec 16) : BitVec 16 :=
  let v := r.toNat
  let b := (v ^^^ (v / 4) ^^^ (v / 8) ^^^ (v / 32)) % 2
  BitVec.ofNat 16 (v / 2 + b * 2 ^ 15)

def lfsrDflt (_ : Nat) : BitVec 16 := 0xACE1
def waysDflt (_ : Nat) : BitVec 4 := 0xF
def cleanDflt (_ : Nat) : BitVec 4 := 0
/-- An invalid line; lines are listed only while valid. -/
def lineDflt (_ : Nat) : LakeLine := { tag := 2 ^ 32, dirty := false }

/-- Key of way w of a set of slice s in the table of lines. -/
def lakeKey (slice set way : Nat) : Nat := 2 ^ 20 * slice + 16 * set + way

/-- Powered ways in increasing order; a group that is powering down takes no fill (10 R204). -/
def State.fillWays (s : State) (slice : Nat) : List Nat :=
  (List.range 16).filter fun w =>
    bitOf (tabGet waysDflt s.hbm.ways slice).toNat (w / 4) && !bitOf (tabGet cleanDflt s.hbm.cleaning slice).toNat (w / 4)

def State.lakeLine (s : State) (k : Nat) : LakeLine := tabGet lineDflt s.hbm.lake k
def State.setLakeLine (s : State) (k : Nat) (l : LakeLine) : State :=
  { s with hbm := { s.hbm with lake := tabSet lineDflt s.hbm.lake k l } }

/-- The way of a slice that holds a line, by the line's set and tag (10 R202). -/
def State.lakeWay (s : State) (slice q : Nat) : Option Nat :=
  (List.range 16).find? fun w => (s.lakeLine (lakeKey slice (lakeSet q) w)).tag == lakeTag q

/-- Where an access to a line found it: a hit, or a miss with the bytes it moved at the core dies (10 R201, R203; 20 R387). -/
structure LakeSeen where
  hit  : Bool
  core : Nat

/-- One access to n bytes of a line in the Lake (10 R201, R203, R206): a hit marks a written line dirty; a miss that may allocate fills,
and writes back a dirty line that it replaces. -/
def State.lakeTouch (s : State) (a n : Nat) (write alloc : Bool) : State × LakeSeen :=
  let (c, b, t) := s.hbmPlace a
  let slice := c / 32
  let q := stackLine c b t
  let set := lakeSet q
  match s.lakeWay slice q with
  | some w =>
    (if write then s.setLakeLine (lakeKey slice set w) { tag := lakeTag q, dirty := true } else s, { hit := true, core := 0 })
  | none =>
    if !alloc then (s, { hit := false, core := n })
    else
      let r := lakeNext (tabGet lfsrDflt s.hbm.lfsr slice)
      let ws := s.fillWays slice
      let w := match ws.find? fun w => (s.lakeLine (lakeKey slice set w)).tag == 2 ^ 32 with
        | some w => w
        | none => ws.getD (r.toNat % 16 % ws.length) 0
      let old := s.lakeLine (lakeKey slice set w)
      let s := { s with hbm := { s.hbm with lfsr := tabSet lfsrDflt s.hbm.lfsr slice r } }
      (s.setLakeLine (lakeKey slice set w) { tag := lakeTag q, dirty := write },
       { hit := false, core := (if write && n = 128 then 0 else 128) + if old.dirty then 128 else 0 })

/-- Addresses of the 128-byte lines of a span. -/
def linesOf (a n : Nat) : List Nat :=
  if n = 0 then [] else (List.range ((a + n - 1) / 128 + 1 - a / 128)).map fun i => (a / 128 + i) * 128

/-- The Lake and the counters learn of an access to n bytes of one line of HBM (10 R201, 20 R387, R391). -/
def State.seeLine (s : State) (cid : Cid) (who : Option (Nat × Word)) (l n : Nat) (write alloc : Bool) : State :=
  let die := (s.hbmPlace l).1 / 96
  let (s, x) := s.lakeTouch l n write alloc
  let s := s.count die (if x.hit then 0x08 else 0x09) (some cid) 1
  ((s.count die 0x0A (some cid) x.core).tally who 5 x.core).tally who 6 x.hit.toNat

/-- The Lake and the counters learn of an access to memory by a command or by none: only a whole line of 128 bytes allocates, and
only without the no-allocate hint (10 R201, 20 R387, R391). -/
def State.seeAccess (s : State) (cid : Cid) (who : Option (Nat × Word)) (a n : Nat) (write noAlloc : Bool) : State :=
  match placeOf a with
  | .hbm _ =>
    (linesOf a n).foldl (fun s l =>
      let k := min (a + n) (l + 128) - max a l
      s.seeLine cid who l k write (!noAlloc && k = 128)) s
  | .tierB u => s.count (4 + u) 0x24 (some cid) n
  | _ => s

/-- The near-atomic unit acts on the line in the Lake and allocates it whatever the hint (10 R206). -/
def State.seeAtomic (s : State) (cid : Cid) (who : Option (Nat × Word)) (a n : Nat) : State :=
  match placeOf a with
  | .hbm _ => s.seeLine cid who (a / 128 * 128) n true true
  | _ => s.seeAccess cid who a n true false

/-! ### Uncorrectable words -/

/-- A line that no cache holds. -/
def dirDflt (_ : Nat) : DirEntry := { owner := none, modified := false, sharers := [] }

def State.dirEntry (s : State) (line : Nat) : DirEntry := tabGet dirDflt s.coh.dir line

/-- Two failed lanes of a pseudo-channel, of its lanes 0-31 or 32-63, that no spare replaces: it reads uncorrectable (10 R211; log 48). -/
def Channel.deadPseudo (x : Channel) (p : Nat) : Bool := 2 ≤ (x.failed.filter fun l => l / 32 % 2 = p).length
def Channel.dead (x : Channel) : Bool := x.deadPseudo 0 || x.deadPseudo 1

/-- A 32-byte word reads uncorrectable from the core dies of a dead pseudo-channel; one in the Lake is served there (10 R201, R211). -/
def State.deadWord (s : State) (w : Nat) : Bool :=
  match placeOf (32 * w) with
  | .hbm _ =>
    let (c, b, t) := s.hbmPlace (32 * w)
    (s.chan c).dead && (s.chan c).deadPseudo (Config.pseudoOf (b * 2 ^ 19 + t / 32) % 2) && (s.lakeWay (c / 32) (stackLine c b t)).isNone
  | _ => false

/-- The 32-byte words of a span. -/
def wordsOf (a n : Nat) : List Nat := if n = 0 then [] else (List.range ((a + n - 1) / 32 + 1 - a / 32)).map fun i => a / 32 + i

/-- A cache that has the line modified serves a word of it, whatever memory holds, but for a word that is broken in that cache (10 R211, 12
R254, 18 R364). -/
def State.servedWord (s : State) (w : Nat) : Bool :=
  (s.dirEntry (w / 4)).modified && tabFind s.hbm.ueTyp w ≠ some 0x09

/-- Words of a span that read uncorrectable: broken code words (18 R364), and words of a dead pseudo-channel (10 R211). -/
def State.badWords (s : State) (a n : Nat) : List Nat :=
  (s.hbm.broken.filter fun w => w * 32 < a + n && a < w * 32 + 32 && !s.servedWord w) ++
  (if s.hbm.chans.any fun p => p.2.dead then
     (wordsOf a n).filter fun w => s.deadWord w && !s.hbm.broken.contains w && !s.servedWord w
   else [])

/-- A 32-byte word of the span reads uncorrectable. -/
def State.brokenIn (s : State) (a n : Nat) : Bool := !(s.badWords a n).isEmpty

/-- A write narrower than an uncorrectable word that it touches fails (18 R363). -/
def State.partWords (s : State) (a n : Nat) : List Nat := (s.badWords a n).filter fun w => !(a ≤ w * 32 && w * 32 + 32 ≤ a + n)
def State.partlyBroken (s : State) (a n : Nat) : Bool := !(s.partWords a n).isEmpty

/-! ### Quotas -/

/-- Partition of a CID: the lowest-numbered entry that names it, else 0 (10 R208, 21 R413). -/
def State.partitionOf (s : State) (cid : Cid) : Nat :=
  ((List.range 16).find? fun p =>
    let v := (s.reg (umberBar 0 + 0xA100 + 4 * p)).toNat
    v % 2 ^ 16 ≤ cid.toNat && cid.toNat < v % 2 ^ 16 + v / 2 ^ 16).getD 0

/-- FJ1-compatible mode is in force (10 R207). -/
def State.fj1 (s : State) : Bool := bitOf (s.reg (umberBar 0 + 0xA000)).toNat 0

def quotaDflt (_ : Nat) : Nat := 0

/-- The aligned 256-byte blocks of a span, as address and length: each lies on one stack and takes one path (10 R195, 01 R13). -/
def blocksOf (a n : Nat) : List (Nat × Nat) := alignedPieces 256 a n

/-- Bytes of a span on stack st (10 R208). -/
def State.stackBytes (s : State) (a n st : Nat) : Nat :=
  (blocksOf a n).foldl (fun k b => if (s.hbmPlace b.1).1 / 32 = st then k + b.2 else k) 0

/-- Bytes per package tick that partition and stack k = 12·p + s may move, 0 for no limit (10 R208). -/
def State.quotaLimit (s : State) (k : Nat) : Nat := 32 * ((s.reg (umberBar 0 + 0xA200 + 4 * k)).toNat % 2 ^ 17)

/-- Bytes metered of partition and stack k that this tick has to bear. -/
def State.quotaUsed (s : State) (k : Nat) : Nat := tabGet quotaDflt s.hbm.quota k

/-- Whether a foreground access of n bytes passes the quota of its partition on every stack that it reaches in this tick (10 R208). DESIGN
CHOICE (log 75): one that moves more than a whole quota is admitted in a tick in which nothing of its partition has been, and what it moves
beyond the quota is borne by the ticks that follow. -/
def State.quotaOk (s : State) (cid : Cid) (a n : Nat) : Bool :=
  match placeOf a with
  | .hbm _ =>
    !s.fj1 ||
    (List.range 12).all fun st =>
      let k := 12 * s.partitionOf cid + st
      s.quotaLimit k = 0 || s.stackBytes a n st = 0 || s.quotaUsed k = 0 || s.quotaUsed k + s.stackBytes a n st ≤ s.quotaLimit k
  | _ => true

/-- A package tick begins: each partition may move its quota anew, less what it has moved beyond (10 R208; log 75). -/
def State.quotaTick (s : State) : State :=
  { s with hbm := { s.hbm with quota := tabMap quotaDflt s.hbm.quota fun k v => v - s.quotaLimit k } }

/-- Count an admitted access on every stack that it reaches (10 R208). -/
def State.quotaUse (s : State) (cid : Cid) (a n : Nat) : State :=
  match placeOf a with
  | .hbm _ =>
    if s.fj1 then
      (List.range 12).foldl (fun s st =>
        let k := 12 * s.partitionOf cid + st
        { s with hbm := { s.hbm with quota := tabSet quotaDflt s.hbm.quota k (tabGet quotaDflt s.hbm.quota k + s.stackBytes a n st) } }) s
    else s
  | _ => s

/-- The bytes that an access touches. -/
def accBytes : IoAccess → Nat
  | .read n => n
  | .write bs => bs.length
  | .atomic _ d _ _ => if d then 8 else 4

def accWrites : IoAccess → Bool
  | .read _ => false
  | _ => true

/-- Two spans share a byte. -/
def spansMeet (a n b m : Nat) : Bool := a < b + m && b < a + n

/-- A request for some of the bytes is held at its home (10 R206), or waits for its home after it has come from another package. -/
def State.heldOver (s : State) (a n : Nat) : Bool := s.hbm.quotaHeld.any fun h => spansMeet h.2.1 (accBytes h.2.2.2) a n
def State.waitsOver (s : State) (a n : Nat) : Bool :=
  s.fab.waiting.any fun w => w.2.2.any fun acc => spansMeet w.2.1.addr.toNat (accBytes acc) a n

end Sys2Proof.Machine
end

