-- ==== Sys2Proof/Machine/Paths.lean ====
section
/-! DEFINITION. The paths between dies (01 R12-R14, 15 R322, R323) and the way of an access to memory. Dies are 0-3 for O0-O3, 4 and 5 for
U0 and U1. -/

namespace Sys2Proof.Machine

/-- The two dies that a link joins (01 R12, 15 R326). -/
def linkEnds (l : Nat) : Nat × Nat :=
  match l with
  | 0 => (0, 1)
  | 1 => (1, 3)
  | 2 => (3, 2)
  | 3 => (2, 0)
  | _ => (l - 4, 4 + (l - 4) / 2)

/-- The other end of a link, when the die is one of its ends. -/
def otherEnd (l die : Nat) : Option Nat :=
  if (linkEnds l).1 = die then some (linkEnds l).2 else if (linkEnds l).2 = die then some (linkEnds l).1 else none

/-- Lane groups of a link (15 R316), and the least width it keeps in service (15 R321). -/
def linkGroups (l : Nat) : Nat := if l < 4 then 12 else 6
def leastGroups (l : Nat) : Nat := if l < 4 then 4 else 2

/-- Number of bits set. -/
def popcount (w v : Nat) : Nat := (List.range w).foldl (fun n i => n + (bitOf v i).toNat) 0

/-- Parity of physical address bits [19:8] (01 R13). -/
def pathParity (pa : Nat) : Bool := popcount 12 (pa / 256) % 2 = 1

/-- The path of R13 between two dies, by its links. -/
def basePath (src dst : Nat) (odd : Bool) : List Nat :=
  match src, dst with
  | 0, 1 => [0] | 1, 0 => [0] | 1, 3 => [1] | 3, 1 => [1] | 3, 2 => [2] | 2, 3 => [2] | 2, 0 => [3] | 0, 2 => [3]
  | 0, 3 => if odd then [3, 2] else [0, 1]
  | 3, 0 => if odd then [2, 3] else [1, 0]
  | 1, 2 => if odd then [1, 2] else [0, 3]
  | 2, 1 => if odd then [2, 1] else [3, 0]
  | 4, 0 => [4] | 0, 4 => [4] | 4, 1 => [5] | 1, 4 => [5] | 5, 2 => [6] | 2, 5 => [6] | 5, 3 => [7] | 3, 5 => [7]
  | 4, 2 => [4, 3] | 2, 4 => [3, 4] | 4, 3 => [5, 1] | 3, 4 => [1, 5]
  | 5, 0 => [6, 3] | 0, 5 => [3, 6] | 5, 1 => [7, 1] | 1, 5 => [1, 7]
  | 4, 5 => if odd then [5, 1, 7] else [4, 3, 6]
  | 5, 4 => if odd then [7, 1, 5] else [6, 3, 4]
  | _, _ => []

/-- Every path of n links that are not DOWN, in the order of R322. -/
def State.pathsOf (s : State) (dst : Nat) : Nat → Nat → List (List Nat)
  | 0, src => if src = dst then [[]] else []
  | n + 1, src => (List.range 8).flatMap fun l =>
      match otherEnd l src with
      | none => []
      | some o => if (s.link l).state = .down then [] else (State.pathsOf s dst n o).map (l :: ·)

/-- The path in force between two dies: that of R13, or the shortest over links that are not DOWN (15 R322). -/
def State.path (s : State) (src dst : Nat) (odd : Bool) : Option (List Nat) :=
  let p := basePath src dst odd
  if src = dst || p.all fun l => (s.link l).state ≠ .down then some p
  else
    match (List.range 5).find? fun n => !(s.pathsOf dst (n + 1) src).isEmpty with
    | none => none
    | some n =>
      let ps := s.pathsOf dst (n + 1) src
      some (if odd then ps.getD 1 (ps.getD 0 []) else ps.getD 0 [])

/-- Every link of a path carries traffic, and the sender holds no message toward the die (15 R319, R322). -/
def State.pathOpen (s : State) (src dst : Nat) (p : List Nat) : Bool :=
  (p.all fun l => (s.link l).state = .up) && !s.links.held.contains (src, dst)

/-- Whether some path joins an Ochre die to an Umber die (15 R323). -/
def State.joined (s : State) (d : Nat) : Bool := (s.path d 4 false).isSome || (s.path d 5 false).isSome

/-- Whether the path to a target carries a request now (15 R319, R322, R323). -/
inductive Way where
  | clear | stall | cut
deriving DecidableEq, Repr

def State.way (s : State) (src dst a : Nat) : Way :=
  if src = dst then .clear
  else match s.path src dst (pathParity a) with
    | none => .cut
    | some p => if s.pathOpen src dst p then .clear else .stall

/-- The worst of several ways: one that is cut off cuts an access off, else one that stalls stalls it. -/
def worstWay (ws : List Way) : Way := if ws.contains .cut then .cut else if ws.contains .stall then .stall else .clear

/-- The ways of the aligned 256-byte blocks of a span between two dies (01 R13, R14). -/
def State.spanWay (s : State) (src dst a n : Nat) : Way := worstWay ((blocksOf a n).map fun b => s.way src dst b.1)

/-- Bytes sent over the links of a path, counted at each Ochre die that sends them over a side link (15 R317, 20 R387). -/
def State.countLinks (s : State) (src : Nat) (cid : Cid) (bytes : Nat) : List Nat → State
  | [] => s
  | l :: ls => State.countLinks (if l < 4 then s.count src 0x0E (some cid) bytes else s) ((otherEnd l src).getD src) cid bytes ls
def State.sendOver (s : State) (src dst a : Nat) (cid : Cid) (bytes : Nat) : State :=
  match s.path src dst (pathParity a) with
  | some p => s.countLinks src cid bytes p
  | none => s

/-- The messages of an access between two dies, line by line: a request and a response with a header of 16 bytes each, and the data, of 128
bytes in a response (15 R317; log 38). -/
def State.countLines (s : State) (src dst a n : Nat) (cid : Cid) (write : Bool) : State :=
  if src = dst then s
  else (alignedPieces 128 a n).foldl (fun s p =>
    if write then (s.sendOver src dst p.1 cid (16 + p.2)).sendOver dst src p.1 cid 16
    else (s.sendOver src dst p.1 cid 16).sendOver dst src p.1 cid 144) s

/-- The die at which a memory address is reached (01 R13). -/
def State.memDie (s : State) (a : Nat) : Nat :=
  match placeOf a with
  | .hbm _ => (s.hbmPlace a).1 / 96
  | .tierB u => 4 + u
  | .cxl p => 4 + p / 2
  | _ => 0

/-- The ways of the aligned 256-byte blocks of a span of memory, each by its own die and address bits (01 R13, R14). -/
def State.memWays (s : State) (src a n : Nat) : Way := worstWay ((blocksOf a n).map fun b => s.way src (s.memDie b.1) b.1)

end Sys2Proof.Machine
end

