-- ==== Sys2Proof/Machine/Caches.lean ====
section
/-! DEFINITION. Cached copies of lines (12 R254-R257) and accesses performed in memory (10 R201, R206, R208, 12 R240). -/

namespace Sys2Proof.Machine

/-! ### Cached copies -/

def State.onCoh (s : State) (f : Coherence → Coherence) : State := { s with coh := f s.coh }
def State.setDir (s : State) (line : Nat) (e : DirEntry) : State :=
  s.onCoh fun c => { c with dir := tabSet dirDflt c.dir line e }

/-- The CID for which a cache reads and writes back lines: that of the cell's item, or 0 (10 R208; log 62). -/
def State.holderCid (s : State) (h : Holder) : Cid :=
  match h with
  | .dcache g => match (s.cell g).job with
    | some j => j.cid
    | none => (s.cell g).lastCid.getD 0
  | _ => 0

/-- Die of a cache. -/
def holderDie : Holder → Nat
  | .l2 c => 4 + c.val / 48
  | .l3 u => 4 + u.val
  | .dcache g => g.val / 64

/-- A modified line is written back to memory: the quota, the Lake and the counters see it, and its words are correct there but for those
that were broken in the cache (10 R201, R208, 11 R217, 12 R254, 18 R364). -/
def State.writeBack (s : State) (h : Holder) (line : Nat) : State :=
  let cid := s.holderCid h
  let kept : Nat → Bool := fun w => w / 4 ≠ line || tabFind s.hbm.ueTyp w = some 0x09
  let a := 128 * line
  let t := ((s.quotaUse cid a 128).seeAccess cid none a 128 true (s.dirEntry line).noLake).countLines (holderDie h) (s.memDie a) a 128 cid true
  { t with hbm := { t.hbm with broken := t.hbm.broken.filter kept, scrubbed := t.hbm.scrubbed.filter fun p => kept p.1 } }

/-- The owner of a modified line writes it back; a clean line is left as it is. -/
def State.cleanLine (s : State) (line : Nat) : State :=
  let e := s.dirEntry line
  match e.owner with
  | some h => if e.modified then s.writeBack h line else s
  | none => s

/-- Every cached copy of a line is removed, a modified one written back first; holds and reservations on it end (12 R240, R254, R256; log 61). -/
def State.dropLine (s : State) (line : Nat) : State :=
  let s := s.cleanLine line
  s.onCoh fun c => { c with dir := tabErase c.dir line, holds := c.holds.filter fun h => h.1 != line,
                            resv := c.resv.filter fun r => r.2.1 / 128 != line }

/-- Every cached copy of the lines of a span is removed before a write is performed (12 R240). -/
def State.dropCopies (s : State) (a n : Nat) : State :=
  (s.coh.dir.filter fun p => a / 128 ≤ p.1 && p.1 ≤ (a + n - 1) / 128).foldl (fun s p => s.dropLine p.1) s

/-- No transaction on a line of the span, no token of another requester and no hold of a copy that the access needs makes it wait (12
R255-R257); h is the cache through which it is made, whose own token lets it go ahead. -/
def State.quiet (s : State) (a n : Nat) (write : Bool) (h : Option Holder) : Bool :=
  (s.coh.busy.isEmpty && s.coh.tokens.isEmpty && s.coh.holds.isEmpty) ||
  (linesOf a n).all fun l =>
    (s.coh.busy.all fun b => b.1 != l / 128) && ((s.coh.tokens.all fun t => t.1 != l / 128) || s.coh.tokens.any fun t => t.1 == l / 128 && h == some t.2.1) &&
    s.coh.holds.all fun x => x.1 != l / 128 || h == some x.2 || !(write || (s.dirEntry x.1).owner == some x.2)

/-! ### Performing an access at a local physical address -/

/-- A read of memory for a command or for none: its bytes, with the Lake, the counters and the quota told. -/
def State.memRead (s : State) (cid : Cid) (a n : Nat) (noAlloc : Bool) (who : Option (Nat × Word) := none) : State × List Byte :=
  ((s.quotaUse cid a n).seeAccess cid who a n false noAlloc, s.readBytes a n)

/-- Reservations on a line of the span end (12 R256; log 15). -/
def State.endReservations (s : State) (a n : Nat) : State :=
  if s.coh.resv.isEmpty then s
  else { s with coh := { s.coh with resv := s.coh.resv.filter fun r => !(a / 128 ≤ r.2.1 / 128 && r.2.1 / 128 ≤ (a + n - 1) / 128) } }

/-- A write of memory outside every quota: for a command or for none, or of the background categories of 10 R207. -/
def State.bgWrite (s : State) (cid : Cid) (a : Nat) (bs : List Byte) (noAlloc : Bool) (who : Option (Nat × Word) := none) : State :=
  let n := bs.length
  (((((s.dropCopies a n).seeAccess cid who a n true noAlloc).clearBroken a n).endReservations a n).writeBytes a bs)

/-- A write of memory for a command or for none. -/
def State.memWrite (s : State) (cid : Cid) (a : Nat) (bs : List Byte) (noAlloc : Bool) (who : Option (Nat × Word) := none) : State :=
  (s.quotaUse cid a bs.length).bgWrite cid a bs noAlloc who

/-- A die's own write of a record to memory can be made: every path carries it, and no transaction or hold of a line makes it wait (01 R13,
12 R256, R257). -/
def State.recordWay (s : State) (die a n : Nat) : Bool := s.memWays die a n = .clear && s.quiet a n true none

/-- A die's own write of a record (18 R367, 20 R392), in the background categories of 10 R207. -/
def State.recordWrite (s : State) (die a : Nat) (bs : List Byte) : State :=
  (s.bgWrite 0 a bs false).countLines die (s.memDie a) a bs.length 0 true

end Sys2Proof.Machine
end

