-- ==== Sys2Proof/Machine/Records.lean ====
section
/-! DEFINITION. Interrupts (13 R261), error records (18 R367, R368), service requests (18 R370), degrade generations (18 R372) and
global trace records (20 R392). -/

namespace Sys2Proof.Machine

/-- An MSI-X vector of die 0-5 is delivered to the host cores (13 R261). -/
def State.raise (s : State) (die vector : Nat) : State := { s with irqs := s.irqs ++ [(die, vector)] }

/-- The phase bit of sequence q in a ring of 2^log2 records (13 R276). -/
def phaseBit (q log2 : Nat) : Bool := q / 2 ^ log2 % 2 = 0

/-- COMMIT byte (13 R276). -/
def commitByte (q log2 : Nat) : Byte := if phaseBit q log2 then 0x80 else 0x00

/-! ### Error log -/

def sevCode : Severity → Nat
  | .corrected => 0
  | .contained => 1
  | .fatal => 2
  | .event => 3

/-- The log of a record's die number: a base die writes into its Ochre die's log (18 R367). -/
def logOfDie (die : Nat) : Nat := if die < 6 then die else if 0x10 ≤ die && die < 0x1C then (die - 0x10) / 3 else 0

/-- Log registers of die 0-5 (18 R368). -/
def State.errLog2 (s : State) (die : Nat) : Nat := bitsOf (s.reg64 (dieBar die + 0x2000)).toNat 47 44
def State.errBase (s : State) (die : Nat) : Nat := bitsOf (s.reg64 (dieBar die + 0x2000)).toNat 43 6 * 64
def State.errEn (s : State) (die : Nat) : Bool := bitOf (s.reg (dieBar die + 0x2008)).toNat 0
def State.errHead (s : State) (die : Nat) : Word := s.reg (dieBar die + 0x200C)
def State.errFull (s : State) (die : Nat) : Bool :=
  ((s.log die).errTail - s.errHead die).toNat = 2 ^ s.errLog2 die

/-- The 64 bytes of an error record of sequence q (18 R367). -/
def ErrRec.bytes (r : ErrRec) (q log2 : Nat) : List Byte :=
  leBytes 2 r.e.typ.toNat ++ leBytes 1 (sevCode r.e.sev) ++ leBytes 1 r.die ++ leBytes 4 r.e.inst.toNat ++
  leBytes 8 r.e.addr.toNat ++ leBytes 2 r.e.cid.toNat ++ leBytes 2 r.e.owner.toNat ++ leBytes 4 r.count.toNat ++
  leBytes 8 r.first.toNat ++ leBytes 8 r.last.toNat ++ leBytes 2 r.e.layer.toNat ++ leBytes 2 0 ++
  leBytes 4 r.e.operator.toNat ++ leBytes 8 r.e.detail.toNat ++ leBytes 4 q ++ leBytes 3 0 ++ [commitByte q log2]

/-- Service requests: REASON bit and the request bits it raises (18 R370). -/
def State.request (s : State) (reason : Nat) (soon replace : Bool) : State :=
  { s with svc := s.svc ||| BitVec.ofNat 32 (2 ^ reason + soon.toNat + 2 * replace.toNat) }

/-- Nanoseconds in 24 h (18 R364, R369, R370). -/
def dayNs : Nat := 86400000000000

/-- Where the next record of the log of die d goes, and whether it lies in memory that CID 0 may write (18 R367). -/
def State.errSlot (s : State) (d : Nat) : Nat := s.errBase d + 64 * ((s.log d).errTail.toNat % 2 ^ s.errLog2 d)
def State.ownSlot (s : State) (a n : Nat) : Bool := s.spanMapped a n && s.ownOk 0 true a n

/-- The log of die d takes a record now: no path or line makes its write wait (01 R13, 12 R256). -/
def State.errReady (s : State) (d : Nat) : Bool := !s.ownSlot (s.errSlot d) 64 || s.recordWay d (s.errSlot d) 64

/-- Store a record in the log of die d and signal it (18 R367); a die's 1,001st corrected record within 24 h asks for service (18 R370). -/
def State.storeErr (s : State) (d : Nat) (r : ErrRec) : State :=
  let l := s.log d
  let q := l.errTail.toNat
  let n := s.errLog2 d
  let a := s.errSlot d
  let s := if s.ownSlot a 64 then s.recordWrite d a (r.bytes q n) else s
  let ce := if r.e.sev = .corrected then (s.time :: l.ceTimes).take 1001 else l.ceTimes
  let s := s.setLog d { s.log d with errTail := l.errTail + 1, ceTimes := ce }
  let s := if r.e.sev = .corrected && ce.length = 1001 && (s.time - ce.getD 1000 0).toNat < dayNs then s.request 24 true false else s
  s.raise d (if d < 4 then 257 else 1)

/-- Hold a record on die: at most 64, a further one is lost (18 R368). -/
def State.holdErr (s : State) (d : Nat) (r : ErrRec) : State :=
  let l := s.log d
  if l.held.length < 64 then s.setLog d { l with held := l.held ++ [r] }
  else if r.e.sev = .corrected then s.setLog d { l with ceDropped := BitVec.ofNat 16 (satAdd 16 l.ceDropped.toNat 1) }
  else s.setRegBit (dieBar d + 0x2014) 24

/-- Write a finished record: into the log when it is enabled, has room, can be reached and nothing is held before it; else held, or, for
a corrected one while the log is full, discarded and counted (18 R368). -/
def State.writeErr (s : State) (d : Nat) (r : ErrRec) : State :=
  let l := s.log d
  if !s.errEn d then s.holdErr d r
  else if s.errFull d then
    (if r.e.sev = .corrected then s.setLog d { l with ceDropped := BitVec.ofNat 16 (satAdd 16 l.ceDropped.toNat 1) }
     else s.holdErr d r)
  else if l.held.isEmpty && s.errReady d then s.storeErr d r else s.holdErr d r

/-- Whether a corrected event merges into an open record (18 R368). -/
def ErrRec.merges (r : ErrRec) (e : ErrorEvent) : Bool :=
  r.e.typ == e.typ && r.e.inst == e.inst && r.e.addr.toNat / 4096 == e.addr.toNat / 4096

/-- A FATAL error stops dispatch and takes every running host core to a machine check (18 R365). -/
def State.goFatal (s : State) : State :=
  let s := { s with fatal := true, svc := s.svc ||| (0x04000004 : Word) }
  (List.range 96).foldl (fun s c => if s.hostRuns c then s.setHost c ((s.host c).takes .machineCheck) else s) s

/-- A structure's error becomes a record of its die (18 R362, R367, R368); a FATAL one is held for the management controller in every case
(18 R365). -/
def State.logError (s : State) (die : Nat) (e : ErrorEvent) : State :=
  let d := logOfDie die
  let r : ErrRec := { e := e, die := die, count := 1, first := s.time, last := s.time }
  match e.sev with
  | .corrected =>
    let l := s.log d
    if l.opened.any fun o => o.merges e then
      s.setLog d { l with opened := l.opened.map fun o => if o.merges e then { o with count := o.count + 1, last := s.time } else o }
    else if l.opened.length < 16 then s.setLog d { l with opened := l.opened ++ [r] }
    else match l.opened with
      | [] => s
      | o :: os => (s.setLog d { l with opened := os ++ [r] }).writeErr d o
  | .fatal =>
    let s := s.goFatal.writeErr d r
    { s with fatalRecs := s.fatalRecs ++ [r] }
  | _ => s.writeErr d r

/-- A record of TYPE, severity, INSTANCE and DETAIL with no address and no requester. -/
def plainEvent (typ : BitVec 16) (sev : Severity) (inst detail : Nat) : ErrorEvent :=
  { typ := typ, sev := sev, inst := BitVec.ofNat 32 inst, addr := 0, cid := 0xFFFF, owner := 0xFFFF, layer := 0, operator := 0,
    detail := BitVec.ofNat 64 detail }

/-! ### Consumed uncorrectable data (18 R363) -/

/-- A dirty line of the Lake holds an address (10 R201). -/
def State.lakeDirty (s : State) (a : Nat) : Bool :=
  (match placeOf a with | .hbm _ => true | _ => false) &&
  let (c, b, t) := s.hbmPlace a
  let q := stackLine c b t
  (match s.lakeWay (c / 32) q with
   | some w => (s.lakeLine (lakeKey (c / 32) (lakeSet q) w)).dirty
   | none => false)

/-- TYPE of the record of uncorrectable data at an address: that of a cache while a dirty line of it holds the word, else of its memory
(18 R362, R364). -/
def State.ueType (s : State) (a : Nat) : BitVec 16 :=
  let own : BitVec 16 := match placeOf a with
    | .hbm _ => 0x01
    | .tierB _ => 0x04
    | _ => 0x0F
  match tabFind s.hbm.ueTyp (a / 32) with
  | some 0x02 => if s.lakeDirty a then 0x02 else own
  | some 0x09 => if (s.dirEntry (a / 128)).modified then 0x09 else own
  | _ => own

/-- LPDDR5X channel of a tier-B address of Umber die u (10 R188, 00 R5). -/
def tierbChannel (u a : Nat) : Nat :=
  let i := a % 2 ^ 40 / 256
  16 * u + (i ^^^ (i / 16) ^^^ (i / 256)) % 16

/-- INSTANCE of the record of uncorrectable data: its channel or root port (18 R367, 00 R5). -/
def State.ueInstance (s : State) (a : Nat) : Nat :=
  match placeOf a with
  | .hbm _ => (s.hbmPlace a).1
  | .tierB u => tierbChannel u a
  | .cxl p => p
  | _ => 0

/-- The die that finds uncorrectable data at an address (18 R367). -/
def State.ueDie (s : State) (a : Nat) : Nat :=
  match placeOf a with
  | .mmio => 4 + (s.portOf a).getD 0 / 2
  | _ => s.memDie a

/-- LAYER and OPERATOR of the command that consumes, or 0 (18 R367). -/
def State.tagsOf (s : State) (who : Option (Nat × Word)) : BitVec 16 × Word :=
  match who.bind fun w => s.cmd w.1 w.2 with
  | some c => (c.layer, c.operator)
  | none => (0, 0)

/-- The record of consumed uncorrectable data, for one 32-byte word (18 R363, R367). -/
def State.ueWord (s : State) (cid : Cid) (who : Option (Nat × Word)) (w : Nat) : State :=
  let a := 32 * w
  let tags := s.tagsOf who
  s.logError (s.ueDie a) { plainEvent (s.ueType a) .contained (s.ueInstance a) 0 with
    addr := BitVec.ofNat 64 a, cid := cid, owner := if hasOwner a then (s.owner (a / 2 ^ 21)).owner else 0xFFFF,
    layer := tags.1, operator := tags.2 }

/-- The word of the lowest address among several, the first that a consumer meets. -/
def leastOr (dflt : Nat) : List Nat → Nat
  | [] => dflt
  | w :: ws => ws.foldl min w

/-- One record for the consumer of a span that holds uncorrectable words (18 R363), and for a write that covers such a word only in
part. DESIGN CHOICE (log 71): the record names the word of the lowest address. -/
def State.ueRecord (s : State) (cid : Cid) (a n : Nat) (who : Option (Nat × Word)) : State :=
  s.ueWord cid who (leastOr (a / 32) (s.badWords a n))
def State.ueStore (s : State) (cid : Cid) (a n : Nat) (who : Option (Nat × Word)) : State :=
  s.ueWord cid who (leastOr (a / 32) (s.partWords a n))

/-! ### Trace -/

/-- The 32 bytes of a trace record of sequence q (20 R392). -/
def TraceRec.bytes (r : TraceRec) (die q log2 : Nat) : List Byte :=
  leBytes 4 q ++ leBytes 1 r.kind ++ leBytes 1 die ++ leBytes 2 r.layer.toNat ++ leBytes 4 r.operator.toNat ++
  leBytes 2 r.cid.toNat ++ leBytes 2 r.arg16.toNat ++ leBytes 8 r.time.toNat ++ leBytes 7 r.arg56.toNat ++ [commitByte q log2]

def State.trcLog2 (s : State) (die : Nat) : Nat := bitsOf (s.reg64 (dieBar die + 0x4000)).toNat 48 44
def State.trcBase (s : State) (die : Nat) : Nat := bitsOf (s.reg64 (dieBar die + 0x4000)).toNat 43 5 * 32
def State.trcOn (s : State) (die kind : Nat) : Bool :=
  let v := (s.reg (dieBar die + 0x4008)).toNat
  bitOf v 0 && bitOf v (3 + kind)

/-- Where the next record of the global ring of a die goes; it takes a record now when no path or line makes the write wait (20 R392, 01
R13, 12 R256). -/
def State.trcSlot (s : State) (die : Nat) : Nat := s.trcBase die + 32 * ((s.log die).trcSeq.toNat % 2 ^ s.trcLog2 die)
def State.trcReady (s : State) (die : Nat) : Bool := !s.ownSlot (s.trcSlot die) 32 || s.recordWay die (s.trcSlot die) 32

/-- Store a record in the global ring; it overwrites the oldest (20 R392). -/
def State.storeTrace (s : State) (die : Nat) (r : TraceRec) : State :=
  let q := (s.log die).trcSeq.toNat
  let n := s.trcLog2 die
  let a := s.trcSlot die
  let s := if s.ownSlot a 32 then s.recordWrite die a (r.bytes die q n) else s
  s.setLog die { s.log die with trcSeq := (s.log die).trcSeq + 1 }

/-- ACT_BUDGET.TRACE in force is 0: trace records find no budget (10 R207; log 2: other shares are timing). -/
def State.traceSpent (s : State) : Bool := (s.reg (umberBar 0 + 0xA014)).toNat % 128 = 0

/-- A LOST record is due to some ring of the die. -/
def DieLog.owes (l : DieLog) : Bool := l.trcLost ≠ 0 || !l.ctxLost.isEmpty

/-- One more record of a ring is discarded. -/
def DieLog.discard (l : DieLog) : Option (Cid × Nat × Nat) → DieLog
  | none => { l with trcLost := l.trcLost + 1 }
  | some k =>
    if l.ctxLost.any fun e => e.1 == k then { l with ctxLost := l.ctxLost.map fun e => if e.1 == k then (k, e.2 + 1) else e }
    else { l with ctxLost := l.ctxLost ++ [(k, 1)] }

/-- A record is held while the budget is spent or others wait; beyond 256 it is discarded and counted for its ring (20 R392-R394). -/
def State.holdTrace (s : State) (die : Nat) (r : TraceRec) : State :=
  let l := s.log die
  if l.trcHeld.length < 256 && !l.owes then s.setLog die { l with trcHeld := l.trcHeld ++ [r] }
  else s.setLog die { l.discard r.ctxRing with lost := BitVec.ofNat 16 (satAdd 16 l.lost.toNat 1) }

/-- Records of a die wait for the budget, or a LOST record is due. -/
def State.traceWaits (s : State) (die : Nat) : Bool :=
  let l := s.log die
  s.traceSpent || !l.trcHeld.isEmpty || l.owes

/-- An event for the global ring: stored, held or discarded (20 R392). -/
def State.traceGlobal (s : State) (die : Nat) (r : TraceRec) : State :=
  if !s.trcOn die r.kind then s
  else if s.traceWaits die || !s.trcReady die then s.holdTrace die r
  else s.storeTrace die r

/-- A trace record with no command concerned. -/
def State.traceOf (s : State) (kind : Nat) (arg56 : Nat) : TraceRec :=
  { kind := kind, layer := 0, operator := 0, cid := 0xFFFF, arg16 := 0, time := s.time, arg56 := BitVec.ofNat 56 arg56,
    ctxRing := none }

/-- A degrade event around a change of figures: GEN to odd, the change, GEN to even, the record, the trace (18 R372, 20 R392). -/
def State.degrade (s : State) (die inst detail : Nat) (f : State → State) : State :=
  let s := f { s with degradeGen := s.degradeGen + 1 }
  let s := { s with degradeGen := s.degradeGen + 1 }
  let s := s.logError die (plainEvent 0x26 .event inst detail)
  s.traceGlobal die (s.traceOf 8 s.degradeGen.toNat)

end Sys2Proof.Machine
end

