-- ==== Sys2Proof/Machine/Translate.lean ====
section
/-! DEFINITION. Contexts and ranges: the walk (11 R215-R219), the translation caches (11 R220), the outcome of a translated access
(11 R218, R227), fault records (11 R227). -/

namespace Sys2Proof.Machine

/-- What an access does: KIND of a fault record (11 R227). -/
inductive AccKind where
  | streamRead | streamWrite | coreLoad | coreStore | fetch | threadLoad | threadStore | dispatchRead | dispatchWrite
deriving DecidableEq, Repr

def AccKind.code : AccKind → Nat
  | .streamRead => 0
  | .streamWrite => 1
  | .coreLoad => 2
  | .coreStore => 3
  | .fetch => 4
  | .threadLoad => 5
  | .threadStore => 6
  | .dispatchRead => 7
  | .dispatchWrite => 9

def AccKind.isWrite : AccKind → Bool
  | .streamWrite | .coreStore | .threadStore | .dispatchWrite => true
  | _ => false

/-- Base of the context table in force (11 R215, 21 R410). -/
def State.ctxBase (s : State) : Nat := bitsOf (s.reg64 (umberBar 0 + 0x7000)).toNat 43 4 * 16

/-- What a walker's reads lead to: the reads themselves, as CID, address and length, and the outcome; a read of uncorrectable data is the last
one (11 R218, 18 R363). -/
abbrev Walked (α : Type) := List (Cid × Nat × Nat) × Except Status α

/-- The walker's read of word 0 of a context: from the sealed copy, or from the context-table entry under CID 0 (11 R215, R218, 17 R356). -/
def State.contextRead (s : State) (cid : Cid) : Walked Nat :=
  if s.sealedCid cid then ([], .ok (s.ctx cid).word0.toNat)
  else
    let a := s.ctxBase + 16 * cid.toNat
    if !s.mapped a then ([], .error stRange)
    else if !s.ownOk 0 false a 16 then ([], .error stAccess)
    else
      ([(0, a, 16)],
       if s.brokenIn a 16 then .error stMemUe
       else
         let w := s.readNat a 8
         if w % 32 ≠ 0 || s.readNat (a + 8) 8 ≠ 0 then .error stFormat else .ok w)
def State.contextWord (s : State) (cid : Cid) : Except Status Nat := (s.contextRead cid).2

/-- The fields of a range entry read from memory (11 R217). -/
def rangeEntry (cid : Cid) (bs : List Byte) : XEntry :=
  let f := field bs 24 8
  { cid := cid, start := field bs 0 8, length := field bs 8 8, pbase := field bs 16 8, r := bitOf f 0, w := bitOf f 1,
    x := bitOf f 2, mig := bitOf f 3, nolake := bitOf f 4 }

/-- A range entry that breaks R217, or whose START lies below one read before it at a lower index (11 R218). -/
def rangeMalformed (bs : List Byte) (e : XEntry) (below : Nat) : Bool :=
  field bs 24 8 ≥ 32 || e.start % 2 ^ 16 ≠ 0 || e.length % 2 ^ 16 ≠ 0 || e.length = 0 || e.start + e.length > 2 ^ 64 ||
  e.pbase % 2 ^ 16 ≠ 0 || e.start < below

/-- Bisection over the entries lo to hi − 1 (11 R218; log 17): the last entry read whose START does not exceed VA. -/
def State.bisect (s : State) (cid : Cid) (base va : Nat) : Nat → Nat → Nat → Nat → Option XEntry → Walked (Option XEntry)
  | 0, _, _, _, best => ([], .ok best)
  | n + 1, lo, hi, below, best =>
    if hi ≤ lo then ([], .ok best)
    else
      let mid := (lo + hi) / 2
      let a := base + 32 * mid
      if !s.mapped a then ([], .error stRange)
      else if !s.ownOk cid false a 32 then ([], .error stAccess)
      else
        let bs := s.readBytes a 32
        let e := rangeEntry cid bs
        let r : Walked (Option XEntry) :=
          if s.brokenIn a 32 then ([], .error stMemUe)
          else if rangeMalformed bs e below then ([], .error stFormat)
          else if e.start ≤ va then s.bisect cid base va n (mid + 1) hi e.start (some e)
          else s.bisect cid base va n lo mid below best
        ((cid, a, 32) :: r.1, r.2)

def XEntry.covers (e : XEntry) (cid : Cid) (va : Nat) : Bool := e.cid == cid && e.start ≤ va && va < e.start + e.length

/-- Base of the cell-memory window of a control core, whose addresses are never translated (05 R89, 11 R218). -/
def cellWindow : Nat := 0xFFFFFFFFFFE00000

/-- A walk of the range table of a context, with its reads; no range maps the cell-memory window (11 R218, 05 R89). -/
def State.walkOf (s : State) (cid : Cid) (va : Nat) : Walked XEntry :=
  if cellWindow ≤ va then ([], .error stRange)
  else match s.contextRead cid with
  | (rs, .error st) => (rs, .error st)
  | (rs, .ok w) =>
    let t := s.bisect cid (bitsOf w 43 5 * 32) va 21 0 (bitsOf w 63 44) 0 none
    (rs ++ t.1,
     match t.2 with
     | .error st => .error st
     | .ok (some e) => if e.covers cid va then .ok e else .error stRange
     | .ok none => .error stRange)
def State.walk (s : State) (cid : Cid) (va : Nat) : Except Status XEntry := (s.walkOf cid va).2

/-- The way of a walker's reads from its die (01 R13). -/
def State.walkWay (s : State) (die : Nat) (rs : List (Cid × Nat × Nat)) : Way := worstWay (rs.map fun r => s.memWays die r.2.1 r.2.2)

/-- A walk can read what it needs now: a path carries each read, and its partition's quota admits it (01 R13, 10 R208). -/
def State.walkReady (s : State) (die : Nat) (cid : Cid) (va : Nat) : Bool :=
  let rs := (s.walkOf cid va).1
  s.walkWay die rs ≠ .stall && rs.all fun r => s.quotaOk r.1 r.2.1 r.2.2

/-- A walk is made (11 R218): the quota, the Lake and the counters see its reads, uncorrectable data has its record, and a die without a
path ends it with E_LINK (01 R13, 10 R201, R208, 15 R323, 18 R363). -/
def State.makeWalk (s : State) (die : Nat) (cid : Cid) (va : Nat) (who : Option (Nat × Word)) : State × Except Status XEntry :=
  let s := s.count die 0x0C (some cid) 1
  let w := s.walkOf cid va
  if s.walkWay die w.1 = .cut then (s, .error stLink)
  else
    let t := w.1.foldl (fun t r =>
      (t.memRead r.1 r.2.1 r.2.2 false who).1.countLines die (t.memDie r.2.1) r.2.1 r.2.2 r.1 false) s
    match w.2, w.1.getLast? with
    | .error st, some r => (if st = stMemUe then t.ueRecord r.1 r.2.1 r.2.2 who else t, .error st)
    | x, _ => (t, x)

/-- Who makes an access: its die, its cell, REQ of a fault record (11 R227), the command, the work item and the thread it serves. -/
structure Requester where
  die  : Nat
  cell : Option Nat
  req  : BitVec 16
  cmd  : Option (Nat × Word)
  item : Nat
  thr  : Option Nat

def cellReq (g : Nat) (cmd : Option (Nat × Word)) (item : Nat) : Requester :=
  { die := g / 64, cell := some g, req := BitVec.ofNat 16 g, cmd := cmd, item := item, thr := none }
def dispatchReq (r : Nat) (cmd : Option Word) : Requester :=
  { die := r / 256, cell := none, req := 0xFFFF, cmd := cmd.map fun q => (r, q), item := 0, thr := none }
def portReq (p : Nat) : Requester :=
  { die := if p < 2 then 0 else 2, cell := none, req := BitVec.ofNat 16 (0x1000 + p), cmd := none, item := 0, thr := none }

/-- Install a range in the die's cache of 2,048 and the cell's cache of 64, the oldest entry making room (11 R220; log 18). -/
def State.install (s : State) (w : Requester) (e : XEntry) : State :=
  let o := s.ochre w.die
  let s := s.setOchre w.die { o with xc := (e :: o.xc.filter (· != e)).take 2048 }
  match w.cell with
  | none => s
  | some g => s.setCell g { s.cell g with xc := (e :: (s.cell g).xc.filter (· != e)).take 64 }

/-- What a look for an entry gives: the entry, a final status, or a wait for a walker or for the walk of another miss (11 R220). -/
inductive Found where
  | entry (e : XEntry)
  | bad (st : Status)
  | waits
deriving DecidableEq, Repr

/-- A miss of a die: merged with a walk in flight of the same CID and address, queued while 32 walkers are busy, or walked (11 R220). -/
def State.dieMiss (s : State) (w : Requester) (cid : Cid) (va kind : Nat) : State × Found :=
  let o := s.ochre w.die
  if o.walks.any fun x => x.cid == cid && x.va == va then (s, .waits)
  else if 32 ≤ o.walks.length then
    (if o.missQ.any fun m => m.1 == cid && m.2.1 == va then s else s.setOchre w.die { o with missQ := o.missQ ++ [(cid, va, kind)] }, .waits)
  else if !s.walkReady w.die cid va then (s, .waits)
  else match s.makeWalk w.die cid va w.cmd with
    | (s, .ok e) => (s.install w e, .entry e)
    | (s, .error st) => (s, .bad st)

/-- The entry that covers an address: cell cache, die cache, walk (11 R220); none covers the cell-memory window (05 R89). -/
def State.lookup (s : State) (w : Requester) (cid : Cid) (va kind : Nat) : State × Found :=
  let inCell := match w.cell with
    | none => none
    | some g => (s.cell g).xc.find? fun (e : XEntry) => e.covers cid va
  if cellWindow ≤ va then (s, .bad stRange)
  else match inCell with
  | some e => (s, .entry e)
  | none =>
    match (s.ochre w.die).xc.find? fun (e : XEntry) => e.covers cid va with
    | some e => (s.install w e, .entry e)
    | none => s.dieMiss w cid va kind

/-- What a translation gives: a physical address, a final status, a migratable fault with its cause, or a wait for a walk. -/
inductive Xlated where
  | at (pa : Nat) (noLake : Bool)
  | bad (st : Status)
  | mig (cause : Nat)
  | waits
deriving DecidableEq, Repr

/-- The package's own logical rank (14 R293). -/
def State.rank (s : State) : Nat := (s.reg (umberBar 0 + 0x8004)).toNat % 2 ^ 20

/-- A global address of the package's own rank is served locally (12 R236, 14 R293). -/
def State.localise (s : State) (a : Nat) : Nat :=
  if a / 2 ^ 44 ≠ 0 && a / 2 ^ 44 = s.rank + 1 then a % 2 ^ 44 else a

/-- Whether a physical address lies in another package. -/
def isRemote (a : Nat) : Bool := a / 2 ^ 44 ≠ 0

/-- The checks of memory proper on a local address, in the order of the rows of 11 R218. -/
def State.checkLocal (s : State) (cid : Cid) (write : Bool) (a n : Nat) (noLake : Bool) : Xlated :=
  if !s.mapped a then .bad stRange
  else if s.sealedCid cid && (match placeOf a with | .cxl _ => true | _ => false) then .bad stAccess
  else if !s.ownOk cid write a n then .bad stAccess
  else if s.retiring a then .mig 1
  else .at a noLake

/-- Outcome of a translated access to n bytes within one 64 KiB granule (11 R218). -/
def State.translate (s : State) (w : Requester) (cid : Cid) (va n : Nat) (k : AccKind) : State × Xlated :=
  let (s, r) := s.lookup w cid va k.code
  match r with
  | .bad st => (s, .bad st)
  | .waits => (s, .waits)
  | .entry e =>
    if e.mig then (s, .mig 0)
    else
      let allowed := if k = .fetch then e.x else if k.isWrite then e.w else e.r
      if !allowed then (s, .bad stAccess)
      else
        let a := s.localise (e.pbase + (va - e.start))
        if isRemote a then (s, .at a e.nolake) else (s, s.checkLocal cid k.isWrite a n e.nolake)

/-- The 64 KiB granule of virtual address (11 R227). -/
def vaGranule (va : Nat) : Nat := va / 2 ^ 16 * 2 ^ 16

/-- The first fault identifier that no pending record of the die carries (11 R227). -/
def freshFid (fs : List FaultRec) : BitVec 16 :=
  BitVec.ofNat 16 (((List.range (fs.length + 1)).find? fun i => fs.all fun f => f.fid.toNat != i).getD 0)

/-- A migratable fault: one pending record for each CID and granule (11 R227). -/
def State.pendFault (s : State) (w : Requester) (cid : Cid) (va kind cause : Nat) (prg : BitVec 16) : State :=
  let o := s.ochre w.die
  if o.faults.any fun f => f.cid == cid && f.va == vaGranule va then s
  else
    let f : FaultRec := { fid := freshFid o.faults, va := vaGranule va, cid := cid, req := w.req, kind := kind, cause := cause,
                          prg := prg, cmd := w.cmd, written := false }
    s.setOchre w.die { o with faults := o.faults ++ [f] }

/-- Registers of a die's fault queue (21 R407). -/
def State.fqBase (s : State) (d : Nat) : Nat := bitsOf (s.reg64 (ochreBar d + 0x1000)).toNat 43 5 * 32
def State.fqEn (s : State) (d : Nat) : Bool := bitOf (s.reg (ochreBar d + 0x1008)).toNat 0
def State.fqHead (s : State) (d : Nat) : Word := s.reg (ochreBar d + 0x100C)
def State.fqFull (s : State) (d : Nat) : Bool := ((s.ochre d).fqTail - s.fqHead d).toNat = 1024

/-- The 32 bytes of a fault record (11 R227). -/
def FaultRec.bytes (f : FaultRec) (time : DWord) (q : Nat) : List Byte :=
  leBytes 8 f.va ++ leBytes 2 f.cid.toNat ++ leBytes 2 f.fid.toNat ++ leBytes 2 f.req.toNat ++ leBytes 1 f.kind ++
  leBytes 1 f.cause ++ leBytes 8 time.toNat ++ leBytes 2 f.prg.toNat ++ leBytes 5 0 ++ [commitByte q 10]

/-- Pieces of a span that each lie within one 64 KiB granule, as address and length. -/
def granulePieces (va n : Nat) : List (Nat × Nat) := alignedPieces (2 ^ 16) va n

/-- What an access that does not come to its end leaves: the entries that its walks found and the misses that it queued, with what the Lake, the
quota and the counters saw of them, the tokens that homes gave it, and the reads that it asked of third devices (10 R201, R208, 11 R220, 12
R257, 13 R288). -/
def State.waits (s t : State) : State :=
  { s with ochres := t.ochres, roots := t.roots, logs := t.logs,
           cells := tabMap cellDflt s.cells fun g c => { c with xc := (t.cell g).xc }, coh := { s.coh with tokens := t.coh.tokens },
           hbm := { s.hbm with lake := t.hbm.lake, lfsr := t.hbm.lfsr, quota := t.hbm.quota } }

/-- The same of an access that writes: what it posted before it stopped is posted again. -/
def State.waitsStore (s t : State) : State := { s.waits t with roots := s.roots }

end Sys2Proof.Machine
end

