-- ==== Sys2Proof/Machine/CellOps.lean ====
section
/-! DEFINITION. Ends of work items, blocks and pieces (05 R95, R104), what cuts a command short (13 R279, R281, R437), and how rings
and contexts settle afterwards (13 R279, R283). -/

namespace Sys2Proof.Machine

/-! ### Work items -/

/-- The matrix, vector and stream engines drop what they have not completed (05 R95). -/
def Cell.abandon (c : Cell) : Cell :=
  { c with matrix := { c.matrix with queue := [] }, vec := { c.vec with queue := [] },
           str := { c.str with queue := [], stall := none, sent := false, staged := [] }, esig := [] }

/-- The halt bit of a cell's core clears (05 R96). -/
def State.clearHalt (s : State) (g : Nat) : State :=
  let o := s.ochre (g / 64)
  s.setOchre (g / 64) { o with dbgHalt := o.dbgHalt &&& ~~~(1 <<< (g % 64) : DWord) }

/-- The item or piece of a cell ends with a status, at its fault point unless it is OK; one that has ended keeps its status
(05 R95, 13 R437). -/
def State.endItem (s : State) (g : Nat) (st : Status) : State :=
  let c := s.cell g
  match c.job with
  | none => s
  | some j =>
    if j.ended.isSome then s
    else
      (s.setCell g { c.abandon with job := some { j with ended := some st }, core := { c.core with wait := .running } }).clearHalt g

/-- The running item of a cell. -/
def Cell.running (c : Cell) : Option Job := c.job.bind fun j => if j.ended.isSome then none else some j

/-- A block ends with a status; one that has ended keeps its status (09 R166). -/
def Block.endWith (b : Block) (st : Status) : Block := if b.ended.isSome then b else { b with ended := some st }

/-- Change the i-th resident block of a cell. -/
def State.onBlock (s : State) (g i : Nat) (f : Block → Block) : State :=
  let c := s.cell g
  s.setCell g { c with blocks := c.blocks.modify i f }

def State.endBlock (s : State) (g i : Nat) (st : Status) : State := s.onBlock g i fun b => b.endWith st

/-! ### Barriers wait for remote accesses and for writes held toward third devices (12 R243) -/

/-- Requests that are held toward a third device (13 R288). -/
def State.mmioOwed (s : State) (f : MmioReq → Bool) : Bool := (List.range 4).any fun p => (s.root p).held.any f

/-- A work's errand in other packages, empty when it has made no access there (14 R301). -/
def State.errand (s : State) (k : ErrandKey) : Errand :=
  (s.fab.errands.find? fun e => e.key == k).getD { key := k, bytes := [], wrote := [], bad := stOk }
def State.setErrand (s : State) (e : Errand) : State :=
  { s with fab := { s.fab with errands := s.fab.errands.filter (fun x => x.key != e.key) ++ [e] } }
/-- A work needs its errand no more; what its requests still bring goes nowhere. -/
def State.endErrand (s : State) (k : ErrandKey) : State :=
  { s with fab := { s.fab with
      errands := s.fab.errands.filter fun e => e.key != k
      reqs := s.fab.reqs.map fun q => match q.who with
        | .errand j _ => if j == k then { q with who := .posted } else q
        | _ => q } }

/-- A fabric request of a work is outstanding. -/
def FabWho.ofErrand (w : FabWho) (k : ErrandKey) : Bool :=
  match w with
  | .errand j _ => j == k
  | _ => false

/-- A fabric request of a cell is outstanding. -/
def FabWho.ofCell (w : FabWho) (g : Nat) : Bool :=
  match w with
  | .cell h .. | .stream h .. | .thread h .. => h == g
  | _ => false
/-- A fabric request serves a command, or one of its items or blocks. -/
def FabWho.ofCmd (w : FabWho) (r : Nat) (q : Word) : Bool :=
  match w with
  | .command r' q' | .cell _ r' q' .. | .stream _ r' q' .. | .thread _ r' q' .. | .area _ (some (r', q')) => r' == r && q' == q
  | _ => false
def FabWho.ofItem (w : FabWho) (r : Nat) (q : Word) (i : Nat) : Bool :=
  match w with
  | .cell _ r' q' i' .. | .stream _ r' q' i' _ | .thread _ r' q' i' .. => r' == r && q' == q && i' == i
  | _ => false
def ofCell (m : MmioSource) (g : Nat) : Bool := m == .cell (Fin.ofNat 256 g)

/-- Accesses of a cell, of one of its items or blocks, of a command that are not performed yet (12 R239, R243). -/
def State.cellOwed (s : State) (g : Nat) : Bool := (s.fab.reqs.any fun r => r.who.ofCell g) || s.mmioOwed fun h => ofCell h.src g
def State.itemOwed (s : State) (r : Nat) (q : Word) (i : Nat) : Bool :=
  (s.fab.reqs.any fun x => x.who.ofItem r q i) || s.mmioOwed fun h => h.cmd == some (r, q) && h.item == i
def State.cmdOwed (s : State) (r : Nat) (q : Word) : Bool :=
  (s.fab.reqs.any fun x => x.who.ofCmd r q) || s.mmioOwed fun h => h.cmd == some (r, q)

/-- A block whose write has failed ends with the status, one that has ended OK included (13 R437). -/
def Block.fail (b : Block) (st : Status) : Block := if b.ended.any (· ≠ stOk) then b else { b with ended := some st }

/-- The blocks of an item of a command on a cell. -/
def State.failBlock (s : State) (g r : Nat) (q : Word) (i : Nat) (st : Status) : State :=
  s.setCell g { s.cell g with blocks := (s.cell g).blocks.map fun b => if b.ring == r && b.seq == q && b.index == i then b.fail st else b }

/-! ### Commands -/

/-- Every item that dispatch hands out has ended (05 R104): the command may complete. -/
def Cmd.settle (c : Cmd) : Cmd :=
  if c.stage = .running && c.ended ≥ (if c.stopped then c.next else c.total) then { c with stage := .finished } else c

/-- The lowest-numbered item that did not end OK (05 R104, 13 R276). -/
def Cmd.noteBad (c : Cmd) (i : Nat) (st : Status) : Cmd :=
  match c.firstBad with
  | some (k, _) => if i < k then { c with firstBad := some (i, st) } else c
  | none => { c with firstBad := some (i, st) }

/-- Item i, which started, has ended with a status (13 R276, R277, R437). -/
def Cmd.noteEnd (soe : Bool) (c : Cmd) (i : Nat) (st : Status) : Cmd :=
  if st = stOk then { c with ended := c.ended + 1, ok := c.ok + 1 }.settle
  else ({ c with ended := c.ended + 1, partWrites := true, stopped := c.stopped || soe }.noteBad i st).settle

/-- CELL, KERNEL and COPY hand out items; the other opcodes have none (13 R437). -/
def Cmd.hasItems (c : Cmd) : Bool := c.opcode = 1 || c.opcode = 2 || c.opcode = 3

/-- ABORT, a context fault or CTX_CLOSE ends a started command: running items end with E_ABORT, unstarted ones count so (13 R437). -/
def Cmd.cut (c : Cmd) : Cmd :=
  match c.stage with
  | .started =>
    let c := { c with stall := none }
    if c.hasItems then ({ c with stage := .finished, stopped := true }).noteBad 0 stAbort
    else { c with stage := .finished, status := stAbort }
  | .running =>
    let c := { c with stall := none }
    if c.hasItems then
      let c := { c with stopped := true }
      (if c.next < c.total then c.noteBad c.next stAbort else c).settle
    else { c with stage := .finished, status := stAbort }
  | _ => c

/-- The stores of a command that has none left to make are not all performed: it is in progress still, and ends with E_ABORT (13 R272,
R281). -/
def Cmd.cutStores (c : Cmd) : Cmd := if c.stage = .finished && c.status = stOk then { c with status := stAbort } else c

/-- Whether a cell's item belongs to a command. -/
def Job.of (j : Job) (r : Nat) (q : Word) : Bool := j.ring == r && j.seq == q
def Block.of (b : Block) (r : Nat) (q : Word) : Bool := b.ring == r && b.seq == q

/-- Global cell numbers of the die that a ring belongs to. -/
def cellsOfRing (r : Nat) : List Nat := (List.range 64).map fun n => r / 256 * 64 + n

/-- A started command is cut short. -/
def State.cutCmd (s : State) (r : Nat) (q : Word) : State :=
  match s.cmd r q with
  | none => s
  | some c =>
    let s := s.setCmd (if (c.opcode = 4 || c.opcode = 8) && s.cmdOwed r q then c.cut.cutStores else c.cut)
    let s := { s with fab := { s.fab with colls := s.fab.colls.filter fun x => !(x.ring == r && x.seq == q) } }
    (cellsOfRing r).foldl (fun s g =>
      let c := s.cell g
      let s := if c.job.any fun j => j.of r q then s.endItem g stAbort else s
      if c.blocks.any fun b => b.of r q then
        let cut : Block → Block := fun b => if s.itemOwed r q b.index then b.fail stAbort else b.endWith stAbort
        s.setCell g { s.cell g with blocks := (s.cell g).blocks.map fun b => if b.of r q then cut b else b }
      else s) s

/-- Whether a command has started (13 R273, second stage). -/
def Cmd.hasStarted (c : Cmd) : Bool :=
  match c.stage with
  | .fetched | .waiting => false
  | _ => true

/-- Commands of a ring that have not started are never started and get no record, and the read of a slot is given up (13 R279). -/
def State.dropUnstarted (s : State) (r : Nat) : State :=
  { s.setRing r { s.ring r with stall := none, own := [] } with cmds := s.cmds.filter fun c => c.ring != r || c.hasStarted }

/-- Every started command of a ring is cut short. -/
def State.cutRing (s : State) (r : Nat) : State :=
  s.cmds.foldl (fun s c => if c.ring == r then s.cutCmd r c.seq else s) s

/-! ### Rings and contexts -/

/-- Every ring bound to a CID (13 R262). -/
def State.ringsOf (s : State) (cid : Cid) : List Nat := (List.range 1024).filter fun r => (s.ring r).cid == cid

/-- HOSTRESET_POLICY is CONTINUE (13 R283). -/
def State.continues (s : State) : Bool := bitOf (s.reg (umberBar 0 + 0x50)).toNat 0

/-- Slots that a descriptor occupies: with its extension slots, or alone when EXT lies outside 0-3 or is unknown (13 R269, R436). -/
def slotSpan (own : List Byte) : Nat := if byteAt own 3 ≤ 3 then 1 + byteAt own 3 else 1

/-- A descriptor of the ring may still be fetched: slots lie before the tail, and they are not known to be too few for it (13 R269). -/
def Ring.mayFetch (x : Ring) : Bool :=
  x.fetch ≠ x.tail && (x.own.isEmpty || slotSpan x.own ≤ (x.tail - x.fetch).toNat)

/-- Under a host warm reset a ring starts commands only under CONTINUE, in a SEALED context, up to its stored tail (13 R283). -/
def State.warmRuns (s : State) (r : Nat) : Bool :=
  s.continues && (s.ctx (s.ring r).cid).state = .sealed &&
  ((s.ring r).mayFetch || s.cmds.any fun c => c.ring == r && !c.hasStarted)

/-- A context whose rings are all STOPPED under a host warm reset goes FROZEN, but for CID 0 and FAULTED contexts (13 R283). -/
def State.freeze (s : State) (cid : Cid) : State :=
  let x := s.ctx cid
  if s.warm.active && cid ≠ 0 && (x.state = .opened || x.state = .sealed) &&
      (s.ringsOf cid).all fun r => (s.ring r).state = .stopped then
    s.setCtx cid { x with state := .frozen, before := x.state, frozenAt := s.time }
  else s

/-- A ring with no command in progress stops when it drains, when an ABORT has ended, or under a host warm reset (13 R279, R283). -/
def State.settleRing (s : State) (r : Nat) : State :=
  let x := s.ring r
  if s.cmds.any fun c => c.ring == r then s
  else if x.aborting || x.state = .draining || (s.warm.active && x.state = .running && !s.warmRuns r) then
    (s.setRing r { x with state := .stopped, aborting := false, soeStop := false, ctxFault := false, recFail := false }).freeze x.cid
  else s

/-- A ring goes FAULTED: no further command of it starts; the ABORT of a ring that is FAULTED already goes on (13 R279). -/
def State.faultRing (s : State) (r : Nat) (f : Ring → Ring) : State :=
  let x := s.ring r
  s.setRing r (f { x with state := .faulted, aborting := x.aborting && x.state = .faulted }) |>.dropUnstarted r

/-- The ring goes FAULTED for a reason of its own, if it was RUNNING or DRAINING and no ABORT is ending it (13 R279). -/
def State.ringFails (s : State) (r : Nat) (f : Ring → Ring) : State :=
  let x := s.ring r
  if (x.state = .running || x.state = .draining) && !x.aborting then s.faultRing r f else s

/-- Two times lie in one package tick (13 R282, 19 R380). -/
def sameTick (a b : DWord) : Bool := a.toNat / 1000 = b.toNat / 1000

/-- The context of a CID faults (13 R280, R281): its rings go FAULTED and its other commands end with E_ABORT. A fault takes precedence
over a freeze in the same package tick (13 R282). -/
def State.faultCtx (s : State) (cid : Cid) : State :=
  let x := s.ctx cid
  if x.state = .opened || x.state = .sealed || (x.state = .frozen && sameTick x.frozenAt s.time) then
    let s := s.setCtx cid { x with state := .faulted, faultedAt := s.time }
    (s.ringsOf cid).foldl (fun s r => (s.faultRing r fun x => { x with ctxFault := true }).cutRing r) s
  else s

end Sys2Proof.Machine
end

