-- ==== Sys2Proof/Machine/Rings.lean ====
section
/-! DEFINITION. Ring registers and doorbells (13 R262-R267, R279). -/

namespace Sys2Proof.Machine

def Ring.size (x : Ring) : Nat := 2 ^ x.log2.toNat

/-- STATE of RING_STATUS (13 R262). -/
def RingState.code : RingState → Nat
  | .stopped => 0
  | .running => 1
  | .draining => 2
  | .faulted => 3

/-- RING_STATUS (13 R262). -/
def Ring.status (x : Ring) : Nat :=
  x.state.code + 4 * x.dbErr.toNat + 8 * x.cfgErr.toNat + 16 * x.soeStop.toNat + 32 * x.ctxFault.toNat + 64 * x.recFail.toNat

/-- RING_CTL as read (13 R262): RUN reads the last value written (00 R7; log 40). -/
def Ring.ctl (x : Ring) : Nat := x.run.toNat + 2 * x.replay.toNat + 16 * x.log2.toNat

/-- A doorbell write of a new tail (13 R265, R266, R267). -/
def effDoorbell (r : RingId) (cid : Cid) (tail : Word) (s : State) : State :=
  let x := s.ring r
  if cid ≠ 0 && cid ≠ x.cid then s.setRing r { x with dbErr := true }
  else if (tail - x.head).toNat ≤ x.size && (tail - x.tail).toNat ≤ x.size then s.setRing r { x with tail := tail }
  else if x.state = .running then s.faultRing r fun x => { x with dbErr := true }
  else s.setRing r { x with dbErr := true }

def execDoorbell (r : RingId) (cid : Cid) (tail : Word) (s : State) : Host.Outcome State Fault Refusal :=
  s.live (effDoorbell r cid tail)

/-- Address of a ring's register block (13 R262). -/
def ringBlock (r : Nat) : Nat := ochreBar (r / 256) + 0x100000 + 64 * (r % 256)

/-- The low half written before, or the low half in effect (21 R404). -/
def State.lowHalf (s : State) (a : Nat) (now : Word) : Word := (tabFind s.held a).getD now
def State.hold (s : State) (a : Nat) (v : Word) : State := { s with held := tabPut s.held a v }
def State.unhold (s : State) (a : Nat) : State := { s with held := tabErase s.held a }

/-- A write to RING_DBASE, RING_CBASE, RING_CID, RING_HEAD or RING_TAIL (13 R263, 21 R404). -/
def effRingConfigWrite (r : RingId) (off : Nat) (v : Word) (s : State) : State :=
  let x := s.ring r
  let b := ringBlock r
  if x.state ≠ .stopped then s.setRing r { x with cfgErr := true }
  else match off with
    | 0x00 => s.hold b v
    | 0x04 => (s.setRing r { x with dbase := v ++ s.lowHalf b (x.dbase.setWidth 32) }).unhold b
    | 0x08 => s.hold (b + 8) v
    | 0x0C => (s.setRing r { x with cbase := v ++ s.lowHalf (b + 8) (x.cbase.setWidth 32) }).unhold (b + 8)
    | 0x10 => s.setRing r { x with cid := v.setWidth 16 }
    | 0x14 => s.setRing r { x with head := v }
    | 0x18 => s.setRing r { x with tail := v }
    | _ => s

def execRingConfigWrite (r : RingId) (off : Nat) (v : Word) (s : State) : Host.Outcome State Fault Refusal :=
  s.live (effRingConfigWrite r off v)

/-- Whether a write of LOG2SIZE and REPLAY has a field that is refused (13 R263). -/
def Ring.refuses (x : Ring) (log2size : BitVec 4) (replay : Bool) : Bool :=
  (log2size ≠ x.log2 && !(x.state = .stopped && 2 ≤ log2size.toNat && log2size.toNat ≤ 12)) ||
  (replay ≠ x.replay && !(x.state = .stopped : Bool))

/-- LOG2SIZE and REPLAY of RING_CTL, field by field (13 R263 step 3). -/
def effRingCtlSetting (r : RingId) (log2size : BitVec 4) (replay : Bool) (s : State) : State :=
  let x := s.ring r
  let ok : Bool := x.state = .stopped
  let sizeOk := ok && 2 ≤ log2size.toNat && log2size.toNat ≤ 12
  s.setRing r { x with log2 := if sizeOk then log2size else x.log2, replay := if ok then replay else x.replay,
                       cfgErr := x.cfgErr || x.refuses log2size replay }

def execRingCtlSetting (r : RingId) (log2size : BitVec 4) (replay : Bool) (s : State) : Host.Outcome State Fault Refusal :=
  s.live (effRingCtlSetting r log2size replay)

/-- Whether RUN = 1 starts a STOPPED ring (13 R263 step 4). -/
def State.mayRun (s : State) (r : Nat) : Bool :=
  let x := s.ring r
  ((s.ctx x.cid).state = .opened || (s.ctx x.cid).state = .sealed) && x.dbase.toNat % 64 = 0 && x.cbase.toNat % 32 = 0 &&
  (x.tail - x.head).toNat ≤ x.size

/-- What a ring has read from other packages is not used once it starts anew (13 R267). -/
def ErrandKey.ofRing (k : ErrandKey) (r : Nat) : Bool :=
  match k with
  | .ring q _ => q == r
  | _ => false
def State.forgetReads (s : State) (r : Nat) : State :=
  (s.fab.errands.filter fun e => e.key.ofRing r).foldl (fun s e => s.endErrand e.key) s

/-- A ring starts at its head with nothing fetched: descriptors are read from memory anew (13 R263, R267). -/
def State.startRing (s : State) (r : Nat) : State :=
  let x := s.ring r
  (s.setRing r { x with state := .running, fetch := x.head, commits := [], stall := none, own := [] }).forgetReads r

/-- RUN of RING_CTL, after a write whose other fields were refused or not (13 R263 step 4). -/
def State.runWrite (s : State) (r : Nat) (on refused : Bool) : State :=
  let s := s.setRing r { s.ring r with run := on }
  let x := s.ring r
  if on then
    match x.state with
    | .running => s
    | .stopped =>
      if !refused && s.mayRun r then s.startRing r
      else s.setRing r { x with cfgErr := true }
    | _ => s.setRing r { x with cfgErr := true }
  else if x.state = .running then ((s.setRing r { x with state := .draining }).dropUnstarted r).settleRing r
  else s

def effRun (r : RingId) (on : Bool) (s : State) : State := s.runWrite r on false

def execRun (r : RingId) (on : Bool) (s : State) : Host.Outcome State Fault Refusal := s.live (effRun r on)

/-- CLEAR (13 R279). -/
def effClear (r : RingId) (s : State) : State :=
  let x := s.ring r
  let c := (s.ctx x.cid).state
  if x.state = .faulted && (c = .opened || c = .sealed) then
    s.setRing r { x with state := .stopped, soeStop := false, ctxFault := false, recFail := false, aborting := false }
  else if c = .faulted then s.setRing r { x with cfgErr := true }
  else s

def execClear (r : RingId) (s : State) : Host.Outcome State Fault Refusal := s.live (effClear r)

/-- A context fault of the same package tick takes precedence over an ABORT (13 R282). -/
def State.faultFirst (s : State) (cid : Cid) : Bool := (s.ctx cid).state = .faulted && sameTick (s.ctx cid).faultedAt s.time

/-- ABORT (13 R279, R437): the ring stops once every command in progress has ended. -/
def effAbort (r : RingId) (s : State) : State :=
  let x := s.ring r
  if x.state = .stopped || s.faultFirst x.cid then s
  else
    let s := s.setRing r { x with aborting := true, state := if x.state = .running then .draining else x.state }
    ((s.dropUnstarted r).cutRing r).settleRing r

def execAbort (r : RingId) (s : State) : Host.Outcome State Fault Refusal := s.live (effAbort r)

/-- A write of RING_CTL: ABORT, CLEAR, the settings, then RUN (13 R263). -/
def State.writeRingCtl (s : State) (r : RingId) (v : Word) : State :=
  let v := v.toNat
  let s := if bitOf v 3 then effAbort r s else s
  let s := if bitOf v 2 then effClear r s else s
  let size := BitVec.ofNat 4 (v / 16)
  let refused := (s.ring r).refuses size (bitOf v 1)
  (effRingCtlSetting r size (bitOf v 1) s).runWrite r (bitOf v 0) refused

/-- A write to a ring block at an offset (13 R262). -/
def State.writeRing (s : State) (r : RingId) (off : Nat) (v : Word) : State :=
  if off < 0x1C then effRingConfigWrite r off v s
  else if off = 0x1C then s.writeRingCtl r v
  else if off = 0x20 then
    let x := s.ring r
    s.setRing r { x with dbErr := x.dbErr && !bitOf v.toNat 2, cfgErr := x.cfgErr && !bitOf v.toNat 3 }
  else s

/-- A word of a ring block as read (13 R262). -/
def Ring.word (x : Ring) (off : Nat) : Nat :=
  match off with
  | 0x00 => x.dbase.toNat % 2 ^ 32
  | 0x04 => x.dbase.toNat / 2 ^ 32
  | 0x08 => x.cbase.toNat % 2 ^ 32
  | 0x0C => x.cbase.toNat / 2 ^ 32
  | 0x10 => x.cid.toNat
  | 0x14 => x.head.toNat
  | 0x18 => x.tail.toNat
  | 0x1C => x.ctl
  | 0x20 => x.status
  | _ => 0

end Sys2Proof.Machine
end

