-- ==== Sys2Proof/Machine/Sync.lean ====
section
/-! DEFINITION. Sync objects (21 R412, 12 R247, 18 R362). -/

namespace Sys2Proof.Machine

def soValDflt (_ : Nat) : DWord := 0
def soOwnDflt (_ : Nat) : Cid := 0

/-- Value and owner of object o. -/
def State.so (s : State) (o : Nat) : DWord := tabGet soValDflt s.soVal o
def State.soOwner (s : State) (o : Nat) : Cid := tabGet soOwnDflt s.soOwn o
def State.setSo (s : State) (o : Nat) (v : DWord) : State := { s with soVal := tabSet soValDflt s.soVal o v }
def State.setSoOwner (s : State) (o : Nat) (c : Cid) : State := { s with soOwn := tabSet soOwnDflt s.soOwn o c }

/-- An object in the uncorrectable state fails every wait and signal (18 R362). -/
def State.soBroken (s : State) (o : Nat) : Bool := s.soBad.contains o

/-- A signal adds to an object, modulo 2^64; one on an uncorrectable object adds nothing (12 R247, 18 R362). -/
def State.signal (s : State) (o : Nat) (v : DWord) : State := if s.soBroken o then s else s.setSo o (s.so o + v)

/-- A write of n bytes at a register address signals an uncorrectable object: it covers the low half of its SO_VAL (18 R362, 21 R412). -/
def State.signalsBroken (s : State) (a n : Nat) : Bool :=
  s.soBad.any fun o =>
    let v := umberBar (o / 32768) + 0xC0000 + 8 * (o % 32768)
    a < v + 4 && v < a + n

/-- A cell or a thread may name an object that its CID owns (05 R95, 09 R181). -/
def State.soAllowed (s : State) (cid : Cid) (o : Nat) : Bool := s.soOwner o == cid

/-- WAIT and SIGNAL may name an object that the ring's CID owns; CID 0 may name any there (13 R274). -/
def State.soNamed (s : State) (cid : Cid) (o : Nat) : Bool := cid = 0 || s.soAllowed cid o

/-- A write to SO_VAL: the low word zero-extended, or the whole 64 bits (21 R412). -/
def effSoValWrite (o : BitVec 16) (wide : Bool) (v : DWord) (s : State) : State :=
  s.signal o.toNat (if wide then v else (v.setWidth 32).setWidth 64)

def execSoValWrite (o : BitVec 16) (wide : Bool) (v : DWord) (s : State) : Host.Outcome State Fault Refusal :=
  s.live (effSoValWrite o wide v)

/-- A new owner, unless the current owner is SEALED (21 R412). -/
def State.reown (s : State) (o : Nat) (c : Cid) : State :=
  if s.sealedCid (s.soOwner o) then s else s.setSoOwner o c

/-- A write to SO_OWN_j: the owners of two objects (21 R412). -/
def effSoOwnWrite (u : UmberId) (j : Fin 16384) (v : Word) (s : State) : State :=
  let o := 32768 * u.val + 2 * j.val
  (s.reown o (v.setWidth 16)).reown (o + 1) ((v >>> 16).setWidth 16)

def execSoOwnWrite (u : UmberId) (j : Fin 16384) (v : Word) (s : State) : Host.Outcome State Fault Refusal :=
  s.live (effSoOwnWrite u j v)

end Sys2Proof.Machine
end

