-- ==== Sys2Proof/Machine/XltCtl.lean ====
section
/-! DEFINITION. Translation control reached through registers: invalidation (11 R221-R223, R226), resolving fault records (11 R228). -/

namespace Sys2Proof.Machine

/-- The broadcast that a descriptor asks for, and whether it is malformed (11 R221). -/
def invOf (data : List Byte) : Inv × Bool :=
  let v := leNat data
  let start := bitsOf v 127 64
  let length := bitsOf v 191 128
  let all := bitOf v 32
  let bad := bitsOf v 63 33 ≠ 0 || v / 2 ^ 192 ≠ 0 || (!all && (start % 2 ^ 16 ≠ 0 || length % 2 ^ 16 ≠ 0 || length = 0))
  ({ cid := BitVec.ofNat 16 v, so := BitVec.ofNat 16 (v / 2 ^ 16), all := all || bad, start := start, length := length, tids := [],
     owed := [], mmio := [] }, bad)

/-- Accept a store to the window of Umber die u while the queue has room (11 R221). -/
def State.queueInv (s : State) (u : Nat) (data : List Byte) : State :=
  let (b, bad) := invOf data
  { s with xlt := { s.xlt with queue := s.xlt.queue ++ [b], err0 := s.xlt.err0 || (bad && u == 0),
                               err1 := s.xlt.err1 || (bad && u == 1) } }

def State.invFull (s : State) : Bool := 64 ≤ s.xlt.queue.length

/-- Accesses of a host core that a SYSTEM barrier awaits: sent to other packages, held toward third devices, in the store buffer (12
R243). -/
def FabWho.ofHost (w : FabWho) (c : Nat) : Bool :=
  match w with
  | .host h _ => h == c
  | _ => false
def State.hostAwaits (s : State) (c : HostId) : Bool :=
  (s.fab.reqs.any fun r => r.who.ofHost c) || (s.mmioOwed fun h => h.src == .host c) || !(s.host c).buffer.isEmpty

/-- A load or atomic of a host core to another package has not returned: what follows it in program order is not committed, because it may
still take an exception (12 R249). -/
def State.hostOwed (s : State) (c : Nat) : Bool := s.fab.reqs.any fun r => r.who == .host c true

/-- Host core c may act once its store buffer has drained as far as it goes: no store of it waits for the invalidation queue, no exception is
due, and an earlier SYSTEM barrier of it has nothing left to await (11 R221, 12 R243, R249). -/
def State.hostFree (s : State) (c : HostId) : Bool :=
  (s.host c).invStore.isNone && (s.host c).due.isNone && !((s.host c).barrier && s.hostAwaits c)

/-- An issue of a host core that is free to act: what its last barrier awaited has ended (12 R243). -/
def State.passBarrier (s : State) (c : HostId) : State :=
  if (s.host c).barrier then s.setHost c { s.host c with barrier := false } else s

/-- A cached entry that a broadcast drops (11 R223). -/
def Inv.drops (b : Inv) (e : XEntry) : Bool :=
  e.cid == b.cid && (b.all || (e.start < b.start + b.length && b.start < e.start + e.length))

/-- Keep only the entries of every translation cache that satisfy a test. -/
def State.keepEntries (s : State) (keep : XEntry → Bool) : State :=
  (s.mapOchres fun _ o => { o with xc := o.xc.filter keep }).mapCells fun _ c => { c with xc := c.xc.filter keep }

/-- Entries in any cache of the package. -/
def State.allEntries (s : State) : List XEntry := s.ochres.flatMap (fun p => p.2.xc) ++ s.cells.flatMap (fun p => p.2.xc)

/-- Walks that a test names must start again when they finish. -/
def State.staleWalks (s : State) (f : Walk → Bool) : State :=
  s.mapOchres fun _ o => { o with walks := o.walks.map fun w => if f w then { w with stale := true } else w }

/-- Every translation cache empties and every walk in flight starts again (11 R226, 21 R410). -/
def State.flushTranslations (s : State) : State := (s.keepEntries fun _ => false).staleWalks fun _ => true

/-- The host core of a root-port request. -/
def mmioHost : MmioSource → Option Nat
  | .host c => some c.val
  | _ => none

/-- Register block of root port p (21 R408, R411). -/
def rootBlock (p : Nat) : Nat := umberBar (p / 2) + 0x30000 + 0x10000 * (p % 2)

/-- PASID entry e of a port: bits of the 64-bit register (21 R411). -/
def State.pasidEntry (s : State) (p e : Nat) : Nat := (s.reg64 (rootBlock p + 0x8000 + 8 * e)).toNat

/-- The entry of a port's map for a requester ID and PASID, and the CID that it gives (11 R229). -/
def State.pasidFind (s : State) (p : Nat) (rid : BitVec 16) (pasid : BitVec 20) : Option Nat :=
  (List.range 4096).find? fun e =>
    let v := s.pasidEntry p e
    bitOf v 63 && bitsOf v 15 0 = rid.toNat && bitsOf v 51 32 = pasid.toNat
def State.entryCid (s : State) (p e : Nat) : Cid := BitVec.ofNat 16 (s.pasidEntry p e / 2 ^ 16)
def State.pasidCid (s : State) (p : Nat) (rid : BitVec 16) (pasid : BitVec 20) : Option Cid := (s.pasidFind p rid pasid).map (s.entryCid p)

/-- A port's map gives a PASID of a function to a CID, or did so by an entry whose removal is not acknowledged (11 R229, 21 R411). -/
def State.mapsTo (s : State) (p : Nat) (rid : BitVec 16) (pasid : BitVec 20) (cid : Cid) : Bool :=
  s.pasidCid p rid pasid = some cid || (s.root p).removing.any fun x => x.rid == rid && x.pasid == pasid && x.cid == cid

/-- Functions of a port that hold ATS translations under a PASID of a CID (11 R231). -/
def State.atsHolders (s : State) (p : Nat) (cid : Cid) : List (BitVec 16) :=
  (((s.root p).ats.filter fun f => s.mapsTo p f.1 f.2 cid).map (·.1)).eraseDups

/-- PASIDs that a port's map gives to a CID for a function (11 R229, R231). -/
def State.pasidsOf (s : State) (p : Nat) (rid : BitVec 16) (cid : Cid) : List (BitVec 20) :=
  (((s.root p).ats.filter fun f => f.1 == rid && s.mapsTo p rid f.2 cid).map (·.2)).eraseDups

/-- One more ATS Invalidate Request leaves for a function that has not lost ATS (11 R231). -/
def State.askAts (s : State) (p : Nat) (rid : BitVec 16) (wipes : List (BitVec 20)) : State :=
  let r := s.root p
  if r.atsOff.contains rid then s
  else s.setRoot p { r with atsOwed := r.atsOwed ++ [{ rid := rid, tag := r.atsTag, wipes := wipes }], atsTag := r.atsTag + 1 }

/-- A broadcast asks the functions of a port that hold translations under a PASID of its CID; the requests it awaits (11 R223, R231). -/
def State.askPort (x : State × List (Nat × Nat)) (cid : Cid) (all : Bool) (p : Nat) : State × List (Nat × Nat) :=
  (x.1.atsHolders p cid).foldl (fun x rid =>
    if (x.1.root p).atsOff.contains rid then x
    else (x.1.askAts p rid (if all then x.1.pasidsOf p rid cid else []), x.2 ++ [(p, (x.1.root p).atsTag)])) x

/-- Requests held toward third devices that a dropped entry translated (11 R223). -/
def State.heldThrough (s : State) (cid : Cid) (dropped : List XEntry) : List (Nat × Nat) :=
  (List.range 4).flatMap fun p => ((s.root p).held.filter fun h => h.cid == cid && (mmioHost h.src).isNone &&
    dropped.any fun e => s.localise e.pbase ≤ h.addr && h.addr < s.localise e.pbase + e.length).map fun h => (p, h.id)

/-- A waiting store of the lowest-numbered stalled core takes the slot that freed (11 R221). -/
def State.acceptInv (s : State) : State :=
  match (List.range 96).find? fun c => (s.host c).invStore.isSome with
  | none => s
  | some c =>
    match (s.host c).invStore with
    | none => s
    | some (u, data) => (s.setHost c ({ s.host c with invStore := none }).settle).queueInv u data

/-- The next broadcast reaches every cache and walker (11 R222, R223, R226, R231). -/
def effInvalidationBroadcast (s : State) : State :=
  match s.xlt.queue with
  | [] => s
  | b :: q =>
    let gen := s.xlt.gen + 1
    let dropped := s.allEntries.filter b.drops
    let tids := (s.fab.reqs.filter fun r => r.cid == b.cid &&
      dropped.any fun e => e.pbase / 2 ^ 44 ≠ 0 && e.pbase ≤ r.addr && r.addr < e.pbase + e.length).map (·.tid)
    let held := s.heldThrough b.cid dropped
    let (s, owed) := (List.range 4).foldl (fun x p => State.askPort x b.cid b.all p) (s, [])
    let b := { b with tids := tids, owed := owed, mmio := held }
    let s := { s with xlt := { s.xlt with gen := gen, queue := q, flying := s.xlt.flying ++ [b] } }
    let s := if gen = 0 then s.flushTranslations else s
    ((s.keepEntries fun e => !b.drops e).staleWalks fun w => w.cid == b.cid).acceptInv

def execInvalidationBroadcast (s : State) : Host.Outcome State Fault Refusal := s.live effInvalidationBroadcast

/-- Whether the conditions of 11 R223 hold for a broadcast. -/
def State.invDone (s : State) (b : Inv) : Bool :=
  (s.ochres.all fun p => p.2.walks.all fun w => !(w.stale && w.cid == b.cid)) &&
  (b.tids.all fun t => s.fab.reqs.all fun r => r.tid != t) &&
  (b.owed.all fun f => (s.root f.1).atsOwed.all fun a => a.tag != f.2) &&
  b.mmio.all fun h => (s.root h.1).held.all fun x => x.id != h.2

/-- The oldest broadcast, once its conditions hold, adds 1 to its sync object (11 R223). -/
def effInvalidationComplete (s : State) : State :=
  match s.xlt.flying with
  | [] => s
  | b :: q => if s.invDone b then ({ s with xlt := { s.xlt with flying := q } }).signal b.so.toNat 1 else s

def execInvalidationComplete (s : State) : Host.Outcome State Fault Refusal := s.live effInvalidationComplete

/-! ### Resolving a fault record -/

/-- The pending record of a die under an identifier (11 R228). -/
def State.faultOf (s : State) (d : Nat) (fid : BitVec 16) : Option FaultRec := (s.ochre d).faults.find? fun f => f.fid == fid
def State.dropFault (s : State) (d : Nat) (fid : BitVec 16) : State :=
  let o := s.ochre d
  s.setOchre d { o with faults := o.faults.filter fun f => f.fid != fid }

/-- Entries of a die's caches that cover a record's granule are dropped (11 R228). -/
def State.dropGranule (s : State) (d : Nat) (f : FaultRec) : State :=
  let keep : XEntry → Bool := fun e => !(e.cid == f.cid && e.start < f.va + 2 ^ 16 && f.va < e.start + e.length)
  let o := s.ochre d
  let s := s.setOchre d { o with xc := o.xc.filter keep }
  s.mapCells fun g c => if g / 64 = d then { c with xc := c.xc.filter keep } else c

/-- Whether a wait is on a record's granule. -/
def CoreWait.on (w : CoreWait) (va : Nat) : Bool := w = .faultOn va
def ThreadWait.on (w : ThreadWait) (va : Nat) : Bool := w = .faultOn va

/-- The PRG response of a PRI record (11 R228, R230). -/
def State.prgAnswer (s : State) (f : FaultRec) (ok : Bool) : State :=
  if f.cause = 2 then
    let p := f.req.toNat % 4
    s.setRoot p { s.root p with prg := (s.root p).prg ++ [(f.prg, ok)] }
  else s

/-- A cell's requesters of a CID that wait on a granule go on (11 R228). -/
def Cell.wake (c : Cell) (cid : Cid) (va : Nat) : Cell :=
  let own := c.job.any fun j => j.cid == cid
  { c with
    core := if own && c.core.wait.on va then { c.core with wait := .running } else c.core
    str := if own && c.str.stall == some va then { c.str with stall := none } else c.str
    blocks := c.blocks.map fun b =>
      if b.cid == cid then { b with threads := b.threads.map fun t => if t.wait.on va then { t with wait := .none } else t } else b }

/-- Rings and commands of a die that wait on a granule go on. -/
def State.wakeRings (s : State) (d : Nat) (cid : Cid) (va : Nat) : State :=
  let s := s.mapRings fun r x => if r / 256 = d && x.cid == cid && x.stall == some va then { x with stall := none } else x
  { s with cmds := s.cmds.map fun c => if c.ring / 256 = d && c.cid == cid && c.stall == some va then { c with stall := none } else c }

/-- The engines, cores, threads and rings of a die that wait on a granule wait on its oldest pending record: a PRI record written after it
has its own answer alone (11 R227, R228; log 46). -/
def State.waitsOn (s : State) (d : Nat) (f : FaultRec) : Bool :=
  ((s.ochre d).faults.find? fun x => x.cid == f.cid && x.va == f.va) == some f

/-- RETRY (11 R228). -/
def effXltResumeRetry (d : DieId) (fid : BitVec 16) (s : State) : State :=
  match s.faultOf d fid with
  | none => s
  | some f =>
    let waited := s.waitsOn d f
    let s := ((s.dropFault d fid).dropGranule d f).prgAnswer f true
    if !waited then s else
    let s := s.mapCells fun g c => if g / 64 = d.val then c.wake f.cid f.va else c
    s.wakeRings d f.cid f.va

def execXltResumeRetry (d : DieId) (fid : BitVec 16) (s : State) : Host.Outcome State Fault Refusal :=
  s.live (effXltResumeRetry d fid)

/-- A cell's requesters that wait on a granule end with E_ACCESS (11 R228). -/
def State.abortWaiters (s : State) (g : Nat) (cid : Cid) (va : Nat) : State :=
  let c := s.cell g
  let s := if (c.job.any fun j => j.cid == cid) && (c.core.wait.on va || c.str.stall == some va) then s.endItem g stAccess else s
  let c := s.cell g
  s.setCell g { c with blocks := c.blocks.map fun b =>
    if b.cid == cid && b.threads.any fun t => t.wait.on va then b.endWith stAccess else b }

/-- A command of a ring as it is read, with its slots (13 R436). -/
def freshCmd (r : Nat) (seq : Word) (cid : Cid) (slots : List (List Byte)) (time : DWord) : Cmd :=
  { ring := r, seq := seq, cid := cid, slots := slots, stage := .fetched, status := stOk, strict := false, params := [], total := 0,
    next := 0, ended := 0, ok := 0, firstBad := none, partWrites := false, ctxFault := false, longOvf := false, stopped := false,
    obs := none, tint := none, counts := [], startTime := time, recTime := time, passed := false, moved := 0, sealBad := false, due := [],
    sent := false, stall := none }

/-- The read of a slot fails: the command of that slot completes with the status (13 R436). -/
def State.failFetch (s : State) (r : Nat) (st : Status) : State :=
  let x := s.ring r
  let slots := if x.own.isEmpty then [] else [x.own]
  let c := { freshCmd r x.fetch x.cid slots s.time with stage := .finished, status := st }
  let n := BitVec.ofNat 32 (slotSpan x.own)
  let s := s.endErrand (.ring r x.fetch)
  { s.setRing r { x with stall := none, own := [], fetch := x.fetch + n } with cmds := s.cmds ++ [c] }

/-- A dispatch unit that waits on a granule takes E_ACCESS: its descriptor read, its command's table read or store fails, or its
record cannot be written (11 R228, 13 R436, R438; log 19). -/
def State.abortDispatch (s : State) (d : Nat) (cid : Cid) (va : Nat) : State :=
  let s := s.cmds.foldl (fun s c =>
    if c.ring / 256 = d && c.cid == cid && c.stall == some va then
      match c.stage with
      | .recording => (s.setCmd { c with due := c.due.drop 1, stall := none }).ringFails c.ring fun x => { x with recFail := true }
      | _ => s.setCmd { c with stage := .finished, status := stAccess, stall := none }
    else s) s
  (List.range 256).foldl (fun s i =>
    let r := 256 * d + i
    let x := s.ring r
    if x.cid == cid && x.stall == some va then
      s.failFetch r stAccess
    else s) s

/-- ABORT (11 R228). -/
def effXltResumeAbort (d : DieId) (fid : BitVec 16) (s : State) : State :=
  match s.faultOf d fid with
  | none => s
  | some f =>
    let waited := s.waitsOn d f
    let s := (s.dropFault d fid).prgAnswer f false
    if !waited then s else
    let s := (List.range 64).foldl (fun s n => s.abortWaiters (64 * d.val + n) f.cid f.va) s
    s.abortDispatch d f.cid f.va

def execXltResumeAbort (d : DieId) (fid : BitVec 16) (s : State) : Host.Outcome State Fault Refusal :=
  s.live (effXltResumeAbort d fid)

end Sys2Proof.Machine
end

