-- ==== Sys2Proof/Machine/FabSend.lean ====
section
/-! DEFINITION. Requests to other packages (14 R293-R298): the edge table, routes, identifiers, packets; and what a host core does with its
stores, loads and exceptions around them (12 R242-R249). -/

namespace Sys2Proof.Machine

/-- Words of the fabric registers in force (14 R305). -/
def State.fabReg (s : State) (o : Nat) : Nat := (s.reg (umberBar 0 + o)).toNat
def State.edgeBase (s : State) : Nat := bitsOf (s.reg64 (umberBar 0 + 0x8010)).toNat 43 4 * 16
def State.rsetBase (s : State) : Nat := bitsOf (s.reg64 (umberBar 0 + 0x8020)).toNat 43 5 * 32
def State.edgeCount (s : State) : Nat := s.fabReg 0x8018 % 2 ^ 21
def State.epoch (s : State) : Word := BitVec.ofNat 32 (s.fabReg 0x8000)
def State.jobCid (s : State) : Cid := BitVec.ofNat 16 (s.fabReg 0x800C)

/-- Edge-table entry of a rank: E_RANGE when the rank is unmapped, E_MEM_UE when the entry is uncorrectable (14 R294, 18 R363). -/
def State.edgeAddr (s : State) (rank : Nat) : Nat := s.edgeBase + 16 * rank
def State.edgeOf (s : State) (rank : Nat) : Except Status Nat :=
  let a := s.edgeAddr rank
  if rank < s.edgeCount && s.mapped a && s.ownOk 0 false a 16 then
    if s.brokenIn a 16 then .error stMemUe
    else
      let v := s.readNat a 16
      if bitOf v 20 then .ok v else .error stRange
  else .error stRange
def State.edge (s : State) (rank : Nat) : Option Nat := (s.edgeOf rank).toOption

/-- The four routes of a route set, none of a set that is not memory of CID 0; an uncorrectable set is refused (14 R295, 18 R363). -/
def State.setAddr (s : State) (rset : Nat) : Nat := s.rsetBase + 32 * rset
def State.setBroken (s : State) (rset : Nat) : Bool :=
  s.mapped (s.setAddr rset) && s.ownOk 0 false (s.setAddr rset) 32 && s.brokenIn (s.setAddr rset) 32
def State.routes (s : State) (rset : Nat) : List Nat :=
  let a := s.setAddr rset
  if s.mapped a && s.ownOk 0 false a 32 && !s.brokenIn a 32 then (List.range 4).map fun i => s.readNat (a + 8 * i) 8 else []

/-- Mode in force of an Isobar port: 0 ISOBAR, 1 ETHERNET, 2 OFF (14 R289). -/
def State.portMode (s : State) (p : Nat) : Nat := (s.reg (umberBar (p / 10) + 0x8800 + 8 * (p % 10))).toNat % 4

/-- A port that is up and in ISOBAR mode (14 R296, R297). -/
def State.portUp (s : State) (p : Nat) : Bool := p < 20 && (s.port p).width ≠ 0 && !(s.port p).training && s.portMode p = 0

/-- Output port of hop h of a route (14 R295). -/
def hopPort (route h : Nat) : Nat := route / 2 ^ (5 * h) % 32

/-- The usable routes of a set, and the one that a destination and an address choose (14 R296). -/
def State.usable (s : State) (rset : Nat) : List Nat := (s.routes rset).filter fun r => bitOf r 43 && s.portUp (hopPort r 0)
def routePos (station addr count : Nat) : Nat :=
  let a := addr / 2 ^ 8 % 2 ^ 36
  let f := (a ^^^ (a / 2 ^ 16) ^^^ (a / 2 ^ 32)) % 2 ^ 16
  let d := (station ^^^ (station / 2 ^ 16)) % 2 ^ 16
  (f ^^^ d) % count
def State.chooseRoute (s : State) (rset station addr : Nat) : Option Nat :=
  let rs := s.usable rset
  if rs.isEmpty then none else some (rs.getD (routePos station addr rs.length) 0)

/-- A packet leaves by the port of its hop: HOP rises, and the virtual lane after a global hop; one whose next port is not up or
whose lane would exceed 2 is dropped and counted at the port it came by (14 R297). -/
def State.emit (s : State) (at_ : Nat) (cid : Option Cid) (k : Packet) : State :=
  let h := k.hop.toNat
  let p := hopPort k.route.toNat h
  let vl := k.vl.toNat + (bitOf k.gmask.toNat h).toNat
  if !s.portUp p || 2 < vl then s.setPort at_ { s.port at_ with drops := (s.port at_).drops + 1 }
  else
    let s := s.count (4 + p / 10) (if k.cls = 3 then 0x26 else 0x25) cid (48 + k.data.length)
    { s with fab := { s.fab with outbox := s.fab.outbox ++ [(p, { k with hop := k.hop + 1, vl := BitVec.ofNat 2 vl })] } }

/-- A transaction identifier of an Umber die that no outstanding request uses, and the counter after it (14 R298). -/
def State.freshTid (s : State) (u : Nat) : Option (BitVec 16) :=
  let now := if u = 0 then s.fab.tid0 else s.fab.tid1
  let mine := s.fab.reqs.filter fun r => r.tid.toNat / 32768 = u
  if 8192 ≤ mine.length then none
  else
    ((List.range 8193).map fun i => BitVec.ofNat 16 (32768 * u + (now.toNat + i) % 32768)).find? fun t =>
      mine.all fun r => r.tid != t

def State.onFab (s : State) (f : Fabric → Fabric) : State := { s with fab := f s.fab }

/-- Operation code of a request (14 R298). -/
def ioOp (a : IoAccess) : BitVec 6 :=
  match a with
  | .read _ => 0x01
  | .write _ => 0x02
  | .atomic .. => 0x03

/-- Code of an atomic function in a packet: that of a thread word (09 R184; the manual gives none for packets). -/
def atomicCode : AtomicFn → Nat
  | .add => 0
  | .smin => 1
  | .smax => 2
  | .umin => 3
  | .umax => 4
  | .and => 5
  | .or => 6
  | .xor => 7
  | .exch => 8
  | .cas => 9

/-- Data that a request carries; that of an atomic has the model's own layout (log 26). -/
def ioData (a : IoAccess) : List Byte :=
  match a with
  | .write bs => bs
  | .atomic fn d x y => leBytes 8 x.toNat ++ leBytes 8 y.toNat ++ leBytes 1 (atomicCode fn + 16 * d.toNat)
  | .read _ => []

/-- LEN32 of a request: units of 32 bytes of its data, or of what it reads (14 R298). -/
def ioLen32 (a : IoAccess) : Nat :=
  match a with
  | .write bs => (bs.length + 31) / 32
  | .atomic .. => 1
  | .read n => (n + 31) / 32

/-- The next IV of Umber die u under a key: SRC_STATION, the die, a counter (17 R359). -/
def ivDflt (_ : Nat) : DWord := 0
def State.ivOf (s : State) (src : BitVec 20) (u : Nat) (mgmt : Bool) : BitVec 96 :=
  src ++ (BitVec.ofNat 12 (u * 2 ^ 11)) ++ tabGet ivDflt (if mgmt then s.sec.mgmtIv else s.sec.epochIv) u

def State.nextIv (s : State) (u : Nat) (mgmt : Bool) : BitVec 96 := s.ivOf s.pins.stn u mgmt

/-- The key of a packet that this package seals: the epoch's, while the package holds it (14 R298, 17 R359). -/
def State.sealKey (s : State) : TagKey := if s.sec.epochKey.any fun e => e.1 == s.epoch then .epochKey else .none

/-- The packet of a request (14 R298). -/
def State.requestPacket (s : State) (r : FabReq) (route : Nat) : Packet :=
  { ver := 1, cls := 0, vl := 0, op := ioOp r.access, priv := r.priv, epoch := s.epoch, dst := r.station, src := s.pins.stn,
    dstRank := r.rank, srcRank := BitVec.ofNat 20 s.rank, tid := r.tid, hop := 0, nhopm1 := BitVec.ofNat 3 (route / 2 ^ 40),
    route := BitVec.ofNat 40 route, gmask := BitVec.ofNat 8 (route / 2 ^ 44), addr := BitVec.ofNat 44 r.addr, resv := false,
    len32 := BitVec.ofNat 5 (ioLen32 r.access), iv := s.nextIv (hopPort route 0 / 10) false, tag := s.sealKey,
    data := ioData r.access }

/-- A package seals one more packet under a key at Umber die u: the IV's counter rises (17 R359). -/
def State.sealPacket (s : State) (u : Nat) (mgmt : Bool) : State :=
  let x := s.sec
  { s with sec := if mgmt then { x with mgmtIv := tabSet ivDflt x.mgmtIv u (tabGet ivDflt x.mgmtIv u + 1) }
                  else { x with epochIv := tabSet ivDflt x.epochIv u (tabGet ivDflt x.epochIv u + 1) } }

/-- Outcome of handing a request to the fabric. -/
inductive Sent where
  | sent
  | bad (st : Status)
  | stall
deriving DecidableEq, Repr

/-- The command that a fabric request serves. -/
def FabWho.cmd : FabWho → Option (Nat × Word)
  | .cell _ r q .. | .thread _ r q .. | .stream _ r q .. | .command r q => some (r, q)
  | .area _ c => c
  | _ => none

/-- The record of an uncorrectable edge entry or route set that a request needs (18 R363). -/
def State.edgeBad (s : State) (cid : Cid) (who : Option (Nat × Word)) (rank : Nat) : State :=
  match s.edgeOf rank with
  | .error st => if st = stMemUe then s.ueRecord cid (s.edgeAddr rank) 16 who else s
  | .ok _ => s

/-- Send one request to the package that serves a global address (14 R293-R298). -/
def State.fabSend (s : State) (die : Nat) (who : FabWho) (cid : Cid) (addr : Nat) (acc : IoAccess) : State × Sent :=
  let rank := addr / 2 ^ 44 - 1
  match s.edgeOf rank with
  | .error st => (s.edgeBad cid who.cmd rank, .bad st)
  | .ok e =>
    let station := e % 2 ^ 20
    let rset := bitsOf e 39 24
    if s.setBroken rset then (s.ueRecord cid (s.setAddr rset) 32 who.cmd, .bad stMemUe)
    else match s.chooseRoute rset station addr with
    | none => (s, .bad stLink)
    | some route =>
      let u := hopPort route 0 / 10
      if s.fab.heldTo.contains (u, BitVec.ofNat 20 station) then (s, .stall)
      else match s.spanWay die (4 + u) addr (accBytes acc) with
        | .cut => (s, .bad stLink)
        | .stall => (s, .stall)
        | .clear =>
          match s.freshTid u with
          | none => (s, .stall)
          | some t =>
            let r : FabReq := { tid := t, who := who, station := BitVec.ofNat 20 station, rank := BitVec.ofNat 20 rank, route := route,
                                priv := bitOf e 21, resent := false, wrong := false, heard := false, cid := cid, addr := addr, access := acc }
            let s := s.onFab fun f => { f with reqs := f.reqs ++ [r], tid0 := if u = 0 then BitVec.ofNat 16 ((t.toNat + 1) % 32768) else f.tid0,
                                               tid1 := if u = 0 then f.tid1 else BitVec.ofNat 16 (32768 + (t.toNat + 1) % 32768) }
            ((s.sealPacket u false).emit (hopPort route 0) (some cid) (s.requestPacket r route), .sent)

/-- Isobar payload bytes of a command (20 R391 count 7). -/
def sentBytes (acc : IoAccess) : Nat := 48 + (ioData acc).length

/-- The packets of a span, as address and length: each lies in one aligned block of 256 bytes, so that all requests to a block take one path
and one route (DEDUCED, log 26: 01 R14, 14 R296). -/
def packetPieces (a n : Nat) : List (Nat × Nat) := blocksOf a n

/-- Send every packet of a read; off is where its first byte belongs. -/
def State.fabReads (s : State) (w : Requester) (mk : Nat → FabWho) (cid : Cid) (off a : Nat) : List (Nat × Nat) → State × Sent
  | [] => (s, .sent)
  | (p, n) :: ps =>
    match s.fabSend w.die (mk (off + (p - a))) cid p (.read n) with
    | (s, .sent) => State.fabReads (s.tally w.cmd 7 (sentBytes (.read n))) w mk cid off a ps
    | r => r

/-- Send every packet of a write. -/
def State.fabWrites (s : State) (w : Requester) (who : FabWho) (cid : Cid) (a : Nat) (bs : List Byte) : List (Nat × Nat) → State × Sent
  | [] => (s, .sent)
  | (p, n) :: ps =>
    let acc := IoAccess.write ((bs.drop (p - a)).take n)
    match s.fabSend w.die who cid p acc with
    | (s, .sent) => State.fabWrites (s.tally w.cmd 7 (sentBytes acc)) w who cid a bs ps
    | r => r

/-! ### Host cores -/

/-- Umber die of a host core, and its requester record. -/
def hostDie (c : Nat) : Nat := 4 + c / 48

/-- A host core takes a precise exception, once the stores older than it have committed (10 R187, 12 R249). -/
def State.trap (s : State) (c : Nat) (t : HostTrap) : State := s.setHost c ((s.host c).takes t)

/-- A host core retires an instruction (20 R387). -/
def State.hostRetires (s : State) (c : Nat) : State := s.count (hostDie c) 0x20 (some 0) 1

/-- A host core's load or atomic retires with the value that it returns. -/
def State.loaded (s : State) (c v : Nat) : State := (s.setHost c { s.host c with loaded := BitVec.ofNat 64 v }).hostRetires c

/-- A host store fails beyond the core: dropped, with its record and interrupt (12 R244). -/
def State.dropStore (s : State) (c a : Nat) : State :=
  s.logError (hostDie c) { plainEvent 0x22 .event c 0 with addr := BitVec.ofNat 64 a, cid := 0 }

/-- The exception of a host access that the fabric refuses: of an unmapped rank an access fault, of uncorrectable data a machine check (10
R187, 18 R363). -/
def hostTrapOf (st : Status) : HostTrap := if st = stMemUe then .machineCheck else .accessFault

/-- The stores of a core's store buffer leave, oldest first, as far as the fabric takes them and no load or atomic older than they are is
outstanding; one that the fabric refuses is dropped (12 R242, R244, R249). An exception that awaited them is taken. -/
def State.drainBuffer (s : State) (c : Nat) : List (Nat × List Byte) → State
  | [] => if (s.host c).due.isSome then s.setHost c (s.host c).settle else s
  | (a, bs) :: rest =>
    if s.hostOwed c then s
    else match s.fabSend (hostDie c) (.host c false) 0 a (.write bs) with
    | (t, .sent) => State.drainBuffer (t.setHost c { t.host c with buffer := rest }) c rest
    | (t, .bad _) => State.drainBuffer ((t.setHost c { t.host c with buffer := rest }).dropStore c a) c rest
    | (_, .stall) => s

/-- Station of a rank and the route toward it by the staged tables, 0 where they give none (14 R294-R296; log 26). -/
def State.mgmtRoute (s : State) (rank : Nat) : Nat × Nat :=
  let word := fun o => (s.shadowOf (umberBar 0 + o + 4) ++ s.shadowOf (umberBar 0 + o) : DWord).toNat
  let a := bitsOf (word 0x8010) 43 4 * 16 + 16 * rank
  let e := if rank < (s.shadowOf (umberBar 0 + 0x8018)).toNat % 2 ^ 21 && s.spanMapped a 16 && !s.brokenIn a 16 then s.readNat a 16 else 0
  let r := bitsOf (word 0x8020) 43 5 * 32 + 32 * bitsOf e 39 24
  let rs := if bitOf e 20 && s.spanMapped r 32 && !s.brokenIn r 32 then
      ((List.range 4).map fun i => s.readNat (r + 8 * i) 8).filter fun v => bitOf v 43 && s.portUp (hopPort v 0)
    else []
  (e % 2 ^ 20, rs.getD (routePos (e % 2 ^ 20) 0 rs.length) 0)

/-- Every store buffer drains as far as it goes. -/
def State.drainBuffers (s : State) : State := s.hosts.foldl (fun s p => s.drainBuffer p.1 p.2.buffer) s

end Sys2Proof.Machine
end

