-- ==== Sys2Proof/Machine/Numbers.lean ====
section
/-! DEFINITION. Number formats (02) and exact arithmetic: a value is an exact rational, and every rounding is one rounding to
nearest, ties to even (02 R34). -/

namespace Sys2Proof.Machine

/-- The element formats (02 R21). -/
inductive Fmt where
  | f8a | f8b | w4f | w4i | w4u | i8 | u8 | bf16 | fp16 | fp32 | fp64 | long
deriving DecidableEq, Repr

/-- Format of a 4-bit format code; reserved codes have none (02 R21). -/
def Fmt.ofCode : Nat → Option Fmt
  | 0x0 => some .f8a
  | 0x1 => some .f8b
  | 0x2 => some .w4f
  | 0x3 => some .w4i
  | 0x4 => some .w4u
  | 0x5 => some .i8
  | 0x6 => some .u8
  | 0x7 => some .bf16
  | 0x8 => some .fp16
  | 0x9 => some .fp32
  | 0xA => some .fp64
  | 0xB => some .long
  | _ => none

/-- Bits per element (02 R21). -/
def Fmt.bits : Fmt → Nat
  | .f8a | .f8b | .i8 | .u8 => 8
  | .w4f | .w4i | .w4u => 4
  | .bf16 | .fp16 => 16
  | .fp32 => 32
  | .fp64 => 64
  | .long => 128

/-- Float class (02 R21). -/
def Fmt.isFloat : Fmt → Bool
  | .f8a | .f8b | .w4f | .bf16 | .fp16 | .fp32 | .fp64 => true
  | _ => false

/-- Integer class (02 R21). -/
def Fmt.isInt : Fmt → Bool
  | .w4i | .w4u | .i8 | .u8 => true
  | _ => false

/-- IEEE formats and BF16: they have infinities, NaN and signed zeros (02 R30, R31). -/
def Fmt.isIeee : Fmt → Bool
  | .bf16 | .fp16 | .fp32 | .fp64 => true
  | _ => false

/-- Significand bits, the hidden one included (02 R23-R30). -/
def Fmt.prec : Fmt → Nat
  | .f8a => 4
  | .f8b => 3
  | .w4f => 2
  | .bf16 => 8
  | .fp16 => 11
  | .fp32 => 24
  | .fp64 => 53
  | _ => 1

/-- Exponent of the smallest subnormal (02 R23-R30). -/
def Fmt.qmin : Fmt → Int
  | .f8a => -10
  | .f8b => -17
  | .w4f => -1
  | .bf16 => -133
  | .fp16 => -24
  | .fp32 => -149
  | .fp64 => -1074
  | _ => 0

/-- Weight of the last significand bit in the top binade (02 R35). -/
def Fmt.qmax : Fmt → Int
  | .f8a => 4
  | .f8b => 13
  | .w4f => 1
  | .bf16 => 120
  | .fp16 => 5
  | .fp32 => 104
  | .fp64 => 971
  | _ => 0

/-- Code of the largest finite magnitude (02 R35). -/
def Fmt.maxCode (f : Fmt) : Nat := 2 ^ f.prec - 1 + (f.qmax - f.qmin).toNat * 2 ^ (f.prec - 1)

/-- The sign bit of a float format. -/
def Fmt.signBit (f : Fmt) : Nat := 2 ^ (f.bits - 1)

/-- NaN as written: 0x80 in F8A and F8B, the canonical NaN of R31, +6 in W4F (02 R25, R31, R41). -/
def Fmt.nanCode : Fmt → Nat
  | .f8a | .f8b => 0x80
  | .w4f => 0x7
  | .bf16 => 0x7FC0
  | .fp16 => 0x7E00
  | .fp32 => 0x7FC00000
  | .fp64 => 0x7FF8000000000000
  | _ => 0

/-- Code range of an integer format (02 R21, R29). -/
def Fmt.range : Fmt → Int × Int
  | .w4i => (-8, 7)
  | .w4u => (0, 15)
  | .i8 => (-128, 127)
  | .u8 => (0, 255)
  | _ => (0, 0)

/-- Whether a zero point is within the bounds of its format (02 R45). -/
def Fmt.zpOk (f : Fmt) (z : Int) : Bool :=
  if f.isInt then f.range.1 ≤ z && z ≤ f.range.2 else z == 0

/-- Integer of an integer-format code (02 R28, R29). -/
def Fmt.intOf (f : Fmt) (code : Nat) : Int :=
  match f with
  | .w4i => if code % 16 < 8 then (code % 16 : Nat) else (code % 16 : Nat) - 16
  | .w4u => (code % 16 : Nat)
  | .i8 => if code % 256 < 128 then (code % 256 : Nat) else (code % 256 : Nat) - 256
  | .u8 => (code % 256 : Nat)
  | _ => 0

/-- Code of an integer already in range. -/
def Fmt.intCode (f : Fmt) (v : Int) : Nat := (v % (2 ^ f.bits : Nat)).toNat

/-- An exact value: NaN, an infinity, or ± n/d × 2^e with d > 0; zero keeps its sign (02 R31, 03 R59 exact_t). -/
inductive Num where
  | nan
  | inf (neg : Bool)
  | fin (neg : Bool) (n d : Nat) (e : Int)
deriving DecidableEq, Repr

/-- Plus zero. -/
def Num.zero : Num := .fin false 0 1 0

/-- An integer times a power of two. -/
def Num.ofInt (m : Int) (e : Int) : Num := .fin (m < 0) m.natAbs 1 e

/-- Value of a float code (02 R23-R31). -/
def Fmt.value (f : Fmt) (code : Nat) : Num :=
  let mag := code % f.signBit
  let neg := code / f.signBit % 2 = 1
  let p := f.prec
  if f.isIeee then
    if mag > f.maxCode + 1 then .nan
    else if mag = f.maxCode + 1 then .inf neg
    else if mag < 2 ^ p then .fin neg mag 1 f.qmin
    else .fin neg (mag - (mag / 2 ^ (p - 1) - 1) * 2 ^ (p - 1)) 1 (f.qmin + ((mag / 2 ^ (p - 1) - 1 : Nat) : Int))
  else if mag = 0 then
    if neg && (f = .f8a || f = .f8b) then .nan else .zero
  else if mag < 2 ^ p then .fin neg mag 1 f.qmin
  else .fin neg (mag - (mag / 2 ^ (p - 1) - 1) * 2 ^ (p - 1)) 1 (f.qmin + ((mag / 2 ^ (p - 1) - 1 : Nat) : Int))

/-- 2^e as numerator and denominator. -/
def pow2Num (e : Int) : Nat := 2 ^ e.toNat
def pow2Den (e : Int) : Nat := 2 ^ (-e).toNat

/-- n/d rounded to the nearest integer, ties to even (02 R34). -/
def rneDiv (n d : Nat) : Nat :=
  let q := n / d
  let r := n % d
  if 2 * r < d then q else if d < 2 * r then q + 1 else q + q % 2

/-- ⌊log₂(n/d)⌋ for n, d > 0. -/
def ilog2 (n d : Nat) : Int :=
  let k : Int := (Nat.log2 n : Int) - (Nat.log2 d : Int)
  if n * pow2Den k < d * pow2Num k then k - 1 else k

/-- What an overflow of a rounding gives (02 R36, R37). -/
inductive OvfMode where
  | sat | strict | ieee
deriving DecidableEq, Repr

/-- A written element: its code, and whether it counts as saturated or as NaN (02 R40). -/
structure Written where
  code : Nat
  sat  : Bool
  nan  : Bool
deriving DecidableEq, Repr

/-- A NaN written in a float format. -/
def Fmt.writeNan (f : Fmt) : Written := { code := f.nanCode, sat := false, nan := true }

/-- A sign applied to a magnitude code. -/
def Fmt.signed (f : Fmt) (neg : Bool) (mag : Nat) : Nat :=
  if neg && (f.isIeee || mag ≠ 0) then mag + f.signBit else mag

/-- The overflow result of a float format (02 R36, R37). -/
def Fmt.overflow (f : Fmt) (m : OvfMode) (neg : Bool) : Written :=
  match m with
  | .ieee => { code := f.signed neg (f.maxCode + 1), sat := false, nan := false }
  | .sat => { code := f.signed neg f.maxCode, sat := true, nan := false }
  | .strict =>
    if f.isIeee then { code := f.signed neg (f.maxCode + 1), sat := true, nan := false }
    else if f = .w4f then { code := f.signed neg f.maxCode, sat := true, nan := false }
    else { code := 0x80, sat := true, nan := true }

/-- One rounding of a finite magnitude n/d × 2^e to a float format (02 R34, R35): the significand and its exponent, with no
upper bound. -/
def Fmt.roundMag (f : Fmt) (n d : Nat) (e : Int) : Nat × Int :=
  if n = 0 then (0, f.qmin)
  else
    let top := ilog2 n d + e
    let q := max (top - ((f.prec : Int) - 1)) f.qmin
    (rneDiv (n * pow2Num (e - q)) (d * pow2Den (e - q)), q)

/-- Round to a float format once (02 R34-R37, R41 for NaN and infinities of a conversion). -/
def Fmt.round (f : Fmt) (m : OvfMode) (v : Num) : Written :=
  match v with
  | .nan => f.writeNan
  | .inf neg =>
    if f.isIeee then { code := f.signed neg (f.maxCode + 1), sat := false, nan := false }
    else if f = .w4f then { code := f.signed neg f.maxCode, sat := false, nan := true }
    else f.writeNan
  | .fin neg n d e =>
    let (k, q) := f.roundMag n d e
    let mag := k + (q - f.qmin).toNat * 2 ^ (f.prec - 1)
    if mag > f.maxCode then f.overflow m neg else { code := f.signed neg mag, sat := false, nan := false }

/-- Exact product (IEEE 754 for zeros, infinities and NaN). -/
def Num.mul : Num → Num → Num
  | .nan, _ | _, .nan => .nan
  | .inf a, .inf b => .inf (a != b)
  | .inf a, .fin b n _ _ | .fin b n _ _, .inf a => if n = 0 then .nan else .inf (a != b)
  | .fin a n d e, .fin b n' d' e' => .fin (a != b) (n * n') (d * d') (e + e')

/-- Signed numerator over d × d' at exponent e. -/
def Num.sumNum (a : Bool) (n d : Nat) (e : Int) (b : Bool) (n' d' : Nat) (e' : Int) : Int × Nat × Int :=
  let q := min e e'
  let x : Int := (n * d' * pow2Num (e - q) : Nat)
  let y : Int := (n' * d * pow2Num (e' - q) : Nat)
  ((if a then -x else x) + (if b then -y else y), d * d', q)

/-- Exact sum; an exact zero from unlike signs is +0 (IEEE 754, round to nearest). -/
def Num.add : Num → Num → Num
  | .nan, _ | _, .nan => .nan
  | .inf a, .inf b => if a = b then .inf a else .nan
  | .inf a, .fin .. | .fin .., .inf a => .inf a
  | .fin a n d e, .fin b n' d' e' =>
    if n = 0 && n' = 0 then .fin (a && b) 0 1 0
    else
      let (s, dd, q) := Num.sumNum a n d e b n' d' e'
      .fin (s < 0) s.natAbs dd q

/-- Sign inverted; NaN stays NaN. -/
def Num.neg : Num → Num
  | .nan => .nan
  | .inf a => .inf (!a)
  | .fin a n d e => .fin (!a) n d e

/-- Sign cleared. -/
def Num.abs : Num → Num
  | .nan => .nan
  | .inf _ => .inf false
  | .fin _ n d e => .fin false n d e

/-- Exact quotient (IEEE 754 for zeros, infinities and NaN). -/
def Num.div : Num → Num → Num
  | .nan, _ | _, .nan => .nan
  | .inf _, .inf _ => .nan
  | .inf a, .fin b _ _ _ => .inf (a != b)
  | .fin a _ _ _, .inf b => .fin (a != b) 0 1 0
  | .fin a n d e, .fin b n' d' e' =>
    if n' = 0 then (if n = 0 then .nan else .inf (a != b))
    else .fin (a != b) (n * d') (d * n') (e - e')

/-- The largest s with s² ≤ n, from the bits of s below 2^k downward. -/
def isqrtFrom : Nat → Nat → Nat → Nat
  | 0, _, s => s
  | k + 1, n, s => isqrtFrom k n (if (s + 2 ^ k) * (s + 2 ^ k) ≤ n then s + 2 ^ k else s)

/-- ⌊√n⌋. -/
def isqrt (n : Nat) : Nat := isqrtFrom (Nat.log2 n / 2 + 1) n 0

/-- A value that rounds, to any format of this manual, as √(n/d × 2^e) does: 80 significant bits and a bit that says the rest is
not zero. -/
def sqrtMag (n d : Nat) (e : Int) : Nat × Int :=
  let top := ilog2 n d + e
  let k : Int := 80 - top / 2
  let a := n * pow2Num (e + 2 * k)
  let b := d * pow2Den (e + 2 * k)
  let s := isqrt (a / b)
  (2 * s + (if s * s * b = a then 0 else 1), -k - 1)

/-- Square root (IEEE 754): √−0 is −0, of a negative NaN. -/
def Num.sqrt : Num → Num
  | .nan => .nan
  | .inf a => if a then .nan else .inf false
  | .fin a n d e =>
    if n = 0 then .fin a 0 1 0
    else if a then .nan
    else let (s, q) := sqrtMag n d e
      .fin false s 1 q

/-- Comparison of non-NaN values; −0 and +0 are equal (03 R65). -/
def Num.lt : Num → Num → Bool
  | .nan, _ | _, .nan => false
  | .inf a, .inf b => a && !b
  | .inf a, .fin .. => a
  | .fin .., .inf b => !b
  | .fin a n d e, .fin b n' d' e' => (Num.sumNum a n d e (!b) n' d' e').1 < 0

/-- Order of MAX, MIN and the reductions: −0 lies below +0 (07 R134, R140). -/
def Num.below (x y : Num) : Bool :=
  match x, y with
  | .fin a 0 _ _, .fin b 0 _ _ => a && !b
  | _, _ => x.lt y

/-- Larger or smaller of two, NaN if either is (07 R134). -/
def Num.maxOf (x y : Num) : Num :=
  match x, y with
  | .nan, _ | _, .nan => .nan
  | _, _ => if x.below y then y else x

def Num.minOf (x y : Num) : Num :=
  match x, y with
  | .nan, _ | _, .nan => .nan
  | _, _ => if y.below x then y else x

def Num.isNan : Num → Bool
  | .nan => true
  | _ => false

def Num.isFinite : Num → Bool
  | .fin .. => true
  | _ => false

def Num.isZero : Num → Bool
  | .fin _ n _ _ => n == 0
  | _ => false

/-- A positive finite value other than zero (02 R44, R50). -/
def Num.isPosFinite : Num → Bool
  | .fin neg n _ _ => !neg && n != 0
  | _ => false

/-- Nearest integer, ties to even, of a finite value (02 R34). -/
def Num.toIntRne : Num → Int
  | .fin neg n d e =>
    let k : Int := (rneDiv (n * pow2Num e) (d * pow2Den e) : Nat)
    if neg then -k else k
  | _ => 0

/-- Round to an integer format: RNE, the zero point, saturation (02 R36, R42, 03 R66). -/
def Fmt.roundInt (f : Fmt) (zp : Int) (v : Num) : Written :=
  let (lo, hi) := f.range
  match v with
  | .nan => { code := f.intCode zp, sat := false, nan := true }
  | .inf neg => { code := f.intCode (if neg then lo else hi), sat := true, nan := false }
  | v =>
    let k := v.toIntRne + zp
    if k < lo then { code := f.intCode lo, sat := true, nan := false }
    else if hi < k then { code := f.intCode hi, sat := true, nan := false }
    else { code := f.intCode k, sat := false, nan := false }

/-- Conversion between float formats (02 R41). -/
def convert (src dst : Fmt) (m : OvfMode) (code : Nat) : Written := dst.round m (src.value code)

/-- Quantisation of a value (02 R42, R43). -/
def quantise (dst : Fmt) (m : OvfMode) (scale : Num) (zp : Int) (x : Num) : Written :=
  if dst.isInt then dst.roundInt zp (x.div scale) else dst.round m (x.div scale)

/-- Dequantisation of a code (02 R47); a float code has its own value (log 13). -/
def dequantise (src dst : Fmt) (m : OvfMode) (scale : Num) (zp : Int) (code : Nat) : Written :=
  if src.isInt then dst.round m ((Num.ofInt (src.intOf code - zp) 0).mul scale)
  else dst.round m ((src.value code).mul scale)

/-- FP32 and FP64 values of raw codes. -/
def fp32 (v : Nat) : Num := Fmt.fp32.value (v % 2 ^ 32)
def fp64 (v : Nat) : Num := Fmt.fp64.value (v % 2 ^ 64)

/-- Whether an FP32 code is a scale that R44 allows. -/
def scaleOk (v : Nat) : Bool := (fp32 v).isPosFinite

/-- Two's-complement reading of w bits. -/
def sInt (w v : Nat) : Int := if v % 2 ^ w < 2 ^ (w - 1) then (v % 2 ^ w : Nat) else ((v % 2 ^ w : Nat) : Int) - (2 ^ w : Nat)

end Sys2Proof.Machine
end

