-- ==== Sys2Proof/Machine/Links.lean ====
section
/-! DEFINITION. Package links in service: flits, retraining, losses (15 R316-R326). -/

namespace Sys2Proof.Machine

/-- Cells of a die leave CELL_EN (18 R372), with the requests of 18 R370. -/
def State.dropCells (s : State) (d : Nat) (mask : DWord) : State :=
  let o := s.ochre d
  let s := s.setOchre d { o with cellEn := o.cellEn &&& ~~~mask }
  s.request 19 true (9 ≤ 64 - popcount 64 (s.ochre d).cellEn.toNat)

/-- An Ochre die that no path joins to an Umber die is disabled with its cells (15 R323). -/
def State.disableDie (s : State) (d : Nat) : State :=
  if (s.ochre d).disabled || s.joined d then s
  else
    (s.degrade d d 0 fun s =>
      let s := s.setOchre d { s.ochre d with disabled := true }
      (s.dropCells d (BitVec.allOnes 64)).request 21 false true)

/-- Raw streams that were crossing a link, by the paths in force before it went DOWN, end their receiver with E_LINK (15 R322, 06 R123).
DESIGN CHOICE (log 66): a stream sent while its side link is DOWN already takes the path that replaces it. -/
def State.breakStreams (s before : State) (l : Nat) : State :=
  let mark : Nat → RawStream → RawStream := fun d x =>
    if ((before.path (x.src / 64) d false).getD []).contains l then { x with bad := stLink, bytes := [] } else x
  s.mapCells fun g c =>
    { c with matrix := { c.matrix with rawLo := c.matrix.rawLo.map (mark (g / 64)), rawHi := c.matrix.rawHi.map (mark (g / 64)) } }

/-- A COLLECTIVE that declares an exact reduction: a LONG sum (14 R306, R308). -/
def Cmd.exactSum (c : Cmd) : Bool := c.opcode = 8 && byteAt c.slot 36 ≤ 2 && Fmt.ofCode (byteAt c.slot 37) = some .long

/-- Exact reductions that were crossing a link, on the path between the engine's Umber die and the Ochre die of the command, end with E_LINK
and write no output (15 R322, 04 R72; log 66). -/
def State.breakSums (s before : State) (l : Nat) : State :=
  s.fab.colls.foldl (fun s x =>
    match s.cmd x.ring x.seq with
    | some c =>
      if c.exactSum && ((before.path (4 + x.u) (x.ring / 256) false).getD []).contains l then
        let s := s.setCmd { c with stage := .finished, status := if c.status = stOk then stLink else c.status, stall := none }
        { s with fab := { s.fab with colls := s.fab.colls.filter fun y => !(y.ring == x.ring && y.seq == x.seq) } }
      else s
    | none => s) s

/-- Pairs of dies whose path changes when a link goes DOWN (15 R322). -/
def State.changedPairs (before after : State) : List (Nat × Nat) :=
  (List.range 36).filterMap fun i =>
    let p := (i / 6, i % 6)
    if (before.path p.1 p.2 false ≠ after.path p.1 p.2 false || before.path p.1 p.2 true ≠ after.path p.1 p.2 true) &&
       (after.path p.1 p.2 false).isSome then some p else none

/-- The receiving end of a link that failed, whose log takes the link's records (18 R367; log 67). -/
def State.linkDie (s : State) (l : Nat) : Nat := if (s.link l).rxHigh then (linkEnds l).2 else (linkEnds l).1

/-- A link goes DOWN (15 R322, R323). -/
def State.linkDown (s : State) (l : Nat) : State :=
  let die := s.linkDie l
  let before := s
  let s := s.degrade die l 0 fun s =>
    (s.setLink l { s.link l with state := .down, groups := 0 }).request 21 false true
  let s := s.logError die (plainEvent 0x27 .event l 0)
  let s := (s.breakStreams before l).breakSums before l
  let new := before.changedPairs s
  let s := { s with links := { s.links with held := s.links.held ++ new.filter fun p => !s.links.held.contains p } }
  (List.range 4).foldl (fun s d => s.disableDie d) s

def PLink.dir (x : PLink) (toHigh : Bool) : LinkDir := if toHigh then x.hi else x.lo
def PLink.setDir (x : PLink) (toHigh : Bool) (d : LinkDir) : PLink := if toHigh then { x with hi := d } else { x with lo := d }

/-- A retraining starts; a link that is not UP is left alone (15 R319). -/
def State.startRetrain (s : State) (l : Nat) : State :=
  let x := s.link l
  if x.state = .up then s.setLink l { x with state := .retraining, hi := { x.hi with crc := 0 }, lo := { x.lo with crc := 0 } } else s

/-! ### Flits (15 R316, R318) -/

/-- The CRC of a flit, bytes 232-239, over its bytes 0-231; FEC has been applied to them (15 R316, R318; log 67). -/
def flitCrcOk (flit : List Byte) : Bool := (crc64 (flit.take 232)).toNat = field flit 232 8

/-- Fields of the link header, bytes 224-231 (15 R316). -/
def flitSeq (flit : List Byte) : BitVec 12 := BitVec.ofNat 12 (field flit 224 8)
def flitAck (flit : List Byte) : BitVec 12 := BitVec.ofNat 12 (field flit 224 8 / 2 ^ 12)
def flitNak (flit : List Byte) : Bool := bitOf (field flit 224 8) 24

/-- The UP group that follows a group in increasing order (15 R316). -/
def nextGroup (groups : BitVec 12) (g : Nat) : Nat :=
  ((List.range 12).find? fun k => g < k && bitOf groups.toNat k).getD (((List.range 12).find? fun k => bitOf groups.toNat k).getD 0)

/-- A flit that fails its CRC is not delivered: the receiver names it in a NAK, anew when it has been resent and fails again. A flit behind one
that the sender has not resent yet is not looked at (15 R318, R319). -/
def LinkDir.fail (d : LinkDir) : LinkDir :=
  if d.nak.isSome && d.resend.isNone then d else { d with crc := d.crc + 1, nak := some d.exp, resend := none }

/-- A good flit is delivered in its turn; one behind a flit that failed is not, since the sender resends from that flit on (15 R318). -/
def LinkDir.take (d : LinkDir) (seq : BitVec 12) : LinkDir :=
  if seq = d.exp && (d.exp - d.acked).toNat < 1024 then { d with crc := 0, exp := d.exp + 1, nak := none, resend := none } else d

/-- An acknowledgement frees the replay buffer of the direction that it answers, up to the next expected flit (15 R318; log 67). -/
def LinkDir.ack (d : LinkDir) (ack : BitVec 12) : LinkDir :=
  if (ack - d.acked).toNat ≤ (d.exp - d.acked).toNat then { d with acked := ack } else d

/-- The sender resends from a flit that the receiver has named and that its replay buffer holds (15 R318). -/
def PLink.replay (x : PLink) (toHigh : Bool) (seq : BitVec 12) : PLink :=
  let d := x.dir toHigh
  if d.nak = some seq && d.resend ≠ some seq then
    { x.setDir toHigh { d with resend := some seq } with replays := BitVec.ofNat 16 (satAdd 16 x.replays.toNat 1) }
  else x

/-- FLIT_RECEIVE: FEC, CRC, delivery or NAK; the header's acknowledgement is for the other direction; 16 failures in a row start a
retraining (15 R316, R318, R319). -/
def effFlitReceive (l : LinkId) (toHigh corrected : Bool) (flit : List Byte) (s : State) : State :=
  let x := s.link l
  if x.state ≠ .up || flit.length ≠ 256 then s
  else
    let x := if corrected then { x with fecCorr := BitVec.ofNat 16 (satAdd 16 x.fecCorr.toNat 1) } else x
    let d := x.dir toHigh
    let d := { d with group := nextGroup x.groups d.group }
    if flitCrcOk flit then
      let x := x.setDir toHigh (d.take (flitSeq flit))
      let x := x.setDir (!toHigh) ((x.dir (!toHigh)).ack (flitAck flit))
      s.setLink l (if flitNak flit then x.replay (!toHigh) (flitAck flit) else x)
    else
      if (d.fail).crc < 16 then s.setLink l (x.setDir toHigh d.fail)
      else (s.setLink l { x.setDir toHigh d.fail with rxHigh := toHigh }).startRetrain l

def execFlitReceive (l : LinkId) (toHigh corrected : Bool) (flit : List Byte) (s : State) : Host.Outcome State Fault Refusal :=
  s.live (effFlitReceive l toHigh corrected flit)

/-- NAK: the sender of a direction resends from the flit that its receiver names (15 R318). -/
def effNak (l : LinkId) (toHigh : Bool) (seq : BitVec 12) (s : State) : State :=
  if (s.link l).state ≠ .up then s else s.setLink l ((s.link l).replay toHigh seq)

def execNak (l : LinkId) (toHigh : Bool) (seq : BitVec 12) (s : State) : Host.Outcome State Fault Refusal :=
  s.live (effNak l toHigh seq)

def effLinkRetrain (l : LinkId) (s : State) : State := s.startRetrain l
def execLinkRetrain (l : LinkId) (s : State) : Host.Outcome State Fault Refusal := s.live (effLinkRetrain l)

def effRetrain (l : LinkId) (s : State) : State := s.startRetrain l
def execRetrain (l : LinkId) (s : State) : Host.Outcome State Fault Refusal := s.live (effRetrain l)

/-- Lane groups leave a link; the next flit of a direction comes on a group that is UP (15 R316). -/
def PLink.keep (x : PLink) (kept : BitVec 12) : PLink :=
  let on := fun (d : LinkDir) => if bitOf kept.toNat d.group then d else { d with group := nextGroup kept d.group }
  { x with groups := kept, hi := on x.hi, lo := on x.lo }

/-- A link keeps fewer groups in service, in the state that it has, or goes DOWN below its least width (15 R321, 18 R370, R372). -/
def State.narrowLink (s : State) (l : Nat) (kept : BitVec 12) : State :=
  let x := s.link l
  let n := popcount 12 kept.toNat
  let s := if popcount 12 x.groups.toNat = linkGroups l then s.request 20 true false else s
  if n < leastGroups l then s.linkDown l
  else
    let die := s.linkDie l
    let s := s.degrade die l n fun s =>
      let s := s.setLink l (x.keep kept)
      if 2 * n ≤ linkGroups l then s.request 21 false true else s
    s.logError die (plainEvent 0x27 .event l n)

/-- RETRAIN_COMPLETE: groups that pass stay (15 R320, R321). -/
def effRetrainComplete (l : LinkId) (pass : BitVec 12) (s : State) : State :=
  let x := s.link l
  let kept := x.groups &&& pass
  if x.state ≠ .retraining then s
  else
    let s := s.setLink l { x with state := .up }
    if kept = x.groups then s else s.narrowLink l kept

def execRetrainComplete (l : LinkId) (pass : BitVec 12) (s : State) : Host.Outcome State Fault Refusal :=
  s.live (effRetrainComplete l pass)

/-- RETRAIN_TIMEOUT (15 R319). -/
def effRetrainTimeout (l : LinkId) (s : State) : State := if (s.link l).state = .retraining then s.linkDown l else s
def execRetrainTimeout (l : LinkId) (s : State) : Host.Outcome State Fault Refusal := s.live (effRetrainTimeout l)

/-- PATH_RESUME: new messages between two dies go on over the new path (15 R322). -/
def effPathResume (src dst : Fin 6) (s : State) : State :=
  { s with links := { s.links with held := s.links.held.filter fun p => p != (src.val, dst.val) } }
def execPathResume (src dst : Fin 6) (s : State) : Host.Outcome State Fault Refusal := s.live (effPathResume src dst)

end Sys2Proof.Machine
end

