-- ==== Sys2Proof/Machine/Warm.lean ====
section
/-! DEFINITION. Host warm reset (12 R250, 13 R283-R284, 19 R376, 22 R424). -/

namespace Sys2Proof.Machine

/-- Host stores that cannot be committed at the warm reset, once the store buffers have drained: held toward a link, waiting for the
invalidation queue, or still in a store buffer (12 R250). -/
def State.stuckStores (s : State) : List (Nat × Nat) :=
  ((List.range 4).flatMap fun p => (s.root p).held.filterMap fun h =>
      if h.data.isEmpty then none else (mmioHost h.src).map fun c => (c, h.addr)) ++
  ((List.range 96).filterMap fun c => (s.host c).invStore.map fun w => (c, umberBar w.1 + 0x7020)) ++
  s.hosts.flatMap fun p => p.2.buffer.map fun b => (p.1, b.1)

/-- One error record per cluster that discarded stores, and its LOST_STORE bit (12 R250). -/
def State.loseStores (s : State) (lost : List (Nat × Nat)) (k : Nat) : State :=
  match lost.filter fun x => x.1 / 8 = k with
  | [] => s
  | (c, a) :: rest =>
    let s := { s with warm := { s.warm with lost := s.warm.lost ||| (1 <<< k : BitVec 12) } }
    let e : ErrorEvent := { plainEvent 0x23 .event k (rest.length + 1) with addr := BitVec.ofNat 64 a }
    let r : ErrRec := { e := e, die := 4 + c / 48, count := BitVec.ofNat 32 (rest.length + 1), first := s.time, last := s.time }
    s.writeErr (4 + c / 48) r

/-- Rings that stop under a warm reset: what has not started does not start (13 R283). -/
def State.haltRings (s : State) : State :=
  s.rings.foldl (fun s p =>
    let r := p.1
    let s := if s.warmRuns r then s else s.dropUnstarted r
    s.settleRing r) s

/-- The warm reset starts (13 R283): stores drain or are lost, the host cores are in reset, rings stop, contexts freeze. -/
def State.startWarm (s : State) (lost : List (Nat × Nat)) : State :=
  let s := s.drainBuffers
  let lost := s.stuckStores ++ lost
  let s : State := { s with
    released := false, hostsOn := 0, hosts := [],
    warm := { s.warm with active := true, at_ := s.time, before := s.ctxs.map fun p => (p.1, p.2.state), wbDone := false, complete := false },
    coh := { s.coh with resv := s.coh.resv.filter fun r => match r.1 with | .host _ => false | .cell _ => true } }
  let s := (List.range 4).foldl (fun s p =>
    let x := s.root p
    s.setRoot p { x with held := x.held.filter fun h => (mmioHost h.src).isNone || h.data.isEmpty }) s
  let s := (List.range 12).foldl (fun s k => s.loseStores lost k) s
  let s := (s.mapRings fun _ x => { x with after := 0 }).haltRings
  s.ctxs.foldl (fun s p => s.freeze (BitVec.ofNat 16 p.1)) s

/-- HOST_WARM_RESET (13 R283), with the stores in flight in a core's store buffer that are lost, by core and address (12 R250). -/
def effHostWarmReset (lost : List (HostId × DWord)) (s : State) : State := s.startWarm (lost.map fun x => (x.1.val, x.2.toNat))
def execHostWarmReset (lost : List (HostId × DWord)) (s : State) : Host.Outcome State Fault Refusal := s.live (effHostWarmReset lost)

/-- HOST_RST_N falls: ignored before the host cores are first released and while PKG_RST_N is low (22 R424). -/
def effHostRstN (s : State) : State :=
  let t := { s with pins := { s.pins with hostRstN := false } }
  match s.phase with
  | .up => if s.everReleased then t.keepInputs (t.startWarm []) else t
  | _ => t
def execHostRstN (s : State) : Host.Outcome State Fault Refusal := s.pinEvent effHostRstN

/-- The host cores leave reset once their write-back has ended and HOST_RST_N is high; not in production test, nor without verified
firmware, where they have never been released (12 R250, 17 R347, 19 R380, 22 R424). -/
def State.releaseHosts (s : State) : State :=
  if s.warm.active && s.warm.wbDone && s.pins.hostRstN && s.everReleased then { s with released := true } else s

/-- The warm reset is over once the table is complete and the host cores run again, or would but for a release that never was (13 R283
steps 5 and 6, 19 R380). -/
def State.endWarm (s : State) : State :=
  if s.warm.active && s.warm.complete && (s.released || (!s.everReleased && s.warm.wbDone && s.pins.hostRstN)) then
    { s with warm := { s.warm with active := false } }
  else s

/-- HOST_RST_N rises (22 R424). -/
def effHostRstNRise (s : State) : State :=
  ({ s with pins := { s.pins with hostRstN := true } }).releaseHosts.endWarm
def execHostRstNRise (s : State) : Host.Outcome State Fault Refusal := s.pinEvent effHostRstNRise

/-- A write of HOST_RST_CTL.GO (19 R376, 22 R424). -/
def effHostRstCtlGo (s : State) : State := if s.warm.active || !s.pins.hostRstN then s else s.startWarm []
def execHostRstCtlGo (s : State) : Host.Outcome State Fault Refusal := s.live effHostRstCtlGo

/-- No copy of a line in a host core's L1 or L2 remains (12 R250). -/
def DirEntry.withoutHosts (e : DirEntry) : DirEntry :=
  let isHost : Holder → Bool := fun h => match h with | .l2 _ => true | _ => false
  let gone := e.owner.any isHost
  { owner := if gone then none else e.owner, modified := !gone && e.modified, sharers := e.sharers.filter fun h => !isHost h,
    noLake := !gone && e.noLake }

/-- Lines that a host core's L2 holds modified are written back (12 R250). -/
def State.writeBackHosts (s : State) : State :=
  (s.coh.dir.filter fun p => match p.2.owner with | some (.l2 _) => true | _ => false).foldl (fun s p => s.cleanLine p.1) s

/-- WB_DONE: the write-back of L1 and L2 ends; the cores enter firmware (12 R250). -/
def effWbDone (s : State) : State :=
  if s.warm.active then
    let s := s.writeBackHosts
    ({ s with warm := { s.warm with wbDone := true },
              coh := { s.coh with dir := tabMap dirDflt s.coh.dir fun _ e => e.withoutHosts } }).releaseHosts.endWarm
  else s
def execWbDone (s : State) : Host.Outcome State Fault Refusal := s.live effWbDone

/-! ### The preserved-state table (13 R284) -/

def CtxState.code : CtxState → Nat
  | .free => 0
  | .opened => 1
  | .sealed => 2
  | .faulted => 3
  | .frozen => 4

/-- HRST_PST_BASE (13 R283). -/
def State.pstBase (s : State) : Nat := bitsOf (s.reg64 (umberBar 0 + 0x58)).toNat 43 12 * 4096

/-- Contexts that are not FREE, in increasing CID; CID 0 is one even while no field of it has changed. -/
def State.liveCids (s : State) : List Nat :=
  ((if (s.ctxs.any fun p => p.1 == 0) then s.ctxs.map (·.1) else 0 :: s.ctxs.map (·.1))).filter fun c =>
    (s.ctx (BitVec.ofNat 16 c)).state ≠ .free

/-- State of a context at the assertion of the reset (13 R284). -/
def State.stateBefore (s : State) (c : Nat) : CtxState := (tabFind s.warm.before c).getD (Ctx.reset c).state

def State.pstContext (s : State) (c : Nat) : List Byte :=
  let x := s.ctx (BitVec.ofNat 16 c)
  leBytes 2 c ++ leBytes 1 x.state.code ++ leBytes 1 (s.stateBefore c).code ++ leBytes 2 (s.ringsOf (BitVec.ofNat 16 c)).length ++
  leBytes 2 0 ++ leBytes 8 x.frozenAt.toNat ++ leBytes 16 0

def State.pstRing (s : State) (r : Nat) : List Byte :=
  let x := s.ring r
  leBytes 2 r ++ leBytes 2 x.cid.toNat ++ leBytes 1 x.state.code ++ leBytes 3 0 ++ leBytes 4 x.head.toNat ++ leBytes 4 x.tail.toNat ++
  leBytes 4 x.after.toNat ++ leBytes 12 0

/-- The table: header with COMPLETE, context entries, ring entries. -/
def State.pstBytes (s : State) : List Byte :=
  let cs := s.liveCids
  let rs := (List.range 1024).filter fun r => (s.ctx (s.ring r).cid).state ≠ .free
  leBytes 4 1 ++ leBytes 4 cs.length ++ leBytes 4 rs.length ++ leBytes 1 s.continues.toNat ++
  leBytes 1 (1 + 2 * (s.warm.lost ≠ 0 : Bool).toNat) ++ leBytes 2 0 ++ leBytes 8 s.warm.at_.toNat ++ leBytes 8 s.time.toNat ++
  leBytes 32 0 ++ cs.flatMap (fun c => s.pstContext c) ++ rs.flatMap (fun r => s.pstRing r)

/-- PRESERVED_STATE_WRITE: when no ring is RUNNING or DRAINING; a base of 0 writes no table (13 R283, R284). -/
def effPreservedStateWrite (s : State) : State :=
  if !s.warm.active || s.warm.complete || (s.rings.any fun p => p.2.state = .running || p.2.state = .draining) then s
  else
    let a := s.pstBase
    let bs := s.pstBytes
    let s := if a ≠ 0 && s.spanMapped a (2 ^ 22) && s.ownOk 0 true a bs.length then s.memWrite 0 a bs false else s
    ({ s with warm := { s.warm with complete := true } }).endWarm
def execPreservedStateWrite (s : State) : Host.Outcome State Fault Refusal := s.live effPreservedStateWrite

end Sys2Proof.Machine
end

