-- ==== Sys2Proof/Machine/PortCtl.lean ====
section
/-! DEFINITION. Registers of root ports (21 R411) and of ETHERNET ports (14 R292, 21 R415, R416). -/

namespace Sys2Proof.Machine

/-! ### Root ports -/

/-- PASID_ENTRY_WRITE: a write of the high half of an entry (21 R411, 17 R356). -/
def effPasidEntryWrite (p : RootId) (e : Fin 4096) (hi : Word) (s : State) : State :=
  let a := rootBlock p + 0x8000 + 8 * e.val
  let old := (s.reg64 a).toNat
  let lo := s.lowHalf a (s.reg a)
  let new := lo.toNat + (hi &&& 0x800FFFFF).toNat * 2 ^ 32
  let s := s.unhold a
  let cid := BitVec.ofNat 16 (new / 2 ^ 16)
  let same := (List.range 4096).any fun i =>
    let v := s.pasidEntry p i
    i ≠ e.val && bitOf v 63 && bitsOf v 15 0 = bitsOf new 15 0 && bitsOf v 51 32 = bitsOf new 51 32
  if bitOf new 63 && same then s.setRoot p { s.root p with dup := true }
  else if bitOf new 63 && s.sealedCid cid then s
  else
    let s := (s.setReg a lo).setReg (a + 4) (hi &&& 0x800FFFFF)
    let s := s.setRoot p { s.root p with granted := (s.root p).granted.filter (· != e.val) }
    if bitOf old 63 && !bitOf new 63 then
      let rid := BitVec.ofNat 16 old
      let r := s.root p
      let x : PasidRemoval := { rid := rid, tag := r.atsTag, pasid := BitVec.ofNat 20 (old / 2 ^ 32), cid := BitVec.ofNat 16 (old / 2 ^ 16) }
      if r.atsOff.contains rid then s
      else (s.setRoot p { r with removing := r.removing ++ [x] }).askAts p rid [x.pasid]
    else s
def execPasidEntryWrite (p : RootId) (e : Fin 4096) (hi : Word) (s : State) : Host.Outcome State Fault Refusal :=
  s.live (effPasidEntryWrite p e hi)

/-- RP_DEFCID_WRITE: a SEALED CID is ignored (21 R411). -/
def effRpDefcidWrite (p : RootId) (cid : Cid) (s : State) : State :=
  if s.sealedCid cid then s else s.setReg (rootBlock p) (cid.setWidth 32)
def execRpDefcidWrite (p : RootId) (cid : Cid) (s : State) : Host.Outcome State Fault Refusal := s.live (effRpDefcidWrite p cid)

/-- RP_STATUS (21 R411). -/
def RootPort.status (r : RootPort) : Nat := (!r.removing.isEmpty).toNat + 2 * r.atsEvt.toNat + 4 * r.dup.toNat

/-! ### Queue pairs -/

/-- Blocks of queue pair n and of the key table of port p (21 R415, R416). -/
def qpBlock (p n : Nat) : Nat := umberBar (p / 10) + 0x200000 + 0x8000 * (p % 10) + 128 * n
def keyBlock (p e : Nat) : Nat := umberBar (p / 10) + 0x280000 + 0x20000 * (p % 10) + 32 * e

def State.qpCid (s : State) (p n : Nat) : Cid := (s.reg (qpBlock p n + 0x1C)).setWidth 16
def State.qpLog2 (s : State) (p n : Nat) : Nat := (s.reg (qpBlock p n + 0x18)).toNat % 16

/-- A queue pair with no element in progress stops when asked to (21 R415). -/
def Qp.settle (x : Qp) : Qp := if x.stopping && x.flying.isEmpty && x.due.isEmpty then { x with state := .stopped, stopping := false } else x

/-- QP_DOORBELL, under the sequence rules of 13 R265 and R266 (14 R292). -/
def effQpDoorbell (p : PortId) (n : Fin 256) (cid : Cid) (recv : Bool) (tail : Word) (s : State) : State :=
  let x := s.qp p n
  let size := 2 ^ s.qpLog2 p n
  let head := if recv then x.rqHead else x.sqHead
  let old := if recv then x.rqTail else x.sqTail
  if cid ≠ 0 && cid ≠ s.qpCid p n then s.setQp p n { x with dbErr := true }
  else if (tail - head).toNat ≤ size && (tail - old).toNat ≤ size then
    s.setQp p n (if recv then { x with rqTail := tail } else { x with sqTail := tail })
  else s.setQp p n { x with dbErr := true, state := if x.state = .running then .faulted else x.state }
def execQpDoorbell (p : PortId) (n : Fin 256) (cid : Cid) (recv : Bool) (tail : Word) (s : State) :
    Host.Outcome State Fault Refusal := s.live (effQpDoorbell p n cid recv tail)

/-- QP_RUN: RUN of QP_CTL (21 R415; log 21). -/
def effQpRun (p : PortId) (n : Fin 256) (on : Bool) (s : State) : State :=
  let x := { s.qp p n with run := on }
  if on then
    match x.state with
    | .running => s.setQp p n { x with stopping := false }
    | .stopped =>
      if s.sealedCid (s.qpCid p n) then s.setQp p n { x with cfgErr := true }
      else s.setQp p n { x with state := .running, stopping := false, sqNext := x.sqHead, syndrome := 0 }
    | .faulted => s.setQp p n { x with cfgErr := true }
  else if x.state = .stopped then s.setQp p n x
  else s.setQp p n ({ x with stopping := true }).settle
def execQpRun (p : PortId) (n : Fin 256) (on : Bool) (s : State) : Host.Outcome State Fault Refusal := s.live (effQpRun p n on)

/-- QP_STATUS (21 R415). -/
def Qp.status (x : Qp) : Nat :=
  (match x.state with | .stopped => 0 | .running => 1 | .faulted => 3) + 4 * x.dbErr.toNat + 8 * x.cfgErr.toNat +
  256 * x.syndrome.toNat

/-- Fields of the words of a queue-pair block that software writes (21 R415). -/
def qpMask (off : Nat) : Word :=
  if off < 0x18 then 0xFFFFFFFF
  else if off = 0x18 then 0x000000BF
  else if off = 0x1C then 0x0000FFFF
  else if off = 0x2C || off = 0x30 || off = 0x34 then 0x00FFFFFF
  else if off = 0x38 then 0xFFFFFFFF
  else if off = 0x3C then 0x0000FFFF
  else if 0x40 ≤ off && off < 0x50 then 0xFFFFFFFF
  else 0

/-- The low halves of the 64-bit registers of a queue-pair block. -/
def qpLow (off : Nat) : Bool := off = 0x00 || off = 0x08 || off = 0x10 || off = 0x38

/-- A write of RW fields while the queue pair is STOPPED; a write in another state is refused (21 R415, R404). -/
def State.writeQp (s : State) (p : PortId) (n : Fin 256) (off : Nat) (v : Word) : State :=
  let b := qpBlock p n
  let x := s.qp p n
  if off = 0x28 then
    s.setQp p n { x with dbErr := x.dbErr && !bitOf v.toNat 2, cfgErr := x.cfgErr && !bitOf v.toNat 3 }
  else if qpMask off = 0 then s
  else
    let m := v &&& qpMask off
    let s :=
      if off = 0x18 && m = s.reg (b + off) then s
      else if x.state ≠ .stopped || (off = 0x18 && !(2 ≤ m.toNat % 16 && m.toNat % 16 ≤ 12 && m.toNat / 16 % 4 ≠ 3)) then
        s.setQp p n { x with cfgErr := true }
      else if qpLow off then s.hold (b + off) m
      else if qpLow (off - 4) then ((s.setReg (b + off - 4) (s.lowHalf (b + off - 4) (s.reg (b + off - 4)))).setReg (b + off) m).unhold (b + off - 4)
      else s.setReg (b + off) m
    if off = 0x18 then effQpRun p n (bitOf v.toNat 6) s else s

/-- KEY_ENTRY_WRITE: the word at bytes 16-19 (21 R416). -/
def effKeyEntryWrite (p : PortId) (e : Fin 4096) (v : Word) (s : State) : State :=
  if bitOf v.toNat 16 && s.sealedCid (v.setWidth 16) then s
  else s.setReg (keyBlock p e + 16) (v &&& 0x0007FFFF)
def execKeyEntryWrite (p : PortId) (e : Fin 4096) (v : Word) (s : State) : Host.Outcome State Fault Refusal :=
  s.live (effKeyEntryWrite p e v)

/-- A write to a word of a key-table entry; while V = 1 the other words are ignored (21 R416). -/
def State.writeKey (s : State) (p : PortId) (e : Fin 4096) (off : Nat) (v : Word) : State :=
  if off = 16 then effKeyEntryWrite p e v s
  else if bitOf (s.reg (keyBlock p e + 16)).toNat 16 then s
  else s.setReg (keyBlock p e + off) (v &&& (if off < 16 then 0xFFFFFFFF else if off = 20 then 0x000FFFFF else 0))

end Sys2Proof.Machine
end

