-- ==== Sys2Proof/Machine/Time.lean ====
section
/-! DEFINITION. Package ticks (19 R380). -/

namespace Sys2Proof.Machine

/-- The package tick that follows a DEVTIME (19 R380: multiples of 1,000). -/
def nextTick (t : DWord) : DWord := BitVec.ofNat 64 ((t.toNat / 1000 + 1) * 1000)

end Sys2Proof.Machine
end

