-- ==== Sys2Proof/Machine/FrontCtl.lean ====
section
/-! DEFINITION. The requests of the Front controller (19 R381-R384) and of the mailbox (17 R351, R352). -/

namespace Sys2Proof.Machine

/-! ### FC_CHECK, FC_APPLY, CANCEL -/

def State.onFront (s : State) (f : Front → Front) : State := { s with front := f s.front }

/-- Whether STATE reads CHECKING, PENDING. -/
def FcState.isChecking : FcState → Bool
  | .checking _ => true
  | _ => false

/-- FC_CHECK.GO (19 R382, R384). -/
def effFcCheck (s : State) : State :=
  match s.front.state with
  | .checking _ => s.onFront fun f => { f with rej := true }
  | .pending => s.onFront fun f => { f with sides := f.sides ++ [{ words := s.shadow, dirtied := false }] }
  | .idle => s.onFront fun f => { f with state := .checking false, main := { words := s.shadow, dirtied := false } }
def execFcCheck (s : State) : Host.Outcome State Fault Refusal := s.live effFcCheck

/-- The first package tick at or after a DEVTIME (19 R381). -/
def tickAt (t : DWord) : DWord := BitVec.ofNat 64 ((t.toNat + 999) / 1000 * 1000)

/-- FC_APPLY_TIME (19 R381). -/
def State.fcApplyTime (s : State) : DWord := s.reg64 (umberBar 0 + 0x1008)

/-- The apply becomes PENDING, or misses its time: LATE and an error record, whose TYPE the manual does not give (19 R384). -/
def State.becomePending (s : State) : State :=
  if s.front.sched && s.front.applyAt.toNat < s.time.toNat then
    let (s, typ) := s.draw 16
    (s.onFront fun f => { f with state := .idle, late := true, snapshot := [] }).logError 4 (plainEvent typ .event 0 0)
  else
    let at_ := if s.front.sched then s.front.applyAt else nextTick s.time
    s.onFront fun f => { f with state := .pending, applyAt := at_ }

/-- An apply of the shadow state as it stands begins: its check, or an earlier result that is reused (19 R383, 00 R8). -/
def State.beginApply (s : State) (sched : Bool) (at_ : DWord) : State :=
  let s := s.onFront fun f => { f with snapshot := s.shadow, sched := sched, applyAt := at_ }
  if s.front.clean then (s.onFront fun f => { f with reused := true, applyGen := f.gen, applyPlan := f.plan }).becomePending
  else s.onFront fun f => { f with state := .checking true, reused := false, main := { words := f.snapshot, dirtied := false } }

/-- FC_APPLY.GO with SCHED (19 R383, R384, 00 R8). -/
def effFcApply (sched : Bool) (s : State) : State :=
  match s.front.state with
  | .idle => s.beginApply sched (tickAt s.fcApplyTime)
  | _ => s.onFront fun f => { f with rej := true }
def execFcApply (sched : Bool) (s : State) : Host.Outcome State Fault Refusal := s.live (effFcApply sched)

/-- FC_APPLY.CANCEL before the apply's tick (19 R384). -/
def effCancel (s : State) : State :=
  match s.front.state with
  | .pending =>
    if s.time.toNat < s.front.applyAt.toNat then s.onFront fun f => { f with state := .idle, snapshot := [] } else s
  | _ => s
def execCancel (s : State) : Host.Outcome State Fault Refusal := s.live effCancel

/-- A write to FC_APPLY: CANCEL first, then GO (19 R384). -/
def State.writeFcApply (s : State) (v : Nat) : State :=
  let s := if bitOf v 2 then effCancel s else s
  if bitOf v 0 then effFcApply (bitOf v 1) s else s

/-- FC_STATUS (19 R381). -/
def Front.status (f : Front) : Nat :=
  (match f.state with | .idle => 0 | .checking _ => 1 | .pending => 2) + 4 * f.result.toNat + 16 * f.failCode.toNat +
  2 ^ 12 * f.late.toNat + 2 ^ 13 * f.rej.toNat + 2 ^ 14 * f.applied.toNat + 2 ^ 15 * f.reused.toNat

/-- The shadow words change: no earlier check's result holds for them, nor one in progress (19 R382, R383). -/
def Front.dirty (f : Front) : Front :=
  { f with clean := false, main := { f.main with dirtied := f.main.dirtied || f.state.isChecking },
           sides := f.sides.map fun x => { x with dirtied := true } }

/-- A write to an STG field reaches the shadow copy alone (00 R7, R8, 19 R382, R383). -/
def State.stage (s : State) (a : Nat) (mask v : Word) : State :=
  let s := s.setShadow a ((s.shadowOf a &&& ~~~mask) ||| (v &&& mask))
  s.onFront Front.dirty

/-! ### The mailbox -/

/-- A span in HBM or mapped tier B, in granules whose OWNER is 0 (17 R351). -/
def State.spOk (s : State) (a n : Nat) : Bool :=
  n = 0 || (hasOwner a && hasOwner (a + n - 1) && s.spanMapped a n && (granulesOf a n).all fun g => (s.owner g).owner = 0)

def State.onSec (s : State) (f : Security → Security) : State := { s with sec := f s.sec }

/-- SP_MBOX_REQ.ADDR (17 R351). -/
def State.mboxAddr (s : State) : Nat := bitsOf (s.reg64 (umberBar 0 + 0x6000)).toNat 43 6 * 64

/-- Results (17 R351). -/
def mbOk : BitVec 4 := 0
def mbFormat : BitVec 4 := 1
def mbRefused : BitVec 4 := 2
def mbAuth : BitVec 4 := 3
def mbState : BitVec 4 := 4

/-- A request completes: response, addition to the header's sync object, status (17 R352). -/
def State.mboxDone (s : State) (result : BitVec 4) (response : List Byte) : State :=
  let h := s.sec.header
  let s := if response.isEmpty then s else s.memWrite 0 (field h 8 8) response false
  let s := if bitOf (byteAt h 22) 0 then s.signal (field h 20 2) 1 else s
  s.onSec fun x => { x with mboxState := 2, mboxResult := result, doneEvt := true, header := [], body := [], tenant := none }

/-- The header's own fields (17 R352). -/
def mboxHeaderOk (h : List Byte) : Bool :=
  1 ≤ field h 0 2 && field h 0 2 ≤ 9 && zeroSpan h 2 2 && field h 4 4 ≤ 65536 && byteAt h 22 < 2 && zeroSpan h 23 41

/-- GO: the request at ADDR starts; it is served by the row of its code (17 R351, R352). -/
def effGo (s : State) : State :=
  if s.sec.mboxState = 1 then s
  else
    let a := s.mboxAddr
    if !s.spOk a 64 then
      s.onSec fun x => { x with mboxState := 2, mboxResult := mbRefused, doneEvt := true }
    else
      let (s, h) := s.memRead 0 a 64 false none
      let s := s.onSec fun x => { x with mboxState := 1, header := h, body := [] }
      if !mboxHeaderOk h then s.mboxDone mbFormat []
      else if !(s.spOk (a + 64) (field h 4 4) && s.spOk (field h 8 8) (field h 16 4)) then s.mboxDone mbRefused []
      else
        let (s, b) := s.memRead 0 (a + 64) (field h 4 4) false none
        s.onSec fun x => { x with body := b }
def execGo (s : State) : Host.Outcome State Fault Refusal := s.live effGo

/-! ### The management window's registers -/

/-- A base that leaves no part of the window unmapped, in HBM and tier B (19 R385). -/
def State.winMapped (s : State) (base : Nat) : Bool :=
  hasOwner base && hasOwner (base + 2 ^ 26 - 1) && s.spanMapped base (2 ^ 26)

/-- A write of MC_WIN_BASE (19 R385). -/
def State.setWindow (s : State) (v : DWord) : State :=
  let base := bitsOf v.toNat 43 26 * 2 ^ 26
  if s.winMapped base then { s with mc := { s.mc with base := BitVec.ofNat 64 base } } else s

/-- MC_WIN_STATUS (19 R385). -/
def McWin.status (m : McWin) : Nat := m.refused.toNat + 2 * m.ue.toNat

/-- SP_MBOX_STATUS (17 R351). -/
def Security.status (x : Security) : Nat := x.mboxState.toNat + 16 * x.mboxResult.toNat + 256 * x.doneEvt.toNat

end Sys2Proof.Machine
end

