-- ==== Sys2Proof/Machine/Debug.lean ====
section
/-! DEFINITION. Debug of control cores (05 R96), and the controls of the counters (20 R388). -/

namespace Sys2Proof.Machine

/-- A debug unlock whose token carries a scope bit is in force (17 R360, R361). -/
def State.unlocked (s : State) (bit : Nat) : Bool := s.sec.unlock.any fun w => bitOf w.toNat bit

def xDflt (_ : Nat) : DWord := 0

/-- Registers of a control core; x0 reads 0 and discards writes (05 R88). -/
def ControlCore.get (k : ControlCore) (r : Nat) : DWord := if r = 0 then 0 else tabGet xDflt k.x r
def ControlCore.set (k : ControlCore) (r : Nat) (v : DWord) : ControlCore :=
  if r = 0 then k else { k with x := tabSet xDflt k.x r v }

/-- Whether a cell's core is halted at an EBREAK (05 R96). -/
def ControlCore.isHalted (k : ControlCore) : Bool := k.wait = .halted

/-- DBG_RESUME: every halted core that the mask names goes on (05 R96). -/
def effDbgResume (d : DieId) (mask : DWord) (s : State) : State :=
  if !s.unlocked 1 then s
  else (List.range 64).foldl (fun s n =>
    let g := 64 * d.val + n
    let c := s.cell g
    if mask.getLsbD n && c.core.isHalted then (s.setCell g { c with core := { c.core with wait := .running } }).clearHalt g else s) s
def execDbgResume (d : DieId) (mask : DWord) (s : State) : Host.Outcome State Fault Refusal := s.live (effDbgResume d mask)

/-- DBG_SEL (05 R96). -/
def State.dbgSel (s : State) (d : Nat) : Nat := (s.reg (ochreBar d + 0x28)).toNat
def State.dbgCell (s : State) (d : Nat) : Nat := 64 * d + s.dbgSel d % 64
def State.dbgReg (s : State) (d : Nat) : Nat := s.dbgSel d / 64 % 64

/-- DBG_DATA as read (05 R96). -/
def State.dbgData (s : State) (d : Nat) : DWord :=
  let k := (s.cell (s.dbgCell d)).core
  if s.unlocked 1 && k.isHalted then
    (if s.dbgReg d < 32 then k.get (s.dbgReg d) else if s.dbgReg d = 32 then k.pc else 0)
  else 0

/-- DBG_DATA_WRITE: the selected register of a halted core (05 R96). -/
def effDbgDataWrite (d : DieId) (v : DWord) (s : State) : State :=
  let g := s.dbgCell d
  let c := s.cell g
  if s.unlocked 1 && c.core.isHalted then
    (if s.dbgReg d < 32 then s.setCell g { c with core := c.core.set (s.dbgReg d) v }
     else if s.dbgReg d = 32 then s.setCell g { c with core := { c.core with pc := v } } else s)
  else s
def execDbgDataWrite (d : DieId) (v : DWord) (s : State) : Host.Outcome State Fault Refusal := s.live (effDbgDataWrite d v)

/-- FREEZE: PMC_CTL.FREEZE (20 R388). -/
def effFreeze (die : Fin 6) (on : Bool) (s : State) : State :=
  let a := dieBar die + 0x3100
  s.setReg a ((s.reg a &&& 0xFFFFFFFE) ||| (if on then 1 else 0))
def execFreeze (die : Fin 6) (on : Bool) (s : State) : Host.Outcome State Fault Refusal := s.live (effFreeze die on)

/-- PMC_CLEAR: all 16 counters become 0 (20 R388). -/
def effPmcClear (die : Fin 6) (s : State) : State := s.setLog die { s.log die with pmc := [] }
def execPmcClear (die : Fin 6) (s : State) : Host.Outcome State Fault Refusal := s.live (effPmcClear die)

end Sys2Proof.Machine
end

