-- ==== Sys2Proof/Machine/Registers.lean ====
section
/-! DEFINITION. The register map (21 R402-R416): which register lies at an address, what it reads, what a write does (00 R6, R7,
21 R404). -/

namespace Sys2Proof.Machine

/-- What function and offset a device address names (13 R260, R264). -/
inductive RegSpace where
  | ochre (d : DieId) (off : Nat)
  | umber (u : UmberId) (off : Nat)
  | bell (r : RingId) (off : Nat)
  | mgmt (off : Nat)
  | nothing
deriving DecidableEq, Repr

/-- Address at which the model places BAR0 of the management endpoint, which the management sideband alone reaches (22 R422;
log 25). -/
def mgmtBar : Nat := 2 ^ 63

/-- The mirror of the mailbox registers in the management endpoint names the registers themselves (22 R422, 17 R351). -/
def regAlias (a : Nat) : Nat :=
  if mgmtBar + 0x1000 ≤ a && a < mgmtBar + 0x1010 then umberBar 0 + 0x6000 + (a - mgmtBar - 0x1000) else a

def regSpace (a : Nat) : RegSpace :=
  if ochreBar 0 ≤ a && a < ochreBar 4 then
    let k := a - ochreBar 0
    .ochre (Fin.ofNat 4 (k / 0x1000000)) (k % 0x1000000)
  else if umberBar 0 ≤ a && a < umberBar 2 then
    let k := a - umberBar 0
    .umber (Fin.ofNat 2 (k / 0x1000000)) (k % 0x1000000)
  else if bellBar 0 ≤ a && a < bellBar 4 then
    let k := a - bellBar 0
    .bell (Fin.ofNat 1024 (k / 4096)) (k % 4096)
  else if mgmtBar ≤ a then .mgmt (a - mgmtBar)
  else .nothing

/-- A queue-pair doorbell page: port and queue pair (14 R292). -/
def qpPage (u : UmberId) (off : Nat) : Option (PortId × Fin 256 × Nat) :=
  if 0x600000 ≤ off then
    let k := off - 0x600000
    let j := k / 0x100000
    if j < 10 then some (Fin.ofNat 20 (10 * u.val + j), Fin.ofNat 256 (k / 4096), k % 4096) else none
  else none

/-- Only CID 0 reaches BAR0, doorbell pages of queue pairs apart (21 R403); the sideband has no CID (22 R422). -/
def bar0Ok (cid : Cid) (a : Nat) : Bool :=
  match regSpace a with
  | .ochre _ _ => cid = 0
  | .umber _ off => cid = 0 || 0x600000 ≤ off
  | .bell _ _ => true
  | .mgmt _ => true
  | .nothing => false

/-! ### Which registers are 64 bits wide -/

/-- Low halves of the 64-bit registers that an Ochre endpoint and a platform function share (21 R406, R408). -/
def wideCommon (o : Nat) : Bool := o = 0x2000 || o = 0x4000 || (0x3080 ≤ o && o < 0x3100 && o % 8 = 0)

def wideOchre (o : Nat) : Bool :=
  wideCommon o || o = 0x08 || o = 0x18 || o = 0x20 || o = 0x30 || o = 0x1000 ||
  (0x100000 ≤ o && o < 0x104000 && (o % 64 = 0 || o % 64 = 8))

/-- 64-bit registers of U0 alone. -/
def widePrimary (o : Nat) : Bool :=
  o = 0x58 || o = 0x1008 || o = 0x1018 || o = 0x4010 || o = 0x6000 || o = 0x7000 || o = 0x8010 || o = 0x8020 ||
  (0x8040 ≤ o && o < 0x8060 && o % 8 = 0) || o = 0xA010 || o = 0xA018

/-- 64-bit registers of a platform function. DESIGN CHOICE: the 16 bytes of QP_DGID and of ETH_SGID (21 R415) are four separate 32-bit
registers, none of them held or latched under 21 R404; the manual says only that they are 16 bytes. -/
def wideUmber (u : UmberId) (o : Nat) : Bool :=
  wideCommon o || (u = 0 && widePrimary o) ||
  (0x30000 ≤ o && o < 0x50000 && 0x8000 ≤ o % 0x10000 && o % 8 = 0) ||
  (0xC0000 ≤ o && o < 0x100000 && o % 8 = 0) ||
  (0x200000 ≤ o && o < 0x250000 && qpLow (o % 128)) ||
  (0x250000 ≤ o && o < 0x250280 && o % 64 = 0)

/-- An address is the low half of a 64-bit register. -/
def isLow (a : Nat) : Bool :=
  match regSpace a with
  | .ochre _ o => wideOchre o
  | .umber u o => wideUmber u o
  | .mgmt o => o = 0
  | _ => false

/-! ### Fields by access code (00 R7) -/

/-- RW fields of 32-bit words that both kinds of function have. -/
def rwCommon (o : Nat) : Word :=
  if o = 0x2008 then 1
  else if o = 0x200C then 0xFFFFFFFF
  else if 0x3000 ≤ o && o < 0x3040 then 0xFFFF03FF
  else if o = 0x3100 then 0x000FFFF1
  else if o = 0x4008 then 0x00000FF1
  else 0

def rwMask (a : Nat) : Word :=
  match regSpace a with
  | .ochre _ o => if o = 0x28 then 0xFFF else if o = 0x1008 then 1 else if o = 0x100C then 0xFFFFFFFF else rwCommon o
  | .umber u o => if u = 0 && o = 0x50 then 1 else rwCommon o
  | _ => 0

/-- W1C fields that lie in the register file. -/
def w1cMask (a : Nat) : Word :=
  match regSpace a with
  | .ochre _ o => if o = 0x14 then 6 else if o = 0x2014 then 0x01000000 else if o = 0x400C then 0x00030000 else 0
  | .umber u o =>
    if o = 0x2014 then 0x01000000 else if o = 0x400C then 0x00030000 else if u = 0 && o = 0xA004 then 1 else 0
  | _ => 0

/-- STG fields of a word (00 R7). -/
def stgMask (a : Nat) : Word :=
  match regSpace a with
  | .umber u o =>
    if 0x8800 ≤ o && o < 0x8850 && o % 8 = 0 then 3
    else if u ≠ 0 then 0
    else if o = 0x5000 then 7
    else if o = 0x5008 || o = 0x500C then 0x7FFFF
    else if o = 0x5014 then 1
    else if o = 0x7000 || o = 0x8010 then 0xFFFFFFF0
    else if o = 0x7004 || o = 0x8014 || o = 0x8024 then 0x00000FFF
    else if o = 0x8000 then 0xFFFFFFFF
    else if o = 0x8004 then 0x000FFFFF
    else if o = 0x800C then 0x0000FFFF
    else if o = 0x8018 then 0x001FFFFF
    else if o = 0x8020 then 0xFFFFFFE0
    else if 0x8040 ≤ o && o < 0x8060 then (if o % 8 = 0 then 0xFFFFFFFF else 0x03FFFFFF)
    else if 0x9000 ≤ o && o < 0x9040 && o % 16 = 0 then 0xF
    else if o = 0xA000 then 1
    else if o = 0xA008 then 7
    else if o = 0xA010 then 0x0FFFFFFF
    else if o = 0xA014 then 0x0000007F
    else if 0xA100 ≤ o && o < 0xA140 then 0xFFFFFFFF
    else if 0xA200 ≤ o && o < 0xA500 then 0x0001FFFF
    else if 0xB000 ≤ o && o < 0xBC00 then 0xF
    else 0
  | _ => 0

/-- Addresses of every word with STG fields, in increasing order (19 R381). -/
def stgWords : List Nat :=
  let u0 := umberBar 0
  let span (o n step : Nat) := (List.range n).map fun i => u0 + o + step * i
  [u0 + 0x5000, u0 + 0x5008, u0 + 0x500C, u0 + 0x5014, u0 + 0x7000, u0 + 0x7004, u0 + 0x8000, u0 + 0x8004, u0 + 0x800C,
   u0 + 0x8010, u0 + 0x8014, u0 + 0x8018, u0 + 0x8020, u0 + 0x8024] ++ span 0x8040 8 4 ++ span 0x8800 10 8 ++ span 0x9000 4 16 ++
  [u0 + 0xA000, u0 + 0xA008, u0 + 0xA010, u0 + 0xA014] ++ span 0xA100 16 4 ++ span 0xA200 192 4 ++ span 0xB000 768 4 ++
  (List.range 10).map fun i => umberBar 1 + 0x8800 + 8 * i

/-! ### Values read -/

def ChanState.code : ChanState → Nat
  | .inService => 0
  | .retiring => 1
  | .offline => 2

/-- The figures of HBM_CAP as they stand now (10 R198, 21 R413). -/
def State.hbmCap (s : State) : Nat :=
  let channels := 384 - (s.hbm.chans.filter fun p => p.2.state = .offline).length
  let live := fun k => (s.chan (k / 128)).state
  let bands := channels * 128 - (s.hbm.bands.filter fun p => p.2 = .offline && live p.1 ≠ .offline).length
  let free := (s.hbm.bands.filter fun p => p.2 = .free && live p.1 = .inService).length
  let zeroing := (s.hbm.bands.filter fun p => p.2 = .zeroing && live p.1 ≠ .offline).length
  bands + free * 2 ^ 16 + zeroing * 2 ^ 32 + channels * 2 ^ 48

/-- HBM_CAP takes the figures of now: at a Front apply, and when a channel or band becomes RETIRING (10 R198). -/
def State.keepCap (s : State) : State := { s with hbm := { s.hbm with cap := BitVec.ofNat 64 s.hbmCap } }

/-- TIERB_CAP (21 R413). -/
def State.tierbCap (s : State) : Nat :=
  (s.flash.tierB.getD 0).toNat + 4 * s.tierB0.toNat + 8 * s.tierB1.toNat

/-- CH_STATE_i (21 R413). -/
def State.chState (s : State) (i : Nat) : Nat :=
  (List.range 16).foldl (fun v c => v + (s.chan (16 * i + c)).state.code * 4 ^ c) 0

/-- IMAP_r: staged KIND and DIE, FORMED, RETIRING (10 R192). -/
def State.imapWord (s : State) (r : Nat) : Nat :=
  let x := s.region r
  (s.shadowOf (umberBar 0 + 0xB000 + 4 * r)).toNat % 16 + 256 * x.formed.toNat + 512 * x.retiring.toNat

/-- Readback word of member m of region r (21 R414). -/
def State.memberWord (s : State) (r m : Nat) : Nat :=
  let x := s.region r
  if x.formed then (let (c, b) := x.members.getD m (0, 0); c + 512 * b) else 0

/-- OP_MAX in force (16 R343). -/
def State.opMax (s : State) : Nat := (s.reg (umberBar 0 + 0x5000)).toNat % 8

/-- PWR_OP_STATUS.LIMIT: software, cap, thermal, fast current, job minimum, cap memory admission (16 R343; log 30). -/
def State.limitBits (s : State) : BitVec 6 :=
  let p := s.power
  let software : Bool := s.opMax < 7
  let cap : Bool := p.capOp ≠ 7 || p.hostSteps ≠ 0
  let thermal : Bool := p.thermOp ≠ 7
  let fast : Bool := p.fast ≠ 0
  let job : Bool := s.reg (umberBar 0 + 0x8000) ≠ 0 && p.jobOp.toNat < p.reqOp.toNat
  let mem : Bool := p.memSteps ≠ 0
  BitVec.ofNat 6 (software.toNat + 2 * cap.toNat + 4 * thermal.toNat + 8 * fast.toNat + 16 * job.toNat + 32 * mem.toNat)

/-- The trace records of a change of the operating point and of PWR_OP_STATUS.LIMIT between two states, in the ring of U0, whose power
registers they are of (20 R392; DESIGN CHOICE, log 73). -/
def State.tracePower (s t : State) : State :=
  let t := if t.power.curOp ≠ s.power.curOp then t.traceGlobal 4 (t.traceOf 4 t.power.curOp.toNat) else t
  if t.limitBits ≠ s.limitBits then t.traceGlobal 4 (t.traceOf 5 t.limitBits.toNat) else t

/-- PWR_OP_STATUS, THERM_STATUS (16 R343). -/
def State.opStatus (s : State) : Nat :=
  let p := s.power
  p.curOp.toNat + 8 * p.jobOp.toNat + 64 * p.reqOp.toNat + 512 * s.limitBits.toNat + 2 ^ 15 * p.exchMiss.toNat
def Power.therm (p : Power) : Nat := p.tjMax.toNat + 256 * (p.throttle.toNat % 64) + 2 ^ 14 * p.hotEvt.toNat

/-- PLINK_STATUS_l and PLINK_ERRCNT_l (15 R326). -/
def PLink.status (x : PLink) : Nat :=
  (match x.state with | .training => 0 | .up => 1 | .retraining => 2 | .down => 3) + 4 * popcount 12 x.groups.toNat +
  64 * x.groups.toNat
def PLink.errcnt (x : PLink) : Nat := x.fecCorr.toNat + 2 ^ 16 * x.replays.toNat

def FabState.code : FabState → Nat
  | .idle => 0
  | .prepared => 1
  | .committed => 2
  | .active => 3
  | .teardown => 4
  | .scrubbing => 5

/-- Words that every large die has: logs, counters, trace (18 R368, 20 R388, R394). -/
def State.commonWord (s : State) (die o : Nat) : Nat :=
  let b := dieBar die
  let l := s.log die
  let raw := (s.reg (b + o)).toNat
  if o = 0x2010 then l.errTail.toNat
  else if o = 0x2014 then l.ceDropped.toNat + 2 ^ 16 * l.held.length + 2 ^ 24 * (bitOf raw 24).toNat
  else if 0x3080 ≤ o && o < 0x3100 then
    let v := (tabGet pmcDflt l.pmc ((o - 0x3080) / 8)).toNat
    if o % 8 = 0 then v % 2 ^ 32 else v / 2 ^ 32
  else if o = 0x3104 then l.droop.toNat
  else if o = 0x400C then l.lost.toNat + 2 ^ 16 * (raw / 2 ^ 16 % 4)
  else raw

/-- ID (21 R405). -/
def idWord (device die : Nat) : Nat := device + 2 * 2 ^ 16 + die * 2 ^ 20 + 2 * 2 ^ 24

def half64 (v : Nat) (hi : Bool) : Nat := if hi then v / 2 ^ 32 else v % 2 ^ 32

def State.ochreWord (s : State) (d : DieId) (o : Nat) : Nat :=
  let x := s.ochre d
  if o = 0 then idWord 0x0F21 d
  else if o = 0x08 || o = 0x0C then half64 x.cellEn.toNat (o = 0x0C)
  else if o = 0x10 then s.degradeGen.toNat
  else if o = 0x14 then x.strictForced.toNat + (s.reg (ochreBar d + 0x14)).toNat
  else if o = 0x18 || o = 0x1C then (if s.unlocked 1 then half64 x.dbgHalt.toNat (o = 0x1C) else 0)
  else if o = 0x28 then (if s.unlocked 1 then s.dbgSel d else 0)
  else if o = 0x30 || o = 0x34 then half64 (s.dbgData d).toNat (o = 0x34)
  else if o = 0x1010 then x.fqTail.toNat
  else if 0x100000 ≤ o && o < 0x104000 then (s.ring (256 * d.val + (o - 0x100000) / 64)).word (o % 64)
  else s.commonWord d o

/-- Words of U0 alone. -/
def State.primaryWord (s : State) (o : Nat) : Nat :=
  let raw := (s.reg (umberBar 0 + o)).toNat
  if o = 0x40 then s.pins.strapWord.toNat
  else if o = 0x44 then s.svc.toNat
  else if o = 0x48 then s.degradeGen.toNat
  else if o = 0x1010 then s.front.status
  else if o = 0x1014 then s.front.count.toNat
  else if o = 0x1018 || o = 0x101C then half64 s.front.lastTime.toNat (o = 0x101C)
  else if o = 0x5004 then s.opStatus
  else if o = 0x5010 then s.power.therm
  else if o = 0x600C then s.sec.status
  else if o = 0x8008 then s.pins.stn.toNat
  else if o = 0x802C then s.fab.state.code
  else if 0x9000 ≤ o && o < 0x9080 then
    let l := (o - 0x9000) / 16
    if o % 16 = 0 then (if l < 4 then (s.shadowOf (umberBar 0 + o)).toNat else 0)
    else if o % 16 = 4 then (s.link l).status
    else if o % 16 = 8 then (s.link l).errcnt
    else 0
  else if o = 0xA018 || o = 0xA01C then half64 s.hbm.cap.toNat (o = 0xA01C)
  else if o = 0xA020 then s.tierbCap
  else if 0xA040 ≤ o && o < 0xA0A0 then s.chState ((o - 0xA040) / 4)
  else if 0xB000 ≤ o && o < 0xBC00 then s.imapWord ((o - 0xB000) / 4)
  else if 0x10000 ≤ o && o < 0x28000 then
    let k := (o - 0x10000) / 2
    s.memberWord (k / 64) (k % 64) + 2 ^ 16 * s.memberWord (k / 64) (k % 64 + 1)
  else if stgMask (umberBar 0 + o) ≠ 0 then (s.shadowOf (umberBar 0 + o)).toNat
  else raw

def IsoPort.status (x : IsoPort) : Nat := x.width.toNat + 4 * x.degraded.toNat

/-- ETH_VLAN and the other port-address words lie at offsets 0x00-0x2F of a 64-byte block (21 R415). -/
def ethMask (off : Nat) : Word :=
  if off = 0x00 then 0xFFFFFFFF
  else if off = 0x04 then 0x0000FFFF
  else if 0x10 ≤ off && off < 0x20 then 0xFFFFFFFF
  else if off = 0x20 then 0x00007FFF
  else 0

def State.umberWord (s : State) (u : UmberId) (o : Nat) : Nat :=
  if o = 0 then idWord 0x0F20 u
  else if 0x20 ≤ o && o < 0x40 then (devId u).toNat / 2 ^ (8 * (o - 0x20)) % 2 ^ 32
  else if o = 0x64 then bitsOf s.warm.lost.toNat (6 * u.val + 5) (6 * u.val) + 256 * s.warm.wbDone.toNat
  else if 0x2000 ≤ o && o < 0x4010 then s.commonWord (4 + u.val) o
  else if o = 0x7008 then s.xlt.gen.toNat
  else if o = 0x700C then (if u = 0 then s.xlt.err0 else s.xlt.err1).toNat + 2 * s.xlt.queue.length
  else if 0x8800 ≤ o && o < 0x8850 then
    let p := 10 * u.val + (o - 0x8800) / 8
    if o % 8 = 0 then (s.shadowOf (umberBar u + o)).toNat else (s.port p).status
  else if 0x30000 ≤ o && o < 0x50000 then
    let p := 2 * u.val + (o - 0x30000) / 0x10000
    if o % 0x10000 = 8 then (s.root p).status else (s.reg (umberBar u + o)).toNat
  else if 0x80000 ≤ o && o < 0x90000 then
    let k := 32768 * u.val + (o - 0x80000) / 2
    (s.soOwner k).toNat + 2 ^ 16 * (s.soOwner (k + 1)).toNat
  else if 0xC0000 ≤ o && o < 0x100000 then half64 (s.so (32768 * u.val + (o - 0xC0000) / 8)).toNat (o % 8 = 4)
  else if 0x200000 ≤ o && o < 0x250000 then
    let p := 10 * u.val + (o - 0x200000) / 0x8000
    let n := (o - 0x200000) % 0x8000 / 128
    let x := s.qp p n
    if o % 128 = 0x20 then x.sqHead.toNat
    else if o % 128 = 0x24 then x.rqHead.toNat
    else if o % 128 = 0x28 then x.status
    else if o % 128 = 0x18 then (s.reg (umberBar u + o)).toNat + 64 * x.run.toNat
    else (s.reg (umberBar u + o)).toNat
  else if 0x250000 ≤ o then (s.reg (umberBar u + o)).toNat
  else if u = 0 then s.primaryWord o
  else 0

/-- IEEE 1149.1 IDCODE of die 0-5: Ochre dies, then Umber dies (20 R399, 21 R405). -/
def idcode (die : Nat) : Word :=
  BitVec.ofNat 32 ((if die < 4 then 0x0F210000 else 0x0F200000) + 0x200 + 2 * (if die < 4 then die else die - 4) + 1)

/-- A PCIe function on bus 0 of an Umber die, as its configuration space shows it: BAR0 and BAR2 by address and size, at fixed addresses
that the Enhanced Allocation capability reports (13 R260, 21 R405). -/
structure PciFunction where
  segment  : Nat
  device   : Nat
  classCode : Nat
  vendorId : Nat
  deviceId : Nat
  revision : Nat
  bar0     : Option (Nat × Nat)
  bar2     : Option (Nat × Nat)
  vectors  : Nat
deriving DecidableEq, Repr

/-- The functions of segment u (13 R260). -/
def pciFunctions (u : Nat) : List PciFunction :=
  let f := fun (dev cls id : Nat) (b0 b2 : Option (Nat × Nat)) (n : Nat) =>
    ({ segment := u, device := dev, classCode := cls, vendorId := 0x1F6E, deviceId := id, revision := 0xB0, bar0 := b0, bar2 := b2,
       vectors := n } : PciFunction)
  let ochre := fun (dev d : Nat) => f dev 0x120000 0x0F21 (some (ochreBar d, 2 ^ 24)) (some (bellBar d, 2 ^ 20)) 258
  [f 0 0x120000 0x0F20 (some (umberBar u, 2 ^ 24)) none 64, ochre 1 (2 * u), ochre 2 (2 * u + 1), f 4 0x060400 0x0F28 none none 8,
   f 5 0x060400 0x0F28 none none 8]

/-- Vendor and device ID of the management controller's endpoint on the sideband (22 R422). -/
def mgmtIds : Nat × Nat := (0x1F6E, 0x0F2F)

/-- SVC_REQ_N: released, a 1 Hz square wave, or held low (18 R370). -/
inductive SvcReq where
  | released | square | low
deriving DecidableEq, Repr

/-- SVC_REQ_N as SVC_STATUS drives it (18 R370). -/
def svcReqN (svc : Word) : SvcReq :=
  if bitOf svc.toNat 1 || bitOf svc.toNat 2 then .low else if bitOf svc.toNat 0 then .square else .released

/-- Records that the management controller reads: the FATAL ones, then the other held ones of the six dies in order of die, at most 64
(18 R365, R368, 22 R422; log 25): SEQ and COMMIT are not assigned yet. -/
def State.heldErrors (s : State) : List ErrRec :=
  (s.fatalRecs ++ ((List.range 6).flatMap fun d => (s.log d).held).filter fun r => decide (r.e.sev ≠ .fatal)).take 64

/-- BAR0 of the management endpoint (19 R385, 22 R422). -/
def State.mgmtWord (s : State) (o : Nat) : Nat :=
  if o = 0 || o = 4 then half64 s.mc.base.toNat (o = 4)
  else if o = 8 then s.mc.status
  else if 0x2000 ≤ o && o < 0x3000 then
    match s.heldErrors[(o - 0x2000) / 64]? with
    | some r => field (r.bytes 0 0 |>.take 63) (o % 64) 4
    | none => 0
  else 0

/-- The 32-bit value that an aligned read of a register returns (21 R402). -/
def State.readReg (s : State) (a : Nat) : Word :=
  BitVec.ofNat 32 (match regSpace a with
    | .ochre d o => s.ochreWord d o
    | .umber u o => s.umberWord u o
    | .bell r o => if o = 4 then (s.ring r).head.toNat else if o = 8 then (s.ring r).status else 0
    | .mgmt o => s.mgmtWord o
    | .nothing => 0)

/-- A read of the low half latches the high half; the next read of the high half returns it (21 R404). -/
def State.readLatched (s : State) (a : Nat) : State × Word :=
  if isLow a then ({ s with latch := tabPut s.latch a (s.readReg (a + 4)) }, s.readReg a)
  else if 4 ≤ a && isLow (a - 4) then
    match tabFind s.latch (a - 4) with
    | some v => ({ s with latch := tabErase s.latch (a - 4) }, v)
    | none => (s, s.readReg a)
  else (s, s.readReg a)

/-- A read of 8 aligned bytes: both halves at once, or two registers, the lower first (00 R6). -/
def State.readPair (s : State) (a : Nat) : State × List Byte :=
  if isLow a then (s, leBytes 4 (s.readReg a).toNat ++ leBytes 4 (s.readReg (a + 4)).toNat)
  else
    let (s, x) := s.readLatched a
    let (s, y) := s.readLatched (a + 4)
    (s, leBytes 4 x.toNat ++ leBytes 4 y.toNat)

/-- n pairs in increasing address order (00 R6). -/
def State.readPairs : Nat → State → Nat → State × List Byte
  | 0, s, _ => (s, [])
  | n + 1, s, a =>
    let (s, x) := s.readPair a
    let (s, y) := State.readPairs n s (a + 8)
    (s, x ++ y)

/-- A read of n bytes of device registers (00 R6). -/
def State.mmioRead (s : State) (a n : Nat) : State × List Byte :=
  let a := regAlias a
  if n < 4 then
    let (s, x) := s.readLatched (a / 4 * 4)
    if a % 4 + n ≤ 4 then (s, (leBytes 4 x.toNat).drop (a % 4) |>.take n)
    else
      let (s, y) := s.readLatched (a / 4 * 4 + 4)
      (s, (leBytes 4 x.toNat ++ leBytes 4 y.toNat).drop (a % 4) |>.take n)
  else if a % n ≠ 0 then (s, List.replicate n 0)
  else if n = 4 then
    let (s, x) := s.readLatched a
    (s, leBytes 4 x.toNat)
  else State.readPairs (n / 8) s a

/-! ### Writes -/

/-- Fields named by a mask take new bits. -/
def merge (old mask v : Word) : Word := (old &&& ~~~mask) ||| (v &&& mask)

/-- A size field of a base register keeps its value when the new one lies outside its range (log 22). -/
def sizeField (old new lo hi least most : Nat) : Nat :=
  let v := bitsOf new hi lo
  if least ≤ v && v ≤ most then v else bitsOf old hi lo

/-- Both halves of a 64-bit register take effect together (21 R404); a is the address of the low half. -/
def State.writeWide (s : State) (a : Nat) (v : DWord) : State :=
  let n := v.toNat
  let old := (s.reg64 a).toNat
  let set (s : State) (x : Nat) : State := (s.setReg a (BitVec.ofNat 32 x)).setReg (a + 4) (BitVec.ofNat 32 (x / 2 ^ 32))
  let log (die : Nat) (o : Nat) : State :=
    if o = 0x2000 then (if s.errEn die then s else set s (bitsOf n 43 6 * 64 + sizeField old n 44 47 6 15 * 2 ^ 44))
    else if o = 0x4000 then
      (if bitOf (s.reg (dieBar die + 0x4008)).toNat 0 then s else set s (bitsOf n 43 5 * 32 + sizeField old n 44 48 8 20 * 2 ^ 44))
    else s
  match regSpace a with
  | .ochre d o =>
    if o = 0x20 then effDbgResume d v s
    else if o = 0x30 then effDbgDataWrite d v s
    else if o = 0x1000 then (if s.fqEn d then s else set s (bitsOf n 43 5 * 32))
    else log d o
  | .umber u o =>
    if o = 0x2000 || o = 0x4000 then log (4 + u.val) o
    else if 0x250000 ≤ o && o < 0x250280 then
      let p := 10 * u.val + (o - 0x250000) / 64
      if (List.range 256).all fun q => (s.qp p q).state = .stopped then set s (n % 2 ^ 48) else s
    else if u ≠ 0 then s
    else if o = 0x58 then set s (bitsOf n 43 12 * 4096)
    else if o = 0x1008 then set s n
    else if o = 0x4010 then set s (bitsOf n 43 5 * 32)
    else if o = 0x6000 then set s (bitsOf n 43 6 * 64)
    else if stgMask a ≠ 0 then (s.stage a (stgMask a) (BitVec.ofNat 32 n)).stage (a + 4) (stgMask (a + 4)) (BitVec.ofNat 32 (n / 2 ^ 32))
    else s
  | .mgmt o => if o = 0 then s.setWindow v else s
  | _ => s

/-- 64-bit registers whose halves are held and joined by writeWide (21 R404: RW and STG). -/
def heldWide (a : Nat) : Bool :=
  match regSpace a with
  | .ochre _ o => o = 0x30 || o = 0x1000 || o = 0x2000 || o = 0x4000
  | .umber u o =>
    o = 0x2000 || o = 0x4000 || (0x250000 ≤ o && o < 0x250280 && o % 64 = 0) ||
    (u = 0 && (o = 0x58 || o = 0x1008 || o = 0x4010 || o = 0x6000 || (isLow a && stgMask a ≠ 0)))
  | .mgmt o => o = 0
  | _ => false

/-- The low half in effect, for a register whose halves are joined by writeWide. -/
def State.lowNow (s : State) (a : Nat) : Word :=
  if stgMask a ≠ 0 then s.shadowOf a else s.readReg a

/-- XLT_RESUME (11 R228). -/
def State.writeResume (s : State) (d : DieId) (v : Nat) : State :=
  let fid := BitVec.ofNat 16 v
  match v / 2 ^ 16 % 4 with
  | 0 => effXltResumeRetry d fid s
  | 1 => effXltResumeAbort d fid s
  | _ => s

/-- Words of the platform functions whose write has an effect of its own. -/
def State.writeUmber (s : State) (u : UmberId) (o : Nat) (v : Word) : State :=
  let a := umberBar u + o
  let n := v.toNat
  if o = 0x64 then
    { s with warm := { s.warm with lost := s.warm.lost &&& ~~~(BitVec.ofNat 12 (n % 64 * 2 ^ (6 * u.val))) } }
  else if o = 0x700C then
    (if bitOf n 0 then { s with xlt := if u = 0 then { s.xlt with err0 := false } else { s.xlt with err1 := false } } else s)
  else if 0x30000 ≤ o && o < 0x50000 then
    let p : RootId := Fin.ofNat 4 (2 * u.val + (o - 0x30000) / 0x10000)
    let k := o % 0x10000
    if k = 0 then effRpDefcidWrite p (v.setWidth 16) s
    else if k = 4 then (if 1 ≤ n % 128 && n % 128 ≤ 100 then s.setReg a (BitVec.ofNat 32 (n % 128)) else s)
    else if k = 8 then
      s.setRoot p { s.root p with atsEvt := (s.root p).atsEvt && !bitOf n 1, dup := (s.root p).dup && !bitOf n 2 }
    else if 0x8000 ≤ k then
      (if k % 8 = 0 then s.hold a v else effPasidEntryWrite p (Fin.ofNat 4096 ((k - 0x8000) / 8)) v s)
    else s
  else if 0x80000 ≤ o && o < 0x90000 then effSoOwnWrite u (Fin.ofNat 16384 ((o - 0x80000) / 4)) v s
  else if 0xC0000 ≤ o && o < 0x100000 then
    (if o % 8 = 0 then effSoValWrite (BitVec.ofNat 16 (32768 * u.val + (o - 0xC0000) / 8)) false (v.setWidth 64) s else s)
  else if 0x200000 ≤ o && o < 0x250000 then
    s.writeQp (Fin.ofNat 20 (10 * u.val + (o - 0x200000) / 0x8000)) (Fin.ofNat 256 (o / 128)) (o % 128) v
  else if 0x250000 ≤ o && o < 0x250280 then
    let p := 10 * u.val + (o - 0x250000) / 64
    if (List.range 256).all fun q => (s.qp p q).state = .stopped then s.setReg a (merge (s.reg a) (ethMask (o % 64)) v) else s
  else if 0x280000 ≤ o && o < 0x3C0000 then
    s.writeKey (Fin.ofNat 20 (10 * u.val + (o - 0x280000) / 0x20000)) (Fin.ofNat 4096 (o / 32)) (o % 32) v
  else if u ≠ 0 then s
  else if o = 0x60 then (if bitOf n 0 then effHostRstCtlGo s else s)
  else if o = 0x1000 then (if bitOf n 0 then effFcCheck s else s)
  else if o = 0x1004 then s.writeFcApply n
  else if o = 0x1010 then
    s.onFront fun f => { f with late := f.late && !bitOf n 12, rej := f.rej && !bitOf n 13, applied := f.applied && !bitOf n 14 }
  else if o = 0x5004 then (if bitOf n 15 then { s with power := { s.power with exchMiss := false } } else s)
  else if o = 0x5010 then (if bitOf n 14 then { s with power := { s.power with hotEvt := false } } else s)
  else if 0x5040 ≤ o && o < 0x5070 then (if 8 ≤ n % 64 && n % 64 ≤ 32 then s.setReg a (BitVec.ofNat 32 (n % 64)) else s)
  else if o = 0x6008 then (if bitOf n 0 then effGo s else s)
  else if o = 0x600C then (if bitOf n 8 then s.onSec fun x => { x with doneEvt := false } else s)
  else if o = 0x8028 then
    let old := (s.reg a).toNat
    let req := if 10 ≤ n % 2 ^ 16 then n % 2 ^ 16 else old % 2 ^ 16
    let coll := if 1 ≤ n / 2 ^ 16 then n / 2 ^ 16 else old / 2 ^ 16
    s.setReg a (BitVec.ofNat 32 (req + 2 ^ 16 * coll))
  else if 0x9000 ≤ o && o < 0x9080 && o % 16 = 0 && bitOf n 4 then effRetrain (Fin.ofNat 8 ((o - 0x9000) / 16)) s
  else s

/-- A 32-bit write at its aligned address (00 R6, R7, 21 R402, R404). -/
def State.writeReg (s : State) (cid : Cid) (a : Nat) (v : Word) : State :=
  if heldWide a then s.hold a v
  else if 4 ≤ a && heldWide (a - 4) then (s.writeWide (a - 4) (v ++ s.lowHalf (a - 4) (s.lowNow (a - 4)))).unhold (a - 4)
  else
    match regSpace a with
    | .ochre d o =>
      if o = 0x20 then effDbgResume d (v.setWidth 64) s
      else if o = 0x24 then effDbgResume d (v ++ (0 : Word)) s
      else if o = 0x28 && !s.unlocked 1 then s
      else if o = 0x1014 then s.writeResume d v.toNat
      else if 0x100000 ≤ o && o < 0x104000 then s.writeRing (Fin.ofNat 1024 (256 * d.val + (o - 0x100000) / 64)) (o % 64) v
      else
        let s := s.setReg a (merge (s.reg a) (rwMask a) v &&& ~~~(v &&& w1cMask a))
        if o = 0x3100 && v.getLsbD 1 then effPmcClear (Fin.ofNat 6 d) s else s
    | .umber u o =>
      match qpPage u o with
      | some (p, n, k) => if k = 0 then effQpDoorbell p n cid false v s else if k = 4 then effQpDoorbell p n cid true v s else s
      | none =>
        let s := if stgMask a ≠ 0 then s.stage a (stgMask a) v else s
        if rwMask a ≠ 0 || w1cMask a ≠ 0 then
          let s := s.setReg a (merge (s.reg a) (rwMask a) v &&& ~~~(v &&& w1cMask a))
          if o = 0x3100 && v.getLsbD 1 then effPmcClear (Fin.ofNat 6 (4 + u.val)) s else s
        else s.writeUmber u o v
    | .bell r o => if o = 0 then effDoorbell r cid v s else s
    | .mgmt o =>
      if o = 8 then { s with mc := { s.mc with refused := s.mc.refused && !v.getLsbD 0, ue := s.mc.ue && !v.getLsbD 1 } } else s
    | .nothing => s

/-- An aligned 8-byte write: a 64-bit register at once, or two registers, the lower first (00 R6). -/
def State.writePair (s : State) (cid : Cid) (a : Nat) (v : DWord) : State :=
  let lo : Word := v.setWidth 32
  let hi : Word := (v >>> 32).setWidth 32
  if heldWide a then (s.writeWide a v).unhold a
  else
    match regSpace a with
    | .ochre d o => if o = 0x20 then effDbgResume d v s else (s.writeReg cid a lo).writeReg cid (a + 4) hi
    | .umber u o =>
      if 0xC0000 ≤ o && o < 0x100000 then effSoValWrite (BitVec.ofNat 16 (32768 * u.val + (o - 0xC0000) / 8)) true v s
      else (s.writeReg cid a lo).writeReg cid (a + 4) hi
    | _ => (s.writeReg cid a lo).writeReg cid (a + 4) hi

/-- n pairs in increasing address order (00 R6). -/
def State.writePairs : Nat → State → Cid → Nat → List Byte → State
  | 0, s, _, _, _ => s
  | n + 1, s, cid, a, bs => State.writePairs n (s.writePair cid a (BitVec.ofNat 64 (leNat (bs.take 8)))) cid (a + 8) (bs.drop 8)

/-- The XLT_INV window of an Umber die (11 R221). -/
def invWindow (a : Nat) : Option UmberId :=
  match regSpace a with
  | .umber u o => if o = 0x7020 then some u else none
  | _ => none

/-- A write of bytes to device registers (00 R6). -/
def State.mmioWrite (s : State) (cid : Cid) (a : Nat) (bs : List Byte) : State :=
  let a := regAlias a
  let n := bs.length
  if n < 4 || a % n ≠ 0 then s
  else if n = 4 then s.writeReg cid a (BitVec.ofNat 32 (leNat bs))
  else if n = 32 && (invWindow a).isSome then (if s.invFull then s else s.queueInv ((invWindow a).getD 0) bs)
  else State.writePairs (n / 8) s cid a bs

/-- Largest power of two up to 32 that divides an address and does not exceed n. -/
def pieceSize (a n : Nat) : Nat := ([32, 16, 8, 4, 2].find? fun k => a % k = 0 && k ≤ n).getD 1

/-- The accesses of an engine or a dispatch unit to a span of device registers: the aligned 32-byte words that it covers, and aligned
powers of two of the words that it covers in part (12 R237, 00 R6; log 63). -/
def regPieces : Nat → Nat → Nat → List (Nat × Nat)
  | 0, _, _ => []
  | k + 1, a, n => if n = 0 then [] else (a, pieceSize a n) :: regPieces k (a + pieceSize a n) (n - pieceSize a n)

/-- A span of device registers read by those accesses in increasing address order. -/
def State.devRead (s : State) (a n : Nat) : State × List Byte :=
  (regPieces n a n).foldl (fun x p => let (s, bs) := x.1.mmioRead p.1 p.2; (s, x.2 ++ bs)) (s, [])

/-- A span of device registers written by those accesses in increasing address order. -/
def State.devWrite (s : State) (cid : Cid) (a : Nat) (bs : List Byte) : State :=
  (regPieces bs.length a bs.length).foldl (fun s p => s.mmioWrite cid p.1 ((bs.drop (p.1 - a)).take p.2)) s

/-- A store of the span would stall at the XLT_INV window (11 R221). -/
def State.invStalls (s : State) (a n : Nat) : Bool :=
  s.invFull && (regPieces n a n).any fun p => p.2 = 32 && (invWindow p.1).isSome

end Sys2Proof.Machine
end

