-- ==== Sys2Proof/Machine/Directory.lean ====
section
/-! DEFINITION. The coherence directory (12 R253-R257): which caches hold a line, in which state, and the messages about it. The
bytes of a line are those of memory, the one order of R238. -/

namespace Sys2Proof.Machine

/-- Home of a line: the Umber die of its memory (12 R253). -/
def State.home (s : State) (a : Nat) : Nat :=
  match placeOf a with
  | .hbm _ => (s.hbmPlace a).1 / 32 / 6
  | .tierB u => u
  | .cxl p => p / 2
  | _ => 0

/-- Memory that caches may hold: coherent package memory (12 R236). -/
def State.cacheable (s : State) (a : Nat) : Bool := isMemory a && s.mapped a

def State.isBusy (s : State) (line : Nat) : Bool := s.coh.busy.any fun b => b.1 == line
def State.isHeld (s : State) (line : Nat) (h : Holder) : Bool := s.coh.holds.contains (line, h)

/-- A core that receives a line holds it for 32 of its cycles (12 R256). -/
def State.startHold (s : State) (line : Nat) (h : Holder) : State :=
  match h with
  | .l3 _ => s
  | _ => if s.isHeld line h then s else s.onCoh fun c => { c with holds := c.holds ++ [(line, h)] }

/-- A line leaves a cache: no reservation or hold on it remains there (12 R256, log 15). -/
def State.lineLeaves (s : State) (line : Nat) (h : Holder) : State :=
  let mine : Core → Bool := fun c => match c, h with
    | .host c, .l2 d => c == d
    | .cell g, .dcache k => g == k
    | _, _ => false
  s.onCoh fun c => { c with resv := c.resv.filter fun r => !(r.2.1 / 128 == line && mine r.1), holds := c.holds.filter (· != (line, h)) }

/-- A line enters a cache: its words that read uncorrectable in memory are uncorrectable in the cache too, whatever later becomes of the
line (18 R363, R364). -/
def State.poison (s : State) (line : Nat) : State :=
  match s.badWords (128 * line) 128 with
  | [] => s
  | ws => { s with hbm := { s.hbm with broken := s.hbm.broken ++ ws.filter fun w => !s.hbm.broken.contains w,
                                       ueTyp := ws.foldl (fun t w => tabPut t w 0x09) s.hbm.ueTyp } }

/-- A cache receives a line that no other cache owns: it is read from memory (10 R201, R208, 12 R254). -/
def State.readLine (s : State) (h : Holder) (line : Nat) : State :=
  let cid := s.holderCid h
  let a := 128 * line
  (((s.quotaUse cid a 128).seeAccess cid none a 128 false false).countLines (holderDie h) (s.memDie a) a 128 cid false).poison line

/-- The way of a message between a cache and the home of an address (01 R13, 15 R319, R322). -/
def State.homeWay (s : State) (h : Holder) (a : Nat) : Way := s.way (holderDie h) (4 + s.home a) a

/-- Entries of the set of a line in its home's directory, the line's own apart (12 R254; log 61). -/
def State.setMates (s : State) (line : Nat) : List Nat :=
  (s.coh.dir.filter fun p => p.1 ≠ line && s.home (128 * p.1) = s.home (128 * line) &&
    Config.dirSet p.1 % 262144 = Config.dirSet line % 262144).map (·.1)

/-- A line that the directory may give up: no transaction on it is in progress, and no core holds it (12 R254, R256). -/
def State.idleLine (s : State) (line : Nat) : Bool := !s.isBusy line && s.coh.holds.all fun h => h.1 != line

/-- A full set of 16 evicts an idle entry, whichever the home chooses, before a line is recorded: every copy that the entry records is
invalidated, a modified one written back first (12 R254, R256; log 61). -/
def State.makeRoom (s : State) (line : Nat) : State :=
  if s.coh.dir.length < 16 || (s.setMates line).length < 16 then s
  else
    let idle := (s.setMates line).filter fun l => s.idleLine l
    match idle[Config.freeNat s.fresh % idle.length]? with
    | some l => ({ s with fresh := s.fresh + 1 }).dropLine l
    | none => s

/-- The requester has the line: shared or, when nobody holds it, exclusive; or modifiable (12 R254). -/
def State.grant (s : State) (line : Nat) (h : Holder) (modifiable : Bool) : State :=
  let s := s.makeRoom line
  let e := s.dirEntry line
  let s := if modifiable then s.setDir line { owner := some h, modified := true, sharers := [], noLake := e.noLake }
    else if e.owner.isNone && e.sharers.isEmpty then s.setDir line { owner := some h, modified := false, sharers := [] }
    else if e.owner == some h || e.sharers.contains h then s
    else s.setDir line { e with sharers := e.sharers ++ [h] }
  (s.onCoh fun c => { c with busy := c.busy.filter fun b => b.1 != line }).startHold line h

/-- The home serves an accepted request: at once, or after forwards to the holders have been answered (12 R254, R255). -/
def State.serve (s : State) (line : Nat) (h : Holder) (modifiable : Bool) : State :=
  let e := s.dirEntry line
  let send := fun (dst : Holder) (k : FwdKind) => ({ dst := dst, line := line, kind := k, req := some h, deferred := false } : Fwd)
  let others := e.sharers.filter (· != h)
  match e.owner with
  | some o =>
    if o == h then s.grant line h (modifiable || e.modified)
    else s.onCoh fun c => { c with busy := c.busy ++ [(line, h, modifiable)],
                                   fwds := c.fwds ++ [send o (if modifiable then .getM else .getS)] }
  | none =>
    let s := if e.sharers.contains h then s else s.readLine h line
    if modifiable && !others.isEmpty then
      s.onCoh fun c => { c with busy := c.busy ++ [(line, h, true)], fwds := c.fwds ++ others.map fun o => send o .inv }
    else s.grant line h modifiable

/-- The home serves the accepted requests to a line in the order of acceptance, one transaction at a time (12 R257). -/
def State.serveAccepted : Nat → State → Nat → State
  | 0, s, _ => s
  | n + 1, s, line =>
    if s.isBusy line then s
    else match s.coh.accepted.find? fun a => a.1 == line with
      | none => s
      | some a => State.serveAccepted n ((s.onCoh fun c => { c with accepted := c.accepted.erase a }).serve line a.2.1 a.2.2) line

/-- A request is accepted (12 R257). -/
def State.accept (s : State) (line : Nat) (h : Holder) (modifiable : Bool) : State :=
  let s := s.onCoh fun c => { c with accepted := c.accepted ++ [(line, h, modifiable)] }
  State.serveAccepted s.coh.accepted.length s line

/-- A line's directory set is full of lines that it cannot give up now (12 R254, R256). -/
def State.setFull (s : State) (line : Nat) : Bool :=
  16 ≤ s.coh.dir.length && 16 ≤ (s.setMates line).length && (s.setMates line).all fun l => !s.idleLine l

/-- The transaction table of a line's home is full, or the line's set has no room (12 R254, R257; log 61). -/
def State.tableFull (s : State) (line : Nat) : Bool :=
  let n := (s.coh.busy.filter fun b => s.home (128 * b.1) = s.home (128 * line)).length
  (n ≠ 0 && Config.homeTable < n) || s.setFull line

/-- The home cannot accept a new REQ on a line: a transaction on it is in progress, a token goes before it, or there is no room (12 R257). -/
def State.mustRetry (s : State) (line : Nat) : Bool :=
  s.isBusy line || (s.coh.tokens.any fun t => t.1 == line) || s.tableFull line

/-- RETRY with a token, of which a requester has at most one at a home (12 R257). -/
def State.retry (s : State) (h : Holder) (line : Nat) (k : ReqKind) : State :=
  if s.coh.tokens.any fun t => t.2.1 == h && s.home (128 * t.1) == s.home (128 * line) then s
  else (s.onCoh fun c => { c with tokens := c.tokens ++ [(line, h, k)] }).count (4 + s.home (128 * line)) 0x21 (some (s.holderCid h)) 1

/-- The request of a token has been accepted. -/
def State.dropToken (s : State) (h : Holder) (line : Nat) : State :=
  if s.coh.tokens.isEmpty then s else s.onCoh fun c => { c with tokens := c.tokens.filter fun t => !(t.1 == line && t.2.1 == h) }

/-- A REQ arrives at the home, once its path carries it: accepted, held by its quota, or answered RETRY (01 R13, 10 R208, 12 R257). -/
def State.request_ (s : State) (h : Holder) (a : Nat) (modifiable : Bool) : State :=
  let line := a / 128
  if !s.cacheable a || s.homeWay h a ≠ .clear || !s.quotaOk (s.holderCid h) (128 * line) 128 then s
  else if s.mustRetry line then s.retry h line (if modifiable then .getM else .getS)
  else s.accept line h modifiable

def effGetS (h : Holder) (pa : DWord) (s : State) : State := s.request_ h pa.toNat false
def execGetS (h : Holder) (pa : DWord) (s : State) : Host.Outcome State Fault Refusal := s.live (effGetS h pa)

def effGetM (h : Holder) (pa : DWord) (s : State) : State := s.request_ h pa.toNat true
def execGetM (h : Holder) (pa : DWord) (s : State) : Host.Outcome State Fault Refusal := s.live (effGetM h pa)

/-- The line of an M or E holder is written back: memory takes a modified line, and the directory records no owner (12 R254). -/
def State.takeBack (s : State) (h : Holder) (line : Nat) : State :=
  ((s.cleanLine line).setDir line { s.dirEntry line with owner := none, modified := false, noLake := false }).lineLeaves line h

/-- WRITEBACK of an M or E line; while a transaction on the line is in progress the home answers RETRY (12 R254, R257; log 61). -/
def effWriteback (h : Holder) (pa : DWord) (s : State) : State :=
  let line := pa.toNat / 128
  if (s.dirEntry line).owner != some h || s.homeWay h pa.toNat ≠ .clear then s
  else if s.isBusy line then s.retry h line .writeback
  else (s.dropToken h line).takeBack h line
def execWriteback (h : Holder) (pa : DWord) (s : State) : Host.Outcome State Fault Refusal := s.live (effWriteback h pa)

/-- The transaction of a line ends: its requester has the line, and the home goes on to the next accepted request (12 R257). -/
def State.finish (s : State) (line : Nat) (req : Option Holder) (modifiable : Bool) : State :=
  match req with
  | some h =>
    let s := s.grant line h modifiable
    State.serveAccepted s.coh.accepted.length s line
  | none => s

/-- A holder answers a forward, and the requester has the line once the last answer is in; an owner that keeps the line shared writes it
back if modified (12 R254, R255). -/
def State.answer (s : State) (f : Fwd) : State :=
  let s := s.onCoh fun c => { c with fwds := c.fwds.filter (· != f) }
  let e := s.dirEntry f.line
  match f.kind with
  | .getS =>
    let shared : DirEntry := if e.owner == some f.dst then { owner := none, modified := false, sharers := e.sharers ++ [f.dst] } else e
    ((s.cleanLine f.line).setDir f.line shared).finish f.line f.req false
  | .getM => (s.lineLeaves f.line f.dst).finish f.line f.req true
  | .inv =>
    let s := (s.setDir f.line { e with sharers := e.sharers.filter (· != f.dst) }).lineLeaves f.line f.dst
    if s.coh.fwds.any fun g => g.line == f.line && g.kind == .inv then s else s.finish f.line f.req true

/-- FORWARDED_REQUEST: it reaches its holder once its path carries it, and is answered, or deferred by the core's hold (01 R13, 12 R255,
R256). -/
def effForwardedRequest (h : Holder) (pa : DWord) (s : State) : State :=
  let line := pa.toNat / 128
  match s.coh.fwds.find? fun f => f.dst == h && f.line == line with
  | none => s
  | some f =>
    if s.homeWay h pa.toNat ≠ .clear then s
    else if s.isHeld line h then s.onCoh fun c => { c with fwds := c.fwds.map fun g => if g == f then { g with deferred := true } else g }
    else s.answer f
def execForwardedRequest (h : Holder) (pa : DWord) (s : State) : Host.Outcome State Fault Refusal :=
  s.live (effForwardedRequest h pa)

/-- HOLD_END: a deferred forward is honoured (12 R256). -/
def effHoldEnd (h : Holder) (pa : DWord) (s : State) : State :=
  let line := pa.toNat / 128
  let s := s.onCoh fun c => { c with holds := c.holds.filter (· != (line, h)) }
  match s.coh.fwds.find? fun f => f.dst == h && f.line == line && f.deferred with
  | none => s
  | some f => s.answer f
def execHoldEnd (h : Holder) (pa : DWord) (s : State) : Host.Outcome State Fault Refusal := s.live (effHoldEnd h pa)

/-- HOME_RETRY: the request returns with its token and is accepted, behind the requests accepted on its line before it; a write-back, once no
transaction on the line is in progress. An atomic at the home returns as its own command (12 R257; log 61). -/
def effHomeRetry (h : Holder) (pa : DWord) (s : State) : State :=
  let line := pa.toNat / 128
  match s.coh.tokens.find? fun t => t.1 == line && t.2.1 == h with
  | none => s
  | some t =>
    if s.homeWay h pa.toNat ≠ .clear || s.setFull line then s
    else match t.2.2 with
    | .getS => (s.dropToken h line).accept line h false
    | .getM => (s.dropToken h line).accept line h true
    | .writeback =>
      if s.isBusy line then s
      else if (s.dirEntry line).owner == some h then (s.dropToken h line).takeBack h line
      else s.dropToken h line
    | .atomic => s
def execHomeRetry (h : Holder) (pa : DWord) (s : State) : Host.Outcome State Fault Refusal := s.live (effHomeRetry h pa)

/-- Every other copy of a line leaves its cache. -/
def State.othersLeave (s : State) (line : Nat) (h : Holder) : State :=
  let e := s.dirEntry line
  ((e.owner.toList ++ e.sharers).filter (· != h)).foldl (fun s o => s.lineLeaves line o) s

/-- The cache of a core has the line for a load, or modifiable for a store or atomic, as one whole transaction (12 R238, R254); a line
that it receives is held for 32 cycles (12 R256), and one that it stores to keeps the NOLAKE of the store's range (11 R217). -/
def State.coreHas (s : State) (h : Holder) (a : Nat) (modifiable noLake : Bool) : State :=
  let line := a / 128
  let s := s.dropToken h line
  let e := s.dirEntry line
  if modifiable then
    if e.owner == some h then
      (if e.modified && e.noLake == noLake then s else s.setDir line { e with modified := true, noLake := noLake })
    else (((s.makeRoom line).othersLeave line h).setDir line { owner := some h, modified := true, sharers := [], noLake := noLake }).startHold line h
  else if e.owner == some h || e.sharers.contains h then s
  else
    (match e.owner with
     | some o => (s.cleanLine line).setDir line { owner := none, modified := false, sharers := e.sharers ++ [o, h] }
     | none =>
       let s := s.makeRoom line
       if e.sharers.isEmpty then s.setDir line { owner := some h, modified := false, sharers := [] }
       else s.setDir line { e with sharers := e.sharers ++ [h] }).startHold line h

end Sys2Proof.Machine
end

