-- ==== Sys2Proof/Machine/Access.lean ====
section
/-! DEFINITION. Accesses of engines, cores, threads and dispatch units to any address: memory, device registers, third devices
(13 R287, R288), other packages (14 R293-R302). -/

namespace Sys2Proof.Machine

/-! ### Atomic functions -/

/-- Two's-complement value of w bits. -/
def signedOf (w : Nat) (v : Nat) : Int := if v % 2 ^ w < 2 ^ (w - 1) then (v % 2 ^ w : Nat) else (v % 2 ^ w : Nat) - (2 ^ w : Nat)

/-- New value that an atomic of w bits stores (09 R180, 10 R206). -/
def atomicNew (fn : AtomicFn) (w old operand compare : Nat) : Nat :=
  let o := old % 2 ^ w
  let x := operand % 2 ^ w
  match fn with
  | .add => (o + x) % 2 ^ w
  | .smin => if signedOf w o ≤ signedOf w x then o else x
  | .smax => if signedOf w o ≤ signedOf w x then x else o
  | .umin => min o x
  | .umax => max o x
  | .and => o &&& x
  | .or => o ||| x
  | .xor => o ^^^ x
  | .exch => x
  | .cas => if o = compare % 2 ^ w then x else o

/-! ### Outcomes -/

/-- Outcome of a read. -/
inductive Got where
  | bytes (bs : List Byte)
  | bad (st : Status)
  | mig (va cause : Nat)
  | remote (a : Nat)
  | stall
deriving DecidableEq, Repr

/-- Outcome of a write. -/
inductive Put where
  | done
  | bad (st : Status)
  | mig (va cause : Nat)
  | remote (a : Nat)
  | stall
deriving DecidableEq, Repr

/-- Who makes an access in the third-device window (13 R434). -/
def Requester.source (w : Requester) : MmioSource :=
  match w.cell, w.cmd with
  | some g, _ => .cell (Fin.ofNat 256 g)
  | none, some (r, _) => .dispatch (Fin.ofNat 1024 r)
  | none, none => .dispatch (Fin.ofNat 1024 (256 * w.die))

/-- The die at which a local physical address is reached (01 R13). -/
def State.targetDie (s : State) (a : Nat) : Nat :=
  match placeOf a with
  | .hbm _ | .tierB _ | .cxl _ => s.memDie a
  | .mmio => 4 + (s.portOf a).getD 0 / 2
  | _ =>
    match regSpace a with
    | .ochre d _ => d
    | .umber u _ => 4 + u.val
    | .bell r _ => r.val / 256
    | .mgmt _ => 4
    | .nothing => 0

/-- The way of a die's access to a sync object, at its SO_VAL register (15 R323, 21 R412). -/
def State.soWay (s : State) (die o : Nat) : Way :=
  let u := o / 32768
  s.way die (4 + u) (umberBar u + 0xC0000 + 8 * (o % 32768))

/-- The ways of the aligned 256-byte blocks of a span, each by its own die and address bits (01 R13, R14). -/
def State.ways (s : State) (src a n : Nat) : Way :=
  worstWay ((blocksOf a n).map fun b => s.way src (s.targetDie b.1) b.1)

/-- A request toward a third device by an engine, core, thread or dispatch unit, by a host core, by a device of root port p. -/
def Requester.mmio (w : Requester) (cid : Cid) (a : Nat) (bs : List Byte) (n : Nat) : MmioReq :=
  { id := 0, src := w.source, cmd := w.cmd, item := w.item, thr := w.thr, rid := 0, cid := cid, addr := a, data := bs, n := n }
def hostMmio (c : HostId) (a : Nat) (bs : List Byte) (n : Nat) : MmioReq :=
  { id := 0, src := .host c, cmd := none, item := 0, thr := none, rid := 0, cid := 0, addr := a, data := bs, n := n }
def peerMmio (p : Nat) (rid : BitVec 16) (cid : Cid) (a : Nat) (bs : List Byte) (n : Nat) : MmioReq :=
  { id := 0, src := .peer (Fin.ofNat 4 p), cmd := none, item := 0, thr := none, rid := rid, cid := cid, addr := a, data := bs, n := n }

/-- Bytes of posted writes that a root port holds (13 R287). -/
def RootPort.heldBytes (r : RootPort) : Nat := r.held.foldl (fun n h => n + h.data.length) 0

/-- The packets of a posted write, each of at most Max_Payload_Size bytes (13 R285). -/
def RootPort.payloads (r : RootPort) (q : MmioReq) : List MmioReq :=
  ((alignedPieces r.mps.bytes q.addr q.n).zipIdx r.nextId).map fun p =>
    { q with id := p.2, addr := p.1.1, data := (q.data.drop (p.1.1 - q.addr)).take p.1.2, n := p.1.2 }

/-- Requests leave by the link, or are held toward it. -/
def State.sendOut (s : State) (p : Nat) (qs : List MmioReq) : State :=
  s.setRoot p { s.root p with sent := (s.root p).sent ++ qs, nextId := (s.root p).nextId + qs.length }
def State.holdOut (s : State) (p : Nat) (qs : List MmioReq) : State :=
  s.setRoot p { s.root p with held := (s.root p).held ++ qs, nextId := (s.root p).nextId + qs.length }

/-- A posted write toward a third device: sent, and dropped with an AER error where no device accepts it; held while the link is down,
stalled by a full buffer, or failed (13 R287, R288, R434; log 4). -/
def State.postOut (s : State) (p : Nat) (q : MmioReq) : State × Put :=
  let r := s.root p
  if r.l0 then
    let (s, b) := (s.sendOut p (r.payloads q)).draw 1
    (s.setRoot p { s.root p with aer := (s.root p).aer + b.toNat }, .done)
  else if r.dead then (s, .bad stHostpath)
  else if 2 ^ 20 < r.heldBytes + q.n then (s, .stall)
  else (s.holdOut p (r.payloads q), .done)

/-- Two requests ask for the same bytes for the same work. -/
def MmioReq.same (x y : MmioReq) : Bool := { x with id := 0 } == { y with id := 0 }

/-- What a device answers to a read that leaves now: refused, or data that is not the package's (13 R434; log 4). -/
def State.deviceAnswer (s : State) (n : Nat) : State × Option (List Byte) :=
  let (s, b) := s.draw 1
  let (s, v) := s.draw (8 * n)
  (s, if b = 1 then none else some (leBytes n v.toNat))

/-- The end of a read by its device's answer (13 R434). -/
def gotOf : Option (List Byte) → Got
  | some bs => .bytes bs
  | none => .bad stRange

/-- Writes of the devices of a root port that have arrived and are not all performed: at the port, on their way to another package, or held
toward a third device (13 R286). -/
def State.portOwes (s : State) (p : Nat) : Bool :=
  ((s.root p).posted.any fun x => accWrites x.access) || (s.fab.reqs.any fun r => match r.who with | .port k _ false => k == p | _ => false) ||
  s.mmioOwed fun h => h.src == .peer (Fin.ofNat 4 p) && !h.data.isEmpty

/-- A read of a third device: its data is not the package's. It is held, once, while the link is down, and its completion does not pass
earlier writes of the devices (13 R286, R288, R434). -/
def State.readOut (s : State) (p : Nat) (q : MmioReq) : State × Got :=
  let r := s.root p
  match r.ready.find? fun x => x.1.same q with
  | some x => if s.portOwes p then (s, .stall) else (s.setRoot p { r with ready := r.ready.erase x }, gotOf x.2)
  | none =>
    if r.l0 then
      if s.portOwes p then (s, .stall)
      else
        let (s, x) := (s.sendOut p [{ q with id := r.nextId }]).deviceAnswer q.n
        (s, gotOf x)
    else if r.dead then (s, .bad stHostpath)
    else if r.held.any fun x => x.same q then (s, .stall)
    else (s.holdOut p [{ q with id := r.nextId }], .stall)


/-- The messages of an access from a die, block by block, each to the die that serves it (01 R13, 15 R317; log 38). -/
def State.crosses (s : State) (src a n : Nat) (cid : Cid) (write : Bool) : State :=
  (blocksOf a n).foldl (fun s b => s.countLines src (s.targetDie b.1) b.1 b.2 cid write) s

/-- A read at the place that serves a local physical address. -/
def State.readHere (s : State) (w : Requester) (cid : Cid) (a n : Nat) (noAlloc : Bool) : State × Got :=
  match placeOf a with
  | .mmio =>
    match s.portOf a with
    | none => (s, .bad stRange)
    | some p => s.readOut p (w.mmio cid a [] n)
  | .device =>
    if bar0Ok cid a then (let (s, bs) := s.devRead a n; (s, .bytes bs)) else (s, .bad stRange)
  | _ =>
    if !s.quiet a n false none || !s.quotaOk cid a n then (s, .stall)
    else if s.brokenIn a n then (s.ueRecord cid a n w.cmd, .bad stMemUe)
    else
      let (s, bs) := s.memRead cid a n noAlloc w.cmd
      (s, .bytes bs)

/-- Read n bytes at a local physical address that has passed the checks of 11 R218. -/
def State.readLocal (s : State) (w : Requester) (cid : Cid) (a n : Nat) (noAlloc : Bool) : State × Got :=
  match s.ways w.die a n with
  | .cut => (s, .bad stLink)
  | .stall => (s, .stall)
  | .clear =>
    match s.readHere w cid a n noAlloc with
    | (t, .bytes bs) => (t.crosses w.die a n cid false, .bytes bs)
    | r => r

/-- A write at the place that serves a local physical address. -/
def State.writeHere (s : State) (w : Requester) (cid : Cid) (a : Nat) (bs : List Byte) (noAlloc : Bool) : State × Put :=
  match placeOf a with
  | .mmio =>
    match s.portOf a with
    | none => (s, .bad stRange)
    | some p => s.postOut p (w.mmio cid a bs bs.length)
  | .device =>
    if !bar0Ok cid a then (s, .bad stRange)
    else if s.invStalls a bs.length then (s, .stall)
    else if s.signalsBroken a bs.length then (s, .bad stMemUe)
    else (s.devWrite cid a bs, .done)
  | _ =>
    if !s.quiet a bs.length true none || !s.quotaOk cid a bs.length then (s, .stall)
    else if s.partlyBroken a bs.length then (s.ueStore cid a bs.length w.cmd, .bad stMemUe)
    else (s.memWrite cid a bs noAlloc w.cmd, .done)

/-- Write bytes at a local physical address that has passed the checks of 11 R218. -/
def State.writeLocal (s : State) (w : Requester) (cid : Cid) (a : Nat) (bs : List Byte) (noAlloc : Bool) : State × Put :=
  match s.ways w.die a bs.length with
  | .cut => (s, .bad stLink)
  | .stall => (s, .stall)
  | .clear =>
    match s.writeHere w cid a bs noAlloc with
    | (t, .done) => (t.crosses w.die a bs.length cid true, .done)
    | r => r

/-- Read n bytes within one granule of virtual address (11 R218). -/
def State.readPiece (s : State) (w : Requester) (cid : Cid) (va n : Nat) (k : AccKind) (noAlloc : Bool) : State × Got :=
  let (s, x) := s.translate w cid va n k
  match x with
  | .bad st => (s, .bad st)
  | .mig c => (s, .mig va c)
  | .waits => (s, .stall)
  | .at a nl => if isRemote a then (s, .remote a) else s.readLocal w cid a n (noAlloc || nl)

/-- Write bytes within one granule of virtual address (11 R218). -/
def State.writePiece (s : State) (w : Requester) (cid : Cid) (va : Nat) (bs : List Byte) (k : AccKind) (noAlloc : Bool) :
    State × Put :=
  let (s, x) := s.translate w cid va bs.length k
  match x with
  | .bad st => (s, .bad st)
  | .mig c => (s, .mig va c)
  | .waits => (s, .stall)
  | .at a nl => if isRemote a then (s, .remote a) else s.writeLocal w cid a bs (noAlloc || nl)

/-- Read a span piece by piece; the first piece that does not give bytes decides. -/
def State.readPieces (s : State) (w : Requester) (cid : Cid) (k : AccKind) (noAlloc : Bool) : List (Nat × Nat) → State × Got
  | [] => (s, .bytes [])
  | (va, n) :: ps =>
    match s.readPiece w cid va n k noAlloc with
    | (s, .bytes bs) =>
      match State.readPieces s w cid k noAlloc ps with
      | (s, .bytes cs) => (s, .bytes (bs ++ cs))
      | r => r
    | r => r

def State.engRead (s : State) (w : Requester) (cid : Cid) (va n : Nat) (k : AccKind) (noAlloc : Bool) : State × Got :=
  s.readPieces w cid k noAlloc (granulePieces va n)

/-- Write a span piece by piece; the pieces before the first that fails stay written (13 R277). -/
def State.writePieces (s : State) (w : Requester) (cid : Cid) (k : AccKind) (noAlloc : Bool) (va : Nat) (bs : List Byte) :
    List (Nat × Nat) → State × Put
  | [] => (s, .done)
  | (a, n) :: ps =>
    match s.writePiece w cid a ((bs.drop (a - va)).take n) k noAlloc with
    | (s, .done) => State.writePieces s w cid k noAlloc va bs ps
    | r => r

def State.engWrite (s : State) (w : Requester) (cid : Cid) (va : Nat) (bs : List Byte) (k : AccKind) (noAlloc : Bool) :
    State × Put :=
  s.writePieces w cid k noAlloc va bs (granulePieces va bs.length)

end Sys2Proof.Machine
end

