-- ==== Sys2Proof/Machine/Functions.lean ====
section
/-! DEFINITION. The FP32 functions of 03 R63 and 07 R137, correctly rounded: each is enclosed between two exact bounds, and the
working precision rises until both bounds round to the same FP32 value. -/

namespace Sys2Proof.Machine

/-- An enclosure: lo × 2^−P ≤ x ≤ hi × 2^−P, for the precision P in use. -/
structure Encl where
  lo : Int
  hi : Int

/-- ⌊a / 2^k⌋ and ⌈a / 2^k⌉. -/
def fdivPow (a : Int) (k : Nat) : Int := a.fdiv (2 ^ k : Nat)
def cdivPow (a : Int) (k : Nat) : Int := -((-a).fdiv (2 ^ k : Nat))

/-- An exact rational ± n/d × 2^e. -/
def enclRat (p : Nat) (neg : Bool) (n d : Nat) (e : Int) : Encl :=
  let num : Int := (n * pow2Num (e + p) : Nat)
  let num := if neg then -num else num
  let den : Int := (d * pow2Den (e + p) : Nat)
  { lo := num.fdiv den, hi := -((-num).fdiv den) }

def enclInt (p : Nat) (k : Int) : Encl := { lo := k * (2 ^ p : Nat), hi := k * (2 ^ p : Nat) }

def Encl.add (x y : Encl) : Encl := { lo := x.lo + y.lo, hi := x.hi + y.hi }
def Encl.neg (x : Encl) : Encl := { lo := -x.hi, hi := -x.lo }
def Encl.sub (x y : Encl) : Encl := x.add y.neg

/-- Product: the least and the greatest of the four products of the ends, rounded outward. -/
def Encl.mul (p : Nat) (x y : Encl) : Encl :=
  let a := x.lo * y.lo
  let b := x.lo * y.hi
  let c := x.hi * y.lo
  let d := x.hi * y.hi
  { lo := fdivPow (min (min a b) (min c d)) p, hi := cdivPow (max (max a b) (max c d)) p }

/-- Quotient by a positive integer. -/
def Encl.divNat (x : Encl) (n : Nat) : Encl := { lo := x.lo.fdiv n, hi := -((-x.hi).fdiv n) }

/-- Quotient of x ≥ 0 by y > 0. -/
def Encl.divPos (p : Nat) (x y : Encl) : Encl :=
  { lo := (x.lo * (2 ^ p : Nat)).fdiv y.hi, hi := if y.lo ≤ 0 then x.hi * (2 ^ (2 * p) : Nat) else -((-(x.hi * (2 ^ p : Nat))).fdiv y.lo) }

/-- Quotient by 2^k. -/
def Encl.shr (x : Encl) (k : Nat) : Encl := { lo := fdivPow x.lo k, hi := cdivPow x.hi k }

/-- √x for x ≥ 0. -/
def Encl.sqrt (p : Nat) (x : Encl) : Encl :=
  { lo := (isqrt (x.lo.toNat * 2 ^ p) : Nat), hi := (isqrt (x.hi.toNat * 2 ^ p) + 1 : Nat) }

/-- 1 + r/i × (1 + r/(i+1) × …), n factors: the tail beyond lies between 0 and 2 for |r| ≤ 1/2. -/
def expSeries (p : Nat) (r : Encl) : Nat → Nat → Encl
  | 0, _ => { lo := 0, hi := (2 ^ (p + 1) : Nat) }
  | n + 1, i => (enclInt p 1).add ((Encl.mul p r (expSeries p r n (i + 1))).divNat i)

/-- x^(2^k). -/
def squareTimes (p : Nat) : Nat → Encl → Encl
  | 0, x => x
  | k + 1, x => squareTimes p k (Encl.mul p x x)

/-- e^x for |x| < 2^9. -/
def enclExp (p : Nat) (x : Encl) : Encl :=
  let y := squareTimes p 17 (expSeries p (x.shr 17) (p / 8 + 8) 1)
  { lo := max 0 y.lo, hi := y.hi }

/-- 1/i + t × (1/(i+2) + t × …), n terms: the tail lies between 0 and 2 for 0 ≤ t ≤ 1/4. -/
def atanhSeries (p : Nat) (t : Encl) : Nat → Nat → Encl
  | 0, _ => { lo := 0, hi := (2 ^ (p + 1) : Nat) }
  | n + 1, i => (enclRat p false 1 i 0).add (Encl.mul p t (atanhSeries p t n (i + 2)))

/-- 2·atanh(a/b) = ln((b + a)/(b − a)), for 0 ≤ a/b ≤ 1/3. -/
def enclAtanh2 (p a b : Nat) : Encl :=
  let t := enclRat p false a b 0
  let y := Encl.mul p t (atanhSeries p (Encl.mul p t t) (p / 3 + 8) 1)
  y.add y

/-- ln 2 = 2·atanh(1/3). -/
def enclLn2 (p : Nat) : Encl := enclAtanh2 p 1 3

/-- ln(n/d × 2^e) for n, d > 0. -/
def enclLn (p n d : Nat) (e : Int) : Encl :=
  let k := ilog2 n d
  -- m = n/d × 2^−k lies in [1, 2); atanh's argument is (m − 1)/(m + 1)
  let a := n * pow2Den k
  let b := d * pow2Num k
  let l := enclAtanh2 p (a - b) (a + b)
  l.add ((Encl.mul p (enclInt p (k + e)) (enclLn2 p)))

/-- Alternating series of atan(1/m): 1/i − t × (1/(i+2) − …); the tail lies between 0 and 1. -/
def atanSeries (p : Nat) (t : Encl) : Nat → Nat → Encl
  | 0, _ => { lo := 0, hi := (2 ^ p : Nat) }
  | n + 1, i => (enclRat p false 1 i 0).sub (Encl.mul p t (atanSeries p t n (i + 2)))

def enclAtanInv (p m : Nat) : Encl :=
  Encl.mul p (enclRat p false 1 m 0) (atanSeries p (enclRat p false 1 (m * m) 0) (p / 4 + 8) 1)

/-- π = 16·atan(1/5) − 4·atan(1/239). -/
def enclPi (p : Nat) : Encl :=
  (Encl.mul p (enclInt p 16) (enclAtanInv p 5)).sub (Encl.mul p (enclInt p 4) (enclAtanInv p 239))

/-- φ(x) = e^(−x²/2) / √(2π), for 0 ≤ x ≤ 24. -/
def enclPdf (p : Nat) (x : Encl) : Encl :=
  let x2 := Encl.mul p x x
  let e := enclExp p (x2.shr 1).neg
  Encl.divPos p e (Encl.sqrt p ((enclPi p).add (enclPi p)))

/-- 1 + t/i × (1 + t/(i+2) × …): the tail lies between 0 and 2 once t/i ≤ 1/2. -/
def cdfSeries (p : Nat) (t : Encl) : Nat → Nat → Encl
  | 0, _ => { lo := 0, hi := (2 ^ (p + 1) : Nat) }
  | n + 1, i => (enclInt p 1).add ((Encl.mul p t (cdfSeries p t n (i + 2))).divNat i)

/-- Φ(x) for 0 ≤ x ≤ 24: 1/2 + φ(x) × (x + x³/3 + x⁵/(3·5) + …). -/
def enclCdf (p : Nat) (x : Encl) : Encl :=
  let s := Encl.mul p x (cdfSeries p (Encl.mul p x x) (p + 640) 3)
  (enclRat p false 1 2 0).add (Encl.mul p (enclPdf p x) s)

/-- σ(x) for |x| ≤ 200: 1/(1 + e^−x). -/
def enclSigmoid (p : Nat) (x : Encl) : Encl :=
  Encl.divPos p (enclInt p 1) ((enclInt p 1).add (enclExp p x.neg))

/-- The functions that need an enclosure. -/
inductive Fn where
  | gelu | silu | sigmoid | tanh | softplus | exp2 | log2 | exp | ln
  | geluD | siluD | sigmoidD | tanhD
deriving DecidableEq, Repr

/-- Enclosure at the non-zero value ± n/d × 2^e of moderate magnitude (|x| ≤ 24 for GELU and its derivative, at most 200 for the
others). For the odd or negative branches of GELU, SILU and TANH the magnitude is enclosed. -/
def Fn.encl (f : Fn) (p : Nat) (neg : Bool) (n d : Nat) (e : Int) : Encl :=
  let x := enclRat p neg n d e
  let a := enclRat p false n d e
  let one := enclInt p 1
  match f with
  | .exp => enclExp p x
  | .exp2 => enclExp p (Encl.mul p x (enclLn2 p))
  | .ln => enclLn p n d e
  | .log2 =>
    let l := enclLn p n d e
    let t := enclLn2 p
    if l.lo ≥ 0 then Encl.divPos p l t else (Encl.divPos p l.neg t).neg
  | .sigmoid => enclSigmoid p x
  | .softplus =>
    -- ln(1 + e^x) = max(x, 0) + 2·atanh(u/(2 + u)) for u = e^−|x|
    let u := enclExp p a.neg
    let t := Encl.divPos p u ((enclInt p 2).add u)
    let y := Encl.mul p t (atanhSeries p (Encl.mul p t t) (p / 3 + 8) 1)
    (y.add y).add (if neg then enclInt p 0 else x)
  | .tanh =>
    let u := enclExp p (a.add a).neg
    Encl.divPos p (one.sub u) (one.add u)
  | .tanhD =>
    -- 4u/(1 + u)² for u = e^−2|x|
    let u := enclExp p (a.add a).neg
    let v := one.add u
    Encl.divPos p (Encl.mul p (enclInt p 4) u) (Encl.mul p v v)
  | .sigmoidD =>
    let u := enclExp p a.neg
    let v := one.add u
    Encl.divPos p u (Encl.mul p v v)
  | .silu => Encl.mul p a (enclSigmoid p x)
  | .siluD =>
    let s := enclSigmoid p x
    Encl.mul p s (one.add (Encl.mul p x (one.sub s)))
  | .gelu =>
    let c := enclCdf p a
    Encl.mul p a (if neg then one.sub c else c)
  | .geluD =>
    let c := enclCdf p a
    (if neg then one.sub c else c).add (Encl.mul p x (enclPdf p a))

/-- FP32 code of an end of an enclosure. -/
def enclCode (p : Nat) (v : Int) : Nat := (Fmt.fp32.round .ieee (Num.ofInt v (-(p : Int)))).code

/-- The precisions tried in turn. -/
def precisions : List Nat := [256, 512, 1024, 2048, 4096]

/-- Raise the precision until both ends round alike. None of the precisions failing is not known to happen; the value is then
open (log 14). -/
def settle (f : Fn) (neg : Bool) (n d : Nat) (e : Int) : List Nat → Nat
  | [] => (Config.freeBits 32 (2 * n + neg.toNat)).toNat
  | p :: ps =>
    let y := f.encl p neg n d e
    if enclCode p y.lo = enclCode p y.hi then enclCode p y.lo else settle f neg n d e ps

/-- A result too small for FP32: it rounds to a zero of its sign. -/
def tinyCode (neg : Bool) : Nat := if neg then 0x80000000 else 0

def fp32Inf (neg : Bool) : Nat := if neg then 0xFF800000 else 0x7F800000
def fp32One : Nat := 0x3F800000
def fp32Nan : Nat := 0x7FC00000

/-- |x| ≥ k, for a finite x. -/
def magGe (n d : Nat) (e : Int) (k : Nat) : Bool := k * d * pow2Den e ≤ n * pow2Num e

/-- A value rounded to FP32 with IEEE overflow. -/
def toFp32 (v : Num) : Nat := (Fmt.fp32.round .ieee v).code

/-- Negate an FP32 code that is not NaN. -/
def negCode (c : Nat) : Nat := if c < 0x80000000 then c + 0x80000000 else c - 0x80000000

/-- Whether n/d × 2^e is an integer, and which. -/
def asInteger (n d : Nat) (e : Int) : Option Nat :=
  if n * pow2Num e % (d * pow2Den e) = 0 then some (n * pow2Num e / (d * pow2Den e)) else none

/-- The drain functions f at a finite z or an infinity (03 R62, R63, R429), as an FP32 code. -/
def fnValue (fn : Nat) (alpha : Num) (z : Num) : Nat :=
  match z with
  | .nan => fp32Nan
  | .inf neg =>
    match fn with
    | 0 => fp32Inf neg
    | 1 => if neg then 0 else fp32Inf false
    | 2 =>
      if neg then (match alpha with
        | .fin aneg n _ _ => if n = 0 then tinyCode (!aneg) else fp32Inf (!aneg)
        | _ => fp32Nan)
      else fp32Inf false
    | 3 | 4 | 7 => if neg then 0 else fp32Inf false
    | 5 => if neg then 0 else fp32One
    | 6 => if neg then negCode fp32One else fp32One
    | _ => fp32Nan
  | .fin neg n d e =>
    match fn with
    | 0 => toFp32 z
    | 1 => if neg || n = 0 then 0 else toFp32 z
    | 2 => if neg || n = 0 then toFp32 (alpha.mul z) else toFp32 z
    | 3 =>
      if n = 0 then tinyCode neg
      else if magGe n d e 24 then (if neg then tinyCode true else toFp32 z)
      else let c := settle .gelu neg n d e precisions
        if neg then negCode c else c
    | 4 =>
      if n = 0 then tinyCode neg
      else if magGe n d e 200 then (if neg then tinyCode true else toFp32 z)
      else let c := settle .silu neg n d e precisions
        if neg then negCode c else c
    | 5 =>
      if n = 0 then 0x3F000000
      else if magGe n d e 200 then (if neg then 0 else fp32One)
      else settle .sigmoid neg n d e precisions
    | 6 =>
      if n = 0 then tinyCode neg
      else let c := if magGe n d e 100 then fp32One else settle .tanh neg n d e precisions
        if neg then negCode c else c
    | 7 =>
      if n = 0 then toFp32 (Num.ofInt ((enclLn2 256).lo) (-256))
      else if magGe n d e 200 then (if neg then 0 else toFp32 z)
      else settle .softplus neg n d e precisions
    | _ => fp32Nan

/-- Their derivatives f′ (03 R63, R429). -/
def fnDeriv (fn : Nat) (alpha : Num) (z : Num) : Nat :=
  match z with
  | .nan => fp32Nan
  | .inf neg =>
    match fn with
    | 0 => fp32One
    | 1 => if neg then 0 else fp32One
    | 2 => if neg then toFp32 alpha else fp32One
    | 3 | 4 | 7 => if neg then 0 else fp32One
    | 5 | 6 => 0
    | _ => fp32Nan
  | .fin neg n d e =>
    match fn with
    | 0 => fp32One
    | 1 => if neg || n = 0 then 0 else fp32One
    | 2 => if neg || n = 0 then toFp32 alpha else fp32One
    | 3 =>
      if n = 0 then 0x3F000000
      else if magGe n d e 24 then (if neg then tinyCode true else fp32One)
      else settle .geluD neg n d e precisions
    | 4 =>
      if n = 0 then 0x3F000000
      else if magGe n d e 200 then (if neg then tinyCode true else fp32One)
      else settle .siluD neg n d e precisions
    | 5 =>
      if n = 0 then 0x3E800000
      else if magGe n d e 200 then 0
      else settle .sigmoidD neg n d e precisions
    | 6 =>
      if n = 0 then fp32One
      else if magGe n d e 100 then 0
      else settle .tanhD neg n d e precisions
    | 7 =>
      if n = 0 then 0x3F000000
      else if magGe n d e 200 then (if neg then 0 else fp32One)
      else settle .sigmoid neg n d e precisions
    | _ => fp32Nan

/-- FUNC codes 8-13 (07 R137). -/
def fnFurther (code : Nat) (x : Num) : Nat :=
  match code, x with
  | _, .nan => fp32Nan
  | 8, .inf neg => if neg then 0 else fp32Inf false
  | 8, .fin neg n d e =>
    if n = 0 then fp32One
    else if magGe n d e 200 then (if neg then 0 else fp32Inf false)
    else match asInteger n d e with
      | some k => toFp32 (.fin false 1 1 (if neg then -(k : Int) else k))
      | none => settle .exp2 neg n d e precisions
  | 9, .inf neg => if neg then fp32Nan else fp32Inf false
  | 9, .fin neg n d e =>
    if n = 0 then fp32Inf true
    else if neg then fp32Nan
    else let k := ilog2 n d
      if n * pow2Den k = d * pow2Num k then toFp32 (Num.ofInt (k + e) 0) else settle .log2 neg n d e precisions
  | 10, x => toFp32 ((Num.ofInt 1 0).div x)
  | 11, .inf neg => if neg then fp32Nan else 0
  | 11, .fin neg n d e =>
    if n = 0 then fp32Inf neg
    else if neg then fp32Nan
    else toFp32 ((Num.fin false d n (-e)).sqrt)
  | 12, .inf neg => if neg then 0 else fp32Inf false
  | 12, .fin neg n d e =>
    if n = 0 then fp32One
    else if magGe n d e 200 then (if neg then 0 else fp32Inf false)
    else settle .exp neg n d e precisions
  | 13, .inf neg => if neg then fp32Nan else fp32Inf false
  | 13, .fin neg n d e =>
    if n = 0 then fp32Inf true
    else if neg then fp32Nan
    else if n = d && e = 0 then 0
    else settle .ln neg n d e precisions
  | _, _ => fp32Nan

/-- FUNC by its code: f for 0-7, the further functions for 8-13, f′ for 16-23 (07 R137). -/
def vectorFunction (code : Nat) (alpha x : Num) : Nat :=
  if code < 8 then fnValue code alpha x else if code < 16 then fnFurther code x else fnDeriv (code - 16) alpha x

end Sys2Proof.Machine
end

