-- ==== Sys2Proof/Machine/Drain.lean ====
section
/-! DEFINITION. LONG elements (02 R32, R33, 03 R54), parameter sets (06 R107, R108), the drain (03 R59-R67) and the reports of Tint
watch (20 R395, R398). -/

namespace Sys2Proof.Machine

/-! ### LONG elements -/

/-- The LONG container of an element (02 R32, R33). -/
def Elem.toNat (int : Bool) (e : Elem) : Nat :=
  if e.nan then 2 ^ 112 + int.toNat * 2 ^ 113 else e.a.toNat + int.toNat * 2 ^ 113

/-- The element and the kind of a LONG container (02 R32, R33). -/
def Elem.ofNat (v : Nat) : Elem := if bitOf v 112 then { a := 0, nan := true } else { a := BitVec.ofNat 112 v, nan := false }
def longKind (v : Nat) : Bool := bitOf v 113

/-- An exact sum as an element: beyond the 112-bit range NAN = 1 and A = 0 (03 R54). -/
def Elem.ofSum (nan : Bool) (v : Int) : Elem × Bool :=
  if nan then ({ a := 0, nan := true }, false)
  else if v < -(2 ^ 111 : Int) || (2 ^ 111 : Int) ≤ v then ({ a := 0, nan := true }, true)
  else ({ a := BitVec.ofInt 112 v, nan := false }, false)

/-- Exact addition of two LONG elements of equal kind, and whether it overflows (02 R33, 03 R54). -/
def Elem.add (x y : Elem) : Elem × Bool := Elem.ofSum (x.nan || y.nan) (x.a.toInt + y.a.toInt)

/-! ### Parameter sets -/

/-- Parameter-set entry (06 R107). -/
structure PSet where
  sa    : Nat
  sb    : Nat
  sout  : Nat
  alpha : Nat
  lo    : Nat
  hi    : Nat
  za    : Int
  zb    : Int
  zout  : Int
  fa    : Nat
  fb    : Nat
  fout  : Nat
  fz    : Nat
  fn    : Nat
  amode : Nat
  bmode : Nat
  rest  : Nat

def PSet.decode (b : BitVec 512) : PSet :=
  let v := b.toNat
  { sa := bitsOf v 31 0, sb := bitsOf v 63 32, sout := bitsOf v 95 64, alpha := bitsOf v 127 96, lo := bitsOf v 159 128,
    hi := bitsOf v 191 160, za := signedOf 16 (bitsOf v 207 192), zb := signedOf 16 (bitsOf v 223 208),
    zout := signedOf 16 (bitsOf v 239 224), fa := bitsOf v 243 240, fb := bitsOf v 247 244, fout := bitsOf v 251 248,
    fz := bitsOf v 255 252, fn := bitsOf v 259 256, amode := bitsOf v 261 260, bmode := bitsOf v 263 262, rest := bitsOf v 511 264 }

/-- A function code and slope that R64 allows. -/
def fnOk (fn alpha : Nat) : Bool := fn < 8 && (fn ≠ 2 || (fp32 alpha).isFinite)

/-- Clip bounds that R65 allows. -/
def clipOk (lo hi : Nat) : Bool := !(fp32 lo).isNan && !(fp32 hi).isNan && !(fp32 hi).lt (fp32 lo)

/-- Formats of the drain and of the saved tile (02 R22, 06 R108). -/
def drainFmt (f : Fmt) : Bool := f ∈ [Fmt.f8a, .f8b, .i8, .u8, .bf16, .fp16, .fp32, .fp64, .long]
def savedFmt (f : Fmt) : Bool := f ∈ [Fmt.f8a, .f8b, .bf16, .fp16, .fp32]

/-- The checks of an entry at command start (06 R108). -/
def PSet.ok (p : PSet) : Bool :=
  p.rest = 0 && p.amode ≠ 3 && (Fmt.ofCode p.fz).isSome && scaleOk p.sa && scaleOk p.sb && scaleOk p.sout && fnOk p.fn p.alpha && clipOk p.lo p.hi &&
  (match Fmt.ofCode p.fa, Fmt.ofCode p.fb, Fmt.ofCode p.fout with
   | some a, some b, some o =>
     p.fa < 7 && p.fb < 7 && a.isFloat == b.isFloat && a.zpOk p.za && b.zpOk p.zb && o.zpOk p.zout && drainFmt o &&
     (o ≠ .long || p.amode = 0)
   | _, _, _ => false) &&
  (p.amode ≠ 2 || (match Fmt.ofCode p.fz with | some z => savedFmt z | none => false))

/-- The format written by a drain that has passed the checks. -/
def PSet.out (p : PSet) : Fmt := (Fmt.ofCode p.fout).getD .f8a

/-! ### The drain -/

/-- The value of an accumulator (03 R51, R59 step 1): A at its weight. -/
def Elem.value (e : Elem) (q : Int) : Num := if e.nan then .nan else Num.ofInt e.a.toInt q

/-- Steps 2 to 5 of the drain (03 R59): the value before the output rounding; NaN where the output is NaN. A zero has no sign. -/
def PSet.drainValue (p : PSet) (v bias saved : Num) : Num :=
  if v.isNan || !bias.isFinite then .nan
  else
    let x := ((v.mul (((fp32 p.sa).mul (fp32 p.sb)).mul (fp32 p.sout))).add bias)
    let x := match p.amode with
      | 1 => fp32 (fnValue p.fn (fp32 p.alpha) (fp32 (toFp32 x)))
      | 2 => if saved.isNan then .nan else x.mul (fp32 (fnDeriv p.fn (fp32 p.alpha) saved))
      | _ => x
    let x := if x.lt (fp32 p.lo) then fp32 p.lo else x
    let x := if (fp32 p.hi).lt x then fp32 p.hi else x
    if x.isZero then Num.zero else x

/-- The output rounding of the drain (03 R66). DESIGN CHOICE (log 66): an infinity that step 5 of R65 gives is judged as one of step 4. -/
def drainRound (f : Fmt) (m : OvfMode) (zp : Int) (x : Num) : Written :=
  if f.isInt then f.roundInt zp x
  else match x with
    | .inf neg => f.overflow m neg
    | x => f.round m x

/-- Overflow mode of a command's narrowing roundings (02 R36, R38). -/
def narrowMode (strict : Bool) : OvfMode := if strict then .strict else .sat

/-! ### Tint watch -/

/-- No element reported (20 R396). -/
def Tint.empty : Tint :=
  { count := 0, pinf := false, ninf := false, sumOvf := false, mn := 0x7F800000, mx := 0xFF800000, amax := 0, sat := 0, nan := 0,
    sum := 0, digest := 0 }

/-- The smaller and the larger of two FP32 codes, −0 below +0 (20 R396). -/
def fp32Min (x y : Word) : Word := if (fp32 x.toNat).below (fp32 y.toNat) then x else y
def fp32Max (x y : Word) : Word := if (fp32 x.toNat).below (fp32 y.toNat) then y else x

/-- A value as an integer of units of 2^−149, for FP32 values. -/
def fixed149 (v : Num) : Int :=
  match v with
  | .fin neg n _ e => if neg then -((n * 2 ^ (e + 149).toNat : Nat) : Int) else (n * 2 ^ (e + 149).toNat : Nat)
  | _ => 0

/-- The value of a reported element, by its FP32 code, enters MIN, MAX, AMAX and SUM (20 R395). -/
def Tint.value (t : Tint) (c : Nat) : Tint :=
  let v := fp32 c
  if v.isNan then t
  else
    let w : Word := BitVec.ofNat 32 c
    let t := { t with mn := fp32Min w t.mn, mx := fp32Max w t.mx, amax := fp32Max (w &&& 0x7FFFFFFF) t.amax }
    match v with
    | .inf true => { t with ninf := true }
    | .inf false => { t with pinf := true }
    | v => { t with sum := t.sum + fixed149 v }

/-- A written element of its own bytes enters COUNT and DIGEST (20 R395, R398). -/
def Tint.bytes (t : Tint) (bs : List Byte) : Tint := { t with count := t.count + 1, digest := t.digest + crc64 bs }

/-- SAT and NAN (02 R40, 20 R395). -/
def Tint.marks (t : Tint) (w : Written) : Tint :=
  { t with sat := t.sat + BitVec.ofNat 64 w.sat.toNat, nan := t.nan + BitVec.ofNat 64 w.nan.toNat }

/-- A command's reports: none without a table or without TW (20 R395). -/
def State.report (s : State) (r : Nat) (q : Word) (f : Tint → Tint) : State :=
  match s.cmd r q with
  | some c => if c.tint.isSome then s.setCmd { c with tint := c.tint.map f } else s
  | none => s

/-- An exact LONG addition of a command overflowed in die d (03 R54). -/
def State.overflowed (s : State) (d r : Nat) (q : Word) : State :=
  let s := s.setLongOvf d
  match s.cmd r q with
  | some c => s.setCmd { c with longOvf := true }
  | none => s

end Sys2Proof.Machine
end

