-- ==== Sys2Proof/Machine/Operands.lean ====
section
/-! DEFINITION. The operand forms of the cell's engines: the matrix operation block (06 R109-R111) and how its operands read
(06 R110, R113, R114), the stream descriptor (05 R100, R101). -/

namespace Sys2Proof.Machine

/-- Bytes of cell memory (05 R87). -/
def cellBytes : Nat := 2 ^ 21

/-- Where engines other than the stream engine must stop (05 R99). -/
def Cell.limit (c : Cell) : Nat := cellBytes - c.part.l1

/-- The side-link neighbour of a die: lower-numbered, or higher-numbered (06 R109). -/
def sideDie (d : Nat) (higher : Bool) : Nat :=
  match d with
  | 0 => if higher then 2 else 1
  | 3 => if higher then 2 else 1
  | _ => if higher then 3 else 0

/-- The matched cell of a neighbour. -/
def sideCell (g : Nat) (higher : Bool) : Nat := 64 * sideDie (g / 64) higher + g % 64

/-- Cell g is enabled. -/
def State.cellOn (s : State) (g : Nat) : Bool := bitOf (s.ochre (g / 64)).cellEn.toNat (g % 64)

/-! ### The matrix operation block -/

/-- Matrix operation block (06 R109), without the fields that only some blocks use. -/
structure MBlk where
  v      : Nat
  op     : Nat
  pset   : Nat
  bank   : Bool
  init   : Nat
  dst    : Nat
  la     : Bool
  lb     : Bool
  lo     : Bool
  peer   : Bool
  rxm    : Nat
  eddy   : Nat
  eop    : Bool
  spread : Nat
  tag    : Nat
  m      : Nat
  n      : Nat
  k      : Nat

def MBlk.decode (b : BitVec 1024) : MBlk :=
  let v := b.toNat
  { v := v, op := bitsOf v 3 0, pset := bitsOf v 9 4, bank := bitOf v 10, init := bitsOf v 12 11, dst := bitsOf v 15 13,
    la := bitOf v 16, lb := bitOf v 17, lo := bitOf v 18, peer := bitOf v 19, rxm := bitsOf v 21 20, eddy := bitsOf v 24 22,
    eop := bitOf v 25, spread := bitsOf v 32 30, tag := bitsOf v 63 48, m := bitsOf v 71 64 + 1, n := bitsOf v 79 72 + 1,
    k := bitsOf v 104 80 }

def MBlk.aoff (b : MBlk) : Nat := bitsOf b.v 148 128
def MBlk.lda (b : MBlk) : Nat := bitsOf b.v 175 160
def MBlk.boff (b : MBlk) : Nat := bitsOf b.v 212 192
def MBlk.ldb (b : MBlk) : Nat := bitsOf b.v 239 224
def MBlk.ooff (b : MBlk) : Nat := bitsOf b.v 276 256
def MBlk.ldo (b : MBlk) : Nat := bitsOf b.v 303 288
def MBlk.ioff (b : MBlk) : Nat := bitsOf b.v 340 320
def MBlk.ldi (b : MBlk) : Nat := bitsOf b.v 367 352
def MBlk.bioff (b : MBlk) : Nat := bitsOf b.v 404 384
def MBlk.zoff (b : MBlk) : Nat := bitsOf b.v 436 416
def MBlk.ldz (b : MBlk) : Nat := bitsOf b.v 463 448
def MBlk.rxoff (b : MBlk) : Nat := bitsOf b.v 484 464
def MBlk.er0 (b : MBlk) : Nat := bitsOf b.v 543 512
def MBlk.ec0 (b : MBlk) : Nat := bitsOf b.v 575 544
def MBlk.eaoff (b : MBlk) : Nat := bitsOf b.v 532 512
def MBlk.eboff (b : MBlk) : Nat := bitsOf b.v 564 544
def MBlk.saoff (b : MBlk) : Nat := bitsOf b.v 596 576
def MBlk.sboff (b : MBlk) : Nat := bitsOf b.v 628 608
def MBlk.psa (b : MBlk) : Nat := bitsOf b.v 655 640
def MBlk.psb (b : MBlk) : Nat := bitsOf b.v 671 656
def MBlk.pa (b : MBlk) : Nat := bitsOf b.v 675 672
def MBlk.pb (b : MBlk) : Nat := bitsOf b.v 679 676

/-- A sliced block, its slice count (04 R74), and the K spread (06 R121). -/
def MBlk.sliced (b : MBlk) : Bool := b.op = 1
def MBlk.slices (b : MBlk) : Nat := if bitsOf b.v 29 26 = 0 then 8 else bitsOf b.v 29 26
def MBlk.groups (b : MBlk) : Nat := 2 ^ b.spread

/-- Order of the Hadamard matrix (02 R48). -/
def MBlk.order (b : MBlk) : Nat := 8 * 2 ^ b.eddy

/-- The block generates A, or B, instead of reading it (06 R114). -/
def MBlk.eddyA (b : MBlk) : Bool := b.eddy ≠ 0 && !b.eop
def MBlk.eddyB (b : MBlk) : Bool := b.eddy ≠ 0 && b.eop

/-- The block writes a tile: to cell memory or to the drain queue. -/
def MBlk.drains (b : MBlk) : Bool := b.dst = 1 || b.dst = 2

/-- Reserved bits of every block, and of a sliced block (06 R109). -/
def MBlk.reservedOk (b : MBlk) : Bool :=
  (([(47, 33), (127, 105), (159, 149), (191, 176), (223, 213), (255, 240), (287, 277), (319, 304), (351, 341), (383, 368),
     (415, 405), (447, 437), (511, 485), (607, 597), (639, 629), (1023, 680)] : List (Nat × Nat)).all fun p =>
    bitsOf b.v p.1 p.2 = 0) &&
  (!b.sliced || (bitsOf b.v 543 533 = 0 && bitsOf b.v 575 565 = 0))

/-- Lines of a matrix in cell memory: first byte, number of lines, bytes of a line, distance of lines. -/
structure Area where
  off    : Nat
  lines  : Nat
  len    : Nat
  stride : Nat

/-- The area of a rows × cols matrix of b bits per element at a leading dimension (06 R110). -/
def areaOf (off rows cols bits ld : Nat) (colMajor : Bool) : Area :=
  { off := off, lines := if colMajor then cols else rows, len := ((if colMajor then rows else cols) * bits + 7) / 8,
    stride := 32 * ld }

/-- A span of n bytes. -/
def spanArea (off n : Nat) : Area := { off := off, lines := 1, len := n, stride := n }

def Area.empty (a : Area) : Bool := a.lines = 0 || a.len = 0
def Area.stop (a : Area) : Nat := if a.empty then 0 else a.off + (a.lines - 1) * a.stride + a.len
/-- No contiguous line is longer than the leading dimension (06 R111). -/
def Area.lineOk (a : Area) : Bool := a.empty || a.len ≤ a.stride
/-- Two areas touch. -/
def Area.overlaps (a b : Area) : Bool :=
  !a.empty && !b.empty && (List.range a.lines).any fun i => (List.range b.lines).any fun j =>
    a.off + i * a.stride < b.off + j * b.stride + b.len && b.off + j * b.stride < a.off + i * a.stride + a.len

/-- Operand formats of a dense block. -/
def PSet.fmtA (p : PSet) : Fmt := (Fmt.ofCode p.fa).getD .f8a
def PSet.fmtB (p : PSet) : Fmt := (Fmt.ofCode p.fb).getD .f8a

/-- Areas of operand A and of operand B (06 R110, R113). -/
def MBlk.areasA (b : MBlk) (p : PSet) : List Area :=
  if b.sliced then
    (List.range b.slices).map (fun i => areaOf (b.aoff + i * 32 * b.psa) b.m b.k 8 b.lda b.la) ++
    [{ off := b.saoff, lines := if b.la then b.k else b.m, len := ((if b.la then b.m else b.k) + 7) / 8, stride := 4 * b.lda },
     spanArea b.eaoff (2 * b.m)]
  else if b.eddyA then []
  else [areaOf b.aoff b.m b.k p.fmtA.bits b.lda b.la]

def MBlk.areasB (b : MBlk) (p : PSet) : List Area :=
  if b.sliced then
    (List.range b.slices).map (fun i => areaOf (b.boff + i * 32 * b.psb) b.k b.n 8 b.ldb b.lb) ++
    [{ off := b.sboff, lines := if b.lb then b.n else b.k, len := ((if b.lb then b.k else b.n) + 7) / 8, stride := 4 * b.ldb },
     spanArea b.eboff (2 * b.n)]
  else if b.eddyB then []
  else [areaOf b.boff b.k b.n p.fmtB.bits b.ldb b.lb]

/-- The bias that a drain reads, and the saved tile of a derivative (06 R107, R110, R119). -/
def MBlk.areasBias (b : MBlk) (p : PSet) : List Area :=
  if !b.drains || p.out = .long then []
  else match p.bmode with
    | 1 => [spanArea b.bioff (4 * b.n)]
    | 2 => [spanArea b.bioff (4 * b.m)]
    | 3 => [spanArea b.bioff (4 * b.m * b.n)]
    | _ => []
def MBlk.areasZ (b : MBlk) (p : PSet) : List Area :=
  if b.drains && p.amode = 2 then [areaOf b.zoff b.m b.n ((Fmt.ofCode p.fz).getD .f8a).bits b.ldz b.lo] else []

/-- Everything the block reads but the landing areas (06 R118). -/
def MBlk.reads (b : MBlk) (p : PSet) : List Area :=
  b.areasA p ++ b.areasB p ++ (if b.init = 2 then [areaOf b.ioff b.m b.n 128 b.ldi b.lo] else []) ++ b.areasBias p ++ b.areasZ p

/-- The tile that the drain writes to cell memory (06 R119). -/
def MBlk.outputs (b : MBlk) (p : PSet) : List Area :=
  if b.dst = 1 then [areaOf b.ooff b.m b.n p.out.bits b.ldo b.lo] else []

/-- Landing area of the lower or the higher neighbour (06 R122). -/
def MBlk.landing (b : MBlk) (higher : Bool) : Nat := b.rxoff + (if higher then 262144 else 0)
def MBlk.landings (b : MBlk) : List Area :=
  (if bitOf b.rxm 0 then [spanArea (b.landing false) (16 * b.m * b.n)] else []) ++
  (if bitOf b.rxm 1 then [spanArea (b.landing true) (16 * b.m * b.n)] else [])

/-- Format checks of a block at issue (06 R111); M and K beyond their ranges of R109 are refused as G × N is (log 68). -/
def MBlk.formatOk (b : MBlk) (p : PSet) : Bool :=
  b.reservedOk && b.op < 2 && b.init ≠ 3 && b.dst < 4 && b.eddy < 6 && b.k ≤ 2 ^ 24 && b.m ≤ 128 &&
  (b.reads p ++ b.outputs p).all Area.lineOk && !(b.dst = 2 && p.out = .long) &&
  (b.eddy = 0 || (!b.sliced && b.k % b.order = 0)) && b.groups * b.n ≤ 128 && !(b.rxm ≠ 0 && b.dst = 3) &&
  (!b.sliced || (b.slices ≤ 10 && b.slices ≤ b.pa && b.slices ≤ b.pb && !(b.slices = 10 && 2 ^ 23 < b.k)))

/-- Range check: nothing reaches the L1 region or passes 2 MiB (05 R99, 06 R111). -/
def MBlk.rangeOk (b : MBlk) (p : PSet) (limit : Nat) : Bool :=
  (b.reads p ++ b.outputs p ++ b.landings).all fun a => a.stop ≤ limit

/-- State check: every neighbour that it names has its matched cell enabled (06 R111). -/
def State.blockStateOk (s : State) (g : Nat) (b : MBlk) : Bool :=
  (b.dst ≠ 3 || s.cellOn (sideCell g b.peer)) && (!bitOf b.rxm 0 || s.cellOn (sideCell g false)) &&
  (!bitOf b.rxm 1 || s.cellOn (sideCell g true))

/-! ### Operand elements -/

/-- The code of element (x, y) of a matrix of b bits per element (06 R110; 4-bit elements by 02 R26). -/
def Cell.elemCode (c : Cell) (off ld bits x y : Nat) (colMajor : Bool) : Nat :=
  let line := if colMajor then y else x
  let i := if colMajor then x else y
  if bits = 4 then c.readNat (off + line * 32 * ld + i / 2) 1 / 16 ^ (i % 2) % 16
  else c.readNat (off + line * 32 * ld + i * (bits / 8)) (bits / 8)

/-- Weight of a float operand's unit: W4F counts as F8A (02 R27, 03 R51). -/
def opWeight (f : Fmt) : Int := if f = .f8b then -17 else -10

/-- A loaded operand (06 R113): an integer in units of the weight of its format, or code − Z; NaN for 0x80 of F8A and F8B. -/
def loadOperand (f : Fmt) (z : Int) (code : Nat) : Int × Bool :=
  if f.isFloat then
    match f.value code with
    | .fin neg n _ e => let m : Int := (n * 2 ^ (e - opWeight f).toNat : Nat); (if neg then -m else m, false)
    | _ => (0, true)
  else (f.intOf code - z, false)

/-- The number of one bits of i AND j is odd. -/
def oddAnd (i j : Nat) : Bool := popcount 8 (i &&& j) % 2 = 1

/-- D_n(x, y) as an operand of a format (02 R48, 06 R114). -/
def eddyOperand (n : Nat) (f : Fmt) (x y : Nat) : Int :=
  let one : Int := if f.isFloat then 2 ^ (-opWeight f).toNat else 1
  if x / n ≠ y / n then 0 else if oddAnd (x % n) (y % n) then -one else one

/-- Element (i, k) of A and (k, j) of B of a dense block. -/
def Cell.operandA (c : Cell) (b : MBlk) (p : PSet) (i k : Nat) : Int × Bool :=
  if b.eddyA then (eddyOperand b.order p.fmtB (b.er0 + i) (b.ec0 + k), false)
  else loadOperand p.fmtA p.za (c.elemCode b.aoff b.lda p.fmtA.bits i k b.la)
def Cell.operandB (c : Cell) (b : MBlk) (p : PSet) (k j : Nat) : Int × Bool :=
  if b.eddyB then (eddyOperand b.order p.fmtA (b.er0 + k) (b.ec0 + j), false)
  else loadOperand p.fmtB p.zb (c.elemCode b.boff b.ldb p.fmtB.bits k j b.lb)

/-- 2^ of the accumulator's units in one unit of a dense product (03 R52): an Eddy operand takes the other operand's class. -/
def productScale (p : PSet) (b : MBlk) : Int :=
  let f := if b.eddyA then p.fmtB else p.fmtA
  let wa := if b.eddyA then opWeight p.fmtB else opWeight p.fmtA
  let wb := if b.eddyB then opWeight p.fmtA else opWeight p.fmtB
  if f.isFloat then 2 ^ (48 + wa + wb).toNat else 1

/-- The entry with the scale 1.0 of an Eddy operand (06 R114). -/
def PSet.withEddy (p : PSet) (b : MBlk) : PSet :=
  if b.eddyA then { p with sa := 0x3F800000 } else if b.eddyB then { p with sb := 0x3F800000 } else p

/-- Signed digit of a sliced operand (04 R77, 06 R113). -/
def Cell.digit (c : Cell) (off ld plane signs p x y : Nat) (colMajor : Bool) : Int :=
  let line := if colMajor then y else x
  let i := if colMajor then x else y
  let mag : Int := (c.readNat (off + (p - 1) * 32 * plane + line * 32 * ld + i) 1 : Nat)
  if bitOf (c.readNat (signs + line * 4 * ld + i / 8) 1) (i % 8) then -mag else mag

/-- The integer that a sliced block adds to element (i, j) (04 R80). -/
def Cell.slicedSum (c : Cell) (b : MBlk) (i j : Nat) : Int :=
  let n := b.slices
  (List.range b.k).foldl (fun t k => t +
    (List.range n).foldl (fun t s => t +
      (List.range (n - s)).foldl (fun t u => t +
        c.digit b.aoff b.lda b.psa b.saoff (s + 1) i k b.la * c.digit b.boff b.ldb b.psb b.sboff (u + 1) k j b.lb *
          2 ^ (8 * (n - 1 - s - u))) 0) 0) 0

/-- The sum of products of element (i, j) of a dense block, and whether a NaN operand meets it (03 R55, R57). -/
def Cell.denseSum (c : Cell) (b : MBlk) (p : PSet) (i j : Nat) : Int × Bool :=
  let r := (List.range b.k).foldl (fun t k =>
    let x := c.operandA b p i k
    let y := c.operandB b p k j
    (t.1 + x.1 * y.1, t.2 || x.2 || y.2)) ((0 : Int), false)
  (r.1 * productScale p b, r.2)

/-- Exponents of row i of A and of column j of B of a sliced block (04 R76); 0x7FFF marks a row or column with a special value. -/
def Cell.expA (c : Cell) (b : MBlk) (i : Nat) : Nat := c.readNat (b.eaoff + 2 * i) 2
def Cell.expB (c : Cell) (b : MBlk) (j : Nat) : Nat := c.readNat (b.eboff + 2 * j) 2

/-! ### The stream descriptor -/

/-- Stream descriptor (05 R100). -/
structure SDesc where
  maddr   : Nat
  coff    : Nat
  rowb    : Nat
  rows    : Nat
  mstride : Int
  cstride : Nat
  store   : Bool
  gather  : Bool
  lake    : Nat
  rest    : Bool

def SDesc.decode (d : BitVec 256) : SDesc :=
  let v := d.toNat
  { maddr := bitsOf v 63 0, coff := bitsOf v 84 64, rowb := if bitsOf v 111 96 = 0 then 65536 else bitsOf v 111 96,
    rows := bitsOf v 127 112, mstride := signedOf 32 (bitsOf v 159 128), cstride := bitsOf v 191 160, store := bitOf v 192,
    gather := bitOf v 193, lake := bitsOf v 195 194, rest := bitsOf v 95 85 = 0 && bitsOf v 255 196 = 0 }

/-- Where the data of a descriptor begins in cell memory (05 R100). -/
def SDesc.data (d : SDesc) : Nat := if d.gather then d.coff + 32 * ((d.rows + 7) / 8) else d.coff

/-- One past the last byte of cell memory of a descriptor, its index list included (05 R101). -/
def SDesc.stop (d : SDesc) : Nat :=
  if d.gather then d.data + 32 * d.rows else d.coff + (d.rows - 1) * d.cstride + d.rowb

/-- The checks before the first byte moves (05 R101): gather and scatter ignore ROWB and the strides (05 R100). -/
def SDesc.formatOk (d : SDesc) : Bool :=
  d.rest && d.lake < 2 && d.rows ≠ 0 && d.maddr % 32 = 0 && d.coff % 32 = 0 &&
  (d.gather || (d.rowb % 32 = 0 && d.mstride % 32 = 0 && d.cstride % 32 = 0))
def SDesc.rangeOk (d : SDesc) : Bool := d.stop ≤ cellBytes
def SDesc.noAlloc (d : SDesc) : Bool := d.lake = 1

end Sys2Proof.Machine
end

