-- ==== Sys2Proof/Machine/VecOps.lean ====
section
/-! DEFINITION. The vector instruction word, its operands and its checks at issue (07 R129-R136), slicing (04 R75-R79) and the exact
accumulators (07 R138, R139). -/

namespace Sys2Proof.Machine

/-- Vector instruction word (07 R131) with its scalars. -/
structure VWord where
  op  : Nat
  f1  : Nat
  f2  : Nat
  fd  : Nat
  d   : Nat
  s1  : Nat
  s2  : Nat
  bc  : Nat
  e   : Nat
  c   : Nat
  rsc : Nat
  acc : Bool
  tw  : Bool
  top : Bool
  rs2 : Nat
  rs3 : Nat

def VWord.decode (w rs2 rs3 : DWord) : VWord :=
  let v := w.toNat
  { op := bitsOf v 7 0, f1 := bitsOf v 11 8, f2 := bitsOf v 15 12, fd := bitsOf v 19 16, d := bitsOf v 22 20, s1 := bitsOf v 25 23,
    s2 := bitsOf v 28 26, bc := bitsOf v 30 29, e := bitsOf v 44 31 + 1, c := bitsOf v 58 45 + 1, rsc := bitsOf v 60 59,
    acc := bitOf v 61, tw := bitOf v 62, top := bitOf v 63, rs2 := rs2.toNat, rs3 := rs3.toNat }

/-- Row count (07 R132). -/
def VWord.m (w : VWord) : Nat := w.e / w.c

/-- Formats that the word names. -/
def VWord.src (w : VWord) : Fmt := (Fmt.ofCode w.f1).getD .f8a
def VWord.src2 (w : VWord) : Fmt := (Fmt.ofCode w.f2).getD .f8a
def VWord.dst (w : VWord) : Fmt := (Fmt.ofCode w.fd).getD .f8a

/-- FP64 class, and the class format (07 R133). -/
def VWord.wide (w : VWord) : Bool := w.f1 = 0xA
def VWord.cls (w : VWord) : Fmt := if w.wide then .fp64 else .fp32

/-! ### Which operation uses what (07 R131, R133) -/

def isBinary (op : Nat) : Bool := (0x10 ≤ op && op ≤ 0x18) || op = 0x24
def isReduction (op : Nat) : Bool := 0x20 ≤ op && op ≤ 0x25
def isFunc (op : Nat) : Bool := 0x40 ≤ op && op < 0x60
def funcOk (code : Nat) : Bool := code < 14 || (16 ≤ code && code < 24)
def opKnown (op : Nat) : Bool :=
  (1 ≤ op && op ≤ 8) || (0x10 ≤ op && op ≤ 0x1B) || (0x20 ≤ op && op ≤ 0x27) || (isFunc op && funcOk (op - 0x40))

def VWord.useF1 (w : VWord) : Bool := w.op ≠ 0x26 && w.op ≠ 0x27
def VWord.useS1 (w : VWord) : Bool := w.op ≠ 0x01 && w.op ≠ 0x26
def VWord.useD (w : VWord) : Bool := w.op ≠ 0x27
def VWord.useFd (w : VWord) : Bool := (4 ≤ w.op && w.op ≤ 6) || (0x10 ≤ w.op && w.op ≤ 0x1B) || isReduction w.op || isFunc w.op
/-- Source 2 and its format are used; DESIGN CHOICE (log 66): with the scalar, BC = 3, neither is, and F2 must be 0 as S2 must. -/
def VWord.useB (w : VWord) : Bool := isBinary w.op && w.bc ≠ 3
def VWord.useRsc (w : VWord) : Bool := isReduction w.op || w.op = 7
def VWord.useAcc (w : VWord) : Bool := (w.op = 0x20 || w.op = 0x24 || w.op = 0x25) && 2 ≤ w.rsc
def VWord.useTw (w : VWord) : Bool := w.op = 4 || w.op = 5 || w.op = 6 || w.op = 2
/-- The result goes to no tile buffer: VST, SLICE, and reductions that only accumulate (07 R133, R138). -/
def VWord.noTile (w : VWord) : Bool := w.op = 2 || w.op = 7 || (isReduction w.op && w.rsc = 3)

/-- Sources of the FP32 class (07 R133). -/
def f32Source (c : Nat) : Bool := c < 3 || c = 7 || c = 8 || c = 9
def floatCode (c : Nat) : Bool := f32Source c || c = 0xA
def intCode4 (c : Nat) : Bool := 3 ≤ c && c ≤ 6

/-- The formats that the operation table allows (07 R133, R138, R140). DESIGN CHOICE (log 66): FD of a reduction names a result format under
RSC = 3 too, where nothing is written; and a POP whose F1 is a format that no tile has fails at issue, not when it meets the tile (05 R102). -/
def VWord.formatsOk (w : VWord) : Bool :=
  match w.op with
  | 0x01 | 0x02 => w.f1 < 12
  | 0x03 => w.f1 ∈ [0, 1, 5, 6, 7, 8, 9, 10]
  | 0x04 => floatCode w.f1 && floatCode w.fd
  | 0x05 => floatCode w.f1 && (floatCode w.fd || intCode4 w.fd)
  | 0x06 => (floatCode w.f1 || intCode4 w.f1) && floatCode w.fd
  | 0x07 => 7 ≤ w.f1 && w.f1 ≤ 0xA
  | 0x08 => floatCode w.f1
  | 0x26 | 0x27 => true
  | op =>
    let only32 := isFunc op || op = 0x17 || op = 0x18 || op = 0x25
    (f32Source w.f1 || (w.wide && !only32)) && (!w.useB || (if w.wide then w.f2 = 0xA else f32Source w.f2)) &&
    (if op = 0x20 || op = 0x24 then w.fd = 9 || w.fd = 0xA else w.fd = if w.wide then 0xA else 9)

/-- Bytes of an operand of rows of c elements (07 R129). -/
def rowBytes (f : Fmt) (c : Nat) : Nat := (c * f.bits + 7) / 8
def shapeBytes (f : Fmt) (rows c : Nat) : Nat := rows * rowBytes f c

/-- An operand of n bytes fits its buffer, or two buffers from an even one (07 R129). -/
def bufferOk (buf n : Nat) : Bool := n ≤ 65536 || (n ≤ 131072 && buf % 2 = 0)

/-- Number of elements of source 2 (07 R131, R132), and its rows: a vector is a single row (07 R129). -/
def VWord.rowsB (w : VWord) : Nat × Nat :=
  match w.bc with
  | 0 => (w.m, w.c)
  | 1 => (1, w.m)
  | 2 => (1, w.c)
  | _ => (1, 1)

/-- Results of a reduction. -/
def VWord.results (w : VWord) : Nat :=
  match w.rsc with
  | 0 => w.m
  | 1 => w.c
  | 2 => 1
  | _ => 0

/-- Bytes written to D (07 R129). -/
def VWord.dstBytes (w : VWord) : Nat :=
  if w.noTile || w.op = 0x27 then 0
  else if w.op = 0x26 then 640
  else if w.op = 0x03 then 16384 * w.src.bits / 8
  else if w.op = 0x01 then shapeBytes w.src w.m w.c
  else if w.op = 0x08 then w.e * 2
  else if w.op = 0x25 then 8 * w.results
  else if isReduction w.op then w.results * w.dst.bits / 8
  else shapeBytes w.dst w.m w.c

/-- Every operand fits R129. -/
def VWord.buffersOk (w : VWord) : Bool :=
  (!w.useS1 || w.op = 3 || bufferOk w.s1 (if w.op = 0x27 then 640 else shapeBytes w.src w.m w.c)) &&
  (!w.useB || bufferOk w.s2 (shapeBytes w.src2 w.rowsB.1 w.rowsB.2)) && (w.dstBytes = 0 || bufferOk w.d w.dstBytes)

/-- The scalars obey the scalar table (07 R136). -/
def VWord.scalarsOk (w : VWord) : Bool :=
  match w.op with
  | 0x05 => scaleOk (w.rs2 % 2 ^ 32) && w.dst.zpOk (signedOf 16 w.rs3)
  | 0x06 => scaleOk (w.rs2 % 2 ^ 32) && w.src.zpOk (signedOf 16 w.rs3)
  | 0x42 | 0x52 => (fp32 w.rs2).isFinite
  | 0x25 => w.rs2 % 2 ^ 32 = 0 || (fp32 w.rs2).isPosFinite
  | 0x01 | 0x02 => w.rs2 % 32 = 0 && w.rs3 % 32 = 0
  | 0x07 => w.rs2 % 32 = 0 && 1 ≤ w.rs3 % 16 && w.rs3 % 16 ≤ 10
  | _ => true

/-- Rows of VLD and VST in cell memory: offset, distance of rows (07 R136). -/
def VWord.cellOff (w : VWord) : Nat := w.rs2 % 2 ^ 21
def VWord.cellStride (w : VWord) : Nat :=
  if w.rs3 % 2 ^ 21 = 0 then (rowBytes w.src w.c + 31) / 32 * 32 else w.rs3 % 2 ^ 21

/-- SLICE (07 R144): rows of exponents, bytes of the exponent vector, L, planes, and where the parts lie. -/
def VWord.vecs (w : VWord) : Nat := if w.rsc = 0 then w.m else w.c
def VWord.expBytes (w : VWord) : Nat := (2 * w.vecs + 31) / 32 * 32
def VWord.lines (w : VWord) : Nat := (w.c + 31) / 32
def VWord.planes (w : VWord) : Nat := w.rs3 % 16
def VWord.signOff (w : VWord) : Nat := w.cellOff + w.expBytes
def VWord.planeOff (w : VWord) (p : Nat) : Nat := w.signOff + w.m * 4 * w.lines + (p - 1) * w.m * 32 * w.lines

/-- One past the last byte of cell memory that the instruction reaches (07 R132). -/
def VWord.stop (w : VWord) : Nat :=
  match w.op with
  | 0x01 | 0x02 => w.cellOff + (w.m - 1) * w.cellStride + rowBytes w.src w.c
  | 0x07 => w.planeOff (w.planes + 1)
  | _ => 0

/-- Format checks at issue (07 R131, R132, R135, R136, R144). DESIGN CHOICE (log 66): D = 6, no tile buffer, fails in an operation that writes
one. -/
def VWord.formatOk (w : VWord) : Bool :=
  opKnown w.op && !w.top && w.d ≠ 7 && w.s1 ≠ 6 && w.e ≤ 16384 && w.e % w.c = 0 &&
  (w.useF1 || w.f1 = 0) && (w.useS1 || w.s1 = 0) && (w.useD || w.d = 0) && (w.useFd || w.fd = 0) &&
  (w.useB || (w.f2 = 0 && w.s2 = 0)) && (isBinary w.op || w.bc = 0) && (w.useRsc || w.rsc = 0) && (w.useAcc || !w.acc) &&
  (w.useTw || !w.tw) && (!w.useB || w.s2 < 6) && (!w.useD || (w.d == 6) == w.noTile) && (!w.useS1 || (w.s1 == 7) == (w.op == 3)) &&
  (!(w.op = 0x17 || w.op = 0x18) || w.bc = 1 || w.bc = 2) && (!(w.op = 7) || w.rsc < 2) && (!(w.op = 0x25) || w.rsc ≠ 1) &&
  w.formatsOk && w.buffersOk && w.scalarsOk

/-- The status with which a failed check ends the work item, OK if none fails (05 R433, 07 R132). -/
def VWord.check (w : VWord) (limit : Nat) : Status := checkOrder w.formatOk (w.stop ≤ limit) true

/-! ### Elements of tile buffers -/

/-- Codes of a row of packed elements (02 R26). -/
def unpackRow (f : Fmt) (c : Nat) (bs : List Byte) : List Nat :=
  (List.range c).map fun j =>
    if f.bits = 4 then byteAt bs (j / 2) / 16 ^ (j % 2) % 16 else field bs (j * (f.bits / 8)) (f.bits / 8)

/-- Bytes of a row of packed elements; a pad nibble is 0 (02 R26). -/
def packRow (f : Fmt) (codes : List Nat) : List Byte :=
  if f.bits = 4 then
    (List.range ((codes.length + 1) / 2)).map fun i => BitVec.ofNat 8 (codes.getD (2 * i) 0 % 16 + 16 * (codes.getD (2 * i + 1) 0 % 16))
  else codes.flatMap (leBytes (f.bits / 8))

/-- A row of c elements as it is moved: the pad nibble of a row of odd length is written as 0 (02 R26). -/
def cleanRow (f : Fmt) (c : Nat) (bs : List Byte) : List Byte :=
  if f.bits = 4 && c % 2 = 1 then bs.modify (bs.length - 1) fun b => b &&& 0x0F else bs

/-- n bytes from byte 0 of a buffer: two buffers follow one another (07 R129). -/
def VectorEngine.bytes (v : VectorEngine) (buf n : Nat) : List Byte := tabGetMany zeroByte v.tb (65536 * buf) n
def VectorEngine.put (v : VectorEngine) (buf : Nat) (bs : List Byte) : VectorEngine :=
  { v with tb := tabSetMany zeroByte v.tb (65536 * buf) bs }

/-- Codes of an operand of rows of c elements, and its writing (07 R129). -/
def VectorEngine.codes (v : VectorEngine) (buf : Nat) (f : Fmt) (rows c : Nat) : List Nat :=
  let bs := v.bytes buf (shapeBytes f rows c)
  (List.range rows).flatMap fun r => unpackRow f c (bs.drop (r * rowBytes f c))
def packRows (f : Fmt) (rows c : Nat) (codes : List Nat) : List Byte :=
  (List.range rows).flatMap fun r => packRow f ((codes.drop (r * c)).take c)

/-- Values of source 1, and of source 2 for each element (07 R131-R133). -/
def VWord.xs (w : VWord) (v : VectorEngine) : List Num := (v.codes w.s1 w.src w.m w.c).map w.src.value
def VWord.scalar (w : VWord) : Num := if w.wide then fp64 w.rs2 else fp32 w.rs2
def VWord.factors (w : VWord) (v : VectorEngine) : List Num :=
  if w.bc = 3 then [w.scalar] else (v.codes w.s2 w.src2 w.rowsB.1 w.rowsB.2).map w.src2.value
def VWord.pick (w : VWord) (i : Nat) : Nat :=
  match w.bc with
  | 0 => i
  | 1 => i / w.c
  | 2 => i % w.c
  | _ => 0
def VWord.pairs (w : VWord) (v : VectorEngine) : List (Num × Num) :=
  let bs := w.factors v
  (w.xs v).mapIdx fun i x => (x, bs.getD (w.pick i) .nan)

/-! ### Accumulators (07 R128, R138, R139) -/

/-- An accumulator while an instruction runs: exact sum in its units and the special flags. -/
structure Sum where
  v : Int
  f : AccFlags

def Sum.clear : Sum := { v := 0, f := AccFlags.clear }

/-- Units of 2^−q in a finite value of a format. -/
def unitsOf (q : Nat) (x : Num) : Int :=
  match x with
  | .fin neg n _ e => let m : Int := (n * 2 ^ (e + q).toNat : Nat); if neg then -m else m
  | _ => 0

/-- A term enters a sum; every term other than −0 sets NZ (07 R139). -/
def Sum.term (q : Nat) (a : Sum) (x : Num) : Sum :=
  let f := a.f
  { v := a.v + unitsOf q x,
    f := { nan := f.nan || x.isNan, pinf := f.pinf || (match x with | .inf false => true | _ => false),
           ninf := f.ninf || (match x with | .inf true => true | _ => false),
           nz := f.nz || (match x with | .fin true 0 _ _ => false | _ => true) } }

/-- The sum that a result rounds (07 R139). -/
def Sum.value (q : Nat) (terms : Nat) (a : Sum) : Num :=
  if a.f.nan || (a.f.pinf && a.f.ninf) then .nan
  else if a.f.pinf then .inf false
  else if a.f.ninf then .inf true
  else if a.v = 0 then .fin (terms ≠ 0 && !a.f.nz) 0 1 0
  else Num.ofInt a.v (-(q : Int))

/-- Units of the narrow and the wide accumulator (07 R128). -/
def narrowUnit : Nat := 149
def wideUnit : Nat := 2148

def satTerms (n : Nat) : Nat := min n (2 ^ 32 - 1)

/-! ### Slicing (04 R75-R79) -/

/-- Alignment exponent of the largest of some magnitudes (04 R75); none if one is a NaN or an infinity. -/
def alignExp (xs : List Num) : Option Int :=
  if !xs.all Num.isFinite then none
  else if xs.all Num.isZero then some 0
  else some (xs.foldl (fun e x =>
    match x with
    | .fin _ n d q => if n = 0 then e else max e (ilog2 n d + q + 1)
    | _ => e) (-1073))

/-- Whether |x| < 2^e. -/
def belowPow (x : Num) (e : Int) : Bool :=
  match x with
  | .fin _ n d q => n = 0 || ilog2 n d + q < e
  | _ => false

/-- Digits 1 to P of an element aligned to e, and its sign (04 R77). -/
def sliceDigits (x : Num) (e : Int) (p : Nat) : List Nat × Bool :=
  match x with
  | .fin neg n d q =>
    let t := 8 * (p : Int) - e + q
    let m := n * pow2Num t / (d * pow2Den t)
    ((List.range p).map fun i => m / 2 ^ (8 * (p - 1 - i)) % 256, neg && m ≠ 0)
  | _ => (List.replicate p 0, false)

end Sys2Proof.Machine
end

