-- ==== Sys2Proof/Machine/Cells.lean ====
section
/-! DEFINITION. Work items (05 R90, R95, R98, R104) and the engine extension of the control core (05 R91-R93, R96, R430-R432). -/

namespace Sys2Proof.Machine

/-! ### Launch fields (13 R270) -/

def Cmd.entry (c : Cmd) : DWord := BitVec.ofNat 64 (field c.slot 16 8)
def Cmd.arg (c : Cmd) : DWord := BitVec.ofNat 64 (field c.slot 24 8)
def Cmd.itemCount (c : Cmd) : Nat := field c.slot 40 4
def Cmd.partBits (c : Cmd) : Nat := field c.slot 44 4
def Cmd.cellMask (c : Cmd) : Nat := if c.opcode = 3 then field c.slot 40 8 else field c.slot 32 8
def Cmd.ext (c : Cmd) : List Byte := c.slots.getD 1 []

/-- The partition of cell memory that a command carries (05 R97, 13 R270). -/
def Cmd.partition (c : Cmd) : Partition :=
  { l1 := if c.partBits % 4 = 0 then 0 else 2 ^ 15 * 2 ^ (c.partBits % 4), bl := 16384 * bitsOf c.partBits 8 2 }

/-- A copy is a migration transfer (13 R271). -/
def Cmd.mig (c : Cmd) : Bool := bitOf (field c.slot 32 8) 40

/-! ### Dispatch (05 R104) -/

/-- Nothing occupies the cell. -/
def Cell.idle (c : Cell) : Bool := c.job.isNone && c.blocks.isEmpty

/-- Everything that a change of CID clears (05 R98, 06 R115, R122, 07 R128). -/
def Cell.cleanse (c : Cell) (cid : Cid) : Cell :=
  { c with lastCid := some cid, mem := [], part := { bl := 0, l1 := 0 },
           matrix := { c.matrix with bank0 := Bank.reset, bank1 := Bank.reset, readyLo := [], readyHi := [], outLo := [], outHi := [] },
           vec := { c.vec with tb := [], narrow := 0, wide := 0, nflags := AccFlags.clear, wflags := AccFlags.clear, terms := 0 } }

/-- A work item of a CID arrives (05 R98). -/
def Cell.receive (c : Cell) (cid : Cid) : Cell := if c.lastCid = some cid then c else c.cleanse cid

/-- The item that a running command hands out next, while it may and dispatch has not stopped (05 R104, 18 R365). -/
def State.handsOut (s : State) (r : Nat) (q : Word) : Option Cmd :=
  match s.cmd r q with
  | some c => if c.stage = .running && !c.stopped && c.next < c.total && !s.fatal then some c else none
  | none => none

/-- The enabled cells of a command's set, in increasing order (05 R104, R105). -/
def State.cellSet (s : State) (c : Cmd) : List Nat :=
  (cellsOfRing c.ring).filter fun g => bitOf c.cellMask (g % 64) && s.cellOn g

/-- DISPATCH_WORK_ITEM: the next item to the lowest-numbered idle cell of the set (05 R98, R104). DESIGN CHOICE (log 66): a command
whose set has lost its last enabled cell keeps its items and waits. -/
def effDispatchWorkItem (r : RingId) (seq : Word) (s : State) : State :=
  match s.handsOut r seq with
  | none => s
  | some c =>
    if c.opcode = 2 then s
    else match (s.cellSet c).find? fun g => (s.cell g).idle with
      | none => s
      | some g =>
        let x := s.cell g
        let piece := c.opcode = 3
        let j : Job := { ring := c.ring, seq := c.seq, index := c.next, kind := if piece then .piece else .item, cid := c.cid, ended := none }
        let x := if piece then x else x.receive c.cid
        (s.setCell g { x with job := some j, core := { x.core with wait := .zeroing } }).setCmd { c with next := c.next + 1 }
def execDispatchWorkItem (r : RingId) (seq : Word) (s : State) : Host.Outcome State Fault Refusal :=
  s.live (effDispatchWorkItem r seq)

/-- The control core's registers at the start of item i of a command on cell g (05 R90). -/
def startCore (c : Cmd) (g i : Nat) (now : DWord) : ControlCore :=
  let p := c.partition
  let k : ControlCore := { x := [], pc := c.entry, started := now, instret := 0, wait := .running, fenced := 0 }
  ((((k.set 10 (BitVec.ofNat 64 i)).set 11 c.arg).set 12 (BitVec.ofNat 64 g)).set 13 (BitVec.ofNat 64 cellWindow)).set 2
    (BitVec.ofNat 64 (cellWindow + (cellBytes - p.l1 - p.bl)))

/-- Bytes that were L1 and are staging or block-local memory now hold unspecified values (05 R98; log 4). -/
def State.repartition (s : State) (g : Nat) (p : Partition) : State :=
  let c := s.cell g
  if p.l1 < c.part.l1 then
    let n := c.part.l1 - p.l1
    let (s, v) := s.draw (8 * n)
    s.setCell g { c.write (cellBytes - c.part.l1) (leBytes n v.toNat) with part := p }
  else s.setCell g { c with part := p }

/-- Tickets restart at 0 (05 R90). -/
def Cell.newTickets (c : Cell) : Cell :=
  { c with matrix := { c.matrix with queue := [], issued := 0, done := 0 }, vec := { c.vec with queue := [], issued := 0, done := 0 },
           str := StreamEngine.reset, esig := [] }

/-- WORK_ITEM_START: the item, or the piece, that waits on the cell begins (05 R90, R97, 13 R435). -/
def effWorkItemStart (g : CellId) (s : State) : State :=
  let x := s.cell g
  match x.job with
  | none => s
  | some j =>
    if x.core.wait ≠ .zeroing || j.ended.isSome then s
    else match j.kind, s.cmd j.ring j.seq with
      | .item, some c =>
        let s := s.repartition g c.partition
        s.setCell g { (s.cell g).newTickets with core := { startCore c g j.index s.time with fenced := s.older.length }, kernel := none }
      | .piece, some _ =>
        let q : StreamDesc := { ticket := 0, desc := 0, moved := 0, done := false }
        s.setCell g { x with str := { StreamEngine.reset with queue := [q] }, core := { x.core with wait := .running } }
      | _, none => s
def execWorkItemStart (g : CellId) (s : State) : Host.Outcome State Fault Refusal := s.live (effWorkItemStart g)

/-- A started item of a command has ended: the command learns of it (05 R104). -/
def State.itemDone (s : State) (r : Nat) (q : Word) (i : Nat) (st : Status) : State :=
  match s.cmd r q with
  | some c => s.setCmd (Cmd.noteEnd c.soe c i st)
  | none => s

/-- WORK_ITEM_END: an ended item, piece or block frees its cell for dispatch; one that ended OK once its writes are performed (05 R104,
09 R166, 13 R437). -/
def effWorkItemEnd (g : CellId) (item : Nat) (s : State) : State :=
  let x := s.cell g
  match x.job with
  | some j =>
    (match j.ended with
     | some st =>
       if j.index = item then
         (s.setCell g { x with job := none, core := { x.core with wait := .running }, dq := if j.kind = .item then [] else x.dq }).itemDone j.ring j.seq item st
       else s
     | none => s)
  | none =>
    match x.blocks.find? fun b => b.index == item && b.ended.isSome with
    | some b =>
      if b.ended = some stOk && s.itemOwed b.ring b.seq item then s
      else
        (s.setCell g { x with blocks := x.blocks.filter fun y => !(y.index == item && y.ended.isSome) }).itemDone b.ring b.seq item
          (b.ended.getD stOk)
    | none => s
def execWorkItemEnd (g : CellId) (item : Nat) (s : State) : Host.Outcome State Fault Refusal := s.live (effWorkItemEnd g item)

/-- WORK_ITEM_TIMEOUT: the time limit of a started item, piece or block has passed; it stands still during a halt (05 R95, R96). -/
def effWorkItemTimeout (g : CellId) (item : Nat) (s : State) : State :=
  let x := s.cell g
  match x.job with
  | some j =>
    if j.index = item && x.core.wait ≠ .zeroing && x.core.wait ≠ .halted then s.endItem g stTimeout else s
  | none => s.setCell g { x with blocks := x.blocks.map fun b => if b.index = item then b.endWith stTimeout else b }
def execWorkItemTimeout (g : CellId) (item : Nat) (s : State) : Host.Outcome State Fault Refusal :=
  s.live (effWorkItemTimeout g item)

/-! ### The control core -/

/-- An instruction of the control core of cell g, which runs an item and waits for nothing; f gets the cell and the item. A fetch from
the cell-memory window ends the item (05 R89, R95). -/
def State.onCore (s : State) (g : Nat) (f : Cell → Job → State) : State :=
  match (s.cell g).running with
  | some j =>
    if j.kind = .item && (s.cell g).core.wait = .running then
      (if cellWindow ≤ (s.cell g).core.pc.toNat then s.endItem g stFormat else f (s.cell g) j)
    else s
  | none => s

/-- The instruction of n bytes retires with a result for rd (05 R431). -/
def ControlCore.retire (k : ControlCore) (rd : Nat) (v : DWord) (n : Nat) : ControlCore :=
  let k := k.set rd v
  { k with pc := k.pc + BitVec.ofNat 64 n, instret := k.instret + 1 }

/-- The instruction of cell g, of 4 bytes or a compressed one of 2, retires. -/
def State.retire (s : State) (g rd : Nat) (v : DWord) (n : Nat := 4) : State :=
  let c := s.cell g
  s.setCell g { c with core := c.core.retire rd v n }

/-- Held READY messages and messages under way at a cell, from one neighbour (06 R122). -/
def MatrixEngine.ready (m : MatrixEngine) (higher : Bool) : List Ready := if higher then m.readyHi else m.readyLo
def MatrixEngine.net (m : MatrixEngine) (higher : Bool) : List Ready := if higher then m.netHi else m.netLo
def MatrixEngine.out (m : MatrixEngine) (higher : Bool) : List (BitVec 16) := if higher then m.outHi else m.outLo
def MatrixEngine.setReady (m : MatrixEngine) (higher : Bool) (l : List Ready) : MatrixEngine :=
  if higher then { m with readyHi := l } else { m with readyLo := l }
def MatrixEngine.setNet (m : MatrixEngine) (higher : Bool) (l : List Ready) : MatrixEngine :=
  if higher then { m with netHi := l } else { m with netLo := l }
def MatrixEngine.setOut (m : MatrixEngine) (higher : Bool) (l : List (BitVec 16)) : MatrixEngine :=
  if higher then { m with outHi := l } else { m with outLo := l }

/-- Whether die a is the higher-numbered neighbour of die b. -/
def isHigher (a b : Nat) : Bool := sideDie b true = a

/-- A READY message leaves cell g toward a neighbour (06 R122). -/
def State.sendReady (s : State) (g : Nat) (higher : Bool) (r : Ready) : State :=
  let c := s.cell g
  let s := s.setCell g { c with matrix := c.matrix.setOut higher (c.matrix.out higher ++ [r.tag]) }
  let p := sideCell g higher
  let back := isHigher (g / 64) (p / 64)
  let c := s.cell p
  let s := s.setCell p { c with matrix := c.matrix.setNet back (c.matrix.net back ++ [r]) }
  if g / 64 = p / 64 then s else s.sendOver (g / 64) (p / 64) 0 r.cid 16

/-- The neighbour has a slot for one more READY message of cell g (06 R122: eight for each neighbour). -/
def State.readyRoom (s : State) (g : Nat) (higher : Bool) : Bool :=
  let p := sideCell g higher
  let m := (s.cell p).matrix
  let back := isHigher (g / 64) (p / 64)
  (m.ready back).length + (m.net back).length < 8

/-- The way of READY messages and raw streams from one cell to another (15 R319, R322, R323). -/
def State.sideWay (s : State) (src dst : Nat) : Way := s.way (src / 64) (dst / 64) 0

/-- The neighbours that a block expects streams from. -/
def MBlk.sides (b : MBlk) : List Bool := (if bitOf b.rxm 0 then [false] else []) ++ (if bitOf b.rxm 1 then [true] else [])

/-- The parameter table of the command that cell g serves (06 R107). -/
def State.params (s : State) (j : Job) : List (BitVec 512) :=
  match s.cmd j.ring j.seq with
  | some c => c.params
  | none => []

/-- The status of the checks of a block at issue (05 R92, R433, 06 R111, R122). DESIGN CHOICE (log 66): a TAG stays outstanding until a
stream of it lands or this cell's CID changes, also where the neighbour has discarded the READY or the item that sent it has ended. -/
def State.blockCheck (s : State) (g off : Nat) (j : Job) : Status :=
  let c := s.cell g
  let ps := s.params j
  if off % 64 ≠ 0 then stFormat
  else if c.limit < off + 128 then stRange
  else
    let b := MBlk.decode (BitVec.ofNat 1024 (c.readNat off 128))
    match ps[b.pset]? with
    | none => stFormat
    | some p =>
      let p := PSet.decode p
      let tagFree := b.sides.all fun h => !(c.matrix.out h).contains (BitVec.ofNat 16 b.tag)
      checkOrder (b.formatOk p && tagFree) (b.rangeOk p c.limit) (s.blockStateOk g b)

/-- EMAT (05 R91-R93, 06 R111, R122). -/
def effEmat (g : CellId) (rd rs1 : Reg) (s : State) : State :=
  s.onCore g fun c j =>
    let off := (c.core.get rs1).toNat
    if 4 ≤ c.matrix.queue.length then s
    else
      let st := s.blockCheck g off j
      if st ≠ stOk then s.endItem g st
      else
        let raw := BitVec.ofNat 1024 (c.readNat off 128)
        let b := MBlk.decode raw
        let ways := b.sides.map fun h => s.sideWay (sideCell g h) g
        if ways.contains .cut then s.endItem g stLink
        else if !b.sides.all fun h => s.readyRoom g h then s
        else
          let m := c.matrix
          let t := m.issued + 1
          let q : MatBlock := { ticket := t, blk := raw, phase := .queued, landed := 0 }
          let s := s.setCell g { c with matrix := { m with issued := t, queue := m.queue ++ [q] } }
          let r : Ready := { tag := BitVec.ofNat 16 b.tag, cid := j.cid, m := b.m, n := b.n }
          (b.sides.foldl (fun s h => s.sendReady g h r) s).retire g rd (t.setWidth 64)
def execEmat (g : CellId) (rd rs1 : Reg) (s : State) : Host.Outcome State Fault Refusal := s.live (effEmat g rd rs1)

/-- Issue of a vector instruction word (05 R91-R93, 07 R132). -/
def State.issueVec (s : State) (g rd : Nat) (c : Cell) (w rs2 rs3 : DWord) : State :=
  let v := c.vec
  if 16 ≤ v.queue.length then s
  else
    let st := (VWord.decode w rs2 rs3).check c.limit
    if st ≠ stOk then s.endItem g st
    else
      let t := v.issued + 1
      let q : VecInstr := { ticket := t, word := w, rs2 := rs2, rs3 := rs3, done := false }
      (s.setCell g { c with vec := { v with issued := t, queue := v.queue ++ [q] } }).retire g rd (t.setWidth 64)

/-- EVEC (05 R91). -/
def effEvec (g : CellId) (rd rs1 rs2 : Reg) (s : State) : State :=
  s.onCore g fun c _ => s.issueVec g rd c (c.core.get rs1) (c.core.get rs2) 0
def execEvec (g : CellId) (rd rs1 rs2 : Reg) (s : State) : Host.Outcome State Fault Refusal := s.live (effEvec g rd rs1 rs2)

/-- EVEC2 (05 R91). -/
def effEvec2 (g : CellId) (rd rs1 rs2 rs3 : Reg) (s : State) : State :=
  s.onCore g fun c _ => s.issueVec g rd c (c.core.get rs1) (c.core.get rs2) (c.core.get rs3)
def execEvec2 (g : CellId) (rd rs1 rs2 rs3 : Reg) (s : State) : Host.Outcome State Fault Refusal :=
  s.live (effEvec2 g rd rs1 rs2 rs3)

/-- The status of the checks of a stream descriptor at issue (05 R92, R101). -/
def Cell.streamCheck (c : Cell) (off : Nat) : Status :=
  if off % 32 ≠ 0 then stFormat
  else if cellBytes < off + 32 then stRange
  else
    let d := SDesc.decode (BitVec.ofNat 256 (c.readNat off 32))
    checkOrder d.formatOk d.rangeOk true

/-- ESTR (05 R91-R93, R101). -/
def effEstr (g : CellId) (rd rs1 : Reg) (s : State) : State :=
  s.onCore g fun c _ =>
    let off := (c.core.get rs1).toNat
    let e := c.str
    if 32 ≤ e.queue.length then s
    else
      let st := c.streamCheck off
      if st ≠ stOk then s.endItem g st
      else
        let t := e.issued + 1
        let q : StreamDesc := { ticket := t, desc := BitVec.ofNat 256 (c.readNat off 32), moved := 0, done := false }
        (s.setCell g { c with str := { e with issued := t, queue := e.queue ++ [q] } }).retire g rd (t.setWidth 64)
def execEstr (g : CellId) (rd rs1 : Reg) (s : State) : Host.Outcome State Fault Refusal := s.live (effEstr g rd rs1)

/-- Last issued and last completed ticket of an engine (05 R93). -/
def Cell.tickets (c : Cell) (e : Engine) : Word × Word :=
  match e with
  | .matrix => (c.matrix.issued, c.matrix.done)
  | .vector => (c.vec.issued, c.vec.done)
  | .stream => (c.str.issued, c.str.done)

/-- Every engine is idle: every issued instruction has completed (05 R91). -/
def Cell.enginesIdle (c : Cell) : Bool := c.matrix.queue.isEmpty && c.vec.queue.isEmpty && c.str.queue.isEmpty

/-- EWAIT (05 R91, R93, R432). -/
def effEwait (g : CellId) (rd rs1 rs2 : Reg) (s : State) : State :=
  s.onCore g fun c _ =>
    let t : Word := (c.core.get rs2).setWidth 32
    let wait := fun (e : Engine) =>
      let (issued, done) := c.tickets e
      if !reached32 issued t then s.endItem g stState
      else if reached32 done t then s.retire g rd (done.setWidth 64)
      else s
    match (c.core.get rs1).toNat with
    | 0 => wait .matrix
    | 1 => wait .vector
    | 2 => wait .stream
    | 3 => if c.enginesIdle then s.retire g rd 0 else s
    | _ => s.endItem g stFormat
def execEwait (g : CellId) (rd rs1 rs2 : Reg) (s : State) : Host.Outcome State Fault Refusal := s.live (effEwait g rd rs1 rs2)

/-- ESIG: the addition is scheduled behind every engine instruction issued before it (05 R91, R95, R432). -/
def effEsig (g : CellId) (rs1 rs2 : Reg) (s : State) : State :=
  s.onCore g fun c j =>
    let o : BitVec 16 := (c.core.get rs1).setWidth 16
    if !s.soAllowed j.cid o.toNat then s.endItem g stAccess
    else
      let a : EsigAdd := { obj := o, val := c.core.get rs2, mat := c.matrix.issued, vec := c.vec.issued, str := c.str.issued }
      (s.setCell g { c with esig := c.esig ++ [a] }).retire g 0 0
def execEsig (g : CellId) (rs1 rs2 : Reg) (s : State) : Host.Outcome State Fault Refusal := s.live (effEsig g rs1 rs2)

/-- Every engine instruction issued before an ESIG has completed. -/
def Cell.esigDue (c : Cell) (a : EsigAdd) : Bool :=
  reached32 c.matrix.done a.mat && reached32 c.vec.done a.vec && reached32 c.str.done a.str

/-- ESIG_ADDITION: the oldest scheduled addition whose time has come, once the cell's remote accesses have ended (05 R432, 12 R247;
18 R362 for a broken object). -/
def effEsigAddition (g : CellId) (s : State) : State :=
  let c := s.cell g
  match c.esig with
  | [] => s
  | a :: rest =>
    if !c.esigDue a || s.cellOwed g then s
    else if s.soWay (g / 64) a.obj.toNat ≠ .clear then (if s.soWay (g / 64) a.obj.toNat = .cut then s.endItem g stLink else s)
    else if s.soBroken a.obj.toNat then s.endItem g stMemUe
    else (s.setCell g { c with esig := rest }).signal a.obj.toNat a.val
def execEsigAddition (g : CellId) (s : State) : Host.Outcome State Fault Refusal := s.live (effEsigAddition g)

/-- EWSO (05 R91, R95, 12 R247). -/
def effEwso (g : CellId) (rd rs1 rs2 : Reg) (s : State) : State :=
  s.onCore g fun c j =>
    let o := (c.core.get rs1).toNat % 2 ^ 16
    if !s.soAllowed j.cid o then s.endItem g stAccess
    else if s.soWay (g / 64) o ≠ .clear then (if s.soWay (g / 64) o = .cut then s.endItem g stLink else s)
    else if s.soBroken o then s.endItem g stMemUe
    else if reached64 (s.so o) (c.core.get rs2) then s.retire g rd (s.so o)
    else s
def execEwso (g : CellId) (rd rs1 rs2 : Reg) (s : State) : Host.Outcome State Fault Refusal := s.live (effEwso g rd rs1 rs2)

/-- EFENCE: funct7 above 2 is no instruction (05 R91, R94). -/
def effEfence (g : CellId) (scope : BitVec 7) (s : State) : State :=
  s.onCore g fun c _ =>
    if 2 < scope.toNat then s.endItem g stFormat
    else if c.enginesIdle && !(scope.toNat = 2 && s.cellOwed g) then s.retire g 0 0
    else s
def execEfence (g : CellId) (scope : BitVec 7) (s : State) : Host.Outcome State Fault Refusal := s.live (effEfence g scope)

/-- EDONE: once the engines are idle, every ESIG addition is made and every write of the item is performed (05 R91, R103, R432, 13
R437). -/
def effEdone (g : CellId) (rs1 : Reg) (s : State) : State :=
  s.onCore g fun c j =>
    if c.enginesIdle && c.esig.isEmpty && !s.itemOwed j.ring j.seq j.index then s.endItem g ((c.core.get rs1).setWidth 16) else s
def execEdone (g : CellId) (rs1 : Reg) (s : State) : Host.Outcome State Fault Refusal := s.live (effEdone g rs1)

/-- The values that the core of cell g may fetch for an aligned 16-bit parcel of memory: the one there, and those that writes since its
FENCE.I, or its item's start, have replaced (05 R430). -/
def State.fetchable (s : State) (g a : Nat) : List (BitVec 16) :=
  parcelAt s.mem a :: ((s.older.drop (s.cell g).core.fenced).filter fun p => p.1 = a).map (·.2)

/-- FENCE_I: later fetches see the bytes stored before (05 R430). -/
def effFenceI (g : CellId) (s : State) : State :=
  s.onCore g fun c _ => (s.setCell g { c with core := { c.core with fenced := s.older.length } }).retire g 0 0
def execFenceI (g : CellId) (s : State) : Host.Outcome State Fault Refusal := s.live (effFenceI g)

/-- EBREAK and C.EBREAK: a halt under a debug unlock with scope bit 1, else E_FORMAT (05 R96, R433). -/
def effEbreak (g : CellId) (compressed : Bool) (s : State) : State :=
  s.onCore g fun c _ =>
    if s.unlocked 1 then
      let s := s.setCell g { c with core := { c.core with pc := c.core.pc + (if compressed then 2 else 4), wait := .halted } }
      let o := s.ochre (g / 64)
      s.setOchre (g / 64) { o with dbgHalt := o.dbgHalt ||| (1 <<< (g.val % 64) : DWord) }
    else s.endItem g stFormat
def execEbreak (g : CellId) (compressed : Bool) (s : State) : Host.Outcome State Fault Refusal := s.live (effEbreak g compressed)

end Sys2Proof.Machine
end

