-- ==== Sys2Proof/Machine/Matrix.lean ====
section
/-! DEFINITION. The matrix engine: accumulation (06 R115-R118, R121), raw streams (06 R122, R123), the drain (06 R119, 05 R102, R103)
and the completion of tickets (05 R93). -/

namespace Sys2Proof.Machine

/-- An engine of cell g acts for a started item that has not ended. -/
def State.onEngine (s : State) (g : Nat) (f : Cell → Job → State) : State :=
  match (s.cell g).running with
  | some j => if (s.cell g).core.wait = .zeroing then s else f (s.cell g) j
  | none => s

def elemDflt (_ : Nat) : Elem := { a := 0, nan := false }

/-- Element (i, j) of a bank (06 R115). -/
def Bank.get (b : Bank) (i j : Nat) : Elem := tabGet elemDflt b.elems (128 * i + j)

def MatrixEngine.bank (m : MatrixEngine) (one : Bool) : Bank := if one then m.bank1 else m.bank0
def MatrixEngine.setBank (m : MatrixEngine) (one : Bool) (b : Bank) : MatrixEngine :=
  if one then { m with bank1 := b } else { m with bank0 := b }

/-- The i-th queued block changes. -/
def MatrixEngine.onBlock (m : MatrixEngine) (i : Nat) (f : MatBlock → MatBlock) : MatrixEngine := { m with queue := m.queue.modify i f }

/-- The parameter set that a block names; its index was checked at issue. -/
def State.psetOf (s : State) (j : Job) (b : MBlk) : PSet := PSet.decode ((s.params j).getD b.pset 0)

def MatBlock.dec (q : MatBlock) : MBlk := MBlk.decode q.blk

/-! ### Accumulation -/

/-- The block's kind is integer (06 R117). -/
def MBlk.isInt (b : MBlk) (p : PSet) : Bool := b.sliced || !p.fmtA.isFloat

/-- A0 of element (i, j) as its LONG container, with the kind (03 R56, 06 R117). -/
def Cell.initTile (c : Cell) (b : MBlk) (i j : Nat) : Nat :=
  let line := if b.lo then j else i
  let k := if b.lo then i else j
  c.readNat (b.ioff + line * 32 * b.ldi + 16 * k) 16

/-- Every element of A0 is of the block's kind (02 R33, 06 R117). -/
def Cell.kindsMatch (c : Cell) (b : MBlk) (p : PSet) : Bool :=
  let int := b.isInt p
  match b.init with
  | 1 => let k := c.matrix.bank b.bank; k.empty || k.int == int
  | 2 => (List.range b.m).all fun i => (List.range b.n).all fun j => longKind (c.initTile b i j) == int
  | _ => true

/-- The sum of products of element (i, j), and whether its NaN flag is set (03 R57, 04 R80, R82). -/
def Cell.products (c : Cell) (b : MBlk) (p : PSet) (i j : Nat) : Int × Bool :=
  if b.sliced then (c.slicedSum b i j, c.expA b i = 0x7FFF || c.expB b j = 0x7FFF) else c.denseSum b p i j

/-- A0 of element (i, j) (03 R56). -/
def Cell.startElem (c : Cell) (b : MBlk) (i j : Nat) : Elem :=
  match b.init with
  | 1 => (c.matrix.bank b.bank).get i j
  | 2 => Elem.ofNat (c.initTile b i j)
  | _ => { a := 0, nan := false }

/-- Element (i, j) after the block's products, and whether it overflowed (03 R54, R55). DESIGN CHOICE (log 66): only A0 plus the block's
whole sum is judged, not a sum part-way. -/
def Cell.accElem (c : Cell) (b : MBlk) (p : PSet) (i j : Nat) : Elem × Bool :=
  let e := c.startElem b i j
  let x := c.products b p i j
  Elem.ofSum (e.nan || x.2) (e.a.toInt + x.1)

/-- The elements (i, j) of a tile, in row-major order. -/
def tileIndex (m n : Nat) : List (Nat × Nat) := (List.range m).flatMap fun i => (List.range n).map fun j => (i, j)

/-- The bank after the block's products, and whether one overflowed (06 R116). DESIGN CHOICE (log 66): the elements of an EMPTY bank outside
the first block's M × N read 0 in a later block that adds to the bank; the spec gives them no value. -/
def Cell.accumulate (c : Cell) (b : MBlk) (p : PSet) : Bank × Bool :=
  let old := c.matrix.bank b.bank
  let r := (tileIndex b.m b.n).foldl (fun (t : Tab Elem × Bool) ij =>
    let x := c.accElem b p ij.1 ij.2
    (tabSet elemDflt t.1 (128 * ij.1 + ij.2) x.1, t.2 || x.2)) (if old.empty then [] else old.elems, false)
  ({ empty := false, int := b.isInt p, elems := r.1 }, r.2)

/-- Columns N to 127 of a bank hold unspecified values after a block with G > 1 (06 R121; log 4). -/
def spoil (b : Bank) (n : Nat) (v : BitVec 1851392) : Bank :=
  { b with elems := (tileIndex 128 (128 - n)).foldl (fun t ij =>
      let k := 128 * ij.1 + n + ij.2
      tabSet elemDflt t k { a := BitVec.ofNat 112 (v.toNat / 2 ^ (113 * k)), nan := bitOf v.toNat (113 * k + 112) }) b.elems }

/-- The block still drains its bank, sends it, or adds streams into it (06 R118). -/
def MatBlock.holdsBank (q : MatBlock) : Bool := q.phase = .accumulated || q.phase = .stalled

/-- Position of the first queued block, if it may accumulate: its bank is free, and no drain of an earlier block overlaps what it
reads (06 R118). -/
def State.startable (s : State) (j : Job) (m : MatrixEngine) : Option Nat :=
  match m.queue.findIdx? fun q => q.phase = .queued with
  | none => none
  | some i =>
    let b := (m.queue.getD i { ticket := 0, blk := 0, phase := .done, landed := 0 }).dec
    let p := s.psetOf j b
    if (m.queue.take i).all fun q =>
        !q.holdsBank || (q.dec.bank ≠ b.bank && !(q.dec.outputs (s.psetOf j q.dec)).any fun o => (b.reads p).any fun a => a.overlaps o)
    then some i else none

/-- MATRIX_BLOCK_START (06 R115-R118, R121): a block that neither drains nor sends nor receives is complete. -/
def effMatrixBlockStart (g : CellId) (s : State) : State :=
  s.onEngine g fun c j =>
    match s.startable j c.matrix with
    | none => s
    | some i =>
      match c.matrix.queue[i]? with
      | none => s
      | some q =>
        let b := q.dec
        let p := s.psetOf j b
        if !c.kindsMatch b p then s.endItem g stFormat
        else
          let (bank, ovf) := c.accumulate b p
          let (s, bank) := if 1 < b.groups then (let (s, v) := s.draw 1851392; (s, spoil bank b.n v)) else (s, bank)
          let nf := b.sliced && (tileIndex b.m b.n).any fun ij => c.expA b ij.1 = 0x7FFF || c.expB b ij.2 = 0x7FFF
          let macs := b.m * b.n * b.k * (if b.sliced then b.slices * (b.slices + 1) / 2 else 1)
          let phase : BlockPhase := if b.dst = 0 && b.rxm = 0 then .done else .accumulated
          let m := (c.matrix.setBank b.bank bank).onBlock i fun q => { q with phase := phase }
          let s := s.setCell g { c with matrix := m }
          let s := if ovf then s.overflowed (g / 64) j.ring j.seq else s
          let s := if nf then s.setSliceNf (g / 64) else s
          (s.count (g / 64) 0x03 (some j.cid) macs).tally (some (j.ring, j.seq)) 1 macs
def execMatrixBlockStart (g : CellId) (s : State) : Host.Outcome State Fault Refusal := s.live (effMatrixBlockStart g)

/-! ### Raw streams -/

/-- READY_RECEIVED: the oldest message under way takes a slot, if one of the eight is free (06 R122). -/
def effReadyReceived (g : CellId) (higher : Bool) (s : State) : State :=
  let c := s.cell g
  match c.matrix.net higher with
  | [] => s
  | r :: rest =>
    if 8 ≤ (c.matrix.ready higher).length || s.sideWay (sideCell g higher) g ≠ .clear then s
    else s.setCell g { c with matrix := (c.matrix.setNet higher rest).setReady higher (c.matrix.ready higher ++ [r]) }
def execReadyReceived (g : CellId) (higher : Bool) (s : State) : Host.Outcome State Fault Refusal := s.live (effReadyReceived g higher)

/-- The M × N elements of a bank as LONG containers in row-major order (06 R122). -/
def Bank.containers (k : Bank) (m n : Nat) : List Byte :=
  (tileIndex m n).flatMap fun ij => leBytes 16 ((k.get ij.1 ij.2).toNat k.int)

/-- Position of the oldest accumulated block that sends and whose READY has come, with that message (06 R122). -/
def MatrixEngine.sendable (m : MatrixEngine) : Option (Nat × Ready) :=
  (List.range m.queue.length).findSome? fun i =>
    match m.queue[i]? with
    | some q =>
      let b := q.dec
      if q.phase = .accumulated && b.dst = 3 then
        ((m.ready b.peer).find? fun r => r.tag.toNat = b.tag).map fun r => (i, r)
      else none
    | none => none

/-- A raw stream leaves for cell p of a neighbour (06 R122). -/
def State.sendRaw (s : State) (g p : Nat) (x : RawStream) : State :=
  let c := s.cell p
  s.setCell p { c with matrix := if isHigher (g / 64) (p / 64) then { c.matrix with rawHi := c.matrix.rawHi ++ [x] }
                                 else { c.matrix with rawLo := c.matrix.rawLo ++ [x] } }

/-- The bytes of a stream's messages: 16 elements each, behind a header of 16 bytes (15 R324). -/
def rawBytes (n : Nat) : Nat := n + 16 * ((n + 255) / 256)

/-- RAW_STREAM_SEND: CID, M and N are compared; a mismatch ends both items (06 R122, R123). DESIGN CHOICE (log 66): the spec ranks no
difference before another; where the CID differs the status is E_ACCESS, whatever M and N are. The stream waits while its way carries
nothing, and one that no path can take ends its sender (15 R319, R322, R323). -/
def effRawStreamSend (g : CellId) (s : State) : State :=
  s.onEngine g fun c j =>
    match c.matrix.sendable with
    | none => s
    | some (i, r) =>
      match c.matrix.queue[i]? with
      | none => s
      | some q =>
        let b := q.dec
        let p := sideCell g b.peer
        if s.sideWay g p ≠ .clear then (if s.sideWay g p = .cut then s.endItem g stLink else s)
        else
        let bad := if r.cid ≠ j.cid then stAccess else if r.m ≠ b.m || r.n ≠ b.n then stFormat else stOk
        let m := (c.matrix.setReady b.peer ((c.matrix.ready b.peer).erase r)).onBlock i fun q => { q with phase := .done }
        let bytes := (c.matrix.bank b.bank).containers b.m b.n
        let s := s.setCell g { c with matrix := m }
        let s := s.sendRaw g p { tag := r.tag, src := g, bytes := if bad = stOk then bytes else [], bad := bad }
        let s := s.count (g / 64) 0x0F (some j.cid) (if bad = stOk then bytes.length else 0)
        let s := if g.val / 64 = p / 64 then s
          else s.sendOver (g / 64) (p / 64) 0 j.cid (if bad = stOk then rawBytes bytes.length else 16)
        if bad = stOk then s else s.endItem g bad
def execRawStreamSend (g : CellId) (s : State) : Host.Outcome State Fault Refusal := s.live (effRawStreamSend g)

/-- The bit of a neighbour in RXM and in the landed streams. -/
def sideBit (higher : Bool) : BitVec 2 := if higher then 2 else 1

/-- RAW_STREAM_LANDED: the oldest stream under way lands in the receiving block's area, or ends its item (06 R122, R123). DESIGN CHOICE
(log 66): a stream that lands after its receiving item has ended is dropped, and a stream belongs to the oldest block that waits for its
TAG. -/
def effRawStreamLanded (g : CellId) (higher : Bool) (s : State) : State :=
  let c := s.cell g
  let under := if higher then c.matrix.rawHi else c.matrix.rawLo
  match under with
  | [] => s
  | x :: rest =>
    if x.bad = stOk && s.sideWay x.src g ≠ .clear then s
    else
    let m := if higher then { c.matrix with rawHi := rest } else { c.matrix with rawLo := rest }
    let c := { c with matrix := m.setOut higher ((m.out higher).erase x.tag) }
    let wants := fun (q : MatBlock) => q.dec.tag = x.tag.toNat && bitOf q.dec.rxm higher.toNat && (q.landed &&& sideBit higher) = 0
    let s := s.setCell g c
    match c.running, c.matrix.queue.findIdx? wants with
    | some _, some i =>
      if x.bad ≠ stOk then s.endItem g x.bad
      else
        let b := ((c.matrix.queue[i]?).map MatBlock.dec).getD (MBlk.decode 0)
        let c := c.write (b.landing higher) x.bytes
        s.setCell g { c with matrix := c.matrix.onBlock i fun q => { q with landed := q.landed ||| sideBit higher } }
    | _, _ => s
def execRawStreamLanded (g : CellId) (higher : Bool) (s : State) : Host.Outcome State Fault Refusal := s.live (effRawStreamLanded g higher)

/-- A landed stream as read from its area. -/
def Cell.landed (c : Cell) (b : MBlk) (higher : Bool) (i j : Nat) : Nat := c.readNat (b.landing higher + 16 * (b.n * i + j)) 16

/-- Every landed element has the bank's kind (06 R123). -/
def Cell.landedKinds (c : Cell) (b : MBlk) : Bool :=
  let k := c.matrix.bank b.bank
  b.sides.all fun h => (tileIndex b.m b.n).all fun ij => longKind (c.landed b h ij.1 ij.2) == k.int

/-- The bank after the exact addition of every landed stream, and whether a sum overflowed (02 R33, 03 R54, 06 R122). DESIGN CHOICE (log
66): the lower-numbered neighbour's stream is added first, and each addition is judged. -/
def Cell.addLanded (c : Cell) (b : MBlk) : Bank × Bool :=
  let k := c.matrix.bank b.bank
  let r := (tileIndex b.m b.n).foldl (fun (t : Tab Elem × Bool) ij =>
    let x := b.sides.foldl (fun (e : Elem × Bool) h =>
      let y := e.1.add (Elem.ofNat (c.landed b h ij.1 ij.2))
      (y.1, e.2 || y.2)) (k.get ij.1 ij.2, false)
    (tabSet elemDflt t.1 (128 * ij.1 + ij.2) x.1, t.2 || x.2)) (k.elems, false)
  ({ k with elems := r.1 }, r.2)

/-! ### The drain -/

/-- Bias of element (i, j) (06 R107, R110); +0 without one. -/
def Cell.bias (c : Cell) (b : MBlk) (p : PSet) (i j : Nat) : Num :=
  match p.bmode with
  | 1 => fp32 (c.readNat (b.bioff + 4 * j) 4)
  | 2 => fp32 (c.readNat (b.bioff + 4 * i) 4)
  | 3 => fp32 (c.readNat (b.bioff + 4 * (b.n * i + j)) 4)
  | _ => Num.zero

/-- z of element (i, j) from the saved tile (03 R63, 06 R119). -/
def Cell.saved (c : Cell) (b : MBlk) (p : PSet) (i j : Nat) : Num :=
  let f := (Fmt.ofCode p.fz).getD .f8a
  f.value (c.elemCode b.zoff b.ldz f.bits i j b.lo)

/-- Weight of the accumulator's unit for element (i, j) (03 R51, 04 R82). -/
def Cell.weight (c : Cell) (b : MBlk) (k : Bank) (i j : Nat) : Int :=
  if b.sliced then signedOf 16 (c.expA b i) + signedOf 16 (c.expB b j) - 8 * ((b.slices : Int) + 1)
  else if k.int then 0 else -48

/-- What the drain writes for an element: its code and its marks, and the FP32 code that Tint watch takes (03 R59, 20 R395). -/
structure Drained where
  w     : Written
  value : Nat

/-- The drain of element (i, j) to a format other than LONG (03 R59, 04 R82). -/
def Cell.drainElem (c : Cell) (b : MBlk) (p : PSet) (strict : Bool) (i j : Nat) : Drained :=
  let k := c.matrix.bank b.bank
  let e := k.get i j
  let nan := e.nan || (b.sliced && (c.expA b i = 0x7FFF || c.expB b j = 0x7FFF))
  let v := if nan then Num.nan else Num.ofInt e.a.toInt (c.weight b k i j)
  let x := (p.withEddy b).drainValue v (c.bias b p i j) (if p.amode = 2 then c.saved b p i j else Num.zero)
  { w := drainRound p.out (narrowMode strict) p.zout x, value := toFp32 x }

/-- Bytes of a drained element, LONG included (03 R67), with what it reports. -/
def Cell.drainBytes (c : Cell) (b : MBlk) (p : PSet) (strict : Bool) (i j : Nat) : List Byte × Option Drained :=
  if p.out = .long then
    let k := c.matrix.bank b.bank
    (leBytes 16 ((k.get i j).toNat k.int), none)
  else
    let d := c.drainElem b p strict i j
    (leBytes (p.out.bits / 8) d.w.code, some d)

/-- The drained elements in row-major order. -/
def Cell.drainTile (c : Cell) (b : MBlk) (p : PSet) (strict : Bool) : List (Nat × Nat × List Byte × Option Drained) :=
  (tileIndex b.m b.n).map fun ij => (ij.1, ij.2, c.drainBytes b p strict ij.1 ij.2)

/-- One drained element enters the report (20 R395). -/
def Tint.drained (t : Tint) (bs : List Byte) (d : Option Drained) : Tint :=
  match d with
  | none => t
  | some d => ((t.bytes bs).value d.value).marks d.w

/-- A tile of the drain queue: 128 × 128 in row-major order, the output zero point or +0 outside M × N (06 R119). -/
def queueBytes (b : MBlk) (p : PSet) (tile : List (Nat × Nat × List Byte × Option Drained)) : List Byte :=
  let pad := leBytes (p.out.bits / 8) (if p.out.isInt then p.out.intCode p.zout else 0)
  let padRow := (List.replicate (128 - b.n) pad).flatten
  (List.range b.m).flatMap (fun i => ((tile.drop (b.n * i)).take b.n).flatMap (fun t => t.2.2.1) ++ padRow) ++
  (List.replicate ((128 - b.m) * 128) pad).flatten

/-- Entries of the drain queue in use: an FP64 tile takes two (05 R102). -/
def QueueTile.entries (t : QueueTile) : Nat := if t.fmt = 0xA then 2 else 1
def Cell.queueUse (c : Cell) : Nat := c.dq.foldl (fun n t => n + t.entries) 0
def Cell.queueRoom (c : Cell) (f : Fmt) : Bool := c.queueUse + (if f = .fp64 then 2 else 1) ≤ 4

/-- The drain of queued block i writes its tile and reports it; the block is complete (06 R119). -/
def State.drain (s : State) (g : Nat) (j : Job) (i : Nat) (b : MBlk) : State :=
  let c := s.cell g
  let p := s.psetOf j b
  let strict := ((s.cmd j.ring j.seq).map Cmd.strict).getD false
  let tile := if b.drains then c.drainTile b p strict else []
  let done := { c with matrix := c.matrix.onBlock i fun q => { q with phase := .done } }
  let out :=
    if b.dst = 1 then
      tile.foldl (fun c t =>
        let line := if b.lo then t.2.1 else t.1
        let k := if b.lo then t.1 else t.2.1
        c.write (b.ooff + line * 32 * b.ldo + k * (p.out.bits / 8)) t.2.2.1) done
    else if b.dst = 2 then { done with dq := done.dq ++ [{ fmt := p.fout, bytes := queueBytes b p tile }] }
    else done
  (s.setCell g out).report j.ring j.seq fun t => tile.foldl (fun t x => t.drained x.2.2.1 x.2.2.2) t

/-- Position of the oldest block that may drain: accumulated, with every expected stream landed, while no drain stalls (06 R119, R122). -/
def MatrixEngine.drainable (m : MatrixEngine) : Option Nat :=
  if m.queue.any fun q => q.phase = .stalled then none
  else m.queue.findIdx? fun q => q.phase = .accumulated && q.dec.dst ≠ 3 && q.landed.toNat = q.dec.rxm

/-- MATRIX_DRAIN: landed streams are added, then the bank drains, or its tile waits for the drain queue (05 R103, 06 R119, R122, R123). -/
def effMatrixDrain (g : CellId) (s : State) : State :=
  s.onEngine g fun c j =>
    match c.matrix.drainable with
    | none => s
    | some i =>
      match c.matrix.queue[i]? with
      | none => s
      | some q =>
        let b := q.dec
        if !c.landedKinds b then s.endItem g stFormat
        else
          let (bank, ovf) := c.addLanded b
          let s := s.setCell g { c with matrix := c.matrix.setBank b.bank bank }
          let s := if ovf then s.overflowed (g / 64) j.ring j.seq else s
          if b.dst = 2 && !c.queueRoom (s.psetOf j b).out then
            let c := s.cell g
            s.setCell g { c with matrix := c.matrix.onBlock i fun q => { q with phase := .stalled } }
          else s.drain g j i b
def execMatrixDrain (g : CellId) (s : State) : Host.Outcome State Fault Refusal := s.live (effMatrixDrain g)

/-- DRAIN_QUEUE_PUSH: a stalled drain pushes its tile once there is room (05 R103). -/
def effDrainQueuePush (g : CellId) (s : State) : State :=
  s.onEngine g fun c j =>
    match c.matrix.queue.findIdx? fun q => q.phase = .stalled with
    | none => s
    | some i =>
      match c.matrix.queue[i]? with
      | none => s
      | some q => if c.queueRoom (s.psetOf j q.dec).out then s.drain g j i q.dec else s
def execDrainQueuePush (g : CellId) (s : State) : Host.Outcome State Fault Refusal := s.live (effDrainQueuePush g)

/-- MATRIX_TICKET_COMPLETE: the oldest instruction of an engine has acted and completes its ticket (05 R93). -/
def effMatrixTicketComplete (g : CellId) (e : Engine) (s : State) : State :=
  s.onEngine g fun c _ =>
    match e with
    | .matrix =>
      (match c.matrix.queue with
       | q :: rest => if q.phase = .done then s.setCell g { c with matrix := { c.matrix with queue := rest, done := q.ticket } } else s
       | [] => s)
    | .vector =>
      (match c.vec.queue with
       | q :: rest => if q.done then s.setCell g { c with vec := { c.vec with queue := rest, done := q.ticket } } else s
       | [] => s)
    | .stream =>
      (match c.str.queue with
       | q :: rest => if q.done then s.setCell g { c with str := { c.str with queue := rest, done := q.ticket } } else s
       | [] => s)
def execMatrixTicketComplete (g : CellId) (e : Engine) (s : State) : Host.Outcome State Fault Refusal :=
  s.live (effMatrixTicketComplete g e)

end Sys2Proof.Machine
end

