-- ==== Sys2Proof/Machine/Vector.lean ====
section
/-! DEFINITION. The vector engine (07 R128-R147): each command carries out the engine's next instruction, if it is of that
operation. -/

namespace Sys2Proof.Machine

/-- The instruction that the engine carries out next has acted; its elements are counted (07 R146, 20 R387, R391). -/
def State.vecDone (s : State) (g : Nat) (j : Job) (n : Nat) : State :=
  let c := s.cell g
  let k := (c.vec.queue.findIdx? fun q => !q.done).getD 0
  let s := s.setCell g { c with vec := { c.vec with queue := c.vec.queue.modify k fun q => { q with done := true } } }
  (s.count (g / 64) 0x04 (some j.cid) n).tally (some (j.ring, j.seq)) 2 n

/-- The engine's next instruction, if its operation code lies from lo to hi. -/
def State.onVec (s : State) (g lo hi : Nat) (f : Cell → Job → VWord → State) : State :=
  s.onEngine g fun c j =>
    match c.vec.queue.find? fun q => !q.done with
    | none => s
    | some q =>
      let w := VWord.decode q.word q.rs2 q.rs3
      if lo ≤ w.op && w.op ≤ hi then f c j w else s

/-- The instruction writes D and has acted. -/
def State.vecPut (s : State) (g : Nat) (j : Job) (w : VWord) (bs : List Byte) : State :=
  let c := s.cell g
  (s.setCell g { c with vec := c.vec.put w.d bs }).vecDone g j w.e

/-- Overflow mode of the command of an item (07 R135). -/
def State.modeOf (s : State) (j : Job) : OvfMode := narrowMode (((s.cmd j.ring j.seq).map Cmd.strict).getD false)

/-! ### Moves -/

/-- VLD (07 R133, R145). -/
def effVld (g : CellId) (s : State) : State :=
  s.onVec g 1 1 fun c j w =>
    s.vecPut g j w ((List.range w.m).flatMap fun r => cleanRow w.src w.c (c.read (w.cellOff + r * w.cellStride) (rowBytes w.src w.c)))
def execVld (g : CellId) (s : State) : Host.Outcome State Fault Refusal := s.live (effVld g)

/-- A stored element's value for Tint watch, as an FP32 code (20 R395). -/
def storedValue (f : Fmt) (code : Nat) : Nat :=
  if f.isInt then toFp32 (Num.ofInt (f.intOf code) 0)
  else if f = .long then toFp32 ((Elem.ofNat code).value (if longKind code then 0 else -48))
  else toFp32 (f.value code)

/-- Bytes of one element for its digest: a 4-bit element counts as one byte (20 R398). -/
def elemBytes (f : Fmt) (code : Nat) : List Byte := leBytes (max 1 (f.bits / 8)) code

/-- VST: rows to cell memory, with a report of every element when TW is set (07 R145, R147). -/
def effVst (g : CellId) (s : State) : State :=
  s.onVec g 2 2 fun c j w =>
    let bs := c.vec.bytes w.s1 (shapeBytes w.src w.m w.c)
    let n := rowBytes w.src w.c
    let c := (List.range w.m).foldl (fun c r => c.write (w.cellOff + r * w.cellStride) (cleanRow w.src w.c ((bs.drop (r * n)).take n))) c
    let codes := c.vec.codes w.s1 w.src w.m w.c
    let s := s.setCell g c
    let s := if w.tw then
        s.report j.ring j.seq fun t => codes.foldl (fun t x => (t.bytes (elemBytes w.src x)).value (storedValue w.src x)) t
      else s
    s.vecDone g j w.e
def execVst (g : CellId) (s : State) : Host.Outcome State Fault Refusal := s.live (effVst g)

/-- POP: the head tile, a stall while a drain will still come, or the end of the item (05 R102, R103). -/
def effPop (g : CellId) (s : State) : State :=
  s.onVec g 3 3 fun c j w =>
    match c.dq with
    | [] => if c.matrix.queue.any fun q => q.dec.dst = 2 && q.phase ≠ .done then s else s.endItem g stState
    | t :: rest =>
      if t.fmt ≠ w.f1 then s.endItem g stFormat
      else (s.setCell g { c with dq := rest }).vecPut g j w t.bytes
def execPop (g : CellId) (s : State) : Host.Outcome State Fault Refusal := s.live (effPop g)

/-! ### Conversions -/

/-- Elements written by a narrowing rounding, with their report (07 R135, R147). -/
def State.vecNarrow (s : State) (g : Nat) (c : Cell) (j : Job) (w : VWord) (f : Nat → Written) : State :=
  let out := (c.vec.codes w.s1 w.src w.m w.c).map f
  let s := if w.tw then s.report j.ring j.seq fun t => out.foldl Tint.marks t else s
  s.vecPut g j w (packRows w.dst w.m w.c (out.map Written.code))

/-- CVT (02 R41). -/
def effCvt (g : CellId) (s : State) : State :=
  s.onVec g 4 4 fun c j w => s.vecNarrow g c j w (convert w.src w.dst (s.modeOf j))
def execCvt (g : CellId) (s : State) : Host.Outcome State Fault Refusal := s.live (effCvt g)

/-- QUANT (02 R42, R43). -/
def effQuant (g : CellId) (s : State) : State :=
  s.onVec g 5 5 fun c j w =>
    s.vecNarrow g c j w fun x => quantise w.dst (s.modeOf j) (fp32 w.rs2) (signedOf 16 w.rs3) (w.src.value x)
def execQuant (g : CellId) (s : State) : Host.Outcome State Fault Refusal := s.live (effQuant g)

/-- DEQUANT (02 R47). -/
def effDequant (g : CellId) (s : State) : State :=
  s.onVec g 6 6 fun c j w => s.vecNarrow g c j w (dequantise w.src w.dst (s.modeOf j) (fp32 w.rs2) (signedOf 16 w.rs3))
def execDequant (g : CellId) (s : State) : Host.Outcome State Fault Refusal := s.live (effDequant g)

/-! ### Slicing -/

/-- Elements of vector i that SLICE aligns together: a row, or a column (07 R144). -/
def VWord.vector (w : VWord) (xs : List Num) (i : Nat) : List Num :=
  if w.rsc = 0 then (xs.drop (i * w.c)).take w.c else (List.range w.m).map fun r => xs.getD (r * w.c + i) .nan

/-- SLICE reads its exponents at O (07 R136). -/
def VWord.given (w : VWord) : Bool := bitOf w.rs3 4

/-- Supplied exponent of vector i as read (04 R78). -/
def Cell.givenExp (c : Cell) (w : VWord) (i : Nat) : Nat := c.readNat (w.cellOff + 2 * i) 2

/-- A supplied exponent passes the checks of 04 R78; a vector with a special value is not checked. -/
def givenOk (code : Nat) (xs : List Num) : Bool :=
  code = 0x7FFF || !xs.all Num.isFinite ||
    ((-1073 : Int) ≤ signedOf 16 code && signedOf 16 code ≤ 1024 && xs.all fun x => belowPow x (signedOf 16 code))

/-- The exponent of vector i: none where every digit is 0 and the code is 0x7FFF (04 R79). -/
def Cell.sliceExp (c : Cell) (w : VWord) (xs : List Num) (i : Nat) : Option Int :=
  let v := w.vector xs i
  if !v.all Num.isFinite then none
  else if w.given then (if c.givenExp w i = 0x7FFF then none else some (signedOf 16 (c.givenExp w i)))
  else alignExp v

/-- The bytes of a row of the sign plane: one bit per element, 4 × L bytes (04 R76, 07 R144). -/
def signRow (w : VWord) (row : List (List Nat × Bool)) : List Byte :=
  leBytes (4 * w.lines) (row.foldr (fun x n => 2 * n + x.2.toNat) 0)

/-- The parts written by SLICE, as offset and bytes (07 R144). DESIGN CHOICE (log 66): bytes that pad the exponent vector and the lines of
the digit planes are 0. -/
def Cell.sliceParts (c : Cell) (w : VWord) (xs : List Num) : List (Nat × List Byte) :=
  let es := (List.range w.vecs).map fun i => c.sliceExp w xs i
  let rows := (List.range w.m).map fun r => ((xs.drop (r * w.c)).take w.c).mapIdx fun k x =>
    match es.getD (if w.rsc = 0 then r else k) none with
    | some e => sliceDigits x e w.planes
    | none => (List.replicate w.planes 0, false)
  let pad := fun (n : Nat) (bs : List Byte) => bs ++ List.replicate (n - bs.length) (0 : Byte)
  let exps := pad w.expBytes (es.flatMap fun e => leBytes 2 (match e with | some e => (e % 65536).toNat | none => 0x7FFF))
  [(w.cellOff, exps), (w.signOff, rows.flatMap (signRow w))] ++
  (List.range w.planes).map fun p =>
    (w.planeOff (p + 1), rows.flatMap fun row => pad (32 * w.lines) (row.map fun x => BitVec.ofNat 8 (x.1.getD p 0)))

/-- SLICE (04 R77-R79, 07 R144). -/
def effSlice (g : CellId) (s : State) : State :=
  s.onVec g 7 7 fun c j w =>
    let xs := w.xs c.vec
    if w.given && !(List.range w.vecs).all fun i => givenOk (c.givenExp w i) (w.vector xs i) then s.endItem g stFormat
    else
      let c' := (c.sliceParts w xs).foldl (fun c p => c.write p.1 p.2) c
      let s := s.setCell g c'
      let s := if xs.all Num.isFinite then s else s.setSliceNf (g / 64)
      s.vecDone g j w.e
def execSlice (g : CellId) (s : State) : Host.Outcome State Fault Refusal := s.live (effSlice g)

/-- EXPV: the alignment exponent code of each magnitude (04 R75, 07 R145). -/
def effExpv (g : CellId) (s : State) : State :=
  s.onVec g 8 8 fun c j w =>
    let codes := (w.xs c.vec).map fun x => match alignExp [x] with | some e => (e % 65536).toNat | none => 0x7FFF
    s.vecPut g j w (codes.flatMap (leBytes 2))
def execExpv (g : CellId) (s : State) : Host.Outcome State Fault Refusal := s.live (effExpv g)

/-! ### Element arithmetic (07 R133, R134) -/

/-- Each element of S1 and its B gives one result, rounded once in the class format. -/
def State.vecBinary (s : State) (g : Nat) (c : Cell) (j : Job) (w : VWord) (f : Num → Num → Num) : State :=
  s.vecPut g j w (packRows w.cls w.m w.c ((w.pairs c.vec).map fun p => (w.cls.round .ieee (f p.1 p.2)).code))

def State.vecUnary (s : State) (g : Nat) (c : Cell) (j : Job) (w : VWord) (f : Num → Num) : State :=
  s.vecPut g j w (packRows w.cls w.m w.c ((w.xs c.vec).map fun x => (w.cls.round .ieee (f x)).code))

def effAdd (g : CellId) (s : State) : State := s.onVec g 0x10 0x10 fun c j w => s.vecBinary g c j w Num.add
def execAdd (g : CellId) (s : State) : Host.Outcome State Fault Refusal := s.live (effAdd g)

def effSub (g : CellId) (s : State) : State := s.onVec g 0x11 0x11 fun c j w => s.vecBinary g c j w fun x b => x.add b.neg
def execSub (g : CellId) (s : State) : Host.Outcome State Fault Refusal := s.live (effSub g)

def effMul (g : CellId) (s : State) : State := s.onVec g 0x12 0x12 fun c j w => s.vecBinary g c j w Num.mul
def execMul (g : CellId) (s : State) : Host.Outcome State Fault Refusal := s.live (effMul g)

def effDiv (g : CellId) (s : State) : State := s.onVec g 0x13 0x13 fun c j w => s.vecBinary g c j w Num.div
def execDiv (g : CellId) (s : State) : Host.Outcome State Fault Refusal := s.live (effDiv g)

/-- The addend of FMA (07 R136). -/
def VWord.addend (w : VWord) : Num := if w.wide then fp64 w.rs3 else fp32 w.rs3

def effFma (g : CellId) (s : State) : State :=
  s.onVec g 0x14 0x14 fun c j w => s.vecBinary g c j w fun x b => (x.mul b).add w.addend
def execFma (g : CellId) (s : State) : Host.Outcome State Fault Refusal := s.live (effFma g)

def effMax (g : CellId) (s : State) : State := s.onVec g 0x15 0x15 fun c j w => s.vecBinary g c j w Num.maxOf
def execMax (g : CellId) (s : State) : Host.Outcome State Fault Refusal := s.live (effMax g)

def effMin (g : CellId) (s : State) : State := s.onVec g 0x16 0x16 fun c j w => s.vecBinary g c j w Num.minOf
def execMin (g : CellId) (s : State) : Host.Outcome State Fault Refusal := s.live (effMin g)

/-- A smoothing step: every factor is checked before an element is written (02 R50, 07 R136). -/
def State.vecSmooth (s : State) (g : Nat) (c : Cell) (j : Job) (w : VWord) (f : Num → Num → Num) : State :=
  if (w.factors c.vec).all Num.isPosFinite then s.vecBinary g c j w f else s.endItem g stFormat

def effSdiv (g : CellId) (s : State) : State := s.onVec g 0x17 0x17 fun c j w => s.vecSmooth g c j w Num.div
def execSdiv (g : CellId) (s : State) : Host.Outcome State Fault Refusal := s.live (effSdiv g)

def effSmul (g : CellId) (s : State) : State := s.onVec g 0x18 0x18 fun c j w => s.vecSmooth g c j w Num.mul
def execSmul (g : CellId) (s : State) : Host.Outcome State Fault Refusal := s.live (effSmul g)

def effSqrt (g : CellId) (s : State) : State := s.onVec g 0x19 0x19 fun c j w => s.vecUnary g c j w Num.sqrt
def execSqrt (g : CellId) (s : State) : Host.Outcome State Fault Refusal := s.live (effSqrt g)

def effAbs (g : CellId) (s : State) : State := s.onVec g 0x1A 0x1A fun c j w => s.vecUnary g c j w Num.abs
def execAbs (g : CellId) (s : State) : Host.Outcome State Fault Refusal := s.live (effAbs g)

def effNeg (g : CellId) (s : State) : State := s.onVec g 0x1B 0x1B fun c j w => s.vecUnary g c j w Num.neg
def execNeg (g : CellId) (s : State) : Host.Outcome State Fault Refusal := s.live (effNeg g)

/-- FUNC: the function whose code is OP − 0x40 (07 R137). -/
def effFunc (g : CellId) (s : State) : State :=
  s.onVec g 0x40 0x5F fun c j w =>
    s.vecPut g j w (packRows .fp32 w.m w.c ((w.xs c.vec).map fun x => vectorFunction (w.op - 0x40) (fp32 w.rs2) x))
def execFunc (g : CellId) (s : State) : Host.Outcome State Fault Refusal := s.live (effFunc g)

/-! ### Reductions (07 R138-R143) -/

/-- The elements of each scope: rows, columns, or the whole (07 R138). -/
def VWord.scopes {α : Type} (w : VWord) (xs : List α) : List (List α) :=
  match w.rsc with
  | 0 => (List.range w.m).map fun r => (xs.drop (r * w.c)).take w.c
  | 1 => (List.range w.c).map fun k => (List.range w.m).filterMap fun r => xs[r * w.c + k]?
  | _ => [xs]

/-- An accumulator as left by an instruction; beyond its width its value is free (07 R130; log 4). -/
def accBits (w : Nat) (free : BitVec w) (v : Int) : BitVec w :=
  if -(2 ^ (w - 1) : Int) ≤ v && v < 2 ^ (w - 1) then BitVec.ofInt w v else free

/-- An exact sum over the scopes: results, and the accumulator and the counter as the last scope leaves them. -/
def sumScopes (q : Nat) (start : Sum) (n0 : Nat) (clear : Bool) (scopes : List (List Num)) : List Num × Sum × Nat :=
  scopes.foldl (fun t xs =>
    let a := xs.foldl (Sum.term q) (if clear then Sum.clear else t.2.1)
    let n := satTerms ((if clear then 0 else t.2.2) + xs.length)
    (t.1 ++ [a.value q n], a, n)) ([], start, n0)

/-- RSUM and RDOT over the terms of the instruction (07 R138, R139). DESIGN CHOICE (log 66): where the exact sum has left the accumulator's
width, whose content is free from then on, the result that is written is the exact sum's, rounded (07 R130). -/
def State.vecSum (s : State) (g : Nat) (c : Cell) (j : Job) (w : VWord) (narrow : Bool) (terms : List Num) : State :=
  let v := c.vec
  let q := if narrow then narrowUnit else wideUnit
  let now : Sum := if narrow then { v := v.narrow.toInt, f := v.nflags } else { v := v.wide.toInt, f := v.wflags }
  let keep := 2 ≤ w.rsc && w.acc
  let (rs, a, n) := sumScopes q (if keep then now else Sum.clear) (if keep then v.terms.toNat else 0) (w.rsc < 2) (w.scopes terms)
  let (s, v) := if narrow then
      (let (s, x) := s.draw 320; (s, { v with narrow := accBits 320 x a.v, nflags := a.f, terms := BitVec.ofNat 32 n }))
    else (let (s, x) := s.draw 4352; (s, { v with wide := accBits 4352 x a.v, wflags := a.f, terms := BitVec.ofNat 32 n }))
  let s := s.setCell g { c with vec := v }
  if w.rsc = 3 then s.vecDone g j w.e
  else s.vecPut g j w (packRow w.dst (rs.map fun r => (w.dst.round .ieee r).code))

/-- RSUM: the narrow accumulator for the FP32 class, the wide one for FP64 (07 R138). -/
def effRsum (g : CellId) (s : State) : State := s.onVec g 0x20 0x20 fun c j w => s.vecSum g c j w (!w.wide) (w.xs c.vec)
def execRsum (g : CellId) (s : State) : Host.Outcome State Fault Refusal := s.live (effRsum g)

/-- RDOT: exact products in the wide accumulator; 0 × ∞ counts as NaN (07 R138, R139). -/
def effRdot (g : CellId) (s : State) : State :=
  s.onVec g 0x24 0x24 fun c j w => s.vecSum g c j w false ((w.pairs c.vec).map fun p => p.1.mul p.2)
def execRdot (g : CellId) (s : State) : Host.Outcome State Fault Refusal := s.live (effRdot g)

/-- The extremum of a scope (07 R140). -/
def extremum (f : Num → Num → Num) : List Num → Num
  | [] => .nan
  | x :: xs => xs.foldl f x

/-- RMAX, RMIN and RAMAX write one exact result per scope; the accumulators keep their values (07 R140). -/
def State.vecExtreme (s : State) (g : Nat) (c : Cell) (j : Job) (w : VWord) (f : Num → Num → Num) (h : Num → Num) : State :=
  if w.rsc = 3 then s.vecDone g j w.e
  else
    let rs := (w.scopes ((w.xs c.vec).map h)).map (extremum f)
    s.vecPut g j w (packRow w.cls (rs.map fun r => (w.cls.round .ieee r).code))

def effRmax (g : CellId) (s : State) : State := s.onVec g 0x21 0x21 fun c j w => s.vecExtreme g c j w Num.maxOf id
def execRmax (g : CellId) (s : State) : Host.Outcome State Fault Refusal := s.live (effRmax g)

def effRmin (g : CellId) (s : State) : State := s.onVec g 0x22 0x22 fun c j w => s.vecExtreme g c j w Num.minOf id
def execRmin (g : CellId) (s : State) : Host.Outcome State Fault Refusal := s.live (effRmin g)

def effRamax (g : CellId) (s : State) : State := s.onVec g 0x23 0x23 fun c j w => s.vecExtreme g c j w Num.maxOf Num.abs
def execRamax (g : CellId) (s : State) : Host.Outcome State Fault Refusal := s.live (effRamax g)

/-- Mean and reciprocal standard deviation from exact sums (07 R142). DESIGN CHOICE (log 66): a zero mean is +0, also where every term is −0, for
R142 does not name the NZ flag of R139. There is no deviation where v + ε lies below 0, which the manual excludes for sums of one run of
terms. -/
def statPair (x y : Sum) (n : Nat) (eps : Num) : Num × Option Num :=
  let special := fun (f : AccFlags) => f.nan || f.pinf || f.ninf
  if special x.f || special y.f then (.nan, some .nan)
  else
    let mean := Num.fin (x.v < 0) x.v.natAbs n (-(narrowUnit : Int))
    let top : Int := n * y.v * 2 ^ (2 * narrowUnit) - x.v * x.v * 2 ^ wideUnit
    let v := (Num.fin (top < 0) top.natAbs (n * n) (-((2 * narrowUnit + wideUnit : Nat) : Int))).add eps
    match v with
    | .fin neg m d e =>
      (mean, if m = 0 then some (.inf false) else if neg then none else some (Num.fin false d m (-e)).sqrt)
    | _ => (mean, none)

/-- One scope of RSTAT: both sums and the count. -/
def statTerms (t : Sum × Sum × Nat) (xs : List Num) : Sum × Sum × Nat :=
  (xs.foldl (Sum.term narrowUnit) t.1, xs.foldl (fun a x => Sum.term wideUnit a (x.mul x)) t.2.1, satTerms (t.2.2 + xs.length))

/-- RSTAT (07 R142); a result that the manual does not state is a free value (log 4). -/
def effRstat (g : CellId) (s : State) : State :=
  s.onVec g 0x25 0x25 fun c j w =>
    let v := c.vec
    let keep := 2 ≤ w.rsc && w.acc
    let zero : Sum × Sum × Nat := (Sum.clear, Sum.clear, 0)
    let start : Sum × Sum × Nat :=
      if keep then ({ v := v.narrow.toInt, f := v.nflags }, { v := v.wide.toInt, f := v.wflags }, v.terms.toNat) else zero
    let sums := (w.scopes (w.xs v)).map (statTerms (if w.rsc = 0 then zero else start))
    let last := sums.getLastD start
    let (s, x) := s.draw 320
    let (s, y) := s.draw 4352
    let (s, z) := s.draw 32
    let v := { v with narrow := accBits 320 x last.1.v, nflags := last.1.f, wide := accBits 4352 y last.2.1.v, wflags := last.2.1.f,
                      terms := BitVec.ofNat 32 last.2.2 }
    let s := s.setCell g { c with vec := v }
    let out := sums.flatMap fun t =>
      let p := statPair t.1 t.2.1 t.2.2 (fp32 w.rs2)
      [toFp32 p.1, (p.2.map toFp32).getD z.toNat]
    if w.rsc = 3 then s.vecDone g j w.e else s.vecPut g j w (packRow .fp32 out)
def execRstat (g : CellId) (s : State) : Host.Outcome State Fault Refusal := s.live (effRstat g)

/-- Special flags as a byte of the exact-state record (07 R143). -/
def AccFlags.byte (f : AccFlags) : Nat := f.nan.toNat + 2 * f.pinf.toNat + 4 * f.ninf.toNat + 8 * f.nz.toNat
def AccFlags.orByte (f : AccFlags) (b : Nat) : AccFlags :=
  { nan := f.nan || bitOf b 0, pinf := f.pinf || bitOf b 1, ninf := f.ninf || bitOf b 2, nz := f.nz || bitOf b 3 }

/-- The exact-state record (07 R143). -/
def VectorEngine.record (v : VectorEngine) : List Byte :=
  leBytes 40 v.narrow.toNat ++ leBytes 1 v.nflags.byte ++ leBytes 7 0 ++ leBytes 544 v.wide.toNat ++ leBytes 1 v.wflags.byte ++
  leBytes 3 0 ++ leBytes 4 v.terms.toNat ++ leBytes 40 0

/-- RXS (07 R143). -/
def effRxs (g : CellId) (s : State) : State := s.onVec g 0x26 0x26 fun c j w => s.vecPut g j w c.vec.record
def execRxs (g : CellId) (s : State) : Host.Outcome State Fault Refusal := s.live (effRxs g)

/-- RXA: sums add exactly, flags OR, counts add (07 R143). -/
def effRxa (g : CellId) (s : State) : State :=
  s.onVec g 0x27 0x27 fun c j w =>
    let v := c.vec
    let r := v.bytes w.s1 640
    let (s, x) := s.draw 320
    let (s, y) := s.draw 4352
    let n : BitVec 320 := BitVec.ofNat 320 (field r 0 40)
    let d : BitVec 4352 := BitVec.ofNat 4352 (field r 48 544)
    let v := { v with narrow := accBits 320 x (v.narrow.toInt + n.toInt), nflags := v.nflags.orByte (byteAt r 40),
                      wide := accBits 4352 y (v.wide.toInt + d.toInt), wflags := v.wflags.orByte (byteAt r 592),
                      terms := BitVec.ofNat 32 (satTerms (v.terms.toNat + field r 596 4)) }
    (s.setCell g { c with vec := v }).vecDone g j w.e
def execRxa (g : CellId) (s : State) : Host.Outcome State Fault Refusal := s.live (effRxa g)

end Sys2Proof.Machine
end

