-- ==== Sys2Proof/Machine/Stream.lean ====
section
/-! DEFINITION. The stream engine: rows and gathered words of a descriptor (05 R100, R101, 10 R199, 11 R227) and copy pieces
(13 R271, R435). -/

namespace Sys2Proof.Machine

/-- The engine of cell g as a requester for its item or piece. -/
def Job.requester (j : Job) (g : Nat) : Requester := cellReq g (some (j.ring, j.seq)) j.index

/-- A fabric request of the engine is outstanding (14 R301). -/
def FabWho.ofStream (w : FabWho) (g : Nat) (j : Job) : Bool :=
  match w with
  | .stream h r q i _ => h == g && r == j.ring && q == j.seq && i == j.index
  | _ => false
def State.streamOwed (s : State) (g : Nat) (j : Job) : Bool := s.fab.reqs.any fun r => r.who.ofStream g j

/-- Outcome of moving one row. -/
inductive RowOut where
  | moved
  | sent
  | bad (st : Status)
  | mig (va cause : Nat)
  | stall
deriving DecidableEq, Repr

/-- Load pieces of a row, the first byte of which belongs at off: local ones into cell memory or the staging buffer by `put`, remote
ones as fabric reads. -/
def State.loadPieces (s : State) (g : Nat) (j : Job) (cid : Cid) (va off : Nat) (noAlloc : Bool) (put : Cell → Nat → List Byte → Cell)
    (out : RowOut) : List (Nat × Nat) → State × RowOut
  | [] => (s, out)
  | (p, n) :: ps =>
    match s.readPiece (j.requester g) cid p n .streamRead noAlloc with
    | (s, .bytes bs) =>
      State.loadPieces (s.setCell g (put (s.cell g) (off + (p - va)) bs)) g j cid va off noAlloc put out ps
    | (s, .remote a) =>
      (match s.fabReads (j.requester g) (fun o => .stream g j.ring j.seq j.index o) cid (off + (p - va)) a (packetPieces a n) with
       | (s, .sent) => State.loadPieces s g j cid va off noAlloc put .sent ps
       | (s, .bad st) => (s, .bad st)
       | (s, .stall) => (s, .stall))
    | (s, .bad st) => (s, .bad st)
    | (s, .mig v c) => (s, .mig v c)
    | (s, .stall) => (s, .stall)

/-- Store pieces of a row. -/
def State.storePieces (s : State) (g : Nat) (j : Job) (cid : Cid) (va : Nat) (bs : List Byte) (noAlloc : Bool)
    (out : RowOut) : List (Nat × Nat) → State × RowOut
  | [] => (s, out)
  | (p, n) :: ps =>
    let b := (bs.drop (p - va)).take n
    match s.writePiece (j.requester g) cid p b .streamWrite noAlloc with
    | (s, .done) => State.storePieces s g j cid va bs noAlloc out ps
    | (s, .remote a) =>
      (match s.fabWrites (j.requester g) (.stream g j.ring j.seq j.index 0) cid a b (packetPieces a n) with
       | (s, .sent) => State.storePieces s g j cid va bs noAlloc .sent ps
       | (s, .bad st) => (s, .bad st)
       | (s, .stall) => (s, .stall))
    | (s, .bad st) => (s, .bad st)
    | (s, .mig v c) => (s, .mig v c)
    | (s, .stall) => (s, .stall)

/-- A fine-path access to HBM is counted (20 R387). -/
def State.countFine (s : State) (w : Requester) (cid : Cid) (va : Nat) (k : AccKind) : State :=
  match (s.translate w cid va 32 k).2 with
  | .at a _ => match placeOf a with
    | .hbm _ => s.count (s.targetDie a) 0x0B (some cid) 1
    | _ => s
  | _ => s

/-- Row i of a descriptor: virtual address, offset in cell memory, bytes (05 R100). DESIGN CHOICE (log 66): the address wraps modulo 2^64. -/
def Cell.rowAt (c : Cell) (d : SDesc) (i : Nat) : Nat × Nat × Nat :=
  if d.gather then ((d.maddr + 32 * c.readNat (d.coff + 4 * i) 4) % 2 ^ 64, d.data + 32 * i, 32)
  else (((d.maddr + i * d.mstride) % (2 ^ 64 : Int)).toNat, d.coff + i * d.cstride, d.rowb)

/-- What the first piece of a row that cannot be stored leaves: the record of uncorrectable data (18 R363). -/
def State.badPiece (s : State) (g : Nat) (j : Job) (cid : Cid) (va : Nat) (bs : List Byte) (noAlloc : Bool) (ps : List (Nat × Nat)) : State :=
  (ps.findSome? fun p =>
    match s.writePiece (j.requester g) cid p.1 ((bs.drop (p.1 - va)).take p.2) .streamWrite noAlloc with
    | (t, .bad _) => some t
    | _ => none).getD s

/-- One row moves, or the state before it stays but for what the failure wrote (05 R101: a fault stops at a row boundary). -/
def State.moveRow (s : State) (g : Nat) (j : Job) (d : SDesc) (i : Nat) : State × RowOut :=
  let c := s.cell g
  let (va, off, n) := c.rowAt d i
  let kind := if d.store then AccKind.streamWrite else .streamRead
  let s := if d.gather then s.countFine (j.requester g) j.cid va kind else s
  let noAlloc := d.gather || d.noAlloc
  let r := if d.store then s.storePieces g j j.cid va (c.read off n) noAlloc .moved (granulePieces va n)
    else s.loadPieces g j j.cid va off noAlloc (fun c o bs => c.write o bs) .moved (granulePieces va n)
  match r with
  | (t, .moved) => (t, .moved)
  | (t, .sent) => (t, .sent)
  | (t, .bad st) =>
    (if d.store then s.badPiece g j j.cid va (c.read off n) noAlloc (granulePieces va n) else t.setCell g { t.cell g with mem := c.mem }, .bad st)
  | (t, .mig v k) => (if d.store then s.waitsStore t else s.waits t, .mig v k)
  | (t, .stall) => (if d.store then s.waitsStore t else s.waits t, .stall)

/-- The engine stalls on a granule, with its fault record pending (11 R227). -/
def State.stallStream (s : State) (g : Nat) (j : Job) (cid : Cid) (va kind cause : Nat) : State :=
  let c := s.cell g
  (s.setCell g { c with str := { c.str with stall := some (vaGranule va) } }).pendFault (j.requester g) cid va kind cause 0

/-- The first descriptor that is not done changes. -/
def State.onDesc (s : State) (g : Nat) (f : StreamDesc → StreamDesc) : State :=
  let c := s.cell g
  let k := (c.str.queue.findIdx? fun q => !q.done).getD 0
  s.setCell g { c with str := { c.str with queue := c.str.queue.modify k f } }

def State.setSent (s : State) (g : Nat) (b : Bool) : State :=
  let c := s.cell g
  s.setCell g { c with str := { c.str with sent := b } }

/-- Bytes moved are counted (20 R387, R391). -/
def State.countStream (s : State) (g : Nat) (j : Job) (n : Nat) : State :=
  (s.count (g / 64) 0x06 (some j.cid) n).tally (some (j.ring, j.seq)) 4 n

/-- Rows i, i + 1, … of a descriptor, n of them, as far as they move now. -/
def State.moveRows (s : State) (g : Nat) (j : Job) (d : SDesc) : Nat → Nat → State
  | 0, i => s.onDesc g fun q => { q with moved := i, done := true }
  | n + 1, i =>
    match s.moveRow g j d i with
    | (s, .moved) => State.moveRows (s.countStream g j (if d.gather then 32 else d.rowb)) g j d n (i + 1)
    | (s, .sent) =>
      ((s.countStream g j (if d.gather then 32 else d.rowb)).onDesc g fun q => { q with moved := i + 1 }).setSent g true
    | (s, .bad st) => s.endItem g st
    | (s, .mig v k) =>
      (s.onDesc g fun q => { q with moved := i }).stallStream g j j.cid v (if d.store then AccKind.streamWrite.code else AccKind.streamRead.code) k
    | (s, .stall) => s.onDesc g fun q => { q with moved := i }

/-- A work item's descriptor goes on: remote rows one at a time, each once its responses have come (05 R100, 14 R301). -/
def State.streamItem (s : State) (g : Nat) (c : Cell) (j : Job) : State :=
  match c.str.queue.find? fun q => !q.done with
  | none => s
  | some q =>
    if c.str.stall.isSome || s.streamOwed g j then s
    else
      let d := SDesc.decode q.desc
      (s.setSent g false).moveRows g j d (d.rows - q.moved) q.moved

/-! ### Copy pieces (13 R271, R435) -/

/-- Copy body (13 R270). -/
def Cmd.src (c : Cmd) : Nat := field c.slot 16 8
def Cmd.dst (c : Cmd) : Nat := field c.slot 24 8
def Cmd.len (c : Cmd) : Nat := field c.slot 32 8 % 2 ^ 40
def Cmd.noLake (c : Cmd) : Bool := bitOf (field c.slot 32 8) 41
def Cmd.mcid (c : Cmd) : Cid := BitVec.ofNat 16 (field c.slot 38 2)

/-- Bytes of piece i (13 R271). -/
def Cmd.pieceLen (c : Cmd) (i : Nat) : Nat := min 65536 (c.len - 65536 * i)

/-- The check of one end of a migration piece (13 R271, 11 R233). -/
def State.migCheck (s : State) (cid : Cid) (write : Bool) (a n : Nat) : Status :=
  if !s.spanMapped a n then stRange else if !s.ownOk cid write a n then stAccess else stOk

/-- The share of migration in force; with none a migration piece waits (10 R207). -/
def State.migrateShare (s : State) : Nat := bitsOf (s.reg (umberBar 0 + 0xA010)).toNat 21 13

/-- A migration piece: untranslated, under MCID, broken code words copied as such (13 R271, 18 R363). -/
def State.migPiece (s : State) (g : Nat) (c : Cmd) (i : Nat) : State :=
  let n := c.pieceLen i
  let src := c.src + 65536 * i
  let dst := c.dst + 65536 * i
  let cid := c.mcid
  let r := s.migCheck cid false src n
  let w := s.migCheck cid true dst n
  let me := cellReq g (some (c.ring, c.seq)) i
  if r ≠ stOk then s.endItem g r
  else if w ≠ stOk then s.endItem g w
  else if s.migrateShare = 0 then s
  else if !isMemory src || !isMemory dst then
    match s.readLocal me cid src n c.noLake with
    | (t, .bytes bs) =>
      (match t.writeLocal me cid dst bs c.noLake with
       | (t, .done) => t.endItem g stOk
       | (t, .bad st) => t.endItem g st
       | _ => s)
    | (t, .bad st) => t.endItem g st
    | (t, _) => s.waits t
  else match s.ways (g / 64) src n, s.ways (g / 64) dst n with
    | .cut, _ | _, .cut => s.endItem g stLink
    | .clear, .clear =>
      if !s.quiet src n false none || !s.quiet dst n true none then s
      else
      let who := some (c.ring, c.seq)
      let bs := s.readBytes src n
      let broken := (s.badWords src n).map fun k => (k * 32 - src + dst) / 32
      let s := s.seeAccess cid who src n false c.noLake
      let s := ((((s.seeAccess cid who dst n true c.noLake).clearBroken dst n).endReservations dst n).dropCopies dst n).writeBytes dst bs
      let s := { s with hbm := { s.hbm with broken := s.hbm.broken ++ broken.filter fun k => !s.hbm.broken.contains k } }
      let s := (s.count (g / 64) 0x06 (some cid) n).tally who 4 n
      s.endItem g stOk
    | _, _ => s

/-- A migratable fault, a stall or the end of a piece. -/
def State.pieceStop (s t : State) (g : Nat) (j : Job) (kind : Nat) : RowOut → State
  | .bad st => t.endItem g st
  | .mig v k => (s.waitsStore t).stallStream g j j.cid v kind k
  | _ => s.waitsStore t

/-- The reads of a piece: stage 0 of its descriptor; 1 while remote reads are outstanding (13 R435). -/
def State.pieceRead (s : State) (g : Nat) (j : Job) (c : Cmd) : State :=
  let src := c.src + 65536 * j.index
  let n := c.pieceLen j.index
  match s.loadPieces g j j.cid src 0 c.noLake (fun x o bs => { x with str := { x.str with staged := tabSetMany zeroByte x.str.staged o bs } })
      .moved (granulePieces src n) with
  | (t, .moved) | (t, .sent) => t.onDesc g fun q => { q with moved := 1 }
  | (t, o) => s.pieceStop t g j AccKind.streamRead.code o

/-- The writes of a piece, from the staging buffer: 2 while remote writes are outstanding. -/
def State.pieceWrite (s : State) (g : Nat) (j : Job) (c : Cmd) : State :=
  let dst := c.dst + 65536 * j.index
  let n := c.pieceLen j.index
  let bs := tabGetMany zeroByte (s.cell g).str.staged 0 n
  match s.storePieces g j j.cid dst bs c.noLake .moved (granulePieces dst n) with
  | (t, .moved) => (t.countStream g j n).endItem g stOk
  | (t, .sent) => (t.countStream g j n).onDesc g fun q => { q with moved := 2 }
  | (t, o) => s.pieceStop t g j AccKind.streamWrite.code o

/-- A copy piece goes on. -/
def State.streamPiece (s : State) (g : Nat) (x : Cell) (j : Job) : State :=
  match s.cmd j.ring j.seq, x.str.queue with
  | some c, q :: _ =>
    if c.mig then s.migPiece g c j.index
    else if x.str.stall.isSome || s.streamOwed g j then s
    else if q.moved = 0 then
      let s := s.pieceRead g j c
      match (s.cell g).str.queue with
      | q :: _ => if q.moved = 1 && !s.streamOwed g j then s.pieceWrite g j c else s
      | [] => s
    else if q.moved = 1 then s.pieceWrite g j c
    else s.endItem g stOk
  | _, _ => s

/-- STREAM_TRANSFER: the engine's current descriptor, or its copy piece, goes on (05 R100, 13 R271). -/
def effStreamTransfer (g : CellId) (s : State) : State :=
  s.onEngine g fun c j => if j.kind = .piece then s.streamPiece g c j else s.streamItem g c j
def execStreamTransfer (g : CellId) (s : State) : Host.Outcome State Fault Refusal := s.live (effStreamTransfer g)

end Sys2Proof.Machine
end

