-- ==== Sys2Proof/Machine/CoreMem.lean ====
section
/-! DEFINITION. Loads, stores, atomics, LR/SC and barriers of host cores and control cores (12 R236-R246, R256-R259), and the site that
Vane chooses (12 R259). -/

namespace Sys2Proof.Machine

/-! ### Vane -/

def vaneDflt (_ : Nat) : BitVec 3 := 0

/-- Key of the entry of a Vane table for a physical address (12 R259): table c for host core c, 96 + g for cell g. -/
def vaneKey (table pa : Nat) : Nat := 1024 * table + ((pa / 2 ^ 7) ^^^ (pa / 2 ^ 17)) % 1024

/-- A Vane counter moves, and stays from 0 to 7. -/
def vaneStep (c : BitVec 3) (d : Int) : BitVec 3 := BitVec.ofNat 3 (min (max (c.toNat + d) 0) 7).toNat

/-- The home performed an atomic on the line for another requester within the preceding 1,024 Madder cycles of 1.625 GHz. -/
def State.shared (s : State) (table line : Nat) : Bool :=
  s.coh.lastHome.any fun x => x.1 == line && x.2.1 != table && (s.time.toNat - x.2.2) * 1625 ≤ 1024000

/-- The home performs an atomic on a line for a requester: the latest of each is kept (12 R259). -/
def State.noteHome (s : State) (table line : Nat) : State :=
  s.onCoh fun x =>
    { x with lastHome := (x.lastHome.filter fun y => !(y.1 == line && y.2.1 == table)) ++ [(line, table, s.time.toNat)] }

/-- The Vane counter of a requester for a line, and the site that it chooses (12 R259). -/
def State.vaneOf (s : State) (table pa : Nat) : BitVec 3 := tabGet vaneDflt s.coh.vane (vaneKey table pa)
def State.nearSite (s : State) (table pa : Nat) : Bool := (s.vaneOf table pa).toNat ≤ 3
def State.vaneMove (s : State) (table pa : Nat) (d : Int) : State :=
  s.onCoh fun x => { x with vane := tabSet vaneDflt x.vane (vaneKey table pa) (vaneStep (s.vaneOf table pa) d) }

/-! ### Cached accesses -/

/-- The cache holds a line, in any state. -/
def State.holds (s : State) (h : Holder) (line : Nat) : Bool := (s.dirEntry line).owner == some h || (s.dirEntry line).sharers.contains h

/-- A line that the cache does not hold is fetched: from memory, where the Lake, the quota and the counters see it, or from the cache
that has it modified (10 R201, 12 R254). -/
def State.fillLine (s : State) (cid : Cid) (who : Option (Nat × Word)) (h : Holder) (noLake : Bool) (l : Nat) : State :=
  if s.holds h (l / 128) || (s.dirEntry (l / 128)).modified then s else ((s.memRead cid l 128 noLake who).1.countLines (holderDie h) (s.memDie l) l 128 cid false).poison (l / 128)

/-- The cache has every line of the span, to read or to modify. -/
def State.coreLines (s : State) (cid : Cid) (who : Option (Nat × Word)) (h : Holder) (noLake : Bool) (a n : Nat) (modifiable : Bool) : State :=
  (linesOf a n).foldl (fun s l => (s.fillLine cid who h noLake l).coreHas h l modifiable noLake) s

/-- A cache needs its home for an access to a line: it does not hold the line, or not so that it may modify it. -/
def State.needsHome (s : State) (h : Holder) (line : Nat) (write : Bool) : Bool :=
  if write then (s.dirEntry line).owner != some h else !s.holds h line

/-- No transaction, hold, quota or full table makes a cached access wait (10 R208, 12 R254, R256, R257). -/
def State.cacheOk (s : State) (cid : Cid) (h : Holder) (a n : Nat) (write : Bool) : Bool :=
  s.quiet a n write (some h) &&
  (linesOf a n).all fun l => !s.needsHome h (l / 128) write || ((s.holds h (l / 128) || s.quotaOk cid l 128) && !s.tableFull (l / 128))

/-- An access that its home cannot take now is answered RETRY, with a token for the line (12 R257). -/
def State.missRetry (s : State) (h : Holder) (a n : Nat) (write : Bool) : State :=
  (linesOf a n).foldl (fun s l =>
    if s.needsHome h (l / 128) write && s.mustRetry (l / 128) then s.retry h (l / 128) (if write then .getM else .getS) else s) s

/-- Words of a span that a core's access finds uncorrectable: a line that its own cache holds is read there, and only a word that is broken in
that cache is uncorrectable (10 R211, 18 R363, R364). -/
def State.servedBy (s : State) (h : Holder) (w : Nat) : Bool := s.holds h (w / 4) && tabFind s.hbm.ueTyp w ≠ some 0x09
def State.coreBad (s : State) (h : Holder) (ws : List Nat) : List Nat := ws.filter fun w => !s.servedBy h w

/-- The record of a core that consumes the first of such words (18 R363). -/
def State.coreUe (s : State) (cid : Cid) (who : Option (Nat × Word)) (h : Holder) (ws : List Nat) : State :=
  s.ueWord cid who (leastOr 0 (s.coreBad h ws))

/-- A scalar read or write of coherent memory by a core with a cache (12 R238, R254). -/
def State.cachedRead (s : State) (cid : Cid) (who : Option (Nat × Word)) (h : Holder) (noLake : Bool) (a n : Nat) : State × Nat :=
  (s.coreLines cid who h noLake a n false, s.readNat a n)
def State.cachedWrite (s : State) (cid : Cid) (who : Option (Nat × Word)) (h : Holder) (noLake : Bool) (a n v : Nat) : State :=
  (((s.coreLines cid who h noLake a n true).endReservations a n).clearBroken a n).writeNat a n v

/-! ### Atomics -/

/-- The home acts on a line: the near-atomic unit of its stack, or the L3 of its Umber die, once no other copy is left (10 R206, 12
R258). -/
def State.actHome (s : State) (cid : Cid) (who : Option (Nat × Word)) (table pa n : Nat) : State :=
  let s := s.noteHome table (pa / 128)
  let s := s.count (4 + s.home pa) 0x23 (some cid) 1
  match placeOf pa with
  | .hbm _ => ((s.dropCopies pa 1).quotaUse cid pa n).seeAtomic cid who pa n
  | _ => s.coreLines cid who (.l3 (Fin.ofNat 2 (s.home pa))) false pa n true

/-- The near site: the line in the requester's own cache, and what Vane learns of it (12 R258, R259). -/
def State.actNear (s : State) (cid : Cid) (who : Option (Nat × Word)) (table : Nat) (h : Holder) (noLake : Bool) (pa n : Nat) : State :=
  let e := s.dirEntry (pa / 128)
  let d : Int := if e.owner == some h then -1 else if e.owner.isSome || !(e.sharers.filter (· != h)).isEmpty then 2 else 0
  ((s.count (4 + s.home pa) 0x22 (some cid) 1).vaneMove table pa d).coreLines cid who h noLake pa n true

/-- An atomic on a line at the site that Vane chooses (12 R258, R259). -/
def State.atSite (s : State) (cid : Cid) (who : Option (Nat × Word)) (table : Nat) (h : Holder) (noLake : Bool) (pa n : Nat) : State :=
  if s.nearSite table pa then s.actNear cid who table h noLake pa n
  else ((s.dropToken h (pa / 128)).vaneMove table pa (if s.shared table (pa / 128) then 1 else -1)).actHome cid who table pa n

/-- Nothing makes the atomic wait at its site (10 R206, R208, 12 R256, R257). -/
def State.siteOk (s : State) (cid : Cid) (table : Nat) (h : Holder) (pa n : Nat) : Bool :=
  if s.nearSite table pa then s.cacheOk cid h pa n true else
    s.quiet pa n true (some h) && s.quotaOk cid pa n && !s.tableFull (pa / 128) && !s.heldOver pa n && !s.waitsOver pa n

/-- An atomic that its site cannot take now is answered RETRY (12 R257). -/
def State.siteRetry (s : State) (table : Nat) (h : Holder) (pa n : Nat) : State :=
  if s.nearSite table pa then s.missRetry h pa n true
  else if s.mustRetry (pa / 128) then s.retry h (pa / 128) .atomic
  else s

/-- The read-modify-write itself: the old value, and the bytes written (12 R258). -/
def State.rmw (s : State) (pa n : Nat) (fn : AtomicFn) (x y : Nat) : State × Nat :=
  let old := s.readNat pa n
  (((s.endReservations pa n).clearBroken pa n).writeNat pa n (atomicNew fn (8 * n) old x y), old)

/-! ### Host cores -/

/-- Where a host core's access goes. -/
inductive HostWay where
  | trap
  | lost
  | stall
  | remote
  | port (p : Nat)
  | device
  | memory
deriving DecidableEq, Repr

/-- A host access to n bytes at a local or global address: mapped, allowed, reachable (10 R187, 11 R233, 15 R323). -/
def State.hostWay (s : State) (c a n : Nat) (write : Bool) : HostWay :=
  if isRemote a then .remote
  else if !s.mapped a || !s.mapped (a + n - 1) || !s.ownOk 0 write a n then .trap
  else match s.ways (hostDie c) a n with
    | .cut => if write then .lost else .trap
    | .stall => .stall
    | .clear =>
      match placeOf a with
      | .mmio => match s.portOf a with
        | some p => .port p
        | none => .trap
      | .device => .device
      | _ => .memory

/-- A load or atomic of a host core leaves for another package, or takes its exception (10 R187, 14 R294, 15 R323). -/
def State.hostSend (s : State) (c : Nat) (a : Nat) (acc : IoAccess) : State :=
  match s.fabSend (hostDie c) (.host c true) 0 a acc with
  | (t, .sent) => t
  | (t, .bad st) => t.trap c (hostTrapOf st)
  | (_, .stall) => s

/-- A store to another package enters the store buffer, and leaves at once where it can; an unmapped rank is a precise access fault, and a
broken edge entry a machine check (10 R187, 12 R249, R250, 14 R294, 18 R363). -/
def State.hostPost (s : State) (c : Nat) (a : Nat) (bs : List Byte) : State :=
  match s.edgeOf (a / 2 ^ 44 - 1) with
  | .error st => (s.edgeBad 0 none (a / 2 ^ 44 - 1)).trap c (hostTrapOf st)
  | .ok _ =>
    let s := (s.setHost c { s.host c with buffer := (s.host c).buffer ++ [(a, bs)] }).hostRetires c
    s.drainBuffer c (s.host c).buffer

/-- Firmware has started a host core that issues (19 R377; log 20). -/
def State.wakeHost (s : State) (c : HostId) : State :=
  if c.val = 0 then s else { s with hostsOn := s.hostsOn ||| (1 <<< c.val : BitVec 96) }

/-- A host core issues: the cores are out of reset, its store buffer is drained as far as it goes, and it is free to act (12 R243, R249, 19
R377). -/
def State.onHost (s : State) (c : HostId) (f : State → State) : State :=
  if !s.released then s
  else
    let s := s.drainBuffer c (s.host c).buffer
    if !s.hostFree c then s else f ((s.passBarrier c).wakeHost c)

/-- A command of a host core waits behind the stores of its buffer: only stores to other packages pass them (12 R242, R249; log 69). -/
def State.behindStores (s : State) (c : HostId) (f : State → State) : State := if (s.host c).buffer.isEmpty then f s else s

/-- A command of a host core that writes waits, besides, for its loads and atomics to other packages, which may still fault (12 R249). -/
def State.commits (s : State) (c : HostId) (f : State → State) : State := s.behindStores c fun s => if s.hostOwed c then s else f s

/-- XLT_INV by a host core: queued, or the core stalls until a slot frees (11 R221). -/
def effXltInv (c : HostId) (u : UmberId) (data : List Byte) (s : State) : State :=
  if data.length ≠ 32 then s
  else s.onHost c fun s => s.commits c fun s =>
    if s.invFull then s.setHost c { s.host c with invStore := some (u.val, data) } else s.queueInv u data
def execXltInv (c : HostId) (u : UmberId) (data : List Byte) (s : State) : Host.Outcome State Fault Refusal :=
  s.live (effXltInv c u data)

/-- Host load (12 R238, 13 R288, 18 R363). -/
def State.hostLoad (s : State) (c : HostId) (a n : Nat) : State :=
  let a := s.localise a
  let out := fun (r : State × Got) =>
    match r with
    | (t, .bytes bs) => t.loaded c (leNat bs)
    | (t, .stall) => t
    | (t, _) => t.trap c .accessFault
  match s.hostWay c a n false with
  | .trap | .lost => s.trap c .accessFault
  | .stall => s
  | .remote => s.hostSend c a (.read n)
  | .port p => out (s.readOut p (hostMmio c a [] n))
  | .device => out (let (t, bs) := s.mmioRead a n; (t, .bytes bs))
  | .memory =>
    if !s.cacheOk 0 (.l2 c) a n false then s.missRetry (.l2 c) a n false
    else if !(s.coreBad (.l2 c) (s.badWords a n)).isEmpty then (s.coreUe 0 none (.l2 c) (s.badWords a n)).trap c .machineCheck
    else
      let (t, v) := s.cachedRead 0 none (.l2 c) false a n
      t.loaded c v

/-- Host store (12 R238, R244, 13 R287, R288, 18 R363). -/
def State.hostStore (s : State) (c : HostId) (a : Nat) (bs : List Byte) : State :=
  let a := s.localise a
  match s.hostWay c a bs.length true with
  | .trap => s.trap c .accessFault
  | .lost => (s.dropStore c a).hostRetires c
  | .stall => s
  | .remote => s.hostPost c a bs
  | .port p =>
    (match s.postOut p (hostMmio c a bs bs.length) with
     | (t, .bad _) => (t.dropStore c a).hostRetires c
     | (t, .done) => t.hostRetires c
     | (t, _) => t)
  | .device => (s.mmioWrite 0 a bs).hostRetires c
  | .memory =>
    if !s.cacheOk 0 (.l2 c) a bs.length true then s.missRetry (.l2 c) a bs.length true
    else if !(s.coreBad (.l2 c) (s.partWords a bs.length)).isEmpty then (s.coreUe 0 none (.l2 c) (s.partWords a bs.length)).trap c .machineCheck
    else (s.cachedWrite 0 none (.l2 c) false a bs.length (leNat bs)).hostRetires c

/-- Host atomic at the site that Vane chooses (12 R258, R259); a misaligned one, or one outside memory, takes an access fault (log 23). -/
def State.hostAtomic (s : State) (c : HostId) (fn : AtomicFn) (n a x y : Nat) : State :=
  let a := s.localise a
  if a % n ≠ 0 then s.trap c .accessFault
  else match s.hostWay c a n true with
    | .trap | .lost | .port _ | .device => s.trap c .accessFault
    | .stall => s
    | .remote => s.hostSend c a (.atomic fn (n = 8) (BitVec.ofNat 64 x) (BitVec.ofNat 64 y))
    | .memory =>
      if !s.siteOk 0 c (.l2 c) a n then s.siteRetry c (.l2 c) a n
      else if !(s.coreBad (.l2 c) (s.badWords a n)).isEmpty then (s.coreUe 0 none (.l2 c) (s.badWords a n)).trap c .machineCheck
      else
        let (t, old) := (s.atSite 0 none c (.l2 c) false a n).rmw a n fn x y
        t.loaded c (signedOf (8 * n) old % (2 ^ 64 : Int)).toNat

/-! ### Control cores -/

/-- Outcome of a control core's access. -/
inductive CellOut where
  | value (v : Nat)
  | bad (st : Status)
  | mig (va cause : Nat)
  | remote
  | stall
deriving DecidableEq, Repr

/-- A physical address for a control core's access to n bytes (11 R218, R220): in the window, or translated. -/
inductive CellAddr where
  | window (off : Nat)
  | at (pa : Nat) (noLake : Bool)
  | bad (st : Status)
  | mig (cause : Nat)
  | waits
deriving DecidableEq, Repr

def State.cellAddr (s : State) (g : Nat) (j : Job) (va n : Nat) (k : AccKind) : State × CellAddr :=
  if va % n ≠ 0 then (s, .bad stFormat)
  else if cellWindow ≤ va then (s, .window (va - cellWindow))
  else match s.translate (j.requester g) j.cid va n k with
    | (s, .at a nl) => (s, .at a nl)
    | (s, .bad st) => (s, .bad st)
    | (s, .mig c) => (s, .mig c)
    | (s, .waits) => (s, .waits)

/-- A request of a control core leaves for another package. -/
def State.cellSend (s : State) (g : Nat) (j : Job) (rd : Nat) (signed : Bool) (a : Nat) (acc : IoAccess) : State × CellOut :=
  match s.fabSend (g / 64) (.cell g j.ring j.seq j.index rd signed) j.cid a acc with
  | (t, .sent) => (t.tally (some (j.ring, j.seq)) 7 (sentBytes acc), .remote)
  | (t, .bad st) => (t, .bad st)
  | (_, .stall) => (s, .stall)

/-- Load of n bytes. -/
def State.cellLoad (s : State) (g : CellId) (j : Job) (rd : Nat) (signed : Bool) (va n : Nat) : State × CellOut :=
  match s.cellAddr g j va n .coreLoad with
  | (s, .window o) => (s, .value ((s.cell g).readNat o n))
  | (s, .bad st) => (s, .bad st)
  | (s, .mig c) => (s, .mig va c)
  | (s, .waits) => (s, .stall)
  | (s, .at a nl) =>
    if isRemote a then s.cellSend g j rd signed a (.read n)
    else if s.cacheable a then
      match s.ways (g / 64) a n with
      | .cut => (s, .bad stLink)
      | .stall => (s, .stall)
      | .clear =>
        let who := some (j.ring, j.seq)
        if !s.cacheOk j.cid (.dcache g) a n false then (s.missRetry (.dcache g) a n false, .stall)
        else if !(s.coreBad (.dcache g) (s.badWords a n)).isEmpty then (s.coreUe j.cid who (.dcache g) (s.badWords a n), .bad stMemUe)
        else
          let (s, v) := s.cachedRead j.cid who (.dcache g) nl a n
          (s, .value v)
    else match s.readLocal (j.requester g) j.cid a n nl with
      | (s, .bytes bs) => (s, .value (leNat bs))
      | (s, .bad st) => (s, .bad st)
      | (s, _) => (s, .stall)

/-- Store of bytes. -/
def State.cellStore (s : State) (g : CellId) (j : Job) (va : Nat) (bs : List Byte) : State × CellOut :=
  let n := bs.length
  match s.cellAddr g j va n .coreStore with
  | (s, .window o) => (s.setCell g ((s.cell g).write o bs), .value 0)
  | (s, .bad st) => (s, .bad st)
  | (s, .mig c) => (s, .mig va c)
  | (s, .waits) => (s, .stall)
  | (s, .at a nl) =>
    if isRemote a then
      match s.cellSend g j 0 false a (.write bs) with
      | (s, .remote) => (s, .value 0)
      | r => r
    else if s.cacheable a then
      match s.ways (g / 64) a n with
      | .cut => (s, .bad stLink)
      | .stall => (s, .stall)
      | .clear =>
        let who := some (j.ring, j.seq)
        if !s.cacheOk j.cid (.dcache g) a n true then (s.missRetry (.dcache g) a n true, .stall)
        else if !(s.coreBad (.dcache g) (s.partWords a n)).isEmpty then (s.coreUe j.cid who (.dcache g) (s.partWords a n), .bad stMemUe)
        else (s.cachedWrite j.cid who (.dcache g) nl a n (leNat bs), .value 0)
    else match s.writeLocal (j.requester g) j.cid a bs nl with
      | (s, .done) => (s, .value 0)
      | (s, .bad st) => (s, .bad st)
      | (s, _) => (s, .stall)

/-- An atomic of a cell at a translated address, for its core or a thread: the old value (12 R258, R259). DESIGN CHOICE (log 23): one at a
device register or in the third-device window, for which the manual gives no atomic, ends the item or block with E_RANGE. -/
def State.cellRmw (s : State) (g : CellId) (cid : Cid) (who : Option (Nat × Word)) (noLake : Bool) (a n : Nat) (fn : AtomicFn) (x y : Nat) :
    State × CellOut :=
  if !s.cacheable a then (s, .bad stRange)
  else match s.ways (g / 64) a n with
    | .cut => (s, .bad stLink)
    | .stall => (s, .stall)
    | .clear =>
      if !s.siteOk cid (96 + g) (.dcache g) a n then (s.siteRetry (96 + g) (.dcache g) a n, .stall)
      else if !(s.coreBad (.dcache g) (s.badWords a n)).isEmpty then (s.coreUe cid who (.dcache g) (s.badWords a n), .bad stMemUe)
      else
        let (s, old) := (s.atSite cid who (96 + g) (.dcache g) noLake a n).rmw a n fn x y
        (s, .value old)

/-- Atomic of the control core (05 R88); one on a device register ends the item with E_RANGE (log 23). DESIGN CHOICE (log 66): one in the
cell-memory window acts on cell memory in place. -/
def State.cellAtomic (s : State) (g : CellId) (j : Job) (rd va n : Nat) (fn : AtomicFn) (x : Nat) : State × CellOut :=
  match s.cellAddr g j va n .coreStore with
  | (s, .window o) =>
    let c := s.cell g
    let old := c.readNat o n
    (s.setCell g (c.write o (leBytes n (atomicNew fn (8 * n) old x 0))), .value old)
  | (s, .bad st) => (s, .bad st)
  | (s, .mig c) => (s, .mig va c)
  | (s, .waits) => (s, .stall)
  | (s, .at a nl) =>
    if isRemote a then s.cellSend g j rd true a (.atomic fn (n = 8) (BitVec.ofNat 64 x) 0)
    else s.cellRmw g j.cid (some (j.ring, j.seq)) nl a n fn x 0

/-- The core waits: for its granule, or for a response. -/
def State.coreWaits (s : State) (g : Nat) (w : CoreWait) : State :=
  let c := s.cell g
  s.setCell g { c with core := { c.core with wait := w } }

/-- A value of n bytes as a 64-bit register holds it (05 R88: RV64). -/
def extended (signed : Bool) (n v : Nat) : DWord := if signed then BitVec.ofInt 64 (signedOf (8 * n) v) else BitVec.ofNat 64 v

/-- The instruction, of size bytes, ends as its access did; a stall leaves the state as it was but for what it asked for (11 R220, R227, 14
R301). -/
def State.coreEnds (s : State) (g : Nat) (j : Job) (rd : Nat) (signed : Bool) (n : Nat) (k : AccKind) (r : State × CellOut)
    (size : Nat := 4) : State :=
  match r with
  | (t, .value v) => t.retire g rd (extended signed n v) size
  | (t, .bad st) => t.endItem g st
  | (t, .mig va c) => ((s.waits t).pendFault (j.requester g) j.cid va k.code c 0).coreWaits g (.faultOn (vaGranule va))
  | (t, .remote) => t.coreWaits g .remote
  | (t, .stall) => s.waits t

/-- Bytes of an instruction, compressed or not. -/
def sizeOf2 (compressed : Bool) : Nat := if compressed then 2 else 4

/-! ### The commands -/

/-- LOAD (12 R238); C.LW and C.LD of a control core take 2 bytes (05 R88). -/
def effLoad (op : LoadOp) (s : State) : State :=
  match op with
  | .host c w a => s.onHost c fun s => s.behindStores c fun s => s.hostLoad c a.toNat w.bytes
  | .cell g w signed rd rs1 imm z =>
    s.onCore g fun c j =>
      let va := (c.core.get rs1 + imm.signExtend 64).toNat
      s.coreEnds g j rd signed w.bytes .coreLoad (s.cellLoad g j rd signed va w.bytes) (sizeOf2 z)
def execLoad (op : LoadOp) (s : State) : Host.Outcome State Fault Refusal := s.live (effLoad op)

/-- A host store goes on: only one to another package is taken behind stores that wait (12 R242; log 69). -/
def State.hostStores (s : State) (c : HostId) (a : Nat) (bs : List Byte) : State :=
  if isRemote (s.localise a) then s.hostStore c a bs else s.commits c fun s => s.hostStore c a bs

/-- STORE (12 R238); C.SW and C.SD of a control core take 2 bytes (05 R88). -/
def effStore (op : StoreOp) (s : State) : State :=
  match op with
  | .host c w a v => s.onHost c fun s => s.hostStores c a.toNat (leBytes w.bytes v.toNat)
  | .cell g w rs1 rs2 imm z =>
    s.onCore g fun c j =>
      let va := (c.core.get rs1 + imm.signExtend 64).toNat
      let n := w.bytes
      s.coreEnds g j 0 false n .coreStore (s.cellStore g j va (leBytes n (c.core.get rs2).toNat)) (sizeOf2 z)
def execStore (op : StoreOp) (s : State) : Host.Outcome State Fault Refusal := s.live (effStore op)

/-- ATOMIC (12 R258). RV64A has no compare-and-swap: on a control core it is no instruction (05 R88, R95). -/
def effAtomic (op : AtomicOp) (s : State) : State :=
  match op with
  | .host c fn d a x y => s.onHost c fun s => s.commits c fun s => s.hostAtomic c fn (if d then 8 else 4) a.toNat x.toNat y.toNat
  | .cell g fn d rd rs1 rs2 =>
    s.onCore g fun c j =>
      let n := if d then 8 else 4
      let va := (c.core.get rs1).toNat
      if fn = .cas then s.endItem g stFormat
      else s.coreEnds g j rd true n .coreStore (s.cellAtomic g j rd va n fn (c.core.get rs2).toNat)
def execAtomic (op : AtomicOp) (s : State) : Host.Outcome State Fault Refusal := s.live (effAtomic op)

/-- The reservation of a core, and its setting (12 R256). -/
def State.reserved (s : State) (k : Core) (line : Nat) : Bool := s.coh.resv.any fun r => r.1 == k && r.2.1 / 128 == line
def State.clearResv (s : State) (k : Core) : State := s.onCoh fun c => { c with resv := c.resv.filter fun r => r.1 != k }
def State.setResv (s : State) (k : Core) (a : Nat) (d : Bool) : State :=
  (s.clearResv k).onCoh fun c => { c with resv := c.resv ++ [(k, a, d)] }
def State.reserve (s : State) (k : Core) (h : Holder) (a : Nat) (d : Bool) : State := (s.setResv k a d).startHold (a / 128) h

/-- LR at the near site (12 R256, R258). DESIGN CHOICE (log 66): one in the cell-memory window reserves there, as an atomic acts there. -/
def effLr (op : LrOp) (s : State) : State :=
  match op with
  | .host c d a0 =>
    s.onHost c fun s => s.behindStores c fun s =>
      let a := s.localise a0.toNat
      let n := if d then 8 else 4
      if a % n ≠ 0 then s.trap c .accessFault
      else (match s.hostWay c a n false with
        | .stall => s
        | .memory =>
          if !s.cacheOk 0 (.l2 c) a n false then s.missRetry (.l2 c) a n false
          else if !(s.coreBad (.l2 c) (s.badWords a n)).isEmpty then (s.coreUe 0 none (.l2 c) (s.badWords a n)).trap c .machineCheck
          else
            let (t, v) := s.cachedRead 0 none (.l2 c) false a n
            (t.reserve (.host c) (.l2 c) a d).loaded c (signedOf (8 * n) v % (2 ^ 64 : Int)).toNat
        | _ => s.trap c .accessFault)
  | .cell g d rd rs1 =>
    s.onCore g fun c j =>
      let va := (c.core.get rs1).toNat
      let n := if d then 8 else 4
      match s.cellAddr g j va n .coreLoad with
      | (t, .at a _) =>
        if isRemote a || !t.cacheable a then t.endItem g stRange
        else
          let r := t.cellLoad g j rd true va n
          let u := s.coreEnds g j rd true n .coreLoad r
          (match r.2 with
           | .value _ => u.reserve (.cell g) (.dcache g) a d
           | _ => u)
      | (t, .window o) => (t.setResv (.cell g) (cellWindow + o) d).retire g rd (extended true n ((t.cell g).readNat o n))
      | (t, .bad st) => t.endItem g st
      | (t, .mig k) => s.coreEnds g j rd true n .coreLoad (t, .mig va k)
      | (t, .waits) => s.waits t
def execLr (op : LrOp) (s : State) : Host.Outcome State Fault Refusal := s.live (effLr op)

/-- SC at the near site: 0 and the store with a reservation on the line, else 1 (12 R256); in the cell-memory window likewise (log 66). -/
def effSc (op : ScOp) (s : State) : State :=
  match op with
  | .host c d a0 v =>
    s.onHost c fun s => s.commits c fun s =>
      let a := s.localise a0.toNat
      let n := if d then 8 else 4
      if a % n ≠ 0 then s.trap c .accessFault
      else (match s.hostWay c a n true with
        | .stall => s
        | .memory =>
          if !s.cacheOk 0 (.l2 c) a n true then s.missRetry (.l2 c) a n true
          else if !s.reserved (.host c) (a / 128) then (s.clearResv (.host c)).loaded c 1
          else if !(s.coreBad (.l2 c) (s.partWords a n)).isEmpty then (s.coreUe 0 none (.l2 c) (s.partWords a n)).trap c .machineCheck
          else (((s.cachedWrite 0 none (.l2 c) false a n (v.toNat % 2 ^ (8 * n))).clearResv (.host c))).loaded c 0
        | _ => s.trap c .accessFault)
  | .cell g d rd rs1 rs2 =>
    s.onCore g fun c j =>
      let va := (c.core.get rs1).toNat
      let n := if d then 8 else 4
      match s.cellAddr g j va n .coreStore with
      | (t, .at a _) =>
        if isRemote a || !t.cacheable a then t.endItem g stRange
        else if t.reserved (.cell g) (a / 128) then
          let r := t.cellStore g j va (leBytes n (c.core.get rs2).toNat)
          let u := s.coreEnds g j rd false n .coreStore r
          (match r.2 with
           | .value _ => u.clearResv (.cell g)
           | _ => u)
        else (t.clearResv (.cell g)).retire g rd 1
      | (t, .window o) =>
        let u := t.clearResv (.cell g)
        if t.reserved (.cell g) ((cellWindow + o) / 128) then
          (u.setCell g ((u.cell g).write o (leBytes n (c.core.get rs2).toNat))).retire g rd 0
        else u.retire g rd 1
      | (t, .bad st) => t.endItem g st
      | (t, .mig k) => s.coreEnds g j rd false n .coreStore (t, .mig va k)
      | (t, .waits) => s.waits t
def execSc (op : ScOp) (s : State) : Host.Outcome State Fault Refusal := s.live (effSc op)

/-- A FENCE whose sets include I or O has SYSTEM scope: the remote accesses of the core must have ended (12 R243, R245). -/
def systemScope (pred succ : BitVec 4) (tso : Bool) : Bool := !tso && (4 ≤ pred.toNat || 4 ≤ succ.toNat)

/-- A host core's barrier of SYSTEM scope: nothing after it is issued while an earlier access is not performed (12 R243). -/
def State.hostBarrier (s : State) (c : HostId) : State := s.setHost c { s.host c with barrier := true }

/-- FENCE (12 R243, R245). -/
def effFence (k : Core) (pred succ : BitVec 4) (tso : Bool) (s : State) : State :=
  match k with
  | .host c => s.onHost c fun s => (if systemScope pred succ tso && s.hostAwaits c then s.hostBarrier c else s).hostRetires c
  | .cell g =>
    s.onCore g fun _ _ => if systemScope pred succ tso && s.cellOwed g then s else s.retire g 0 0
def execFence (k : Core) (pred succ : BitVec 4) (tso : Bool) (s : State) : Host.Outcome State Fault Refusal :=
  s.live (effFence k pred succ tso)

/-- YFENCE: a custom-0 word of a host core is a barrier of scope CORE, CLUSTER or SYSTEM, and any other is an illegal instruction (12
R245). -/
def effYfence (c : HostId) (word : Word) (s : State) : State :=
  s.onHost c fun s =>
    if word = 0x0000600B || word = 0x0200600B then s.hostRetires c
    else if word = 0x0400600B then (if s.hostAwaits c then s.hostBarrier c else s).hostRetires c
    else s.trap c .illegal
def execYfence (c : HostId) (word : Word) (s : State) : Host.Outcome State Fault Refusal := s.live (effYfence c word)

end Sys2Proof.Machine
end

