-- ==== Sys2Proof/Machine/Threads.lean ====
section
/-! DEFINITION. The thread-group processor (09): blocks, threads, group-wide and group matrix instructions, the L1, thread accesses. -/

namespace Sys2Proof.Machine

/-! ### Launch fields of a kernel (09 R161-R163, 13 R270) -/

def Cmd.threads (c : Cmd) : Nat := field c.ext 16 2
def Cmd.rq (c : Cmd) : Nat := (field c.ext 18 2 + 7) / 8 * 8
def Cmd.lkib (c : Cmd) : Nat := field c.ext 20 2
def Cmd.groups (c : Cmd) : Nat := (c.threads + 31) / 32

/-- Blocks of the kernel that a cell holds at most (09 R163). -/
def Cmd.maxBlocks (c : Cmd) : Nat :=
  let n := min 32 (min (64 / c.groups) (2048 / (c.groups * c.rq)))
  if c.lkib = 0 then n else min n (c.partition.bl / 1024 / c.lkib)

/-! ### Threads -/

def wDflt (_ : Nat) : Word := 0
def Thread.get (t : Thread) (r : Nat) : Word := tabGet wDflt t.w r
def Thread.set (t : Thread) (r : Nat) (v : Word) : Thread := { t with w := tabSet wDflt t.w r v }

/-- A 64-bit value in an even register and the next, the low half in the even one (09 R165). -/
def Thread.get64 (t : Thread) (r : Nat) : DWord := t.get (r + 1) ++ t.get r
def Thread.set64 (t : Thread) (r : Nat) (v : DWord) : Thread := (t.set r (v.setWidth 32)).set (r + 1) ((v >>> 32).setWidth 32)

/-- A value of n bytes goes into one register, or into an even register and the next (09 R165). -/
def Thread.setN (t : Thread) (r n v : Nat) : Thread :=
  if n = 8 then t.set64 r (BitVec.ofNat 64 v) else t.set r (BitVec.ofNat 32 v)
def Thread.getN (t : Thread) (r n : Nat) : Nat := if n = 8 then (t.get64 r).toNat else (t.get r).toNat % 2 ^ (8 * n)

/-- The thread goes on behind a 64-bit word (09 R184). -/
def Thread.step (t : Thread) : Thread := { t with pc := t.pc + 8, wait := .none }

/-- A thread at block start (09 R165). -/
def Thread.start (c : Cmd) (g blk i : Nat) : Thread :=
  let t : Thread := { w := [], q := 0, pc := c.entry, ended := false, wait := .none }
  (((t.set 0 (BitVec.ofNat 32 i)).set 1 (BitVec.ofNat 32 blk)).set64 2 c.arg).set 4 (BitVec.ofNat 32 g)

/-- The i-th thread of a block, and its change. -/
def Block.onT (b : Block) (i : Nat) (f : Thread → Thread) : Block := { b with threads := b.threads.modify i f }
def Block.mapT (b : Block) (f : Nat → Thread → Thread) : Block := { b with threads := b.threads.mapIdx f }
def State.onThreadAt (s : State) (g b t : Nat) (f : Thread → Thread) : State := s.onBlock g b fun x => x.onT t f

/-! ### Dispatch of blocks -/

/-- The scheduler with the fewest resident groups takes each group in turn (09 R164). -/
def pickSched (use : List Nat) : Nat := (List.range 4).foldl (fun k i => if use.count i < use.count k then i else k) 0
def pickScheds : Nat → List Nat → List Nat
  | 0, _ => []
  | n + 1, use => let k := pickSched use; k :: pickScheds n (use ++ [k])

/-- The cell can take a block of the command (09 R160, R163). -/
def Cell.takes (x : Cell) (c : Cmd) : Bool :=
  x.job.isNone && (x.blocks.all fun b => b.of c.ring c.seq) && x.blocks.length < c.maxBlocks

/-- The enabled cell of the set with the fewest resident blocks and room, ties to the lowest number (09 R160). -/
def State.blockCell (s : State) (c : Cmd) : Option Nat :=
  ((s.cellSet c).filter fun g => (s.cell g).takes c).foldl (fun best g =>
    match best with
    | none => some g
    | some h => if (s.cell g).blocks.length < (s.cell h).blocks.length then some g else some h) none

/-- DISPATCH_BLOCK (09 R160, R164, R165, R167): block-local memory starts with free values (log 4). -/
def effDispatchBlock (r : RingId) (seq : Word) (s : State) : State :=
  match s.handsOut r seq with
  | none => s
  | some c =>
    if c.opcode ≠ 2 then s
    else match s.blockCell c with
      | none => s
      | some g =>
        let first := (s.cell g).kernel ≠ some (c.ring, c.seq)
        let s := if first then
            let s := (s.setCell g ((s.cell g).receive c.cid)).repartition g c.partition
            s.setCell g { s.cell g with l1 := [], kernel := some (c.ring, c.seq) }
          else s
        let x := s.cell g
        let low := cellBytes - c.partition.l1 - c.partition.bl
        let size := 1024 * c.lkib
        let slot := ((List.range 33).find? fun k => x.blocks.all fun b => b.base ≠ low + k * size).getD 0
        let base := if size = 0 then low else low + slot * size
        let (s, v) := s.draw (8 * size)
        let use := x.blocks.flatMap Block.sched
        let b : Block := { ring := c.ring, seq := c.seq, index := c.next, cid := c.cid, nthr := c.threads, rq := c.rq, lkib := c.lkib,
                           base := base, sched := pickScheds c.groups use,
                           threads := (List.range c.threads).map fun i => Thread.start c g c.next i, ended := none }
        let x := x.write base (leBytes size v.toNat)
        (s.setCell g { x with blocks := x.blocks ++ [b] }).setCmd { c with next := c.next + 1 }
def execDispatchBlock (r : RingId) (seq : Word) (s : State) : Host.Outcome State Fault Refusal := s.live (effDispatchBlock r seq)

/-! ### Instruction words (09 R184) -/

structure TWord where
  opc  : Nat
  dst  : Nat
  sa1  : Nat
  sa2  : Nat
  sa3  : Nat
  pred : Nat
  pneg : Bool
  fn   : Nat

def TWord.decode (w : DWord) : TWord :=
  let v := w.toNat
  { opc := bitsOf v 7 0, dst := bitsOf v 15 8, sa1 := bitsOf v 23 16, sa2 := bitsOf v 31 24, sa3 := bitsOf v 39 32,
    pred := bitsOf v 42 40, pneg := bitOf v 43, fn := bitsOf v 63 44 }

/-- Fields that the encoding names: DST, SA1, SA2, SA3, and n function bits; the others are 0 (09 R184). -/
def TWord.fieldsOk (w : TWord) (d s1 s2 s3 : Bool) (n : Nat) : Bool :=
  (d || w.dst = 0) && (s1 || w.sa1 = 0) && (s2 || w.sa2 = 0) && (s3 || w.sa3 = 0) && w.fn < 2 ^ n

/-- A register of the thread, an even pair of registers, and n registers from a base that is a multiple of 4 (09 R165, R175). -/
def regOk (rq r : Nat) : Bool := r < rq
def pairOk (rq r : Nat) : Bool := r % 2 = 0 && r + 1 < rq
def baseOk (rq r n : Nat) : Bool := r % 4 = 0 && r + n ≤ rq

/-- The predicate of a word holds for a thread (09 R184). -/
def TWord.holds (w : TWord) (t : Thread) : Bool := (w.pred = 7 || bitOf t.q.toNat w.pred) != w.pneg

/-- Thread t of block b of cell g, when it can issue (09 R168). -/
def State.onThread (s : State) (g b t : Nat) (f : Block → Thread → State) : State :=
  match (s.cell g).blocks[b]? with
  | none => s
  | some x =>
    match x.threads[t]? with
    | none => s
    | some y => if x.ended.isNone && !y.ended && y.wait = .none then f x y else s

/-- Threads 32g to 32g + 31 of a block that exist. -/
def Block.members (b : Block) (grp : Nat) : List (Nat × Thread) :=
  ((List.range 32).map fun l => 32 * grp + l).filterMap fun i => (b.threads[i]?).map fun t => (i, t)

/-- The thread has yet to pass the instruction at an address. -/
def Thread.stands (t : Thread) (pc : DWord) : Bool :=
  !t.ended && t.pc == pc && (match t.wait with | .none | .faultOn _ => true | _ => false)

/-- An instruction of a group counts once for each path: with the path's last thread (09 R168, 20 R387, R391; log 36). -/
def State.countPath (s : State) (g b t : Nat) (x : Block) (y : Thread) : State :=
  match (s.cell g).blocks[b]? with
  | none => s
  | some z =>
    if z.ended.isSome || (z.members (t / 32)).all fun v => !v.2.stands y.pc then
      (s.count (g / 64) 0x05 (some x.cid) 1).tally (some (x.ring, x.seq)) 3 1
    else s

/-- The thread executes a word of operation opc: predicated off it goes on; a malformed word ends its block (09 R184). -/
def State.onWord (s : State) (g b t : Nat) (w : DWord) (opc : Nat) (ok : TWord → Nat → Bool) (f : TWord → Block → Thread → State) : State :=
  let d := TWord.decode w
  if d.opc ≠ opc then s
  else s.onThread g b t fun x y =>
    (if !d.holds y then s.onThreadAt g b t Thread.step
     else if !ok d x.rq then s.endBlock g b stFormat
     else f d x y).countPath g b t x y

/-! ### Barriers, ends of threads, group-wide instructions (09 R166, R171-R173) -/

/-- Barrier n releases once every thread that has not ended waits there (09 R171). -/
def Block.barDone (b : Block) (n : Nat) : Bool := b.threads.all fun t => t.ended || t.wait = .bar n
def Block.release (b : Block) (n : Nat) : Block :=
  if b.barDone n then b.mapT fun _ t => if t.wait = .bar n then t.step else t else b

/-- A lane number is in a mask. -/
def named (mask : Word) (i : Nat) : Bool := bitOf mask.toNat (i % 32)

/-- Whether a thread waits at a group-wide instruction, and at which address and with which mask. -/
def Thread.wide (t : Thread) : Option (DWord × Word) :=
  match t.wait with
  | .groupWide _ m => some (t.pc, m)
  | _ => none
def Thread.atMatrix (t : Thread) : Bool :=
  match t.wait with
  | .groupMatrix _ => true
  | _ => false

/-- The fault of a group's group-wide waits: a named thread has ended; or it waits elsewhere or with another mask (09 R172). -/
def Block.wideFault (b : Block) (grp : Nat) : Status :=
  let ms := b.members grp
  let bad := fun (p : Thread → DWord × Word → Bool) => ms.any fun u =>
    match u.2.wide with
    | some k => ms.any fun v => named k.2 v.1 && p v.2 k
    | none => false
  if bad fun v _ => v.ended then stGroupIncomplete
  else if bad fun v k => v.wide.isSome && v.wide ≠ some k then stGroupMismatch
  else stOk

/-- A thread waits for every thread that its mask names; the members are those that complete with it. -/
def Block.wideMembers (b : Block) (grp : Nat) (k : DWord × Word) : Option (List (Nat × Thread)) :=
  let ms := b.members grp
  if ms.all fun v => !named k.2 v.1 || v.2.wide = some k then some (ms.filter fun v => v.2.wide = some k) else none

/-- A group-wide instruction with a member mask in SA1: the thread arrives; the last arrival completes it for all, by `f`, which
gives each member's change (09 R172). DESIGN CHOICE (log 66): a thread whose mask does not name its own lane completes with the members, and
takes a result. -/
def State.groupWide (s : State) (g b t : Nat) (w : DWord) (d : TWord) (y : Thread)
    (f : List (Nat × Thread) → Word → Nat → Thread → Thread) : State :=
  let m := y.get d.sa1
  let s := s.onThreadAt g b t fun y => { y with wait := .groupWide w m }
  match (s.cell g).blocks[b]? with
  | none => s
  | some x =>
    let st := x.wideFault (t / 32)
    if st ≠ stOk then s.endBlock g b st
    else match x.wideMembers (t / 32) (y.pc, m) with
      | none => s
      | some ms => s.onBlock g b fun x => x.mapT fun i u => if ms.any fun v => v.1 == i then (f (ms.filter fun v => named m v.1) m i u).step else u

/-- BAR (09 R171). -/
def effBar (g : CellId) (b t : Nat) (w : DWord) (s : State) : State :=
  s.onWord g b t w 0xC8 (fun d _ => d.fieldsOk false false false false 4) fun d _ _ =>
    s.onBlock g b fun x => (x.onT t fun y => { y with wait := .bar d.fn }).release d.fn
def execBar (g : CellId) (b t : Nat) (w : DWord) (s : State) : Host.Outcome State Fault Refusal := s.live (effBar g b t w)

/-- GSYNC (09 R172). -/
def effGsync (g : CellId) (b t : Nat) (w : DWord) (s : State) : State :=
  s.onWord g b t w 0xC9 (fun d rq => d.fieldsOk false true false false 0 && regOk rq d.sa1) fun d _ y =>
    s.groupWide g b t w d y fun _ _ _ u => u
def execGsync (g : CellId) (b t : Nat) (w : DWord) (s : State) : Host.Outcome State Fault Refusal := s.live (effGsync g b t w)

/-- The vote over the members: ALL, ANY or the bitmap (09 R172, R184). -/
def voteOf (kind p : Nat) (ms : List (Nat × Thread)) : Word :=
  match kind with
  | 0 => if ms.all fun v => bitOf v.2.q.toNat p then 1 else 0
  | 1 => if ms.any fun v => bitOf v.2.q.toNat p then 1 else 0
  | _ => ms.foldl (fun w v => if bitOf v.2.q.toNat p then w ||| (1 <<< (v.1 % 32) : Word) else w) 0

/-- GVOTE (09 R172). -/
def effGvote (g : CellId) (b t : Nat) (w : DWord) (s : State) : State :=
  s.onWord g b t w 0xCA (fun d rq => d.fieldsOk true true false false 5 && regOk rq d.sa1 && regOk rq d.dst && d.fn % 8 ≠ 7 && d.fn / 8 ≠ 3)
    fun d _ y => s.groupWide g b t w d y fun ms _ _ u => u.set d.dst (voteOf (d.fn / 8) (d.fn % 8) ms)
def execGvote (g : CellId) (b t : Nat) (w : DWord) (s : State) : Host.Outcome State Fault Refusal := s.live (effGvote g b t w)

/-- The value that member i receives: that of the lane it names, or its own (09 R172). DESIGN CHOICE (log 66): a source-lane value of 256 or
more is no lane of the group, like one of 32 to 255. -/
def shuffled (d : TWord) (ms : List (Nat × Thread)) (u : Thread) : Word :=
  let lane := (u.get d.sa3).toNat
  match ms.find? fun v => v.1 % 32 == lane with
  | some v => v.2.get d.sa2
  | none => u.get d.sa2

/-- GSHFL (09 R172). -/
def effGshfl (g : CellId) (b t : Nat) (w : DWord) (s : State) : State :=
  s.onWord g b t w 0xCB (fun d rq => d.fieldsOk true true true true 0 && regOk rq d.dst && regOk rq d.sa1 && regOk rq d.sa2 && regOk rq d.sa3)
    fun d _ y => s.groupWide g b t w d y fun ms _ _ u => u.set d.dst (shuffled d ms u)
def execGshfl (g : CellId) (b t : Nat) (w : DWord) (s : State) : Host.Outcome State Fault Refusal := s.live (effGshfl g b t w)

/-- E_GROUP_STALL: a wait of the group has lasted 2^24 cycles (09 R172, R173). -/
def effEGroupStall (g : CellId) (b grp : Nat) (s : State) : State :=
  match (s.cell g).blocks[b]? with
  | none => s
  | some x => if (x.members grp).any fun v => v.2.wide.isSome || v.2.atMatrix then s.endBlock g b stGroupStall else s
def execEGroupStall (g : CellId) (b grp : Nat) (s : State) : Host.Outcome State Fault Refusal := s.live (effEGroupStall g b grp)

/-- What the end of thread t does to its block: a fault of the waits that need it, releases of barriers, the end of the block
(09 R166, R171-R173). -/
def Block.afterExit (b : Block) (t : Nat) : Block :=
  let grp := t / 32
  if b.wideFault grp = stGroupIncomplete || (b.members grp).any fun v => v.2.atMatrix then b.endWith stGroupIncomplete
  else
    let b := (List.range 16).foldl Block.release b
    if b.threads.all Thread.ended then b.endWith stOk else b

/-- EXIT (09 R166). -/
def effExit (g : CellId) (b t : Nat) (w : DWord) (s : State) : State :=
  s.onWord g b t w 0xDB (fun d _ => d.fieldsOk false false false false 0) fun _ _ _ =>
    s.onBlock g b fun x => (x.onT t fun y => { y with ended := true }).afterExit t
def execExit (g : CellId) (b t : Nat) (w : DWord) (s : State) : Host.Outcome State Fault Refusal := s.live (effExit g b t w)

/-! ### Group matrix instructions (09 R173-R176) -/

/-- The parameter set that a word names (09 R161). -/
def State.blockPset (s : State) (x : Block) (i : Nat) : Option PSet :=
  match s.cmd x.ring x.seq with
  | some c => (c.params[i]?).map PSet.decode
  | none => none

/-- A group matrix instruction: the thread arrives; the last arrival executes it once by `f`, which changes the block or ends it
(09 R173). -/
def State.groupMatrix (s : State) (g b t : Nat) (w : DWord) (opc : Nat) (f : State → TWord → Block → State) : State :=
  let d := TWord.decode w
  if d.opc ≠ opc then s
  else s.onThread g b t fun x y =>
    if d.pred ≠ 7 then s.endBlock g b stFormat
    else
      let ms := x.members (t / 32)
      if ms.length < 32 || ms.any fun v => v.2.ended then s.endBlock g b stGroupIncomplete
      else if ms.any fun v => v.2.atMatrix && !(v.2.pc == y.pc && v.2.wait = .groupMatrix w) then s.endBlock g b stGroupMismatch
      else
        let s := s.onThreadAt g b t fun y => { y with wait := .groupMatrix w }
        match (s.cell g).blocks[b]? with
        | none => s
        | some x =>
          if (x.members (t / 32)).all fun v => v.2.atMatrix then
            let s := s.onBlock g b fun x => x.mapT fun i u => if i / 32 = t / 32 then u.step else u
            ((f s d x).count (g / 64) 0x05 (some x.cid) 1).tally (some (x.ring, x.seq)) 3 1
          else s

/-- Register r of lane l of the group of thread t. -/
def Block.lane (x : Block) (t l r : Nat) : Word := ((x.threads[t / 32 * 32 + l]?).map fun y => y.get r).getD 0
def Block.setLane (x : Block) (t l r : Nat) (v : Word) : Block := x.onT (t / 32 * 32 + l) fun y => y.set r v

/-- Code (i, k) of a fragment at base register r: row or column i, k = 16(l mod 2) + 4m + b (09 R175). -/
def Block.fragCode (x : Block) (t r i k : Nat) : Nat := (x.lane t (2 * i + k / 16) (r + k % 16 / 4)).toNat / 256 ^ (k % 4) % 256

/-- LONG container of element (i, j) of an accumulator tile at base register r (09 R175). -/
def Block.accOf (x : Block) (t r i j : Nat) : Nat :=
  (List.range 4).foldl (fun n m => n + (x.lane t (2 * i + j / 8) (r + 4 * (j % 8) + m)).toNat * 2 ^ (32 * m)) 0
def Block.setAcc (x : Block) (t r i j v : Nat) : Block :=
  (List.range 4).foldl (fun x m => x.setLane t (2 * i + j / 8) (r + 4 * (j % 8) + m) (BitVec.ofNat 32 (v / 2 ^ (32 * m)))) x

/-- Two runs of registers touch. -/
def overlap (a n b m : Nat) : Bool := a < b + m && b < a + n

/-- The product added to element (i, j) (09 R174). -/
def Block.fragSum (x : Block) (t : Nat) (p : PSet) (ra rb i j : Nat) : Int × Bool :=
  let r := (List.range 32).foldl (fun (v : Int × Bool) k =>
    let a := loadOperand p.fmtA p.za (x.fragCode t ra i k)
    let b := loadOperand p.fmtB p.zb (x.fragCode t rb j k)
    (v.1 + a.1 * b.1, v.2 || a.2 || b.2)) (0, false)
  (r.1 * (if p.fmtA.isFloat then 2 ^ (48 + opWeight p.fmtA + opWeight p.fmtB).toNat else 1), r.2)

/-- The accumulator tile after a GMMA, and whether a sum overflowed (09 R174, 03 R54). DESIGN CHOICE (log 66): only A0 plus the whole sum
is judged, not a sum part-way. -/
def Block.gmma (x : Block) (t : Nat) (p : PSet) (d : TWord) : Block × Bool :=
  let zero := bitOf d.fn 6
  (tileIndex 16 16).foldl (fun r ij =>
    let e : Elem := if zero then { a := 0, nan := false } else Elem.ofNat (x.accOf t d.dst ij.1 ij.2)
    let v := x.fragSum t p d.sa1 d.sa2 ij.1 ij.2
    let (e, o) := Elem.ofSum (e.nan || v.2) (e.a.toInt + v.1)
    (r.1.setAcc t d.dst ij.1 ij.2 (e.toNat (!p.fmtA.isFloat)), r.2 || o)) (x, false)

/-- GMMA (09 R174, R175). -/
def effGmma (g : CellId) (b t : Nat) (w : DWord) (s : State) : State :=
  s.groupMatrix g b t w 0xC0 fun s d x =>
    match s.blockPset x (d.fn % 64) with
    | none => s.endBlock g b stFormat
    | some p =>
      let ok8 := fun (c : Nat) => c = 0 || c = 1 || c = 5 || c = 6
      let int := !p.fmtA.isFloat
      let kinds := bitOf d.fn 6 || (tileIndex 16 16).all fun ij => longKind (x.accOf t d.dst ij.1 ij.2) == int
      if d.fieldsOk true true true false 7 && ok8 p.fa && ok8 p.fb && baseOk x.rq d.dst 32 && baseOk x.rq d.sa1 4 && baseOk x.rq d.sa2 4 &&
          !overlap d.sa1 4 d.dst 32 && !overlap d.sa2 4 d.dst 32 && kinds then
        let (_, o) := x.gmma t p d
        let s := s.onBlock g b fun y => (y.gmma t p d).1
        let s := (s.count (g / 64) 0x03 (some x.cid) 8192).tally (some (x.ring, x.seq)) 1 8192
        if o then s.overflowed (g / 64) x.ring x.seq else s
      else s.endBlock g b stFormat
def execGmma (g : CellId) (b t : Nat) (w : DWord) (s : State) : Host.Outcome State Fault Refusal := s.live (effGmma g b t w)

/-- Byte (line, position) of a tile in block-local memory: element (i, j) of n bytes (09 R176). -/
def tileAt (off ld n i j : Nat) (colMajor : Bool) : Nat := if colMajor then off + j * ld + i * n else off + i * ld + j * n

/-- A leading dimension that R176 allows. -/
def ldOk (ld : Nat) : Bool := ld % 16 = 0 && ld ≤ 65520

/-- One past the last byte of a rows × cols tile of n-byte elements. -/
def tileStop (off ld n rows cols : Nat) (colMajor : Bool) : Nat := tileAt off ld n (rows - 1) (cols - 1) colMajor + n

/-- Bytes of a fragment gathered into register m of lane l (09 R175). -/
def Cell.fragReg (c : Cell) (base off ld l m : Nat) (isB colMajor : Bool) : Word :=
  BitVec.ofNat 32 ((List.range 4).foldl (fun v k =>
    let i := l / 2
    let kk := 16 * (l % 2) + 4 * m + k
    let a := if isB then tileAt off ld 1 kk i colMajor else tileAt off ld 1 i kk colMajor
    v + c.readNat (base + a) 1 * 256 ^ k) 0)

/-- GMLD: offset and leading dimension are those of the group's lane 0 (09 R176; log 24). -/
def effGmld (g : CellId) (b t : Nat) (w : DWord) (s : State) : State :=
  s.groupMatrix g b t w 0xC1 fun s d x =>
    let off := (x.lane t 0 d.sa1).toNat
    let ld := (x.lane t 0 d.sa2).toNat
    let kind := d.fn % 4
    let col := bitOf d.fn 2
    let regs := if kind = 2 then 32 else 4
    let stop := match kind with
      | 0 => tileStop off ld 1 16 32 col
      | 1 => tileStop off ld 1 32 16 col
      | _ => tileStop off ld 16 16 16 col
    if !(d.fieldsOk true true true false 3 && kind ≠ 3 && baseOk x.rq d.dst regs && regOk x.rq d.sa1 && regOk x.rq d.sa2 && ldOk ld) then
      s.endBlock g b stFormat
    else if 1024 * x.lkib < stop then s.endBlock g b stRange
    else
      let c := s.cell g
      s.onBlock g b fun y =>
        if kind = 2 then (tileIndex 16 16).foldl (fun y ij => y.setAcc t d.dst ij.1 ij.2 (c.readNat (x.base + tileAt off ld 16 ij.1 ij.2 col) 16)) y
        else (tileIndex 32 4).foldl (fun y lm => y.setLane t lm.1 (d.dst + lm.2) (c.fragReg x.base off ld lm.1 lm.2 (kind = 1) col)) y
def execGmld (g : CellId) (b t : Nat) (w : DWord) (s : State) : Host.Outcome State Fault Refusal := s.live (effGmld g b t w)

/-- What GDRAIN writes for an accumulator element: its bytes and its report (03 R59, R67, 09 R176). -/
def gdrainElem (p : PSet) (strict : Bool) (v : Nat) : List Byte × Option Drained :=
  let e := Elem.ofNat v
  if p.out = .long then (leBytes 16 (e.toNat (longKind v)), none)
  else
    let x := p.drainValue (e.value (if longKind v then 0 else -48)) Num.zero Num.zero
    let w := drainRound p.out (narrowMode strict) p.zout x
    (leBytes (p.out.bits / 8) w.code, some { w := w, value := toFp32 x })

/-- GDRAIN (09 R176). -/
def effGdrain (g : CellId) (b t : Nat) (w : DWord) (s : State) : State :=
  s.groupMatrix g b t w 0xC2 fun s d x =>
    match s.blockPset x (d.fn % 64) with
    | none => s.endBlock g b stFormat
    | some p =>
      let off := (x.lane t 0 d.sa2).toNat
      let ld := (x.lane t 0 d.sa3).toNat
      let col := bitOf d.fn 6
      let n := p.out.bits / 8
      if !(d.fieldsOk false true true true 7 && baseOk x.rq d.sa1 32 && regOk x.rq d.sa2 && regOk x.rq d.sa3 && ldOk ld && p.bmode = 0 &&
          p.amode < 2) then s.endBlock g b stFormat
      else if 1024 * x.lkib < tileStop off ld n 16 16 col then s.endBlock g b stRange
      else
        let strict := ((s.cmd x.ring x.seq).map Cmd.strict).getD false
        let out := (tileIndex 16 16).map fun ij => (x.base + tileAt off ld n ij.1 ij.2 col, gdrainElem p strict (x.accOf t d.sa1 ij.1 ij.2))
        let c := out.foldl (fun c o => c.write o.1 o.2.1) (s.cell g)
        (s.setCell g c).report x.ring x.seq fun r => out.foldl (fun r o => r.drained o.2.1 o.2.2) r
def execGdrain (g : CellId) (b t : Nat) (w : DWord) (s : State) : Host.Outcome State Fault Refusal := s.live (effGdrain g b t w)

/-! ### Sync objects and fences (09 R179, R181) -/

/-- Every line of the cell's L1 goes (09 R178, R179). -/
def State.dropL1 (s : State) (g : Nat) : State := s.setCell g { s.cell g with l1 := [] }

/-- A thread's object: not owned, out of reach, or uncorrectable, ends the block (09 R181, 15 R323, 18 R362). -/
def State.threadSo (s : State) (g b : Nat) (x : Block) (o : Nat) (f : State) : State :=
  if !s.soAllowed x.cid o then s.endBlock g b stAccess
  else if s.soWay (g / 64) o ≠ .clear then (if s.soWay (g / 64) o = .cut then s.endBlock g b stLink else s)
  else if s.soBroken o then s.endBlock g b stMemUe
  else f

/-- Remote accesses of one thread are outstanding, or writes of it are held toward third devices (12 R243). -/
def FabWho.ofThread (w : FabWho) (g t : Nat) (x : Block) : Bool :=
  match w with
  | .thread h r q i u _ => h == g && r == x.ring && q == x.seq && i == x.index && u == t
  | _ => false
def State.threadOwed (s : State) (g t : Nat) (x : Block) : Bool :=
  (s.fab.reqs.any fun r => r.who.ofThread g t x) ||
  s.mmioOwed fun h => h.cmd == some (x.ring, x.seq) && h.item == x.index && h.thr == some t

/-- SOADD: after every earlier access of the thread is performed at SYSTEM scope (09 R181). -/
def effSoadd (g : CellId) (b t : Nat) (w : DWord) (s : State) : State :=
  s.onWord g b t w 0xD0 (fun d rq => d.fieldsOk false true true false 0 && regOk rq d.sa1 && pairOk rq d.sa2) fun d x y =>
    let o := (y.get d.sa1).toNat % 2 ^ 16
    s.threadSo g b x o (if s.threadOwed g t x then s else (s.signal o (y.get64 d.sa2)).onThreadAt g b t Thread.step)
def execSoadd (g : CellId) (b t : Nat) (w : DWord) (s : State) : Host.Outcome State Fault Refusal := s.live (effSoadd g b t w)

/-- SOWAIT: the value read once it has reached the operand, with an invalidation of the L1; else the thread stays (09 R181). -/
def effSowait (g : CellId) (b t : Nat) (w : DWord) (s : State) : State :=
  s.onWord g b t w 0xD1 (fun d rq => d.fieldsOk true true true false 0 && pairOk rq d.dst && regOk rq d.sa1 && pairOk rq d.sa2) fun d x y =>
    let o := (y.get d.sa1).toNat % 2 ^ 16
    s.threadSo g b x o
      (if reached64 (s.so o) (y.get64 d.sa2) then
         (s.onThreadAt g b t fun u => (u.set64 d.dst (s.so o)).step).dropL1 g
       else s)
def execSowait (g : CellId) (b t : Nat) (w : DWord) (s : State) : Host.Outcome State Fault Refusal := s.live (effSowait g b t w)

/-- SOREAD (09 R181). -/
def effSoread (g : CellId) (b t : Nat) (w : DWord) (s : State) : State :=
  s.onWord g b t w 0xD2 (fun d rq => d.fieldsOk true true false false 0 && pairOk rq d.dst && regOk rq d.sa1) fun d x y =>
    let o := (y.get d.sa1).toNat % 2 ^ 16
    s.threadSo g b x o (s.onThreadAt g b t fun u => (u.set64 d.dst (s.so o)).step)
def execSoread (g : CellId) (b t : Nat) (w : DWord) (s : State) : Host.Outcome State Fault Refusal := s.live (effSoread g b t w)

/-- TFENCE: ACQ of scope SYSTEM invalidates the L1; REL of scope SYSTEM awaits the thread's remote accesses (09 R179). -/
def effTfence (g : CellId) (b t : Nat) (w : DWord) (s : State) : State :=
  s.onWord g b t w 0xD8 (fun d _ => d.fieldsOk false false false false 4 && d.fn % 4 ≠ 3) fun d x _ =>
    let sys := d.fn % 4 = 2
    if sys && bitOf d.fn 2 && s.threadOwed g t x then s
    else
      let s := s.onThreadAt g b t Thread.step
      if sys && bitOf d.fn 3 then s.dropL1 g else s
def execTfence (g : CellId) (b t : Nat) (w : DWord) (s : State) : Host.Outcome State Fault Refusal := s.live (effTfence g b t w)

/-! ### Accesses (09 R177, R178, R180) -/

/-- Bytes of the L1 of a cell at a physical address, if the line is present (09 R178). -/
def Cell.l1Read (c : Cell) (pa n : Nat) : Option (List Byte) :=
  (c.l1.find? fun l => l.pa == pa / 128 * 128).map fun l => (l.bytes.drop (pa % 128)).take n

/-- A line enters the L1, the oldest making room (09 R178; log 18). -/
def Cell.l1Fill (c : Cell) (pa : Nat) (bs : List Byte) : Cell := { c with l1 := ({ pa := pa, bytes := bs } :: c.l1).take (c.part.l1 / 128) }

/-- A store updates a line that is present; an atomic removes it (09 R178). -/
def Cell.l1Store (c : Cell) (pa : Nat) (bs : List Byte) : Cell :=
  { c with l1 := c.l1.map fun l =>
      if l.pa = pa / 128 * 128 then { l with bytes := l.bytes.take (pa % 128) ++ bs ++ l.bytes.drop (pa % 128 + bs.length) } else l }
def Cell.l1Drop (c : Cell) (pa : Nat) : Cell := { c with l1 := c.l1.filter fun l => l.pa ≠ pa / 128 * 128 }

/-- Thread t of a block of cell g as a requester. -/
def Block.requester (x : Block) (g t : Nat) : Requester := { cellReq g (some (x.ring, x.seq)) x.index with thr := some t }

/-- The access of a thread ends: a value for its registers, the end of its block, or a wait (09 R166, 11 R227). -/
def State.threadEnds (s : State) (g b t : Nat) (x : Block) (k : AccKind) (r : State × CellOut) (f : Nat → Thread → Thread) : State :=
  match r with
  | (u, .value v) => u.onThreadAt g b t fun y => (f v y).step
  | (u, .bad st) => u.endBlock g b st
  | (u, .mig va c) =>
    ((s.waits u).pendFault (x.requester g t) x.cid va k.code c 0).onThreadAt g b t fun y => { y with wait := .faultOn (vaGranule va) }
  | (u, .remote) => u.onThreadAt g b t fun y => { y with wait := .remote }
  | (u, .stall) => s.waits u

/-- A request of a thread leaves for another package. -/
def State.threadSend (s : State) (g t dst : Nat) (x : Block) (a : Nat) (acc : IoAccess) : State × CellOut :=
  match s.fabSend (g / 64) (.thread g x.ring x.seq x.index t dst) x.cid a acc with
  | (u, .sent) => (u.tally (some (x.ring, x.seq)) 7 (sentBytes acc), .remote)
  | (u, .bad st) => (u, .bad st)
  | (_, .stall) => (s, .stall)

/-- A thread's access to global memory is translated; a misaligned one ends the block with E_FORMAT (05 R95, 09 R180). -/
def State.threadAddr (s : State) (g t : Nat) (x : Block) (va n : Nat) (k : AccKind) : State × Xlated :=
  if va % n ≠ 0 then (s, .bad stFormat) else s.translate (x.requester g t) x.cid va n k

/-- Global load of n bytes: the L1 unless bypassed or absent; the fine path with the bypass hint (09 R178, 10 R199). DESIGN CHOICE (log 18): a
load that misses, which may allocate a line, always does. -/
def State.threadRead (s : State) (g t dst : Nat) (x : Block) (va n : Nat) (bypass : Bool) : State × CellOut :=
  match s.threadAddr g t x va n .threadLoad with
  | (s, .bad st) => (s, .bad st)
  | (s, .mig c) => (s, .mig va c)
  | (s, .waits) => (s, .stall)
  | (s, .at a nl) =>
    let read := fun (s : State) (a n : Nat) (na : Bool) =>
      match s.readLocal (x.requester g t) x.cid a n na with
      | (s, .bytes bs) => (s, Except.ok bs)
      | (s, .bad st) => (s, Except.error (CellOut.bad st))
      | (s, _) => (s, Except.error CellOut.stall)
    if isRemote a then s.threadSend g t dst x a (.read n)
    else if !isMemory a || bypass || (s.cell g).part.l1 = 0 then
      let s := if bypass && isMemory a then s.countFine (x.requester g t) x.cid (va / 32 * 32) .threadLoad else s
      match read s a n (nl || bypass) with
      | (s, .ok bs) => (s, .value (leNat bs))
      | (s, .error o) => (s, o)
    else match (s.cell g).l1Read a n with
      | some bs => (s, .value (leNat bs))
      | none =>
        match read s (a / 128 * 128) 128 nl with
        | (s, .ok bs) => (s.setCell g ((s.cell g).l1Fill (a / 128 * 128) bs), .value (leNat ((bs.drop (a % 128)).take n)))
        | (s, .error o) => (s, o)

/-- Global store: through to memory by the fine path, and into a line that the L1 holds (09 R178, 10 R199). -/
def State.threadWrite (s : State) (g t : Nat) (x : Block) (va : Nat) (bs : List Byte) : State × CellOut :=
  match s.threadAddr g t x va bs.length .threadStore with
  | (s, .bad st) => (s, .bad st)
  | (s, .mig c) => (s, .mig va c)
  | (s, .waits) => (s, .stall)
  | (s, .at a _) =>
    if isRemote a then
      match s.threadSend g t 0 x a (.write bs) with
      | (s, .remote) => (s, .value 0)
      | r => r
    else
      let s := if isMemory a then s.countFine (x.requester g t) x.cid (va / 32 * 32) .threadStore else s
      match s.writeLocal (x.requester g t) x.cid a bs true with
      | (s, .done) => (s.setCell g ((s.cell g).l1Store a bs), .value 0)
      | (s, .bad st) => (s, .bad st)
      | (s, _) => (s, .stall)

/-- THREAD_LOAD (09 R177, R178). -/
def effThreadLoad (g : CellId) (b t : Nat) (global bypass : Bool) (w : Width) (dst addr : Nat) (s : State) : State :=
  let n := w.bytes
  s.onThread g b t fun x y => State.countPath (g := g) (b := b) (t := t) (x := x) (y := y) <|
    if !((if n = 8 then pairOk x.rq dst else regOk x.rq dst) && (if global then pairOk x.rq addr else regOk x.rq addr)) then
      s.endBlock g b stFormat
    else if global then
      s.threadEnds g b t x .threadLoad (s.threadRead g t dst x (y.get64 addr).toNat n bypass) fun v u => u.setN dst n v
    else
      let o := (y.get addr).toNat
      if o % n ≠ 0 then s.endBlock g b stFormat
      else if 1024 * x.lkib < o + n then s.endBlock g b stRange
      else s.onThreadAt g b t fun u => (u.setN dst n ((s.cell g).readNat (x.base + o) n)).step
def execThreadLoad (g : CellId) (b t : Nat) (global bypass : Bool) (w : Width) (dst addr : Nat) (s : State) :
    Host.Outcome State Fault Refusal := s.live (effThreadLoad g b t global bypass w dst addr)

/-- THREAD_STORE (09 R177, R178). -/
def effThreadStore (g : CellId) (b t : Nat) (global : Bool) (w : Width) (addr src : Nat) (s : State) : State :=
  let n := w.bytes
  s.onThread g b t fun x y => State.countPath (g := g) (b := b) (t := t) (x := x) (y := y) <|
    if !((if n = 8 then pairOk x.rq src else regOk x.rq src) && (if global then pairOk x.rq addr else regOk x.rq addr)) then
      s.endBlock g b stFormat
    else
      let bs := leBytes n (y.getN src n)
      if global then s.threadEnds g b t x .threadStore (s.threadWrite g t x (y.get64 addr).toNat bs) fun _ u => u
      else
        let o := (y.get addr).toNat
        if o % n ≠ 0 then s.endBlock g b stFormat
        else if 1024 * x.lkib < o + n then s.endBlock g b stRange
        else (s.setCell g ((s.cell g).write (x.base + o) bs)).onThreadAt g b t Thread.step
def execThreadStore (g : CellId) (b t : Nat) (global : Bool) (w : Width) (addr src : Nat) (s : State) :
    Host.Outcome State Fault Refusal := s.live (effThreadStore g b t global w addr src)

/-- Atomic function of a word (09 R184). -/
def atomicOf : Nat → Option AtomicFn
  | 0 => some .add
  | 1 => some .smin
  | 2 => some .smax
  | 3 => some .umin
  | 4 => some .umax
  | 5 => some .and
  | 6 => some .or
  | 7 => some .xor
  | 8 => some .exch
  | 9 => some .cas
  | _ => none

/-- Fields of an atomic word: the compare value belongs to CAS only; 64-bit values take even pairs (09 R184). -/
def TWord.atomicOk (d : TWord) (rq : Nat) (global : Bool) : Bool :=
  let val := if bitOf d.fn 4 then pairOk rq else regOk rq
  d.fieldsOk true true true (d.fn % 16 = 9) 5 && (atomicOf (d.fn % 16)).isSome && val d.dst && val d.sa2 &&
  (d.fn % 16 ≠ 9 || val d.sa3) && (if global then pairOk rq d.sa1 else regOk rq d.sa1)

def TWord.size (d : TWord) : Nat := if bitOf d.fn 4 then 8 else 4
def TWord.afn (d : TWord) : AtomicFn := (atomicOf (d.fn % 16)).getD .add
def TWord.compare (d : TWord) (y : Thread) : Nat := if d.fn % 16 = 9 then y.getN d.sa3 d.size else 0

/-- ATOMG at the site that Vane chooses, past the L1 (09 R178, R180). -/
def effAtomg (g : CellId) (b t : Nat) (w : DWord) (s : State) : State :=
  s.onWord g b t w 0xD9 (fun d rq => d.atomicOk rq true) fun d x y =>
    let n := d.size
    let va := (y.get64 d.sa1).toNat
    let r := match s.threadAddr g t x va n .threadStore with
      | (s, .bad st) => (s, CellOut.bad st)
      | (s, .mig c) => (s, .mig va c)
      | (s, .waits) => (s, .stall)
      | (s, .at a nl) =>
        let op := y.getN d.sa2 n
        let cmp := d.compare y
        if isRemote a then s.threadSend g t d.dst x a (.atomic d.afn (n = 8) (BitVec.ofNat 64 op) (BitVec.ofNat 64 cmp))
        else (s.setCell g ((s.cell g).l1Drop a)).cellRmw g x.cid (some (x.ring, x.seq)) nl a n d.afn op cmp
    s.threadEnds g b t x .threadStore r fun v u => u.setN d.dst n v
def execAtomg (g : CellId) (b t : Nat) (w : DWord) (s : State) : Host.Outcome State Fault Refusal := s.live (effAtomg g b t w)

/-- ATOMB on block-local memory (09 R177, R180). -/
def effAtomb (g : CellId) (b t : Nat) (w : DWord) (s : State) : State :=
  s.onWord g b t w 0xDA (fun d rq => d.atomicOk rq false) fun d x y =>
    let n := d.size
    let o := (y.get d.sa1).toNat
    if o % n ≠ 0 then s.endBlock g b stFormat
    else if 1024 * x.lkib < o + n then s.endBlock g b stRange
    else
      let old := (s.cell g).readNat (x.base + o) n
      let new := atomicNew d.afn (8 * n) old (y.getN d.sa2 n) (d.compare y)
      (s.setCell g ((s.cell g).write (x.base + o) (leBytes n new))).onThreadAt g b t fun u => (u.setN d.dst n old).step
def execAtomb (g : CellId) (b t : Nat) (w : DWord) (s : State) : Host.Outcome State Fault Refusal := s.live (effAtomb g b t w)

end Sys2Proof.Machine
end

