-- ==== Sys2Proof/Machine/HbmCtl.lean ====
section
/-! DEFINITION. Events of the memory system: accesses at the home, the fine path and the near-atomic unit (10 R199, R206, 12 R240),
the Lake's way groups (10 R204), zeroing, scrub and quotas (10 R196, R207, R208), lanes, rows, bands and channels (10 R209-R212). -/

namespace Sys2Proof.Machine

/-! ### Accesses at the home -/

/-- A number that names no Vane table: a requester without one (12 R258, R259). -/
def noVane : Nat := 352

/-- An access to memory whose checks have passed, performed at the home (12 R240, R258): the bytes it returns. -/
def State.homeAccess (s : State) (cid : Cid) (a : Nat) (noAlloc : Bool) (acc : IoAccess) : State × List Byte :=
  match acc with
  | .read n => s.memRead cid a n noAlloc
  | .write bs => (s.memWrite cid a bs noAlloc, [])
  | .atomic fn d x y =>
    let n := if d then 8 else 4
    let (s, old) := (s.actHome cid none noVane a n).rmw a n fn x.toNat y.toNat
    (s, leBytes n old)

/-- Whether the access may be performed: in memory, aligned if atomic, allowed to its CID (11 R233, 12 R236, R237). -/
def State.homeOk (s : State) (cid : Cid) (a : Nat) (acc : IoAccess) : Bool :=
  let n := accBytes acc
  n ≠ 0 && isMemory a && s.spanMapped a n && s.ownOk cid (accWrites acc) a n &&
  (match acc with | .atomic .. => a % n = 0 | _ => true)

/-- The record of an access that meets uncorrectable data (18 R363). -/
def State.ueAccess (s : State) (cid : Cid) (a : Nat) (acc : IoAccess) (who : Option (Nat × Word)) : State :=
  match acc with
  | .write bs => s.ueStore cid a bs.length who
  | _ => s.ueRecord cid a (accBytes acc) who

/-- An access meets uncorrectable data (18 R363): a write that covers the whole word does not. -/
def State.meetsBroken (s : State) (a : Nat) (acc : IoAccess) : Bool :=
  match acc with
  | .write bs => s.partlyBroken a bs.length
  | _ => s.brokenIn a (accBytes acc)

/-- The home takes the access now: its lines are free and its quota admits it (10 R208, 12 R256, R257). -/
def State.homeTakes (s : State) (cid : Cid) (a : Nat) (acc : IoAccess) : Bool :=
  s.quiet a (accBytes acc) (accWrites acc) none && s.quotaOk cid a (accBytes acc)

/-! ### Errands in other packages -/

/-- Every byte of a span has arrived. -/
def gathered (t : Tab Byte) (a : Nat) : Nat → Option (List Byte)
  | 0 => some []
  | n + 1 =>
    match tabFind t a, gathered t (a + 1) n with
    | some b, some bs => some (b :: bs)
    | _, _ => none

/-- Packets of an errand that are on their way at one time. DESIGN CHOICE (log 26). -/
def errandPackets : Nat := 16

/-- A read in another package for a piece of work: answered once every byte has come, else what is missing is sent, some packets at a time,
and awaited. t is the state after the translation, s the one before it (14 R301). -/
def State.errandRead (s t : State) (k : ErrandKey) (w : Requester) (cid : Cid) (a n : Nat) : State × Got :=
  let e := s.errand k
  if e.bad ≠ stOk then (t, .bad e.bad)
  else match gathered e.bytes a n with
    | some bs => (t, .bytes bs)
    | none =>
      if s.fab.reqs.any fun q => q.who.ofErrand k then (s.waits t, .stall)
      else match (t.setErrand e).fabReads w (fun o => .errand k o) cid a a
          (((packetPieces a n).filter fun p => (gathered e.bytes p.1 p.2).isNone).take errandPackets) with
        | (u, .sent) => (u, .stall)
        | (u, .bad st) => (u, .bad st)
        | (_, .stall) => (s.waits t, .stall)

/-- A write in another package for a piece of work: over once its packets have been acknowledged, each sent once, some at a time. -/
def State.errandWrite (s t : State) (k : ErrandKey) (w : Requester) (cid : Cid) (a : Nat) (bs : List Byte) : State × Put :=
  let e := s.errand k
  if e.bad ≠ stOk then (t, .bad e.bad)
  else if s.fab.reqs.any fun q => q.who.ofErrand k then (s.waits t, .stall)
  else
    let ps := ((packetPieces a bs.length).filter fun p => !e.wrote.contains p).take errandPackets
    if ps.isEmpty then (t, .done)
    else match (t.setErrand { e with wrote := e.wrote ++ ps }).fabWrites w (.errand k 0) cid a bs ps with
      | (u, .sent) => (u, .stall)
      | (u, .bad st) => (u, .bad st)
      | (_, .stall) => (s.waits t, .stall)

/-- An access that its home takes: performed, or its data is uncorrectable (12 R240, 18 R363). -/
def State.ioPerform (s : State) (cid : Cid) (a : Nat) (noAlloc : Bool) (acc : IoAccess) : State :=
  if s.meetsBroken a acc then s.ueAccess cid a acc none
  else
    let (s, bs) := s.homeAccess cid a noAlloc acc
    { s with hbm := { s.hbm with data := bs } }

/-- The access is performed, or held at its home, behind those held there for the same bytes (10 R206, R208, 12 R240, R257). -/
def State.ioAccess (s : State) (cid : Cid) (a : Nat) (noAlloc : Bool) (acc : IoAccess) : State :=
  if !s.homeOk cid a acc then s
  else if !s.homeTakes cid a acc || s.heldOver a (accBytes acc) || s.waitsOver a (accBytes acc) then
    { s with hbm := { s.hbm with quotaHeld := s.hbm.quotaHeld ++ [(cid, a, noAlloc, acc)] } }
  else s.ioPerform cid a noAlloc acc

/-- IO_COHERENT_ACCESS (12 R240). -/
def effIoCoherentAccess (cid : Cid) (pa : DWord) (noAlloc : Bool) (a : IoAccess) (s : State) : State :=
  s.ioAccess cid pa.toNat noAlloc a
def execIoCoherentAccess (cid : Cid) (pa : DWord) (noAlloc : Bool) (a : IoAccess) (s : State) : Host.Outcome State Fault Refusal :=
  s.live (effIoCoherentAccess cid pa noAlloc a)

/-- An address lies in HBM. -/
def inHbm (a : Nat) : Bool :=
  match placeOf a with
  | .hbm _ => true
  | _ => false

/-- NEAR_ATOMIC: an atomic that has arrived at the near-atomic unit of its stack (10 R206). -/
def effNearAtomic (cid : Cid) (pa : DWord) (fn : AtomicFn) (dword : Bool) (operand compare : DWord) (s : State) : State :=
  if inHbm pa.toNat then s.ioAccess cid pa.toNat false (.atomic fn dword operand compare) else s
def execNearAtomic (cid : Cid) (pa : DWord) (fn : AtomicFn) (dword : Bool) (operand compare : DWord) (s : State) :
    Host.Outcome State Fault Refusal := s.live (effNearAtomic cid pa fn dword operand compare)

/-- FINE_PATH_ACCESS: bytes of one aligned 32-byte word of HBM, allocating nothing (10 R199). -/
def effFinePathAccess (cid : Cid) (pa : DWord) (a : IoAccess) (s : State) : State :=
  let p := pa.toNat
  match a with
  | .atomic .. => s
  | _ =>
    if inHbm p && p / 32 = (p + accBytes a - 1) / 32 && s.homeOk cid p a then
      (s.count (s.targetDie p) 0x0B (some cid) 1).ioAccess cid p true a
    else s
def execFinePathAccess (cid : Cid) (pa : DWord) (a : IoAccess) (s : State) : Host.Outcome State Fault Refusal :=
  s.live (effFinePathAccess cid pa a)

/-- The first held request that its home takes now and that no earlier one for the same bytes goes before (10 R206, R208). -/
def State.firstTaken (s : State) (earlier : List (Cid × Nat × Bool × IoAccess)) :
    List (Cid × Nat × Bool × IoAccess) → Option (Cid × Nat × Bool × IoAccess)
  | [] => none
  | h :: hs =>
    let n := accBytes h.2.2.2
    if s.homeTakes h.1 h.2.1 h.2.2.2 && !(earlier.any fun x => spansMeet x.2.1 (accBytes x.2.2.2) h.2.1 n) then some h
    else State.firstTaken s (earlier ++ [h]) hs
def State.takeHeld (s : State) : Option (Cid × Nat × Bool × IoAccess) := s.firstTaken [] s.hbm.quotaHeld

/-- A held request leaves its home's queue and is performed; its address was decoded when it came (10 R197, R208). -/
def State.performHeld (s : State) (h : Cid × Nat × Bool × IoAccess) : State :=
  ({ s with hbm := { s.hbm with quotaHeld := s.hbm.quotaHeld.erase h } }).ioPerform h.1 h.2.1 h.2.2.1 h.2.2.2

/-- At a tick, with its quota anew, a held request is admitted (10 R208). -/
def State.admitHeld (s : State) : State :=
  match s.takeHeld with
  | none => s
  | some h => s.performHeld h
def State.admitAll (s : State) : State := s.hbm.quotaHeld.foldl (fun s _ => s.admitHeld) s

/-- Every held request completes under the map that routed it, before a new map is in force (10 R197). -/
def State.finishHeld (s : State) : State := s.hbm.quotaHeld.foldl (fun s h => s.performHeld h) s

/-! ### The Lake's way groups -/

/-- A way group of a slice that is powering down and holds no line any more is off (10 R204). -/
def State.groupOff (s : State) (slice k : Nat) : State :=
  let cleaning := tabGet cleanDflt s.hbm.cleaning slice
  let used := s.hbm.lake.any fun p => p.1 / 2 ^ 20 = slice && p.1 % 16 / 4 = k
  if !bitOf cleaning.toNat k || used then s
  else
    let bit : BitVec 4 := 1 <<< k
    { s with hbm := { s.hbm with ways := tabSet waysDflt s.hbm.ways slice (tabGet waysDflt s.hbm.ways slice &&& ~~~bit),
                                 cleaning := tabSet cleanDflt s.hbm.cleaning slice (cleaning &&& ~~~bit) } }

/-- LAKE_WAY_CLEAN: a line of a group that is powering down is written back if dirty and invalidated (10 R204, 20 R387). -/
def effLakeWayClean (st : StackId) (set way : Nat) (s : State) : State :=
  if !bitOf (tabGet cleanDflt s.hbm.cleaning st.val).toNat (way / 4) then s
  else
    let k := lakeKey st.val set way
    let s := if (s.lakeLine k).dirty then s.count (st.val / 3) 0x0A none 128 else s
    (s.setLakeLine k (lineDflt k)).groupOff st.val (way / 4)
def execLakeWayClean (st : StackId) (set way : Nat) (s : State) : Host.Outcome State Fault Refusal :=
  s.live (effLakeWayClean st set way)

/-! ### Zeroing and scrub -/

/-- BAND_ZEROED: the scrubber has zeroed a freed band (10 R196). -/
def effBandZeroed (c : ChanId) (b : Nat) (s : State) : State :=
  if s.band c b = .zeroing then s.setBand c b .free else s
def execBandZeroed (c : ChanId) (b : Nat) (s : State) : Host.Outcome State Fault Refusal := s.live (effBandZeroed c b)

/-- The record of an uncorrectable word that patrol scrub found, and its time (18 R364). -/
def State.scrubRecord (s : State) (stack a : Nat) : State :=
  let s := { s with hbm := { s.hbm with scrubbed := tabPut s.hbm.scrubbed (a / 32) s.time } }
  s.logError (0x10 + stack) { plainEvent 0x01 .contained (s.hbmPlace a).1 0 with
                              addr := BitVec.ofNat 64 (a / 32 * 32), owner := (s.owner (a / 2 ^ 21)).owner }

/-- Patrol scrub finds an uncorrectable 32-byte word: a record only, one for each word in 24 h (18 R363, R364). -/
def State.scrubFinds (s : State) (stack a : Nat) : State :=
  let w := a / 32
  if !inHbm a || !s.mapped a || (s.hbmPlace a).1 / 32 ≠ stack then s
  else
    let s := if s.hbm.broken.contains w then s else { s with hbm := { s.hbm with broken := s.hbm.broken ++ [w] } }
    match tabFind s.hbm.scrubbed w with
    | some t => if (s.time - t).toNat < dayNs then s else s.scrubRecord stack a
    | none => s.scrubRecord stack a

/-- PATROL_SCRUB_PASS of a stack: the words it finds uncorrectable, those known to be among them, and SCRUB_LAG (10 R207, 18 R364). -/
def effPatrolScrubPass (st : StackId) (behind : Bool) (broken : List DWord) (s : State) : State :=
  let s := if behind then s.setRegBit (umberBar 0 + 0xA004) 0 else s
  let known := s.hbm.broken.map (32 * ·)
  (known ++ broken.map fun a => a.toNat).foldl (fun s a => s.scrubFinds st.val a) s
def execPatrolScrubPass (st : StackId) (behind : Bool) (broken : List DWord) (s : State) : Host.Outcome State Fault Refusal :=
  s.live (effPatrolScrubPass st behind broken)

/-! ### Lanes, rows, bands and channels -/

/-- Formed regions that hold a band of a test become RETIRING (10 R210, R211). -/
def State.markRegions (s : State) (f : Nat × Nat → Bool) : State :=
  (List.range 768).foldl (fun s r =>
    let x := s.region r
    if x.formed && !x.retiring && x.members.any f then s.setRegion r { x with retiring := true } else s) s

/-- A channel becomes RETIRING, in a degrade event, with its record and REPLACE (10 R211, 18 R370, 19 R384). -/
def State.retireChannel (s : State) (c : Nat) : State :=
  let x := s.chan c
  if x.state ≠ .inService then s
  else
    let s := s.degrade (c / 96) c 0 fun s =>
      (((s.setChan c { x with state := .retiring }).markRegions fun m => m.1 = c).request 17 false true).keepCap
    s.logError (0x10 + c / 32) (plainEvent 0x01 .event c 0)

/-- A band becomes a retiring band by the steps of a channel, in a degrade event, with its record and SERVICE_SOON (10 R210, R211, 18
R370). -/
def State.retireBand (s : State) (c b : Nat) : State :=
  if s.band c b = .retiring || s.band c b = .offline then s
  else
    let s := s.degrade (c / 96) c b fun s =>
      (((s.setBand c b .retiring).markRegions fun m => m == (c, b)).request 18 true false).keepCap
    s.logError (0x10 + c / 32) (plainEvent 0x01 .event c b)

/-- HBM_LANE_FAILURE: the lane waits for a spare; with none left the channel retires (10 R209, R211). -/
def effHbmLaneFailure (c : ChanId) (lane : Nat) (s : State) : State :=
  let x := s.chan c
  if x.state = .offline || x.failed.contains lane then s
  else
    let t := s.setChan c { x with failed := x.failed ++ [lane] }
    if 4 ≤ x.spares + x.failed.length then t.retireChannel c else t
def execHbmLaneFailure (c : ChanId) (lane : Nat) (s : State) : Host.Outcome State Fault Refusal :=
  s.live (effHbmLaneFailure c lane)

/-- HBM_RETRAIN: spares take the place of failed lanes, each with its record; the fourth raises SERVICE_SOON (10 R209, 18 R370). -/
def effHbmRetrain (c : ChanId) (s : State) : State :=
  let x := s.chan c
  let n := min x.failed.length (4 - x.spares)
  if x.state = .offline || n = 0 then s
  else
    let s := s.setChan c { x with spares := x.spares + n, failed := x.failed.drop n }
    let s := (x.failed.take n).foldl (fun s l => s.logError (0x10 + c / 32) (plainEvent 0x27 .event c l)) s
    if x.spares + n = 4 then s.request 16 true false else s
def execHbmRetrain (c : ChanId) (s : State) : Host.Outcome State Fault Refusal := s.live (effHbmRetrain c)

/-- ROW_SOFT_REPAIR: the repair of a row that three corrected errors within 24 h have started ends: the row is repaired, and its hard repair
follows at the next start-up, or its band retires (10 R210, 18 R369). -/
def effRowSoftRepair (c : ChanId) (band row : Nat) (spareLeft : Bool) (s : State) : State :=
  if !s.hbm.rowDue.contains (c.val, band, row) then s
  else
  let s := { s with hbm := { s.hbm with rowDue := s.hbm.rowDue.filter (· != (c.val, band, row)) } }
  if spareLeft then
    let s := { s with flash := { s.flash with rows := if s.flash.rows.contains (c.val, band, row) then s.flash.rows
                                                      else s.flash.rows ++ [(c.val, band, row)] } }
    s.logError (0x10 + c / 32) (plainEvent 0x27 .event c row)
  else s.retireBand c band
def execRowSoftRepair (c : ChanId) (band row : Nat) (spareLeft : Bool) (s : State) : Host.Outcome State Fault Refusal :=
  s.live (effRowSoftRepair c band row spareLeft)

end Sys2Proof.Machine
end

