-- ==== Sys2Proof/Machine/Observe.lean ====
section
/-! DEFINITION. The observation directory and the per-context areas (20 R389-R391, R393), Tint watch entries (20 R395-R397), counter
samples and lost trace records (20 R392, R394), analogue test buses and test instruments (20 R399-R401). -/

namespace Sys2Proof.Machine

/-! ### The observation directory -/

def State.obsBase (s : State) : Nat := bitsOf (s.reg64 (umberBar 0 + 0x4010)).toNat 43 5 * 32

/-- The areas that an entry describes; none when a reserved field is not 0 or W or L is out of range (20 R389, R390). -/
def Obs.decode (bs : List Byte) : Option Obs :=
  let w := byteAt bs 8
  let l := byteAt bs 10
  if byteAt bs 9 < 4 && zeroSpan bs 11 5 && 4 ≤ w && w ≤ 16 && 6 ≤ l && l ≤ 16 then
    some { twVa := BitVec.ofNat 64 (field bs 0 8), twLog2 := w, ctrOn := bitOf (byteAt bs 9) 0, trcOn := bitOf (byteAt bs 9) 1,
           trcLog2 := l, pctrVa := BitVec.ofNat 64 (field bs 16 8), trcVa := BitVec.ofNat 64 (field bs 24 8) }
  else none

/-- The entry of a CID, in memory owned by CID 0 (20 R389); none where it cannot be read. -/
def State.obsAt (s : State) (cid : Cid) : Option Nat :=
  let a := s.obsBase + 32 * cid.toNat
  if s.obsBase = 0 || !s.spanMapped a 32 || !s.ownOk 0 false a 32 then none else some a
def State.obsOf (s : State) (cid : Cid) : Option Obs :=
  match s.obsAt cid with
  | some a => if s.brokenIn a 32 then none else Obs.decode (s.readBytes a 32)
  | none => none

/-- The read of a CID's entry (20 R389); one that meets uncorrectable data is recorded and gives no areas (18 R363). -/
def State.readObs (s : State) (cid : Cid) : State × Option Obs :=
  match s.obsAt cid with
  | some a =>
    if s.brokenIn a 32 then (s.ueRecord 0 a 32 none, none)
    else (let (s, bs) := s.memRead 0 a 32 false; (s, Obs.decode bs))
  | none => (s, none)

/-! ### Per-context areas -/

/-- Who writes the per-context areas from die d. -/
def areaReq (d : Nat) : Requester := { die := d, cell := none, req := 0xFFFF, cmd := none, item := 0, thr := none }

/-- Tint watch and trace records of a SEALED CID go only into granules that the CID owns (17 R356). -/
def State.areaOwned (s : State) (d : Nat) (cid : Cid) (va n : Nat) : Bool :=
  !s.sealedCid cid || (granulePieces va n).all fun p =>
    match (s.translate (areaReq d) cid p.1 p.2 .dispatchWrite).2 with
    | .at a _ => hasOwner a && (granulesOf a p.2).all fun g => (s.owner g).owner == cid
    | _ => true

/-- A write to a per-context area under its CID from die d, and whether it is over; one that would fault is dropped, one that cannot be
made yet leaves what a wait leaves (20 R390). -/
def State.areaWrite (s : State) (d : Nat) (cid : Cid) (va : Nat) (bs : List Byte) : State × Bool :=
  if !s.areaOwned d cid va bs.length then (s.setWrFail d, true)
  else match s.engWrite (areaReq d) cid va bs .dispatchWrite false with
  | (t, .done) => (t, true)
  | (t, .remote a) =>
    (match t.fabSend d (.area d none) cid a (.write bs) with
     | (u, .sent) => (u, true)
     | (_, .stall) => (s.waits t, false)
     | _ => (s.setWrFail d, true))
  | (t, .stall) => (s.waits t, false)
  | _ => (s.setWrFail d, true)

/-- A command's atomic addition to a 64-bit word of its context counters, and whether it is over (20 R391). -/
def State.areaAdd (s : State) (c : Cmd) (va : Nat) (v : DWord) : State × Bool :=
  let d := c.ring / 256
  let cid := c.cid
  let acc : IoAccess := .atomic .add true v 0
  match s.translate (areaReq d) cid va 8 .dispatchWrite with
  | (t, .at a nl) =>
    if isRemote a then
      (match t.fabSend d (.area d (some (c.ring, c.seq))) cid a acc with
       | (u, .sent) => (u, true)
       | (_, .stall) => (s.waits t, false)
       | _ => (s.setWrFail d, true))
    else if !t.homeOk cid a acc then (s.setWrFail d, true)
    else match t.ways d a 8 with
      | .cut => (s.setWrFail d, true)
      | .stall => (s.waits t, false)
      | .clear =>
        if !t.homeTakes cid a acc then (s.waits t, false)
        else if t.meetsBroken a acc then ((t.ueAccess cid a acc (some (c.ring, c.seq))).setWrFail d, true)
        else ((t.homeAccess cid a nl acc).1, true)
  | (t, .waits) => (s.waits t, false)
  | _ => (s.setWrFail d, true)

/-- The counts of a command, one after another from an address, and those that are not added yet (20 R391). -/
def State.areaAdds (s : State) (c : Cmd) : Nat → List DWord → State × List DWord
  | _, [] => (s, [])
  | va, v :: vs =>
    match s.areaAdd c va v with
    | (t, true) => State.areaAdds t c (va + 8) vs
    | (t, false) => (t, v :: vs)

/-- The command's counts enter the context counters, the eight words of PCTR_VA in order; none is left when it is over (20 R391). -/
def State.addCounts (s : State) (c : Cmd) : State × List DWord :=
  match c.obs with
  | some o =>
    if o.ctrOn then s.areaAdds c (o.pctrVa.toNat + 8 * (8 - c.counts.length)) c.counts else (s, [])
  | none => (s, [])

/-! ### Trace -/

def seqDflt (_ : Nat) : Word := 0

/-- Store a record in the ring of a context in this die, or hold it until it can be written (20 R389, R392, R393). -/
def State.storeCtxTrace (s : State) (d : Nat) (r : TraceRec) (k : Cid × Nat × Nat) : State :=
  let (cid, va, log2) := k
  let q := tabGet seqDflt (s.ochre d).ctxSeq cid.toNat
  match s.areaWrite d cid (va + d * 32 * 2 ^ log2 + 32 * (q.toNat % 2 ^ log2)) (r.bytes d q.toNat log2) with
  | (t, true) => t.setOchre d { t.ochre d with ctxSeq := tabSet seqDflt (t.ochre d).ctxSeq cid.toNat (q + 1) }
  | (t, false) => t.holdTrace d { r with ctxRing := some k }

/-- A waiting record is stored in its ring. -/
def State.storeAny (s : State) (d : Nat) (r : TraceRec) : State :=
  match r.ctxRing with
  | some k => s.storeCtxTrace d r k
  | none => if s.trcReady d then s.storeTrace d r else s.holdTrace d r

/-- A record of a command's kinds 1-3: into the global ring unless its CID is SEALED, and into the context's ring (20 R392, R393). -/
def State.traceFor (s : State) (d kind : Nat) (cid : Cid) (tags : BitVec 16 × Word) (obs : Option Obs) (arg16 arg56 : Nat) : State :=
  let r : TraceRec := { s.traceOf kind arg56 with layer := tags.1, operator := tags.2, cid := cid, arg16 := BitVec.ofNat 16 arg16 }
  let s := if s.sealedCid cid then s else s.traceGlobal d r
  match obs with
  | some o =>
    if !o.trcOn then s
    else
      let k := (cid, o.trcVa.toNat, o.trcLog2)
      if s.traceWaits d then s.holdTrace d { r with ctxRing := some k } else s.storeCtxTrace d r k
  | none => s

def Cmd.tags (c : Cmd) : BitVec 16 × Word := (c.layer, c.operator)

/-- TRACE_LOST_RECORD: room returns; the LOST record of each ring comes first, then what was held (20 R392, R393; log 47). -/
def effTraceLostRecord (die : Fin 6) (s : State) : State :=
  if s.traceSpent then s
  else
    let l := s.log die
    let s := s.setLog die { l with trcHeld := [], trcLost := 0, ctxLost := [] }
    let s := if l.trcLost ≠ 0 && s.trcOn die 7 then s.storeTrace die (s.traceOf 7 l.trcLost) else s
    let s := l.ctxLost.foldl (fun s e => s.storeCtxTrace die (s.traceOf 7 e.2) e.1) s
    l.trcHeld.foldl (fun s r => s.storeAny die r) s
def execTraceLostRecord (die : Fin 6) (s : State) : Host.Outcome State Fault Refusal := s.live (effTraceLostRecord die)

/-! ### Counter samples -/

/-- Tags and CID of the die's command in progress that started earliest; one that failed a check never did (13 R273, 20 R394). -/
def State.sampleTags (s : State) (die : Nat) : (BitVec 16 × Word) × Cid :=
  match s.cmds.filter fun c => c.ring / 256 == die && c.passed with
  | [] => ((0, 0), 0xFFFF)
  | c :: cs =>
    let c := cs.foldl (fun m x => if x.startTime.toNat < m.startTime.toNat then x else m) c
    (if s.sealedCid c.cid then (0xFFFF, 0xFFFFFFFF) else c.tags, c.cid)

/-- Records of the enabled counters of a die, in increasing number (20 R394). -/
def State.sampleDie (s : State) (die : Nat) : State :=
  let (tags, cid) := s.sampleTags die
  let period := (s.reg (dieBar die + 0x3100)).toNat / 16 % 2 ^ 16
  if period = 0 || s.time.toNat % 1000 ≠ 0 || s.time.toNat / 1000 % period ≠ 0 then s
  else (List.range 16).foldl (fun s n =>
    if bitOf (s.reg (dieBar die + 0x3000 + 4 * n)).toNat 8 then
      s.traceGlobal die { s.traceOf 6 (tabGet pmcDflt (s.log die).pmc n).toNat with
                          layer := tags.1, operator := tags.2, cid := cid, arg16 := BitVec.ofNat 16 n }
    else s) s

/-- COUNTER_SAMPLE: at a sampling tick, every die (20 R394). -/
def effCounterSample (s : State) : State := (List.range 6).foldl (fun s d => s.sampleDie d) s
def execCounterSample (s : State) : Host.Outcome State Fault Refusal := s.live effCounterSample

/-! ### Tint watch entries -/

/-- A 320-bit two's-complement field, and its value. -/
def sumBytes (v : Int) : List Byte := leBytes 40 (v % (2 ^ 320 : Int)).toNat

/-- The flags that a report carries (20 R396). -/
def Tint.flags (t : Tint) : Nat := 2 * t.pinf.toNat + 4 * t.ninf.toNat + 8 * t.sumOvf.toNat

/-- The entry after a merge, and whether the tags collided (20 R396, R397). -/
def Tint.merge (t : Tint) (tags : BitVec 16 × Word) (time : DWord) (e : List Byte) : List Byte × Bool :=
  let valid := bitOf (byteAt e 6) 0
  if valid && (field e 0 4 ≠ tags.2.toNat || field e 4 2 ≠ tags.1.toNat) then
    (e.set 6 (BitVec.ofNat 8 (byteAt e 6 ||| 16)), true)
  else
    let num := fun (i n : Nat) => if valid then field e i n else 0
    let w := fun (i : Nat) (dflt : Word) => if valid then BitVec.ofNat 32 (field e i 4) else dflt
    let sum := signedOf 320 (num 48 40) + t.sum
    let flags := (if valid then byteAt e 6 else 1) ||| t.flags
    let ovf := bitOf flags 3 || !(-(2 ^ 319 : Int) ≤ sum && sum < (2 ^ 319 : Int))
    let flags := if ovf then flags ||| 8 else flags
    (leBytes 4 tags.2.toNat ++ leBytes 2 tags.1.toNat ++ leBytes 1 flags ++ leBytes 1 0 ++ leBytes 8 (num 8 8 + t.count.toNat) ++
     leBytes 4 (fp32Min t.mn (w 16 0x7F800000)).toNat ++ leBytes 4 (fp32Max t.mx (w 20 0xFF800000)).toNat ++
     leBytes 4 (fp32Max t.amax (w 24 0)).toNat ++ leBytes 4 0 ++ leBytes 8 (num 32 8 + t.sat.toNat) ++
     leBytes 8 (num 40 8 + t.nan.toNat) ++ (if ovf then sumBytes 0 else sumBytes sum) ++
     leBytes 8 (num 88 8 + t.digest.toNat) ++ leBytes 8 (max (num 96 8) time.toNat) ++ leBytes 4 (num 104 4 + 1) ++ leBytes 20 0, false)

/-- Another command's merge into a line of another package is not over. -/
def State.mergeBusy (s : State) (c : Cmd) (a : Nat) : Bool :=
  (s.fab.reqs.any fun q => !q.who.ofErrand (.ring c.ring c.seq) && spansMeet q.addr (accBytes q.access) a 128) ||
  s.fab.errands.any fun e => e.key != .ring c.ring c.seq && (tabFind e.bytes a).isSome

/-- The merge into an entry in another package: the entry is read and written over the fabric, one command's merge after another's
(14 R301, 20 R397; log 44). -/
def State.mergeRemote (s u : State) (c : Cmd) (t : Tint) (a : Nat) : State × Bool :=
  let d := c.ring / 256
  let k := ErrandKey.ring c.ring c.seq
  if s.mergeBusy c a then (s.waits u, false)
  else match s.errandRead u k (areaReq d) c.cid a 128 with
    | (u, .bytes e) =>
      let (bs, hit) := t.merge c.tags u.time e
      (match u.fabSend d (.area d (some (c.ring, c.seq))) c.cid a (.write bs) with
       | (v, .sent) => (let v := v.endErrand k; if hit then v.setTwCollide d else v, true)
       | (_, .stall) => (s.waits u, false)
       | _ => ((s.endErrand k).setWrFail d, true))
    | (u, .bad _) => ((u.endErrand k).setWrFail d, true)
    | (u, _) => (u, false)

/-- A command's reports merge into its entry, one read-modify-write under its CID, and whether that is over; one that would fault is
dropped (20 R390, R397). A command with nothing to report merges as well: it adds 1 to COMMANDS. -/
def State.mergeTint (s : State) (c : Cmd) : State × Bool :=
  let d := c.ring / 256
  match c.obs, c.tint with
  | some o, some t =>
    if o.twVa = 0 then (s, true)
    else
      let va := o.twVa.toNat + 128 * (c.layer.toNat % 2 ^ o.twLog2)
      let acc := IoAccess.write (leBytes 128 0)
      if !s.areaOwned d c.cid va 128 then (s.setWrFail d, true)
      else match s.translate (areaReq d) c.cid va 128 .dispatchWrite with
      | (u, .at a nl) =>
        if isRemote a then s.mergeRemote u c t a
        else if !u.homeOk c.cid a acc then (s.setWrFail d, true)
        else (match u.ways d a 128 with
          | .cut => (s.setWrFail d, true)
          | .stall => (s.waits u, false)
          | .clear =>
            if !u.homeTakes c.cid a acc then (s.waits u, false)
            else if u.brokenIn a 128 then ((u.ueRecord c.cid a 128 (some (c.ring, c.seq))).setWrFail d, true)
            else
              let (bs, hit) := t.merge c.tags u.time (u.readBytes a 128)
              let u := (u.homeAccess c.cid a nl (.write bs)).1
              (if hit then u.setTwCollide d else u, true))
      | (u, .waits) => (s.waits u, false)
      | _ => (s.setWrFail d, true)
  | _, _ => (s, true)

/-! ### Test -/

/-- ATB_SELECT: the bus leaves its source and takes the new one, under a token with scope bit 0 (20 R399, R400). -/
def effAtbSelect (die : Fin 6) (bus : Bool) (src : AtbSource) (s : State) : State :=
  let dflt : Nat → AtbSource := fun _ => { code := 0, name := 0 }
  if s.unlocked 0 && src.code ≤ 6 then
    { s with pins := { s.pins with atb := tabSet dflt s.pins.atb (2 * die.val + bus.toNat)
                                            (if src.code = 0 then { code := 0, name := 0 } else src) } }
  else s
def execAtbSelect (die : Fin 6) (bus : Bool) (src : AtbSource) (s : State) : Host.Outcome State Fault Refusal :=
  s.live (effAtbSelect die bus src)

/-- Instruments that change state (20 R401). -/
def instrumentChanges : Instrument → Bool
  | .scan | .memoryBist | .logicBist | .laneMargin => true
  | _ => false

/-- A part on which an instrument that changes state may run: a disabled cell, or any part in production test (20 R401). -/
def State.testable (s : State) (p : TestPart) : Bool :=
  s.pins.prodTest || (match p with
    | .cell g => !bitOf (s.ochre (g.val / 64)).cellEn.toNat (g.val % 64)
    | .other _ _ => false)

/-- A long accumulator's elements from a free value, 113 bits each. -/
def freeElems (v : BitVec 1851392) : Tab Elem :=
  ((List.range 16384).map fun i =>
    (i, ({ a := BitVec.ofNat 112 (bitsOf v.toNat (113 * i + 111) (113 * i)), nan := bitOf v.toNat (113 * i + 112) } : Elem))).filter
      fun e => e.2 != { a := 0, nan := false }
def freeBank (v : BitVec 1851394) : Bank :=
  { empty := bitOf v.toNat 1851392, int := bitOf v.toNat 1851393, elems := freeElems (v.truncate 1851392) }
def freeFlags (v : BitVec 4) : AccFlags := { nan := v.getLsbD 0, pinf := v.getLsbD 1, ninf := v.getLsbD 2, nz := v.getLsbD 3 }

/-- A cell after a state-changing instrument: its memory, registers, banks, tile buffers and accumulators are free (20 R401; log 4). -/
def State.scanCell (s : State) (g : Nat) : State :=
  let (s, mem) := s.draw 16777216
  let (s, x) := s.draw 1984
  let (s, pc) := s.draw 64
  let (s, b0) := s.draw 1851394
  let (s, b1) := s.draw 1851394
  let (s, tb) := s.draw 3145728
  let (s, narrow) := s.draw 320
  let (s, wide) := s.draw 4352
  let (s, nf) := s.draw 4
  let (s, wf) := s.draw 4
  let (s, terms) := s.draw 32
  let xs := ((List.range 31).map fun i => (i + 1, BitVec.ofNat 64 (bitsOf x.toNat (64 * i + 63) (64 * i)))).filter fun e => e.2 != 0
  let c := (s.cell g).write 0 (leBytes 2097152 mem.toNat)
  s.setCell g { c with
    core := { c.core with pc := pc, x := xs },
    matrix := { c.matrix with bank0 := freeBank b0, bank1 := freeBank b1 },
    vec := { c.vec with tb := tabSetMany zeroByte c.vec.tb 0 (leBytes 393216 tb.toNat), narrow := narrow, wide := wide,
                        nflags := freeFlags nf, wflags := freeFlags wf, terms := terms } }

/-- Another part of a die: DESIGN CHOICE (log 4), part n is granule n of the memory that the die serves, and its bytes are free; a part
that is no such granule holds nothing of this model's state. -/
def State.scanPart (s : State) (die n : Nat) : State :=
  let a := 2097152 * n
  if s.mapped a && s.memDie a = die then
    (let (s, v) := s.draw 16777216; s.bgWrite 0 a (leBytes 2097152 v.toNat) false)
  else s

/-- The part forgets what it held (20 R401). -/
def State.scanned (s : State) (p : TestPart) : State :=
  match p with
  | .cell g => s.scanCell g
  | .other die n => s.scanPart die n

/-- TEST_INSTRUMENT_REQUEST: runs under a token with scope bit 0, or is refused and changes nothing (20 R399, R401). -/
def effTestInstrumentRequest (i : Instrument) (part : TestPart) (s : State) : State :=
  if s.unlocked 0 && instrumentChanges i && s.testable part then s.scanned part else s
def execTestInstrumentRequest (i : Instrument) (part : TestPart) (s : State) : Host.Outcome State Fault Refusal :=
  s.live (effTestInstrumentRequest i part)

end Sys2Proof.Machine
end

