-- ==== Sys2Proof/Machine/Walks.lean ====
section
/-! DEFINITION. Walks and fault records as events of a die (11 R218-R222, R227), and the requests of third devices at a root port
(10 R187, 11 R229-R231, 13 R285-R288, R434). -/

namespace Sys2Proof.Machine

/-! ### Walks -/

/-- The requester of a die's walker that serves no cell. -/
def walkReq (d : Nat) : Requester := areaReq d

/-- A walk of a virtual address that begins now (11 R218, R222). -/
def State.beginWalk (s : State) (d : Nat) (cid : Cid) (va kind : Nat) : State × Walk :=
  let (t, r) := s.makeWalk d cid va none
  let w : Walk := { cid := cid, va := va, kind := kind, gen := s.xlt.gen, found := none, status := stOk, stale := false }
  (t, match r with
      | .ok e => { w with found := some e }
      | .error st => { w with status := st })

/-- A cached entry or a walk in flight of the die serves a miss (11 R220). -/
def State.missServed (s : State) (d : Nat) (cid : Cid) (va : Nat) : Bool :=
  ((s.ochre d).xc.any fun e => e.covers cid va) || (s.ochre d).walks.any fun w => w.cid == cid && w.va == va

/-- A miss takes a walker that is free (11 R220). -/
def State.takeWalker (s : State) (d : Nat) (cid : Cid) (va kind : Nat) : State :=
  let (s, w) := s.beginWalk d cid va kind
  s.setOchre d { s.ochre d with walks := (s.ochre d).walks ++ [w] }

/-- A walker of the die is free and can read what the walk needs (01 R13, 10 R208, 11 R220). -/
def State.walkerFree (s : State) (d : Nat) (cid : Cid) (va : Nat) : Bool := (s.ochre d).walks.length < 32 && s.walkReady d cid va

/-- A miss of a die: merged into a walk of the same CID and address, walked, or queued while no walker can take it (11 R220). -/
def State.miss (s : State) (d : Nat) (cid : Cid) (va kind : Nat) : State :=
  let o := s.ochre d
  if s.missServed d cid va then s
  else if s.walkerFree d cid va then s.takeWalker d cid va kind
  else if o.missQ.any fun m => m.1 == cid && m.2.1 == va then s
  else s.setOchre d { o with missQ := o.missQ ++ [(cid, va, kind)] }

/-- TRANSLATION_WALK (11 R218). -/
def effTranslationWalk (d : DieId) (cid : Cid) (va : DWord) (kind : Nat) (s : State) : State := s.miss d cid va.toNat kind
def execTranslationWalk (d : DieId) (cid : Cid) (va : DWord) (kind : Nat) (s : State) : Host.Outcome State Fault Refusal :=
  s.live (effTranslationWalk d cid va kind)

/-- Walkers take queued misses in arrival order, but for those that cannot be walked yet; one that a cached entry covers by now needs none
(11 R220). -/
def State.nextMisses (d : Nat) : List (Cid × Nat × Nat) → List (Cid × Nat × Nat) → State → State
  | left, [], s => s.setOchre d { s.ochre d with missQ := left }
  | left, m :: ms, s =>
    if s.missServed d m.1 m.2.1 then State.nextMisses d left ms s
    else if s.walkerFree d m.1 m.2.1 then State.nextMisses d left ms (s.takeWalker d m.1 m.2.1 m.2.2)
    else State.nextMisses d (left ++ [m]) ms s
def State.queuedMisses (s : State) (d : Nat) : State :=
  if (s.ochre d).missQ.isEmpty then s else State.nextMisses d [] (s.ochre d).missQ s

/-! ### Fault records -/

/-- The command that a fault's requester serves, while the block has it (11 R227). -/
def State.faultCmd (s : State) (f : FaultRec) : Option Cmd := f.cmd.bind fun k => s.cmd k.1 k.2

/-- The tags and the observation areas of a fault's trace record: those of its command as read at its start; of a command that has not
started, and of a fault of no command, the areas that the CID's entry gives now (20 R389, R393; log 47). -/
def State.faultTags (s : State) (f : FaultRec) : (BitVec 16 × Word) × Option Obs :=
  match s.faultCmd f with
  | some c => (c.tags, if c.passed then c.obs else s.obsOf f.cid)
  | none => ((0, 0), s.obsOf f.cid)

/-- Where the next fault record of a die goes (11 R227). -/
def State.fqSlot (s : State) (d : Nat) : Nat := s.fqBase d + 32 * ((s.ochre d).fqTail.toNat % 1024)

/-- FAULT_RECORD_WRITE: the oldest pending record that is not written goes into the queue, with its interrupt, once its path carries the
write (01 R13, 11 R227, 13 R261). -/
def effFaultRecordWrite (d : DieId) (s : State) : State :=
  if !s.fqEn d || s.fqFull d || (s.ownSlot (s.fqSlot d) 32 && !s.recordWay d (s.fqSlot d) 32) then s
  else match (s.ochre d).faults.find? fun f => !f.written with
    | none => s
    | some f =>
      let o := s.ochre d
      let q := o.fqTail.toNat
      let a := s.fqSlot d
      let s := if s.ownSlot a 32 then (s.memWrite 0 a (f.bytes s.time q) false).countLines d (s.memDie a) a 32 0 true else s
      let o := s.ochre d
      let s := s.setOchre d { o with fqTail := o.fqTail + 1,
                                     faults := o.faults.map fun x => if x == f then { x with written := true } else x }
      let s := (s.raise d 256).count d 0x0D (some f.cid) 1
      let (tags, obs) := s.faultTags f
      s.traceFor d 3 f.cid tags obs 0 f.fid.toNat
def execFaultRecordWrite (d : DieId) (s : State) : Host.Outcome State Fault Refusal := s.live (effFaultRecordWrite d)

/-! ### Requests of third devices -/

def csOk : BitVec 3 := 0
def csUnsupported : BitVec 3 := 1
def csAbort : BitVec 3 := 4

/-- The completion that a device gets. -/
def State.answerDev (s : State) (p : Nat) (st : BitVec 3) (bs : List Byte) : State :=
  s.setRoot p { s.root p with answer := some (st, bs) }
/-- The port logs an error under AER. -/
def State.logAer (s : State) (p : Nat) : State := s.setRoot p { s.root p with aer := (s.root p).aer + 1 }
/-- A refused request: its completion, or a posted write dropped; logged (10 R187, 11 R229). -/
def State.refuseDev (s : State) (p : Nat) (acc : IoAccess) (st : BitVec 3) : State :=
  match acc with
  | .write _ => s.logAer p
  | _ => (s.logAer p).answerDev p st []

/-- RP_DEFCID (21 R411). -/
def State.defCid (s : State) (p : Nat) : Cid := (s.reg (rootBlock p)).setWidth 16

/-- The CID that a request takes; a SEALED context is reached only under a PASID that its tenant granted (11 R229, 17 R344, R356). -/
def State.devCid (s : State) (p : Nat) (rid : BitVec 16) (pasid : Option (BitVec 20)) : Option Cid :=
  match pasid with
  | some x =>
    (match s.pasidFind p rid x with
     | some e => if s.sealedCid (s.entryCid p e) && !(s.root p).granted.contains e then none else some (s.entryCid p e)
     | none => none)
  | none => if s.sealedCid (s.defCid p) then none else some (s.defCid p)

/-- What the address of a request becomes. -/
inductive DevAddr where
  | at (a : Nat) (noLake : Bool)
  | unsupported
  | waits
deriving DecidableEq, Repr

/-- The physical address of a request (11 R229, R230): range permissions, MIG, lost ATS; a global address takes no translated request. -/
def State.devAddr (s : State) (p : Nat) (cid : Cid) (q : DeviceRequest) : State × DevAddr :=
  let va := q.addr.toNat
  if q.translated then (s, if (s.root p).atsOff.contains q.rid || isRemote va then .unsupported else .at va false)
  else
    let (s, r) := s.lookup (portReq p) cid va 0
    match r with
    | .bad _ => (s, .unsupported)
    | .waits => (s, .waits)
    | .entry e =>
      if e.mig || !(if accWrites q.access then e.w else e.r) || e.start + e.length < va + accBytes q.access then (s, .unsupported)
      else (s, .at (s.localise (e.pbase + (va - e.start))) e.nolake)

/-- An access of a device of port p to root port t's window, and whether it is over: peer to peer (13 R285, R288, R434). -/
def State.peerAccess (s : State) (p t a : Nat) (cid : Cid) (q : DeviceRequest) : State × Bool :=
  match q.access with
  | .write bs =>
    (match s.postOut t (peerMmio p q.rid cid a bs bs.length) with
     | (u, .done) => (u, true)
     | (_, .stall) => (s, false)
     | (u, _) => (u.refuseDev p q.access csUnsupported, true))
  | .read n =>
    (match s.readOut t (peerMmio p q.rid cid a [] n) with
     | (u, .bytes bs) => (u.answerDev p csOk bs, true)
     | (u, .stall) => (u, !(s.root t).l0)
     | (u, _) => (u.refuseDev p q.access csUnsupported, true))
  | .atomic .. => (s.refuseDev p q.access csUnsupported, true)

/-- A device's access at a local physical address, and whether it is over: mapping, ownership, the CXL window of a SEALED context,
uncorrectable data, an uncorrectable sync object (10 R187, R189, 11 R233, 17 R356, 18 R362, R363). DESIGN CHOICE (log 63): a span of device
registers is cut as an engine's is, into aligned pieces of at most 32 bytes. -/
def State.devLocal (s : State) (p : Nat) (cid : Cid) (a : Nat) (noLake : Bool) (q : DeviceRequest) : State × Bool :=
  let acc := q.access
  let n := accBytes acc
  let die := 4 + p / 2
  let refused := (s.refuseDev p acc csUnsupported, true)
  let sealedCxl := s.sealedCid cid && (match placeOf a with | .cxl _ => true | _ => false)
  if n = 0 || !s.spanMapped a n || sealedCxl || !s.ownOk cid (accWrites acc) a n then refused
  else match s.ways die a n with
    | .cut => refused
    | .stall => (s, false)
    | .clear =>
      match placeOf a, acc with
      | .mmio, _ =>
        (match s.portOf a with
         | some t => s.peerAccess p t a cid q
         | none => refused)
      | .device, .read n =>
        if bar0Ok cid a then (let (t, bs) := s.devRead a n; (t.answerDev p csOk bs, true)) else refused
      | .device, .write bs =>
        if !bar0Ok cid a then refused
        else if s.invStalls a bs.length then (s, false)
        else if s.signalsBroken a bs.length then (s.refuseDev p acc csAbort, true)
        else (s.devWrite cid a bs, true)
      | _, _ =>
        if !s.homeTakes cid a acc then (s, false)
        else if s.meetsBroken a acc then ((s.ueAccess cid a acc none).refuseDev p acc csAbort, true)
        else
          let (t, bs) := s.homeAccess cid a noLake acc
          match acc with
          | .write _ => (t, true)
          | _ => (t.answerDev p csOk bs, true)

/-- A device's access in another package: one packet for each block of 256 bytes (14 R298, R301; log 26). -/
def State.devRemote (s : State) (p : Nat) (cid : Cid) (a : Nat) (q : DeviceRequest) : State × Sent :=
  let who := FabWho.port p q.rid (!accWrites q.access)
  match q.access with
  | .write bs => s.fabWrites { portReq p with die := 4 + p / 2 } who cid a bs (packetPieces a bs.length)
  | acc => s.fabReads { portReq p with die := 4 + p / 2 } (fun _ => who) cid 0 a (packetPieces a (accBytes acc))

/-- A request of a device whose turn has come, and whether it is over; an atomic is no feature of the port (11 R229, 13 R285). -/
def State.devTry (s : State) (p : Nat) (q : DeviceRequest) : State × Bool :=
  match q.access with
  | .atomic .. => (s.refuseDev p q.access csUnsupported, true)
  | acc =>
    match s.devCid p q.rid q.pasid with
    | none => (s.refuseDev p acc csUnsupported, true)
    | some cid =>
      match s.devAddr p cid q with
      | (t, .unsupported) => (t.refuseDev p acc csUnsupported, true)
      | (t, .waits) => (s.waits t, false)
      | (t, .at a noLake) =>
        let (u, gone) :=
          if isRemote a then
            (match t.devRemote p cid a q with
             | (u, .sent) => (u, true)
             | (_, .stall) => (t, false)
             | (u, .bad _) => (u.refuseDev p acc csUnsupported, true))
          else t.devLocal p cid a noLake q
        if gone then (if accWrites acc then u.count (4 + p / 2) 0x28 (some cid) (accBytes acc) else u, true) else (s.waits u, false)

/-- A request of a function waits behind its earlier writes: those that have arrived, and those on their way to another package or held
toward a third device (13 R286). -/
def State.behindWrites (s : State) (p : Nat) (rid : BitVec 16) (earlier : List DeviceRequest) : Bool :=
  (earlier.any fun x => x.rid == rid && accWrites x.access) || (s.fab.reqs.any fun r => r.who == .port p rid false) ||
  s.mmioOwed fun h => h.src == .peer (Fin.ofNat 4 p) && h.rid == rid && !h.data.isEmpty

/-- The requests that have arrived at a port are performed in order, but for those that must wait (13 R286). -/
def State.drainDevice (p : Nat) : List DeviceRequest → List DeviceRequest → State → State
  | left, [], s => s.setRoot p { s.root p with posted := left }
  | left, q :: qs, s =>
    if s.behindWrites p q.rid left then State.drainDevice p (left ++ [q]) qs s
    else match s.devTry p q with
      | (t, true) => State.drainDevice p left qs t
      | (t, false) => State.drainDevice p (left ++ [q]) qs t
def State.drainPort (s : State) (p : Nat) : State :=
  if (s.root p).posted.isEmpty then s else State.drainDevice p [] (s.root p).posted s
def State.drainPorts (s : State) : State := (List.range 4).foldl (fun s p => s.drainPort p) s

/-- A request that arrives: performed in its turn; a write with Relaxed Ordering passes earlier ones (13 R286). -/
def State.devRequest (s : State) (p : Nat) (q : DeviceRequest) (relaxed : Bool) : State :=
  let s := s.drainPort p
  let wait := fun (t : State) => t.setRoot p { t.root p with posted := (t.root p).posted ++ [q] }
  if !relaxed && s.behindWrites p q.rid (s.root p).posted then wait s
  else match s.devTry p q with
    | (t, true) => t
    | (t, false) => wait t

/-- THIRD_DEVICE_REQUEST (11 R229). -/
def effThirdDeviceRequest (p : RootId) (q : DeviceRequest) (s : State) : State := s.devRequest p q false
def execThirdDeviceRequest (p : RootId) (q : DeviceRequest) (s : State) : Host.Outcome State Fault Refusal :=
  s.live (effThirdDeviceRequest p q)

/-- POSTED_WRITE (13 R286). -/
def effPostedWrite (p : RootId) (q : DeviceRequest) (relaxed : Bool) (s : State) : State :=
  match q.access with
  | .write _ => s.devRequest p q relaxed
  | _ => s
def execPostedWrite (p : RootId) (q : DeviceRequest) (relaxed : Bool) (s : State) : Host.Outcome State Fault Refusal :=
  s.live (effPostedWrite p q relaxed)

/-- A walk's result is installed, or discarded and the walk begins again after a broadcast (11 R222). -/
def State.finishWalk (s : State) (d i : Nat) : State :=
  let o := s.ochre d
  match o.walks[i]? with
  | none => s
  | some w =>
    if w.stale then
      let (s, w) := s.beginWalk d w.cid w.va w.kind
      s.setOchre d { s.ochre d with walks := (s.ochre d).walks.set i w }
    else
      let s := s.setOchre d { o with walks := o.walks.eraseIdx i }
      let s := match w.found with
        | some e => s.install (walkReq d) e
        | none => s
      s.queuedMisses d

/-- WALK_FINISH (11 R222); device requests that waited for a walk are tried again. -/
def effWalkFinish (d : DieId) (i : Nat) (s : State) : State := (s.finishWalk d i).drainPorts
def execWalkFinish (d : DieId) (i : Nat) (s : State) : Host.Outcome State Fault Refusal := s.live (effWalkFinish d i)

/-- QUOTA_ADMISSION (10 R208): at a tick; device requests that waited at a home are tried again. -/
def effQuotaAdmission (s : State) : State := s.admitHeld.drainPorts
def execQuotaAdmission (s : State) : Host.Outcome State Fault Refusal := s.live effQuotaAdmission

/-! ### ATS and PRI -/

/-- The largest power of two from 64 KiB upward whose aligned block around an address, virtual and physical, fits a range (11 R230). -/
def atsSize (e : XEntry) (va : Nat) : Nat :=
  (List.range 48).foldl (fun best k =>
    let size := 2 ^ (16 + k)
    let lo := va / size * size
    if e.start ≤ lo && lo + size ≤ e.start + e.length && (e.pbase + (lo - e.start)) % size = 0 then size else best) (2 ^ 16)

/-- The completion of an ATS request: translated address of the block, its size, R and W (11 R230; the model's own layout). -/
def atsBytes (pa size : Nat) (r w : Bool) : List Byte := leBytes 8 pa ++ leBytes 8 size ++ leBytes 1 (r.toNat + 2 * w.toNat)

/-- A function holds a translation under a PASID; an Invalidate Request on its way does not take that one away (11 R230, R231). -/
def RootPort.holdAts (r : RootPort) (rid : BitVec 16) (x : BitVec 20) : RootPort :=
  { r with ats := if r.ats.contains (rid, x) then r.ats else r.ats ++ [(rid, x)],
           atsOwed := r.atsOwed.map fun a => if a.rid == rid then { a with wipes := a.wipes.filter (· != x) } else a }

/-- ATS_TRANSLATION_REQUEST: MIG and global ranges report neither R nor W; while every walker is busy the function asks again
(11 R220, R230). -/
def effAtsTranslationRequest (p : RootId) (rid : BitVec 16) (pasid : Option (BitVec 20)) (va : DWord) (s : State) : State :=
  if (s.root p).atsOff.contains rid then s.refuseDev p (.read 0) csUnsupported
  else match s.devCid p rid pasid with
    | none => s.refuseDev p (.read 0) csUnsupported
    | some cid =>
      match s.lookup (portReq p) cid va.toNat 0 with
      | (t, .waits) => t
      | (t, .bad _) => t.answerDev p csOk (atsBytes 0 (2 ^ 16) false false)
      | (t, .entry e) =>
        let size := atsSize e va.toNat
        let pa := e.pbase + (va.toNat / size * size - e.start)
        if e.mig || isRemote pa then t.answerDev p csOk (atsBytes 0 size false false)
        else
          let t := match pasid with
            | some x => t.setRoot p ((t.root p).holdAts rid x)
            | none => t
          t.answerDev p csOk (atsBytes pa size e.r e.w)
def execAtsTranslationRequest (p : RootId) (rid : BitVec 16) (pasid : Option (BitVec 20)) (va : DWord) (s : State) :
    Host.Outcome State Fault Refusal := s.live (effAtsTranslationRequest p rid pasid va)

/-- PRI_PAGE_REQUEST: a fault record with CAUSE 2 and KIND 8 (11 R227, R230). -/
def effPriPageRequest (p : RootId) (rid : BitVec 16) (pasid : Option (BitVec 20)) (va : DWord) (prg : BitVec 16) (s : State) : State :=
  match s.devCid p rid pasid with
  | none => s.logAer p
  | some cid =>
    let d := (portReq p).die
    let o := s.ochre d
    let f : FaultRec := { fid := freshFid o.faults, va := vaGranule va.toNat, cid := cid, req := (portReq p).req, kind := 8, cause := 2,
                          prg := prg, cmd := none, written := false }
    s.setOchre d { o with faults := o.faults ++ [f] }
def execPriPageRequest (p : RootId) (rid : BitVec 16) (pasid : Option (BitVec 20)) (va : DWord) (prg : BitVec 16) (s : State) :
    Host.Outcome State Fault Refusal := s.live (effPriPageRequest p rid pasid va prg)

/-- A function acknowledges its oldest Invalidate Request: what that request took away is gone, and a PASID entry whose removal awaited it
(11 R231, 21 R411). -/
def RootPort.acked (r : RootPort) (rid : BitVec 16) : RootPort :=
  match r.atsOwed.find? fun x => x.rid == rid with
  | none => r
  | some x =>
    { r with atsOwed := r.atsOwed.filter (· != x), removing := r.removing.filter fun v => !(v.rid == rid && v.tag == x.tag),
             ats := r.ats.filter fun f => !(f.1 == rid && x.wipes.contains f.2) }

/-- A function that lost ATS owes nothing and holds nothing (11 R231). -/
def RootPort.loseAts (r : RootPort) (rid : BitVec 16) : RootPort :=
  { r with atsOwed := r.atsOwed.filter fun x => x.rid != rid, removing := r.removing.filter fun x => x.rid != rid,
           ats := r.ats.filter fun f => f.1 != rid, atsOff := r.atsOff ++ [rid], atsEvt := true, aer := r.aer + 1 }

/-- ATS_INVALIDATE_COMPLETION: a function acknowledges (11 R231). -/
def effAtsInvalidateCompletion (p : RootId) (rid : BitVec 16) (s : State) : State := s.setRoot p ((s.root p).acked rid)
def execAtsInvalidateCompletion (p : RootId) (rid : BitVec 16) (s : State) : Host.Outcome State Fault Refusal :=
  s.live (effAtsInvalidateCompletion p rid)

/-- ATS_INVALIDATE_TIMEOUT: a function that owes an answer loses ATS and counts as having acknowledged (11 R231). -/
def effAtsInvalidateTimeout (p : RootId) (rid : BitVec 16) (s : State) : State :=
  if (s.root p).atsOwed.any fun x => x.rid == rid then s.setRoot p ((s.root p).loseAts rid) else s
def execAtsInvalidateTimeout (p : RootId) (rid : BitVec 16) (s : State) : Host.Outcome State Fault Refusal :=
  s.live (effAtsInvalidateTimeout p rid)

end Sys2Proof.Machine
end

