-- ==== Sys2Proof/Machine/Commands.lean ====
section
/-! DEFINITION. Commands of the rings: fetch, the two stages of checks, start, the opcodes that need no cell, completion and records
(13 R267-R282, R435-R438). -/

namespace Sys2Proof.Machine

/-! ### Header and body fields (13 R268-R270) -/

def Cmd.inl (c : Cmd) : Bool := c.flag 9
def Cmd.fb (c : Cmd) : Bool := c.flag 10
def Cmd.fa (c : Cmd) : Bool := c.flag 11
def Cmd.tw (c : Cmd) : Bool := c.flag 12
def Cmd.ntf (c : Cmd) : Bool := c.flag 13
def Cmd.phase (c : Cmd) : Nat := bitsOf (field c.slot 0 4) 17 16
def Cmd.extCount (c : Cmd) : Nat := byteAt c.slot 3
def Cmd.waitObj (c : Cmd) : Nat := field c.slot 12 2
def Cmd.signalObj (c : Cmd) : Nat := field c.slot 14 2
def Cmd.sval (c : Cmd) : DWord := BitVec.ofNat 64 (field c.slot 48 8)
def Cmd.wval (c : Cmd) : DWord := BitVec.ofNat 64 (field c.slot 56 8)
def Cmd.tcid (c : Cmd) : Cid := BitVec.ofNat 16 (field c.slot 16 2)
def Cmd.ptab (c : Cmd) : Nat := field c.ext 0 8
def Cmd.pcount (c : Cmd) : Nat := byteAt c.ext 8

/-- EXT and INL that the opcode table allows (13 R269). -/
def extAllowed (opcode ext : Nat) (inl : Bool) : Bool :=
  match opcode with
  | 0x00 | 0x03 | 0x20 | 0x22 | 0x23 => ext = 0 && !inl
  | 0x01 | 0x02 => ext = 1 && !inl
  | 0x04 => 1 ≤ ext && ext ≤ 3 && inl
  | 0x08 => ext ≤ 3
  | 0x21 => ext ≤ 3 && !inl
  | _ => false

/-- The header fields of R268 and R269. -/
def Cmd.headerOk (c : Cmd) : Bool :=
  extAllowed c.opcode c.extCount c.inl && bitsOf (field c.slot 0 4) 15 14 = 0 && bitsOf (field c.slot 0 4) 23 18 = 0 &&
  zeroSpan c.slot 6 2

/-- Opcodes of CID 0 alone (13 R269, R270). -/
def Cmd.privileged (c : Cmd) : Bool := 0x20 ≤ c.opcode || (c.opcode = 3 && c.mig)

/-- First stage of checks (13 R273). -/
def State.stage1 (s : State) (c : Cmd) : Status :=
  if !c.headerOk then stFormat
  else if c.privileged && c.cid ≠ 0 then stAccess
  else if (c.wval ≠ 0 && !s.soNamed c.cid c.waitObj) || (c.sval ≠ 0 && !s.soNamed c.cid c.signalObj) then stAccess
  else stOk

/-! ### Body checks of the second stage (13 R270, R271, 09 R161, R162, 14 R306) -/

/-- Launch body and extension of CELL and KERNEL. -/
def Cmd.launchOk (c : Cmd) : Bool :=
  let kernel : Bool := c.opcode = 2
  let bl := bitsOf c.partBits 8 2
  field c.slot 16 8 % 8 = 0 && c.cellMask ≠ 0 && 1 ≤ c.itemCount && c.itemCount ≤ 2 ^ 24 && bl ≤ 64 && c.partBits < 2 ^ 10 &&
  c.pcount ≤ 64 && (kernel || 1 ≤ c.pcount) && (c.pcount = 0 || c.ptab % 64 = 0) && zeroSpan c.ext 9 3 && zeroSpan c.ext 22 42 &&
  (if kernel then
     1 ≤ c.threads && c.threads ≤ 1024 && 16 ≤ field c.ext 18 2 && field c.ext 18 2 ≤ 256 && c.lkib ≤ 1024 &&
     c.groups * 32 * c.rq ≤ 65536 && 1024 * c.lkib ≤ c.partition.bl
   else zeroSpan c.ext 16 6)

/-- Copy body. -/
def Cmd.copyOk (c : Cmd) : Bool :=
  c.src % 32 = 0 && c.dst % 32 = 0 && c.len % 32 = 0 && c.len ≠ 0 && bitsOf (field c.slot 32 8) 47 42 = 0 && c.cellMask ≠ 0 &&
  !spansMeet c.src c.len c.dst c.len

/-- Write body. -/
def Cmd.wlen (c : Cmd) : Nat := field c.slot 24 2
def Cmd.writeOk (c : Cmd) : Bool :=
  field c.slot 16 8 % 4 = 0 && 4 ≤ c.wlen && c.wlen ≤ 192 && c.wlen % 4 = 0 && c.extCount = (c.wlen + 63) / 64 && zeroSpan c.slot 26 22

/-- A policy record (17 R355). -/
def policyOk (r : List Byte) : Bool :=
  match byteAt r 0 with
  | 0 => zeroSpan r 1 63
  | 1 => zeroSpan r 1 1 && field r 2 2 ≤ 3 && zeroSpan r 6 2 && field r 8 4 < 2 ^ 20 && zeroSpan r 12 52
  | _ => false

/-- Body of CTX_SEAL (17 R355). -/
def Cmd.sealOk (c : Cmd) : Bool :=
  zeroSpan c.slot 18 6 && zeroSpan c.slot 32 16 && field c.slot 24 8 % 64 = 0 && (c.slots.drop 1).all policyOk

/-- Collective body (14 R306). -/
def Cmd.collCount (c : Cmd) : Nat := field c.slot 32 4
def Cmd.collKind (c : Cmd) : Nat := byteAt c.slot 36
def Cmd.collFmt (c : Cmd) : Nat := byteAt c.slot 37
def Cmd.group (c : Cmd) : DWord := BitVec.ofNat 64 (field c.slot 40 8)
def grpBase (g : DWord) : Nat := bitsOf g.toNat 19 0
def grpSize (g : DWord) : Nat := bitsOf g.toNat 39 20
def grpStride (g : DWord) : Nat := bitsOf g.toNat 59 40
def Cmd.collRoot (c : Cmd) : Nat := if c.inl then 0 else field c.ext 0 4
def Cmd.tag (c : Cmd) : Word := if c.inl then 0 else BitVec.ofNat 32 (field c.ext 4 4)

/-- Bytes of n elements of a format, 4-bit elements two to a byte. -/
def packedBytes (f : Fmt) (n : Nat) : Nat := (n * f.bits + 7) / 8

/-- The member index of a rank in a group, when it is a member. -/
def memberOf (g : DWord) (rank : Nat) : Option Nat :=
  if grpStride g ≠ 0 && grpBase g ≤ rank && (rank - grpBase g) % grpStride g = 0 && (rank - grpBase g) / grpStride g < grpSize g then
    some ((rank - grpBase g) / grpStride g)
  else none

/-- KIND and FMT that go together (14 R306); a BARRIER moves no element. -/
def kindFmt (kind : Nat) (f : Fmt) : Bool :=
  if kind ≤ 2 then f ∈ [Fmt.bf16, .fp32, .fp64, .long]
  else if kind = 6 || kind = 7 then f ∈ [Fmt.fp32, .fp64]
  else kind ≤ 5

def State.collOk (s : State) (c : Cmd) : Bool :=
  let g := c.group
  match Fmt.ofCode c.collFmt with
  | none => false
  | some f =>
    kindFmt c.collKind f && (c.inl || field c.slot 16 8 % 32 = 0) && field c.slot 24 8 % 32 = 0 && 1 ≤ c.collCount && c.collCount ≤ 2 ^ 28 &&
    byteAt c.slot 38 ≤ 2 && byteAt c.slot 39 = 0 && g.toNat < 2 ^ 60 && 1 ≤ grpSize g && 1 ≤ grpStride g &&
    grpBase g + (grpSize g - 1) * grpStride g ≤ 2 ^ 20 - 2 && (memberOf g s.rank).isSome && c.collRoot < grpSize g &&
    (c.collKind ≠ 2 || c.collCount % grpSize g = 0) &&
    (if c.inl then packedBytes f c.collCount ≤ 192 && c.extCount = (packedBytes f c.collCount + 63) / 64
     else c.extCount ≤ 1 && zeroSpan c.ext 8 56)

/-- The body of a command and its tables, R10 included. -/
def State.bodyOk (s : State) (c : Cmd) : Bool :=
  match c.opcode with
  | 0x00 => zeroSpan c.slot 16 32
  | 0x01 | 0x02 => c.launchOk
  | 0x03 => c.copyOk
  | 0x04 => c.writeOk
  | 0x08 => s.collOk c
  | 0x21 => c.sealOk
  | _ => zeroSpan c.slot 18 30

/-! ### Start conditions (05 R105, 13 R271, R280, 14 R309, 17 R355, R361) -/

/-- A PASID map entry names a CID, one whose removal is not acknowledged included (13 R280, 21 R411). -/
def State.pasidNames (s : State) (cid : Cid) : Bool :=
  (List.range 4).any fun p => ((s.root p).removing.any fun x => x.cid == cid) || s.regs.any fun q =>
    let a := q.1 / 8 * 8
    rootBlock p + 0x8000 ≤ a && a < rootBlock p + 0x10000 && bitOf (s.reg64 a).toNat 63 && bitsOf (s.reg64 a).toNat 31 16 = cid.toNat

def State.closable (s : State) (t : Cid) : Bool :=
  (s.ctx t).state ≠ .free && t ≠ 0 && !(s.ctx t).closing &&
  ((s.ringsOf t).all fun r => (s.ring r).state ≠ .running && (s.ring r).state ≠ .draining) && !s.pasidNames t

def State.sealable (s : State) (t : Cid) : Bool :=
  (s.ctx t).state = .opened && ((s.ringsOf t).all fun r => (s.ring r).state = .stopped) && (s.ctx t).prep.isSome && s.sec.unlock.isNone

def State.startOk (s : State) (c : Cmd) : Status :=
  match c.opcode with
  | 0x01 => if (s.cellSet c).isEmpty then stState else stOk
  | 0x02 =>
    if (s.cellSet c).isEmpty || ((s.cellSet c).any fun g => (s.cell g).job.any fun j => j.kind = .item) then stState else stOk
  | 0x03 =>
    if (s.cellSet c).isEmpty || (c.mig && (s.ctx c.mcid).state = .free) then stState
    else if c.mig && s.sealedCid c.mcid && (match placeOf c.dst with | .cxl _ => true | _ => false) then stAccess
    else stOk
  | 0x08 =>
    if (s.fab.colls.any fun x => x.group == c.group && x.tag == c.tag) ||
        (s.cmds.any fun x => x.opcode = 8 && (x.stage = .started || x.stage = .running) && x.group == c.group && x.tag == c.tag) then stState
    else stOk
  | 0x20 => if (s.ctx c.tcid).state = .free && c.tcid ≠ 0 then stOk else stState
  | 0x21 => if s.sealable c.tcid then stOk else stState
  | 0x22 => if (s.ctx c.tcid).state = .frozen then stOk else stState
  | 0x23 => if s.closable c.tcid then stOk else stState
  | _ => stOk

/-! ### Fetch -/

/-- A read of the dispatch unit under the ring's CID; one in another package is sent, and answered once its responses have come
(13 R262, 14 R301). -/
def State.dispRead (s : State) (r : Nat) (seq : Word) (cid : Cid) (va n : Nat) : State × Got :=
  match s.readPiece (dispatchReq r (some seq)) cid va n .dispatchRead false with
  | (t, .remote a) => s.errandRead t (.ring r seq) (dispatchReq r (some seq)) cid a n
  | r => r

/-- Address of the slot of a sequence (13 R265). -/
def Ring.slotAddr (x : Ring) (q : Word) : Nat := x.dbase.toNat + 64 * (q.toNat % x.size)

/-- Address of the record of sequence q (13 R265). -/
def Ring.recordAddr (x : Ring) (q : Word) : Nat := x.cbase.toNat + 32 * (q.toNat % x.size)

/-- A ring may start commands now: RUNNING, with no FATAL error, and not stopped by a warm reset (13 R279, R283, 18 R365). -/
def State.ringStarts (s : State) (r : Nat) : Bool :=
  (s.ring r).state = .running && !(s.ring r).aborting && !s.fatal && (!s.warm.active || s.warmRuns r)

/-- A dispatch unit stalls on a granule: its ring, with the fault record pending (13 R436, 11 R227). -/
def State.stallRing (s : State) (r : Nat) (va cause : Nat) : State :=
  let x := s.ring r
  (s.setRing r { x with stall := some (vaGranule va) }).pendFault (dispatchReq r none) x.cid va AccKind.dispatchRead.code cause 0

/-- The extension slots of a descriptor, one after another. -/
def State.fetchExts (s : State) (r : Nat) (x : Ring) (got : List (List Byte)) : Nat → Nat → State
  | 0, _ =>
    let c := freshCmd r x.fetch x.cid got s.time
    let y := s.ring r
    let s := s.endErrand (.ring r x.fetch)
    { s.setRing r { y with own := [], fetch := x.fetch + BitVec.ofNat 32 got.length } with cmds := s.cmds ++ [c] }
  | n + 1, i =>
    let a := x.slotAddr (x.fetch + BitVec.ofNat 32 i)
    match s.dispRead r x.fetch x.cid a 64 with
    | (t, .bytes bs) => State.fetchExts t r x (got ++ [bs]) n (i + 1)
    | (t, .bad st) => t.failFetch r st
    | (t, .mig _ k) => t.stallRing r a k
    | (t, _) => t

/-- With the descriptor's own slot read, once: its extension slots, as soon as the tail covers them too (13 R267, R269). -/
def State.fetchRest (s : State) (r : Nat) (own : List Byte) : State :=
  let x := { s.ring r with own := own }
  let s := s.setRing r x
  if x.mayFetch then s.fetchExts r x [own] (slotSpan own - 1) 1 else s.settleRing r

/-- DESCRIPTOR_FETCH (13 R267, R269, R436). -/
def effDescriptorFetch (r : RingId) (s : State) : State :=
  let x := s.ring r
  if !s.ringStarts r || x.stall.isSome || x.fetch = x.tail then s
  else if !x.own.isEmpty then s.fetchRest r x.own
  else match s.dispRead r x.fetch x.cid (x.slotAddr x.fetch) 64 with
    | (t, .bytes bs) => t.fetchRest r bs
    | (t, .bad st) => t.failFetch r st
    | (t, .mig _ k) => t.stallRing r (x.slotAddr x.fetch) k
    | (t, _) => t
def execDescriptorFetch (r : RingId) (s : State) : Host.Outcome State Fault Refusal := s.live (effDescriptorFetch r)

/-! ### Admission and start -/

/-- The ring's oldest command that has not started, with the commands of the ring before it (13 R273). -/
def State.nextCmd (s : State) (r : Nat) : Option (List Cmd × Cmd) :=
  let l := s.cmds.filter fun c => c.ring == r
  match l.dropWhile Cmd.hasStarted with
  | [] => none
  | c :: _ => some (l.takeWhile Cmd.hasStarted, c)

/-- Commands in progress on a die (13 R273). -/
def State.inProgress (s : State) (d : Nat) : List Cmd := s.cmds.filter fun c => c.ring / 256 == d && c.hasStarted

/-- The conditions of R273 other than order and WAIT. -/
def State.admits (s : State) (before : List Cmd) (c : Cmd) : Bool :=
  (!c.fb || before.isEmpty) && !before.any Cmd.fa && (s.inProgress (c.ring / 256)).length < 64 && before.length < 16

/-- COMMAND_ADMIT: the first stage of checks (13 R273). -/
def effCommandAdmit (r : RingId) (s : State) : State :=
  match s.nextCmd r with
  | none => s
  | some (before, c) =>
    if c.stage ≠ .fetched || !s.ringStarts r || !s.admits before c then s
    else
      let st := s.stage1 c
      s.setCmd (if st = stOk then { c with stage := .waiting } else { c with stage := .finished, status := st })
def execCommandAdmit (r : RingId) (s : State) : Host.Outcome State Fault Refusal := s.live (effCommandAdmit r)

/-- The parameter table, entry by entry from the i-th (06 R107). -/
def State.readParams (s : State) (c : Cmd) (got : List (BitVec 512)) : Nat → Nat → State × Except Got (List (BitVec 512))
  | 0, _ => (s, .ok got)
  | n + 1, i =>
    match s.dispRead c.ring c.seq c.cid (c.ptab + 64 * i) 64 with
    | (t, .bytes bs) => State.readParams t c (got ++ [BitVec.ofNat 512 (leNat bs)]) n (i + 1)
    | (t, o) => (t, .error o)

/-- The highest-ranked phase among a die's commands in progress (16 R333). -/
def State.setPhase (s : State) (d : Nat) : State :=
  match s.inProgress d with
  | [] => s
  | c :: cs => s.setGust d { s.gust d with phase := BitVec.ofNat 2 (cs.foldl (fun p x => min p x.phase) c.phase) }

/-- Work items, blocks or pieces of a command (05 R104, 13 R271). -/
def Cmd.items (c : Cmd) : Nat :=
  if c.opcode = 1 || c.opcode = 2 then c.itemCount else if c.opcode = 3 then (c.len + 65535) / 65536 else 0

/-- The command starts: its modes, its observation areas, its trace record (02 R38, R39, 16 R333, R334, 20 R389, R392). -/
def State.begin (s : State) (c : Cmd) (params : List (BitVec 512)) : State :=
  let d := c.ring / 256
  let (s, obs) := s.readObs c.cid
  let launch : Bool := c.opcode = 1 || c.opcode = 2
  let strict := (launch && bitOf c.partBits 9) || (s.ring c.ring).replay || (s.ochre d).strictForced
  let tint := match obs with
    | some o => if c.tw && o.twVa ≠ 0 then some Tint.empty else none
    | none => none
  let c := { c with stage := .started, params := params, strict := strict, obs := obs, tint := tint, total := c.items,
                    counts := List.replicate 8 0, startTime := s.time, passed := true }
  let s := (s.setCmd c).setPhase d
  let g := s.gust d
  let s := if g.warming.any fun w => w.1 == c.ring then s.setGust d { g with warming := g.warming.filter fun w => w.1 != c.ring } else s
  s.traceFor d 1 c.cid c.tags obs c.ring c.seq.toNat

/-- A command fails a check: it completes at once with that status, and what it has read from other packages is given up (13 R273). -/
def State.failCmd (s : State) (c : Cmd) (st : Status) : State :=
  (s.endErrand (.ring c.ring c.seq)).setCmd { c with stage := .finished, status := st }

/-- A command with the counts that its accesses have added meanwhile (20 R391). -/
def State.counted (s : State) (c : Cmd) : Cmd :=
  match s.cmd c.ring c.seq with
  | some x => { c with counts := x.counts }
  | none => c

/-- A command, whose progress stays, stalls on a granule (11 R227, 13 R438). -/
def State.stallCmd (s : State) (c : Cmd) (va cause kind : Nat) : State :=
  (s.setCmd { s.counted c with stall := some (vaGranule va) }).pendFault (dispatchReq c.ring (some c.seq)) c.cid va kind cause 0

/-- WAIT has been reached, or nothing is waited for (13 R273). -/
def State.waitOver (s : State) (c : Cmd) : Bool := c.wval = 0 || reached64 (s.so c.waitObj) c.wval

/-- A launch that is prepared or committed starts no command of the job's CID (14 R310). -/
def State.jobHolds (s : State) (cid : Cid) : Bool := (s.fab.state = .prepared || s.fab.state = .committed) && cid = s.jobCid

/-- A CTX_SEAL that fails its start conditions has used up the key pair of SEAL_PREP too (17 R354). -/
def State.sealDrops (s : State) (c : Cmd) : State :=
  if c.opcode = 0x21 then s.setCtx c.tcid { s.ctx c.tcid with prep := none } else s

/-- Whether the path to the sync object that a command names in a nonzero use carries the access (15 R319, R322, R323). -/
def State.objectWay (s : State) (c : Cmd) (o : Nat) (v : DWord) : Way := if v = 0 then .clear else s.soWay (c.ring / 256) o

/-- COMMAND_START: the second stage of checks, and the start (13 R273, 15 R319, R323, 18 R362). -/
def effCommandStart (r : RingId) (s : State) : State :=
  match s.nextCmd r with
  | none => s
  | some (before, c) =>
    if c.stage ≠ .waiting || !s.ringStarts r || !s.admits before c || c.stall.isSome || s.jobHolds c.cid then s
    else if s.objectWay c c.waitObj c.wval = .stall then s
    else if s.objectWay c c.waitObj c.wval = .cut then s.failCmd c stLink
    else if c.wval ≠ 0 && s.soBroken c.waitObj then s.failCmd c stMemUe
    else if !s.waitOver c then s
    else if !s.bodyOk c then s.failCmd c stFormat
    else
      let n := if c.opcode = 1 || c.opcode = 2 then c.pcount else 0
      match s.readParams c [] n 0 with
      | (t, .error (.bad st)) => t.failCmd c st
      | (t, .error (.mig va k)) => t.stallCmd c va k AccKind.dispatchRead.code
      | (t, .error _) => t
      | (t, .ok ps) =>
        let t := t.endErrand (.ring r c.seq)
        if !ps.all fun p => (PSet.decode p).ok then t.failCmd c stFormat
        else
          let st := t.startOk c
          if st ≠ stOk then (t.sealDrops c).failCmd c st else t.begin c ps
def execCommandStart (r : RingId) (s : State) : Host.Outcome State Fault Refusal := s.live (effCommandStart r)

/-! ### The opcodes -/

/-- A started command of an opcode begins its effect. -/
def State.onStarted (s : State) (r : Nat) (seq : Word) (opcode : Nat) (f : Cmd → State) : State :=
  match s.cmd r seq with
  | some c => if c.stage = .started && c.opcode = opcode && c.stall.isNone && !s.fatal then f c else s
  | none => s

/-- The command's effect has ended with a status. -/
def State.endCmd (s : State) (c : Cmd) (st : Status) : State := s.setCmd { s.counted c with stage := .finished, status := st }

/-- Dispatch of its items, blocks or pieces begins. -/
def State.launchCmd (s : State) (c : Cmd) : State := s.setCmd { c with stage := .running }

/-- NOP (13 R269). -/
def effNop (r : RingId) (seq : Word) (s : State) : State := s.onStarted r seq 0x00 fun c => s.endCmd c stOk
def execNop (r : RingId) (seq : Word) (s : State) : Host.Outcome State Fault Refusal := s.live (effNop r seq)

/-- CELL: its work items are handed out from now on (05 R104). -/
def effCell (r : RingId) (seq : Word) (s : State) : State := s.onStarted r seq 0x01 fun c => s.launchCmd c
def execCell (r : RingId) (seq : Word) (s : State) : Host.Outcome State Fault Refusal := s.live (effCell r seq)

/-- KERNEL: its blocks are handed out from now on (09 R160). -/
def effKernel (r : RingId) (seq : Word) (s : State) : State := s.onStarted r seq 0x02 fun c => s.launchCmd c
def execKernel (r : RingId) (seq : Word) (s : State) : Host.Outcome State Fault Refusal := s.live (effKernel r seq)

/-- COPY: its pieces are handed out from now on (13 R271). -/
def effCopy (r : RingId) (seq : Word) (s : State) : State := s.onStarted r seq 0x03 fun c => s.launchCmd c
def execCopy (r : RingId) (seq : Word) (s : State) : Host.Outcome State Fault Refusal := s.live (effCopy r seq)

/-- A store of a command fails at its home or beyond a port: it is none of those performed, and the command ends with the status (13 R277,
14 R301). -/
def Cmd.loseStore (c : Cmd) (n : Nat) (st : Status) : Cmd :=
  { c with moved := c.moved - n, status := if c.status = stOk then st else c.status }

/-- Stores of a command from an address on, piece by piece; those in another package are sent (13 R272). -/
def State.cmdStores (s : State) (c : Cmd) (va : Nat) (bs : List Byte) : List (Nat × Nat) → State
  | [] => s.endCmd c c.status
  | (p, n) :: ps =>
    let b := (bs.drop (p - va)).take n
    let w := dispatchReq c.ring (some c.seq)
    let next := { c with moved := p + n - va }
    match s.writePiece w c.cid p b .dispatchWrite false with
    | (t, .done) => State.cmdStores t next va bs ps
    | (t, .remote a) =>
      (match t.fabWrites w (.command c.ring c.seq) c.cid a b (packetPieces a b.length) with
       | (u, .sent) => State.cmdStores u next va bs ps
       | (u, .bad st) => u.endCmd c st
       | (_, .stall) => (s.waits t).setCmd (s.counted c))
    | (t, .bad st) => t.endCmd c st
    | (t, .mig v k) => t.stallCmd c v k AccKind.dispatchWrite.code
    | (t, .stall) => (s.waits t).setCmd (s.counted c)

/-- The stores that a command has not made yet, in pieces of at most one aligned block of 256 bytes; a store that has failed ends them at that
point (13 R272, R277). -/
def State.storeRest (s : State) (c : Cmd) (va : Nat) (bs : List Byte) : State :=
  if c.status ≠ stOk then s.endCmd c c.status
  else s.cmdStores { c with total := bs.length } va bs (packetPieces (va + c.moved) (bs.length - c.moved))

/-- WRITE: the stores that are not made yet (13 R272). -/
def effWrite (r : RingId) (seq : Word) (s : State) : State :=
  s.onStarted r seq 0x04 fun c => s.storeRest c (field c.slot 16 8) ((c.slots.drop 1).flatten.take c.wlen)
def execWrite (r : RingId) (seq : Word) (s : State) : Host.Outcome State Fault Refusal := s.live (effWrite r seq)

/-- CTX_OPEN (13 R280). -/
def effCtxOpen (r : RingId) (seq : Word) (s : State) : State :=
  s.onStarted r seq 0x20 fun c =>
    let x := s.ctx c.tcid
    if x.state = .free && c.tcid ≠ 0 then (s.setCtx c.tcid { x with state := .opened }).endCmd c stOk else s.endCmd c stState
def execCtxOpen (r : RingId) (seq : Word) (s : State) : Host.Outcome State Fault Refusal := s.live (effCtxOpen r seq)

/-- CTX_THAW (13 R280). -/
def effCtxThaw (r : RingId) (seq : Word) (s : State) : State :=
  s.onStarted r seq 0x22 fun c =>
    let x := s.ctx c.tcid
    if x.state = .frozen then (s.setCtx c.tcid { x with state := x.before }).endCmd c stOk else s.endCmd c stState
def execCtxThaw (r : RingId) (seq : Word) (s : State) : Host.Outcome State Fault Refusal := s.live (effCtxThaw r seq)

/-- A context's objects return to CID 0 with value 0, out of the uncorrectable state (13 R280). -/
def State.freeObjects (s : State) (t : Cid) : State :=
  let mine := (s.soOwn.filter fun p => p.2 == t).map (·.1)
  mine.foldl (fun s o => { (s.setSo o 0).setSoOwner o 0 with soBad := s.soBad.filter (· != o) }) s

/-- Granules of a CID, released: OWNER 0, KSLOT 0, PRIVATE, once zeroed (11 R232, R235). -/
def State.releaseGranules (s : State) (t : Cid) : State :=
  let mine := (s.own.filter fun p => p.2.owner == t).map fun p => ({ granule := p.1, entry := ownDflt p.1 } : Zeroing)
  { s with sec := { s.sec with zeroing := s.sec.zeroing ++ mine } }

/-- A context becomes FREE; whether its granules were zeroed lies with GRANULE_ZEROING_DONE (13 R280). -/
def State.freeCtx (s : State) (t : Cid) : State := s.setCtx t (Ctx.reset t.toNat)

/-- Every ring of a context stops; what still runs of it ends with E_ABORT (13 R280, R437). -/
def State.closeRings (s : State) (t : Cid) : State :=
  (s.ringsOf t).foldl (fun s r =>
    let x := s.ring r
    let s := (s.dropUnstarted r).cutRing r
    s.setRing r { x with state := .stopped, aborting := false, soeStop := false, ctxFault := false, recFail := false, stall := none }) s

/-- A context closes: its rings, objects and, if it was ever SEALED, its granules (13 R280, 17 R354). -/
def State.closeCtx (s : State) (t : Cid) : State :=
  let x := s.ctx t
  let s := (s.closeRings t).freeObjects t
  if x.everSealed && s.own.any fun p => p.2.owner == t then
    (s.setCtx t { s.ctx t with closing := true, prep := none }).releaseGranules t
  else s.freeCtx t

/-- CTX_CLOSE: complete at once, or when the granules of a context that was ever SEALED are zeroed (13 R280). -/
def effCtxClose (r : RingId) (seq : Word) (s : State) : State :=
  s.onStarted r seq 0x23 fun c =>
    if !s.closable c.tcid then s.endCmd c stState
    else
      let s := s.closeCtx c.tcid
      if (s.ctx c.tcid).closing then s.setCmd { c with stage := .running } else s.endCmd c stOk
def execCtxClose (r : RingId) (seq : Word) (s : State) : Host.Outcome State Fault Refusal := s.live (effCtxClose r seq)

/-! ### Completion (13 R275-R277, R437, R438) -/

/-- STATUS over the items: that of the lowest-numbered item that did not end OK (05 R104). -/
def Cmd.final (c : Cmd) : Status :=
  if c.status ≠ stOk then c.status
  else match c.firstBad with
    | some (_, st) => st
    | none => stOk

/-- A command passed its checks. -/
def Cmd.ran (c : Cmd) : Bool := c.passed

/-- DONE (13 R276, R437). -/
def Cmd.doneCount (c : Cmd) : Nat := if c.hasItems then c.ok else (c.final = stOk : Bool).toNat

/-- The 32 bytes of a record of slot q (13 R276, R277). -/
def Cmd.record (c : Cmd) (q : Word) (ext replay : Bool) (log2 : Nat) : List Byte :=
  let bad := match c.firstBad with
    | some (i, _) => i
    | none => 0xFFFFFFFF
  leBytes 4 q.toNat ++ leBytes 2 c.final.toNat ++ leBytes 2 c.layer.toNat ++ leBytes 4 c.operator.toNat ++ leBytes 4 bad ++
  leBytes 8 c.recTime.toNat ++ leBytes 4 c.doneCount ++
  leBytes 1 (c.partWrites.toNat + 2 * c.ctxFault.toNat + 4 * ext.toNat + 8 * replay.toNat + 16 * c.longOvf.toNat) ++ leBytes 2 0 ++
  [commitByte q.toNat log2]

/-- Slots of a command in the order of their records (13 R275, R277). -/
def Cmd.recordSlots (c : Cmd) : List (Word × Bool) :=
  ((List.range (slotSpan c.slot - 1)).map fun i => (c.seq + BitVec.ofNat 32 (i + 1), true)) ++ [(c.seq, false)]

/-- A record of the ring is committed (13 R275). -/
def State.commitRecord (s : State) (r : Nat) (q : Word) : State :=
  s.setRing r { s.ring r with commits := (s.ring r).commits.filter (· != q) ++ [q] }

/-- The first record that is due is written, or dropped where it cannot be (13 R438): the others remain. -/
def State.recordDone (s : State) (c : Cmd) (ok : Bool) : State :=
  let s := s.setCmd { c with due := c.due.drop 1, sent := false }
  match c.due with
  | [] => s
  | (q, _) :: _ => if ok then s.commitRecord c.ring q else s.ringFails c.ring fun x => { x with recFail := true }

/-- Write the records that are due, one after another; each in another package awaits its response (13 R275, R276, R438). -/
def State.putRecords (s : State) (c : Cmd) : List (Word × Bool) → State
  | [] => s
  | (q, ext) :: qs =>
    let c := { c with due := (q, ext) :: qs }
    let x := s.ring c.ring
    let a := x.recordAddr q
    let bs := c.record q ext x.replay x.log2.toNat
    match s.writePiece (dispatchReq c.ring (some c.seq)) c.cid a bs .dispatchWrite false with
    | (t, .done) => State.putRecords (t.recordDone c true) c qs
    | (t, .remote g) =>
      (match t.fabWrites (dispatchReq c.ring (some c.seq)) (.command c.ring c.seq) c.cid g bs (packetPieces g 32) with
       | (u, .sent) => u.setCmd { c with sent := true }
       | (u, .bad _) => State.putRecords (u.recordDone c false) c qs
       | (_, .stall) => s.waits t)
    | (t, .bad _) => State.putRecords (t.recordDone c false) c qs
    | (t, .mig v k) => t.stallCmd c v k AccKind.dispatchWrite.code
    | (t, .stall) => s.waits t

/-- RING_HEAD passes committed sequences in order (13 R275). -/
def Ring.advance : Nat → Ring → Ring
  | 0, x => x
  | n + 1, x =>
    if x.commits.contains x.head then Ring.advance n { x with commits := x.commits.filter (· != x.head), head := x.head + 1 } else x
def State.advanceHead (s : State) (r : Nat) : State := s.setRing r (Ring.advance (s.ring r).commits.length (s.ring r))

/-- The context that the command's status faults: its own, or TCID where the tag or a grant of CTX_SEAL failed (13 R281, 17 R355;
log 32). -/
def Cmd.faultCid (c : Cmd) : Cid := if c.sealBad then c.tcid else c.cid

/-- Counts and Tint watch reports of the command enter their areas, and whether that is over (20 R391, R397). -/
def State.observe (s : State) (c : Cmd) : State × Cmd × Bool :=
  if !c.ran then (s, c, true)
  else
    let (s, left) := s.addCounts c
    let c := { c with counts := left }
    if !left.isEmpty then (s.setCmd c, c, false)
    else
      let (s, gone) := s.mergeTint c
      let c := if gone then { c with tint := none } else c
      (s.setCmd c, c, gone)

/-- A WRITE or COLLECTIVE has ended with only part of its writes performed (13 R277). -/
def Cmd.halfDone (c : Cmd) : Bool := (c.opcode = 4 || c.opcode = 8) && c.final ≠ stOk && c.moved ≠ 0 && c.moved < c.total

/-- Before the records: the signal, which no path may carry any more, the context fault and its flag (13 R275, R277, R281, 15 R323, 18
R362). -/
def State.conclude (s : State) (c : Cmd) : State × Cmd :=
  let c := if c.final ≠ stOk || c.sval = 0 then c
    else if s.objectWay c c.signalObj c.sval = .cut then { c with status := stLink }
    else if s.soBroken c.signalObj then { c with status := stMemUe } else c
  let c := { c with partWrites := c.partWrites || c.halfDone }
  let s := if c.final = stOk && c.sval ≠ 0 then s.signal c.signalObj c.sval else s
  let st := (s.ctx c.faultCid).state
  let c := { c with stage := .recording, recTime := s.time, due := c.recordSlots,
                    ctxFault := faultsContext c.final && (st = .opened || st = .sealed) }
  (s.setCmd c, c)

/-- The cells of a kernel command that has completed have no kernel any more (09 R167). -/
def State.leaveKernel (s : State) (c : Cmd) : State :=
  if c.opcode = 2 then s.mapCells fun _ x => if x.kernel = some (c.ring, c.seq) then { x with kernel := none } else x else s

/-- After the records: head, notice, trace, SOE, context fault, and what the ring waits for (13 R275, R279, R281, R284, 20 R392). -/
def State.retireCmd (s : State) (c : Cmd) : State :=
  let r := c.ring
  let d := r / 256
  let s := ((s.dropCmd r c.seq).advanceHead r).leaveKernel c
  let s := s.setRing r { s.ring r with after := (s.ring r).after + 1 }
  let s := if c.ntf then s.raise d (r % 256) else s
  let s := s.traceFor d 2 c.cid c.tags c.obs r (c.seq.toNat + 2 ^ 32 * c.final.toNat)
  let s := if c.soe && c.final ≠ stOk then s.ringFails r fun x => { x with soeStop := true } else s
  let s := if c.ctxFault then s.faultCtx c.faultCid else s
  (s.settleRing r).setPhase d

/-- The records of a command that are due; once none is, it retires (13 R275). -/
def State.finishRecords (s : State) (c : Cmd) : State :=
  let s := s.putRecords c c.due
  match s.cmd c.ring c.seq with
  | some c => if c.due.isEmpty then s.retireCmd c else s
  | none => s

/-- COMMAND_COMPLETE: once every write of the command is performed (13 R239, R275). -/
def effCommandComplete (r : RingId) (seq : Word) (s : State) : State :=
  match s.cmd r seq with
  | none => s
  | some c =>
    if c.stall.isSome || s.cmdOwed r seq then s
    else match c.stage with
      | .finished =>
        let (s, c, gone) := s.observe c
        if gone && !s.cmdOwed r seq && !(c.final = stOk && s.objectWay c c.signalObj c.sval = .stall) then (let (s, c) := s.conclude c; s.finishRecords c) else s
      | .recording => s.finishRecords c
      | _ => s
def execCommandComplete (r : RingId) (seq : Word) (s : State) : Host.Outcome State Fault Refusal :=
  s.live (effCommandComplete r seq)

end Sys2Proof.Machine
end

