-- ==== Sys2Proof/Machine/RootPorts.lean ====
section
/-! DEFINITION. Accesses in the third-device window and root-port links that leave and regain L0 (13 R287, R288, R434). -/

namespace Sys2Proof.Machine

/-! ### Whose access it is -/

/-- The command whose store the dispatch unit of a ring makes: its oldest WRITE in progress (13 R272). -/
def State.storingCmd (s : State) (r : Nat) : Option Cmd :=
  s.cmds.find? fun c => c.ring == r && c.opcode == 4 && c.hasStarted && c.stage ≠ .recording

/-- A waiting command reads bytes at a local physical address when it starts: they lie in its parameter table (06 R107, 13 R273). -/
def State.tableAt (s : State) (c : Cmd) (a n : Nat) : Bool :=
  c.stage = .waiting && (c.opcode = 1 || c.opcode = 2) && (List.range c.pcount).any fun i =>
    match (s.translate (dispatchReq c.ring (some c.seq)) c.cid (c.ptab + 64 * i) 64 .dispatchRead).2 with
    | .at b _ => b ≤ a && a + n ≤ b + 64
    | _ => false

/-- The command, work item and thread that a source serves, as far as its state names them. A read of a dispatch unit serves the ring's
next command where it lies in the table of that command, and else the slot that is fetched next (13 R434, R436). -/
def State.mmioOf (s : State) (src : MmioSource) (a : Nat) (data : List Byte) (n : Nat) : MmioReq :=
  match src with
  | .host c => hostMmio c a data n
  | .peer p => peerMmio p 0 0 a data n
  | .cell g =>
    let x := s.cell g
    let q : MmioReq := { hostMmio 0 a data n with src := src }
    (match x.running, x.blocks.find? fun b => b.ended.isNone with
     | some j, _ => { q with cmd := some (j.ring, j.seq), item := j.index, cid := j.cid }
     | none, some b => { q with cmd := some (b.ring, b.seq), item := b.index, cid := b.cid }
     | none, none => q)
  | .dispatch r =>
    let q : MmioReq := { hostMmio 0 a data n with src := src, cid := (s.ring r).cid }
    if data.isEmpty then
      (match s.nextCmd r with
       | some (_, c) => if s.tableAt c a n then { q with cmd := some (c.ring, c.seq) } else { q with cmd := some (r.val, (s.ring r).fetch) }
       | none => { q with cmd := some (r.val, (s.ring r).fetch) })
    else { q with cmd := (s.storingCmd r).map fun c => (c.ring, c.seq) }

/-- An access of the dispatch unit for a command ends with a status: the read of a slot or of a parameter table, a store, a record
(13 R272, R436, R438, 06 R107). -/
def State.dispatchEnds (s : State) (r : Nat) (q : Word) (n : Nat) (st : Status) : State :=
  match s.cmd r q with
  | none => if s.ringStarts r && (s.ring r).fetch = q && (s.ring r).fetch ≠ (s.ring r).tail then s.failFetch r st else s
  | some c =>
    match c.stage with
    | .fetched | .waiting => s.failCmd c st
    | .started | .running => s.endCmd (c.loseStore n st) st
    | .finished => if c.status = stOk then s.endCmd (c.loseStore n st) st else s
    | .recording => s.ringFails r fun x => { x with recFail := true }

/-- The work item or block that an access serves ends with a status (10 R187, 13 R288). -/
def State.itemEnds (s : State) (g : Nat) (h : MmioReq) (st : Status) : State :=
  match h.cmd with
  | none => s
  | some (r, q) =>
    match (s.cell g).running with
    | some j => if j.of r q && j.index = h.item then s.endItem g st else s
    | none => s.failBlock g r q h.item st

/-- A requester learns that its access ends without effect (10 R187, 12 R244, 13 R288, R434): with the status of an unmapped
address, or E_HOSTPATH. -/
def State.mmioEnds (s : State) (h : MmioReq) (st : Status) : State :=
  match h.src with
  | .host c => if h.data.isEmpty || st = stRange then s.trap c .accessFault else (s.dropStore c h.addr).hostRetires c
  | .cell g => s.itemEnds g h st
  | .dispatch _ =>
    (match h.cmd with
     | some (r, q) => s.dispatchEnds r q h.n st
     | none => s)
  | .peer p => s.refuseDev p (if h.data.isEmpty then .read 0 else .write []) csUnsupported

/-- The completion of a read waits at the port. -/
def State.keepReady (s : State) (p : Nat) (h : MmioReq) (v : Option (List Byte)) : State :=
  s.setRoot p { s.root p with ready := (s.root p).ready ++ [(h, v)] }

/-- The answer of a device to a read reaches its requester, but never before the devices' earlier writes: a host core or a peer device at
once, another when it takes it (13 R286, R434). -/
def State.mmioAnswer (s : State) (p : Nat) (h : MmioReq) (v : Option (List Byte)) : State :=
  if s.portOwes p then s.keepReady p h v
  else match v, h.src with
    | none, _ => s.mmioEnds h stRange
    | some bs, .host c => s.loaded c (leNat bs)
    | some bs, .peer k => s.answerDev k csOk bs
    | some _, _ => s.keepReady p h v

/-- A completion is delivered as soon as it comes, not when its requester asks again. -/
def MmioReq.pushed (h : MmioReq) (v : Option (List Byte)) : Bool :=
  match h.src with
  | .host _ | .peer _ => true
  | _ => v.isNone

/-- The completions that waited for the devices' earlier writes are delivered once these are performed (13 R286). -/
def State.deliver (s : State) (p : Nat) : State :=
  if s.portOwes p then s
  else
    let r := s.root p
    (r.ready.filter fun x => x.1.pushed x.2).foldl (fun s x => s.mmioAnswer p x.1 x.2)
      (s.setRoot p { r with ready := r.ready.filter fun x => !x.1.pushed x.2 })
def State.deliverAll (s : State) : State := (List.range 4).foldl (fun s p => s.deliver p) s

/-! ### Access -/

/-- A host core's posted store retires when the package takes it (13 R287). -/
def State.posts (s : State) (h : MmioReq) : State :=
  match h.src with
  | .host c => if h.data.isEmpty then s else s.hostRetires c
  | _ => s

/-- The die from which a source reaches a port. -/
def srcDie : MmioSource → Nat
  | .host c => hostDie c
  | .cell g => g / 64
  | .dispatch r => r / 256
  | .peer p => 4 + p / 2

/-- An access at the root port that has the window (13 R288, R434): sent with the device's answer, held or failed with its link. A
completion that would pass earlier writes of the devices does not come yet (13 R286). -/
def State.mmioAt (s : State) (p : Nat) (h : MmioReq) (answer : MmioAnswer) : State :=
  let r := s.root p
  if !r.l0 then
    if r.dead then s.mmioEnds h stHostpath
    else if !h.data.isEmpty && 2 ^ 20 < r.heldBytes + h.n then s
    else (s.holdOut p (if h.data.isEmpty then [{ h with id := r.nextId }] else r.payloads h)).posts h
  else if h.data.isEmpty then
    let s := s.drainPort p
    if s.portOwes p then s
    else
      let s := s.sendOut p [{ h with id := (s.root p).nextId }]
      match answer with
      | .data v => (match h.src with | .host _ | .peer _ => s.mmioAnswer p h (some v) | _ => s)
      | .refused => s.mmioEnds h stRange
  else
    let s := (s.sendOut p (r.payloads h)).posts h
    match answer with
    | .data _ => s
    | .refused => s.logAer p

/-- MMIO_ACCESS: over the path to the root port that has the window, or unmapped (01 R13, 13 R434, 15 R319, R323). -/
def State.mmioGo (s : State) (h : MmioReq) (answer : MmioAnswer) : State :=
  if h.n = 0 || placeOf h.addr ≠ .mmio then s
  else match s.portOf h.addr with
    | none => s.mmioEnds h stRange
    | some p =>
      match s.spanWay (srcDie h.src) (4 + p / 2) h.addr h.n with
      | .cut => s.mmioEnds h stLink
      | .stall => s
      | .clear => s.mmioAt p h answer
def effMmioAccess (src : MmioSource) (addr : DWord) (data : List Byte) (n : Nat) (answer : MmioAnswer) (s : State) : State :=
  let go := fun (s : State) => s.mmioGo (s.mmioOf src addr.toNat data (if data.isEmpty then n else data.length)) answer
  match src with
  | .host c => s.onHost c fun s => if data.isEmpty then s.behindStores c go else s.commits c go
  | _ => go s
def execMmioAccess (src : MmioSource) (addr : DWord) (data : List Byte) (n : Nat) (answer : MmioAnswer) (s : State) :
    Host.Outcome State Fault Refusal := s.live (effMmioAccess src addr data n answer)

/-! ### Links -/

/-- ROOT_PORT_LINK_DOWN: the link leaves L0 (13 R288). -/
def effRootPortLinkDown (p : RootId) (s : State) : State :=
  if (s.root p).l0 then s.setRoot p { s.root p with l0 := false, dead := false } else s
def execRootPortLinkDown (p : RootId) (s : State) : Host.Outcome State Fault Refusal := s.live (effRootPortLinkDown p)

/-- A held request is sent (13 R288): a write that no device accepts is an AER error, a read has the device's answer (13 R434; log 4). -/
def State.sendHeld (s : State) (p : Nat) (h : MmioReq) : State :=
  let s := s.setRoot p { s.root p with sent := (s.root p).sent ++ [h] }
  if h.data.isEmpty then
    let (s, v) := s.deviceAnswer h.n
    s.mmioAnswer p h v
  else
    let (s, b) := s.draw 1
    s.setRoot p { s.root p with aer := (s.root p).aer + b.toNat }

/-- ROOT_PORT_LINK_UP: the link is in L0 at its width and speed; device requests that waited are tried again, and the held requests are sent
in order, each once (13 R285, R286, R288). -/
def effRootPortLinkUp (p : RootId) (lanes : PcieWidth) (speed : PcieSpeed) (s : State) : State :=
  if (s.root p).l0 then s
  else
    let s := s.drainPorts
    let r := s.root p
    let s := s.setRoot p { r with l0 := true, dead := false, held := [], lanes := lanes, speed := speed }
    (r.held.foldl (fun s h => s.sendHeld p h) s).drainPorts.deliverAll
def execRootPortLinkUp (p : TrainedPort) (s : State) : Host.Outcome State Fault Refusal :=
  s.live (effRootPortLinkUp p.port p.lanes p.speed)

/-- HOSTPATH_TIMEOUT: 50 ms after the link left L0, what is held is dropped or ends without data (13 R288). -/
def effHostpathTimeout (p : RootId) (s : State) : State :=
  let r := s.root p
  if r.l0 || r.dead then s
  else (r.held.foldl (fun s h => s.mmioEnds h stHostpath) (s.setRoot p { r with dead := true, held := [] })).drainPorts.deliverAll
def execHostpathTimeout (p : RootId) (s : State) : Host.Outcome State Fault Refusal := s.live (effHostpathTimeout p)

end Sys2Proof.Machine
end

