-- ==== Sys2Proof/Machine/Fabric.lean ====
section
/-! DEFINITION. The Isobar fabric: arriving packets (14 R297-R300, R302), responses and time limits at the requester (14 R301, R302),
route choice (14 R296) and ports (14 R289, R290). -/

namespace Sys2Proof.Machine

/-! ### Arrival -/

def State.onPort (s : State) (p : Nat) (f : IsoPort → IsoPort) : State := s.setPort p (f (s.port p))

/-- A packet is dropped and counted at its port (14 R299). -/
def State.dropAt (s : State) (p : Nat) : State := s.onPort p fun x => { x with drops := x.drops + 1 }

/-- VER, the reserved fields and VL (14 R298); every CLASS code is legal. -/
def packetLegal (k : Packet) : Bool := k.ver = 1 && !k.resv && k.vl ≠ 3

/-- HOP has reached the route's hop count (14 R297). -/
def packetLast (k : Packet) : Bool := k.nhopm1.toNat < k.hop.toNat

/-- A packet waits for its home or for the path between the Umber dies. -/
def State.await (s : State) (p : Nat) (k : Packet) (acc : Option IoAccess) : State :=
  s.onFab fun f => { f with waiting := f.waiting ++ [(p, k, acc)] }

/-- A transit packet leaves by the port of its hop; one that changes dies crosses the package (14 R297). -/
def State.transit (s : State) (p : Nat) (k : Packet) : State :=
  match s.spanWay (4 + p / 10) (4 + hopPort k.route.toNat k.hop.toNat / 10 % 2) k.addr.toNat (max 1 (32 * k.len32.toNat)) with
  | .cut => s.dropAt p
  | .stall => s.await p k none
  | .clear => s.emit p none k

/-- The record of a packet that fails its authentication (14 R299). -/
def State.badTag (s : State) (p : Nat) (k : Packet) : State :=
  (s.dropAt p).logError (4 + p / 10) (plainEvent 0x0E .event p (k.tid.toNat + 2 ^ 16 * k.src.toNat))

/-- A packet of an older or a newer epoch; outside a job, older is measured from the job torn down last (14 R299, R304, R314). -/
def State.wrongEpoch (s : State) (p : Nat) (k : Packet) : State :=
  let now := if s.epoch = 0 then s.fab.lastEpoch else s.epoch
  s.onPort p fun x => if reached32 now k.epoch then { x with stale := x.stale + 1 } else { x with early := x.early + 1 }

/-- The GCM tag of a packet verifies under a key that the package holds and that is the packet's: the epoch's, or the management key in
force or in its grace (14 R298, 17 R359). -/
def State.tagGood (s : State) (k : Packet) : Bool :=
  match k.tag with
  | .epochKey => k.cls ≠ 3 && s.sec.epochKey.any fun e => e.1 == k.epoch
  | .mgmtKey => k.cls = 3 && s.sec.mgmtKey.isSome
  | .mgmtOld => k.cls = 3 && s.sec.mgmtOld.isSome
  | .none => false

/-- The checks of R299 up to the tag; hold says what becomes of a packet of an epoch that a launch has committed (14 R311). -/
def State.arrive (s : State) (p : Nat) (k : Packet) (hold f : State → State) : State :=
  if !s.portUp p then s
  else if !packetLegal k then s.dropAt p
  else if !packetLast k then s.transit p k
  else if k.dst ≠ s.pins.stn then s.dropAt p
  else if k.epoch ≠ s.epoch then
    (if s.fab.state = .committed && k.epoch = s.fab.launch.epoch && k.cls = 0 then hold s else s.wrongEpoch p k)
  else if !s.tagGood k then s.badTag p k
  else f s

/-- FAB_ALIAS_k (14 R305), and the alias of a rank with a mode (14 R302). -/
def State.aliasWord (s : State) (k : Nat) : Nat := (s.reg64 (umberBar 0 + 0x8040 + 8 * k)).toNat
def State.aliasOf (s : State) (rank mode : Nat) : Option Nat :=
  ((List.range 4).map s.aliasWord).find? fun v => bitsOf v 19 0 = rank && bitsOf v 21 20 = mode

/-- A rank that this package serves (14 R302). -/
def State.serves (s : State) (rank : Nat) : Bool := rank = s.rank || (s.aliasOf rank 1).isSome

/-- The response to a request (14 R298): to the requester's station, with data or an acknowledgement. DESIGN CHOICE (log 26): the manual
gives no route for it, so its ROUTE stays 0 and it does not stand in the outbox. -/
def State.response (s : State) (u : Nat) (k : Packet) (st : FabStatus) (bs : List Byte) : Packet :=
  { ver := 1, cls := 2, vl := 0, op := if bs.isEmpty then 0x21 else 0x20, priv := false, epoch := s.epoch, dst := k.src, src := s.pins.stn,
    dstRank := k.srcRank, srcRank := BitVec.ofNat 20 s.rank, tid := k.tid, hop := 0, nhopm1 := 0, route := 0, gmask := 0,
    addr := BitVec.ofNat 44 st.code, resv := false, len32 := BitVec.ofNat 5 ((bs.length + 31) / 32), iv := s.nextIv u false,
    tag := s.sealKey, data := bs }

/-- A response is sent, one more packet sealed under the epoch key (14 R298, R299, 17 R359). -/
def State.respond (s : State) (p : Nat) (k : Packet) (st : FabStatus) (bs : List Byte) : State :=
  let r := s.response (p / 10) k st bs
  ((s.onFab fun f => { f with responses := f.responses ++ [r] }).sealPacket (p / 10) false).count (4 + p / 10) 0x25 (some s.jobCid) (48 + bs.length)

/-- The packet goes on in class FWD to the station of an alias, sealed anew by the die that sends it (14 R302, 17 R359). -/
def State.forward (s : State) (p : Nat) (k : Packet) (v : Nat) : State :=
  let station := bitsOf v 41 22
  match s.chooseRoute (bitsOf v 57 42) station k.addr.toNat with
  | none => s.dropAt p
  | some r =>
    let u := hopPort r 0 / 10
    (s.sealPacket u false).emit p (some s.jobCid)
      { k with cls := 1, vl := 0, hop := 0, iv := s.ivOf k.src u false, tag := s.sealKey, dst := BitVec.ofNat 20 station, nhopm1 := BitVec.ofNat 3 (r / 2 ^ 40),
               route := BitVec.ofNat 40 r, gmask := BitVec.ofNat 8 (r / 2 ^ 44) }

/-- Formed HBM or mapped tier B over the span (14 R299). -/
def State.fabMapped (s : State) (a n : Nat) : Bool :=
  hasOwner a && hasOwner (a + n - 1) && s.spanMapped a n

/-- Ownership under FAB_JOBCID; a SEALED context answers only under an epoch key that it imported (14 R299, 17 R356). -/
def State.fabAllowed (s : State) (a n : Nat) (write : Bool) : Bool :=
  s.ownOk s.jobCid write a n &&
  (!s.sealedCid s.jobCid || s.sec.epochKey.any fun e => e.2.2 == some s.jobCid)

/-- LEN32 fits the operation, and the data is what the packet carries (14 R298, R299; log 26). -/
def ioFits (k : Packet) (acc : IoAccess) : Bool :=
  ioLen32 acc = k.len32.toNat && 1 ≤ accBytes acc && accBytes acc ≤ 512 &&
  (match acc with | .atomic .. => k.addr.toNat % accBytes acc = 0 | _ => true)

/-- Two spans have an aligned block of 256 bytes in common (01 R14). -/
def blocksMeet (a n b m : Nat) : Bool := a / 256 ≤ (b + m - 1) / 256 && b / 256 ≤ (a + n - 1) / 256

/-- Requests to one block of 256 bytes keep their order (14 R296, 12 R242): an earlier one waits, in a packet or at its home (10 R206). -/
def State.behind (s : State) (a n : Nat) : Bool :=
  (s.fab.waiting.any fun w => w.2.2.any fun acc => blocksMeet w.2.1.addr.toNat (accBytes acc) a n) || s.heldOver a n

/-- A request that its home takes is performed and answered (14 R299, R300, 18 R363). -/
def State.performNow (s : State) (p : Nat) (k : Packet) (acc : IoAccess) : State :=
  let a := k.addr.toNat
  if s.meetsBroken a acc then (s.ueAccess s.jobCid a acc none).respond p k .ue []
  else
    let (s, bs) := s.homeAccess s.jobCid a false acc
    s.respond p k .ok bs

/-- The remaining checks, and the request performed at its address; one whose home is cut off from the port has no response (14 R299,
R300, 15 R323, 18 R363; log 26). -/
def State.perform (s : State) (p : Nat) (k : Packet) (acc : IoAccess) : State :=
  let a := k.addr.toNat
  let n := accBytes acc
  let cid := s.jobCid
  if !ioFits k acc then s.respond p k .format []
  else if !s.fabMapped a n then s.respond p k .notMapped []
  else if !s.fabAllowed a n (accWrites acc) then s.respond p k .access []
  else match s.ways (4 + p / 10) a n with
    | .cut => s
    | .stall => s.await p k (some acc)
    | .clear =>
      if s.behind a n || !s.homeTakes cid a acc then s.await p k (some acc) else s.performNow p k acc

/-- The check of DST_RANK for a PRIV packet, then whether its class has its operation, then the rest (14 R299, R302). -/
def State.serveRequest (s : State) (p : Nat) (k : Packet) (acc : Option IoAccess) : State :=
  if k.priv && !s.serves k.dstRank.toNat then
    match s.aliasOf k.dstRank.toNat 2 with
    | some v => s.forward p k v
    | none => s.respond p k .wrongRank []
  else match acc with
    | some acc => s.perform p k acc
    | none => s.respond p k .format []

/-- Packets that waited go on, in order, where they can. -/
def State.drainFab (s : State) : State :=
  s.fab.waiting.foldl (fun s w =>
    match w.2.2 with
    | some acc => s.serveRequest w.1 w.2.1 (some acc)
    | none => s.transit w.1 w.2.1) (s.onFab fun f => { f with waiting := [] })

/-- Requests that have passed their checks and wait complete under the map that routed them, before a new map is in force (10 R197). -/
def State.finishFab (s : State) : State :=
  s.fab.waiting.foldl (fun s w =>
    match w.2.2 with
    | some acc => s.performNow w.1 w.2.1 acc
    | none => s) (s.onFab fun f => { f with waiting := f.waiting.filter fun w => w.2.2.isNone })

/-- A request of the committed epoch is held until the apply (14 R311). -/
def State.holdPacket (s : State) (p : Nat) (k : Packet) (acc : Option IoAccess) : State :=
  s.onFab fun f => { f with launch := { f.launch with held := f.launch.held ++ [(p, k, acc)] } }

/-- What was held for the committed epoch takes the checks that remain: its tag, its rank, its operation (14 R299, R311). -/
def State.releaseHeld (s : State) : State :=
  s.fab.launch.held.foldl (fun s h => if s.tagGood h.2.1 then s.serveRequest h.1 h.2.1 h.2.2 else s.badTag h.1 h.2.1)
    (s.onFab fun f => { f with launch := { f.launch with held := [] } })

/-- Operation codes of a request (14 R298). -/
def opKnownReq (op : BitVec 6) : Bool := 1 ≤ op.toNat && op.toNat ≤ 4

/-- An arriving REQ packet of one operation; an operation that class REQ does not have is answered FORMAT (14 R299). -/
def State.fabRequest (s : State) (p : Nat) (k : Packet) (op : BitVec 6) (acc : IoAccess) : State :=
  if k.cls ≠ 0 || (k.op ≠ op && opKnownReq k.op) then s
  else
    let what := if k.op = op then some acc else none
    s.arrive p k (fun s => s.holdPacket p k what) fun s => s.serveRequest p k what

/-- FABRIC_READ (14 R300). -/
def effFabricRead (p : PortId) (k : Packet) (n : Nat) (s : State) : State := s.fabRequest p k 0x01 (.read n)
def execFabricRead (p : PortId) (k : Packet) (n : Nat) (s : State) : Host.Outcome State Fault Refusal := s.live (effFabricRead p k n)

/-- FABRIC_WRITE (14 R300). -/
def effFabricWrite (p : PortId) (k : Packet) (s : State) : State := s.fabRequest p k 0x02 (.write k.data)
def execFabricWrite (p : PortId) (k : Packet) (s : State) : Host.Outcome State Fault Refusal := s.live (effFabricWrite p k)

/-- FABRIC_ATOMIC (14 R300). -/
def effFabricAtomic (p : PortId) (k : Packet) (fn : AtomicFn) (dword : Bool) (operand compare : DWord) (s : State) : State :=
  s.fabRequest p k 0x03 (.atomic fn dword operand compare)
def execFabricAtomic (p : PortId) (k : Packet) (fn : AtomicFn) (dword : Bool) (operand compare : DWord) (s : State) :
    Host.Outcome State Fault Refusal := s.live (effFabricAtomic p k fn dword operand compare)

/-- The access that a packet carries (14 R298; log 26). -/
def packetAccess (k : Packet) : Option IoAccess :=
  match k.op.toNat with
  | 1 => some (.read (32 * k.len32.toNat))
  | 2 => some (.write k.data)
  | 3 => (atomicOf (byteAt k.data 16 % 16)).map fun fn =>
      .atomic fn (bitOf (byteAt k.data 16) 4) (BitVec.ofNat 64 (field k.data 0 8)) (BitVec.ofNat 64 (field k.data 8 8))
  | _ => none

/-- FABRIC_FORWARD: a FWD packet at the station that serves its rank now (14 R302). -/
def effFabricForward (p : PortId) (k : Packet) (s : State) : State :=
  if k.cls ≠ 1 then s
  else s.arrive p k (fun s => s.wrongEpoch p k) fun s =>
    s.serveRequest p k (packetAccess k)
def execFabricForward (p : PortId) (k : Packet) (s : State) : Host.Outcome State Fault Refusal := s.live (effFabricForward p k)

/-- PACKET_TRANSIT (14 R297, R299). A MGMT packet at its last hop that fails its checks is dropped and counted, with a record where its tag
fails (14 R299, R303); the message of a good one has a command of its own. -/
def effPacketTransit (p : PortId) (k : Packet) (s : State) : State :=
  if !s.portUp p then s
  else if !packetLegal k then s.dropAt p
  else if !packetLast k then s.transit p k
  else if k.cls ≠ 3 then s
  else if k.dst ≠ s.pins.stn then s.dropAt p
  else if !s.tagGood k then s.badTag p k
  else s
def execPacketTransit (p : PortId) (k : Packet) (s : State) : Host.Outcome State Fault Refusal := s.live (effPacketTransit p k)

/-! ### Outcomes at the requester -/

/-- Status at an engine, control core, thread or dispatch unit (14 R301). -/
def fabStatus : FabStatus → Status
  | .ok => stOk
  | .notMapped => stRange
  | .access => stAccess
  | .ue => stMemUe
  | .wrongRank => stLink
  | .format => stFormat

/-- A write, which returns no data. -/
def isWrite : IoAccess → Bool
  | .write _ => true
  | _ => false

/-- A host core's request ends; a failed store has its record while the core is in reset too (14 R301, 12 R244, R249). -/
def State.hostEnds (s : State) (c : Nat) (isLoad : Bool) (a : Nat) (st : FabStatus) (bs : List Byte) : State :=
  if isLoad then
    (if !s.released then s
     else match st with
     | .ok => s.loaded c (leNat bs)
     | _ => (s.setHost c { s.host c with buffer := [] }).trap c (if st = .ue then .machineCheck else .accessFault))
  else if st = .ok then s else s.dropStore c a

/-- A control core's request ends: a load or atomic retires (05 R88, 14 R301). -/
def State.coreAnswer (s : State) (g rd : Nat) (signed : Bool) (acc : IoAccess) (st : FabStatus) (bs : List Byte) : State :=
  if st ≠ .ok then s.endItem g (fabStatus st)
  else if (s.cell g).core.wait = .remote && !isWrite acc then
    (s.coreWaits g .running).retire g rd (extended signed (accBytes acc) (leNat bs))
  else s

/-- A thread's request ends (09 R166, 14 R301). -/
def State.threadAnswer (s : State) (g b t dst : Nat) (acc : IoAccess) (bs : List Byte) : State :=
  s.onThreadAt g b t fun y =>
    if y.wait = .remote && !isWrite acc then (y.setN dst (accBytes acc) (leNat bs)).step else y

/-- A stream engine's request ends: bytes read enter cell memory, or the staging buffer of a copy piece (05 R100, 13 R435). -/
def State.streamAnswer (s : State) (g : Nat) (j : Job) (off : Nat) (acc : IoAccess) (st : FabStatus) (bs : List Byte) : State :=
  let c := s.cell g
  if st ≠ .ok then s.endItem g (fabStatus st)
  else if isWrite acc then s
  else match j.kind with
    | .item => s.setCell g (c.write off bs)
    | .piece => s.setCell g { c with str := { c.str with staged := tabSetMany zeroByte c.str.staged off bs } }

/-- The item or piece of a cell that runs and that a request names. -/
def State.runningAs (s : State) (g r : Nat) (q : Word) (i : Nat) : Option Job :=
  match (s.cell g).running with
  | some j => if j.of r q && j.index == i then some j else none
  | none => none

/-- Status of a device's completion (18 R363, 11 R229). -/
def fabPcie : FabStatus → BitVec 3
  | .ok => csOk
  | .ue => csAbort
  | _ => csUnsupported

/-- A request has its outcome (14 R301). -/
def State.finishReq (s : State) (r : FabReq) (st : FabStatus) (bs : List Byte) : State :=
  let s := s.onFab fun f => { f with reqs := f.reqs.filter fun x => x.tid != r.tid }
  match r.who with
  | .host c isLoad => s.hostEnds c isLoad r.addr st bs
  | .cell g q n i rd signed =>
    (match s.runningAs g q n i with
     | some _ => s.coreAnswer g rd signed r.access st bs
     | none => s)
  | .thread g q n i t dst =>
    if st ≠ .ok then s.failBlock g q n i (fabStatus st)
    else (match (s.cell g).blocks.findIdx? fun b => b.of q n && b.index == i && b.ended.isNone with
     | some b => s.threadAnswer g b t dst r.access bs
     | none => s)
  | .stream g q n i off =>
    (match s.runningAs g q n i with
     | some j => s.streamAnswer g j off r.access st bs
     | none => s)
  | .command q n =>
    (match s.cmd q n with
     | some c =>
       if c.stage = .recording then s.recordDone c (st = .ok)
       else if st = .ok then s else s.setCmd (c.loseStore (accBytes r.access) (fabStatus st))
     | none => s)
  | .area d _ => if st = .ok then s else s.setWrFail d
  | .port p _ isRead =>
    (if st = .ok then (if isRead then s.answerDev p csOk bs else s) else s.refuseDev p r.access (fabPcie st)).drainPort p |>.deliver p
  | .errand k off =>
    let e := s.errand k
    if st ≠ .ok then s.setErrand { e with bad := fabStatus st }
    else if isWrite r.access then s
    else s.setErrand { e with bytes := (List.range bs.length).foldl (fun t i => tabPut t (off + i) (bs.getD i 0)) e.bytes }
  | .posted => s

def State.request? (s : State) (tid : BitVec 16) : Option FabReq := s.fab.reqs.find? fun r => r.tid == tid
def State.setReq (s : State) (r : FabReq) : State :=
  s.onFab fun f => { f with reqs := f.reqs.map fun x => if x.tid == r.tid then r else x }

/-- FABRIC_RESPONSE (14 R299, R301, R302): ADDR[7:0] of the packet is the status that the row names, and the rest of ADDR is 0 (14 R298). -/
def effFabricResponse (p : PortId) (k : Packet) (st : FabStatus) (s : State) : State :=
  if k.cls ≠ 2 then s
  else s.arrive p k (fun s => s.wrongEpoch p k) fun s =>
    if k.op ≠ 0x20 && k.op ≠ 0x21 then s.dropAt p
    else if k.addr.toNat ≠ st.code then s
    else match s.request? k.tid with
      | none => s.dropAt p
      | some r => if st = .wrongRank && r.priv then s.setReq { r with wrong := true, heard := true } else s.finishReq r st k.data
def execFabricResponse (p : PortId) (k : Packet) (st : FabStatus) (s : State) : Host.Outcome State Fault Refusal :=
  s.live (effFabricResponse p k st)

/-- The request leaves once more over its route (14 R302). -/
def State.resend (s : State) (r : FabReq) : State :=
  ((s.setReq r).sealPacket (hopPort r.route 0 / 10) false).emit (hopPort r.route 0) (some r.cid) (s.requestPacket r r.route)

/-- FABRIC_REQUEST_TIMEOUT: a PRIV request that has had no response goes once to its standby; any other fails (14 R301, R302). -/
def effFabricRequestTimeout (tid : BitVec 16) (s : State) : State :=
  match s.request? tid with
  | none => s
  | some r =>
    match if r.priv && !r.resent && !r.heard then s.edge r.rank.toNat else none with
    | none => s.finishReq r .wrongRank []
    | some e =>
      let station := bitsOf e 59 40
      match s.chooseRoute (bitsOf e 79 64) station r.addr with
      | none => s.finishReq r .wrongRank []
      | some route => s.resend { r with resent := true, wrong := false, station := BitVec.ofNat 20 station, route := route }
def execFabricRequestTimeout (tid : BitVec 16) (s : State) : Host.Outcome State Fault Refusal := s.live (effFabricRequestTimeout tid)

/-- WRONG_RANK_RESEND: to the same station, 100 µs after WRONG_RANK (14 R302). -/
def effWrongRankResend (tid : BitVec 16) (s : State) : State :=
  match s.request? tid with
  | none => s
  | some r => if r.wrong then s.resend { r with wrong := false } else s
def execWrongRankResend (tid : BitVec 16) (s : State) : Host.Outcome State Fault Refusal := s.live (effWrongRankResend tid)

/-! ### Route choice -/

/-- ROUTE_CHOICE_CHANGE: the die holds new requests toward the station (14 R296). -/
def effRouteChoiceChange (u : UmberId) (station : BitVec 20) (s : State) : State :=
  if s.fab.heldTo.contains (u.val, station) then s
  else s.onFab fun f => { f with heldTo := f.heldTo ++ [(u.val, station)] }
def execRouteChoiceChange (u : UmberId) (station : BitVec 20) (s : State) : Host.Outcome State Fault Refusal :=
  s.live (effRouteChoiceChange u station)

/-- A request of a die toward a station that left on a route no longer in the choice (14 R296). -/
def State.onOldRoute (s : State) (u : Nat) (station : BitVec 20) (r : FabReq) : Bool :=
  r.station == station && r.tid.toNat / 32768 == u &&
  (match s.edge r.rank.toNat with
   | some e => !(s.usable (if r.resent then bitsOf e 79 64 else bitsOf e 39 24)).contains r.route
   | none => true)

/-- ROUTE_RESUME: once every such request has ended (14 R296). -/
def effRouteResume (u : UmberId) (station : BitVec 20) (s : State) : State :=
  if s.fab.reqs.any fun r => s.onOldRoute u station r then s
  else s.onFab fun f => { f with heldTo := f.heldTo.filter (· != (u.val, station)) }
def execRouteResume (u : UmberId) (station : BitVec 20) (s : State) : Host.Outcome State Fault Refusal :=
  s.live (effRouteResume u station)

/-! ### Ports -/

/-- Width of a port with a number of good lanes (14 R289, R290). -/
def widthOf (lanes : Nat) : BitVec 2 := if 8 ≤ lanes then 2 else if 4 ≤ lanes then 1 else 0

/-- A port takes a width below the most it had, x4 or down, for failed lanes: a degrade event with SERVICE_SOON, and no wider again until the
next package reset (14 R290, 18 R370-R372). -/
def State.shrinkPort (s : State) (p : Nat) (w : BitVec 2) : State :=
  let s := s.degrade (4 + p / 10) p w.toNat fun s =>
    (s.setPort p { s.port p with width := w, degraded := w = 1, most := w, training := false }).request 22 true false
  s.logError (4 + p / 10) (plainEvent 0x27 .event p w.toNat)
def State.narrowPort (s : State) (p : Nat) (w : BitVec 2) : State := if (s.port p).width ≤ w then s else s.shrinkPort p w

/-- ISOBAR_LANE_FAILURE (14 R290). -/
def effIsobarLaneFailure (p : PortId) (lanesLeft : Nat) (s : State) : State := s.narrowPort p (widthOf lanesLeft)
def execIsobarLaneFailure (p : PortId) (lanesLeft : Nat) (s : State) : Host.Outcome State Fault Refusal :=
  s.live (effIsobarLaneFailure p lanesLeft)

/-- ISOBAR_PORT_TRAINED: the port that retrained after a mode change reports its width, which does not grow beyond what it was before; fewer
lanes make a degrade event (14 R289, R290, 18 R371, R372). -/
def effIsobarPortTrained (p : PortId) (lanes : Nat) (s : State) : State :=
  let x := s.port p
  if !x.training then s
  else if widthOf lanes < x.most then s.shrinkPort p (widthOf lanes)
  else s.setPort p { x with training := false, width := x.most, degraded := x.most = 1 }
def execIsobarPortTrained (p : PortId) (lanes : Nat) (s : State) : Host.Outcome State Fault Refusal :=
  s.live (effIsobarPortTrained p lanes)

end Sys2Proof.Machine
end

