-- ==== Sys2Proof/Machine/Launch.lean ====
section
/-! DEFINITION. MGMT packets (14 R298, R303) and launch, revert and teardown of a job (14 R304, R310-R315). -/

namespace Sys2Proof.Machine

/-! ### The tree and its messages -/

/-- Children of a rank in the 16-ary launch tree of n ranks (14 R310, R313: rank 1 serves 17-32), and a rank's parent. -/
def treeChildren (r n : Nat) : List Nat := ((List.range 16).map fun i => 16 * r + 1 + i).filter (· < n)
def treeParent (r : Nat) : Nat := (r - 1) / 16

/-- Where a message goes: MISSING to the root, another to the rank that it names. -/
def Mgmt.dest : Mgmt → BitVec 20
  | .missing _ => 0
  | .prepare r .. | .prepAck r | .prepDone r _ | .edgeUpdate r .. | .commit r .. | .commitAck r | .revert r | .teardown r
  | .teardownDone r | .opReq r .. | .opSet r .. => r

/-- The OP of a message, in 0x30-0x3F. DESIGN CHOICE (log 26): the spec names no message's OP. -/
def Mgmt.op : Mgmt → BitVec 6
  | .prepare .. => 0x30
  | .prepAck _ => 0x31
  | .prepDone .. => 0x32
  | .missing _ => 0x33
  | .edgeUpdate .. => 0x34
  | .commit .. => 0x35
  | .commitAck _ => 0x36
  | .revert _ => 0x37
  | .teardown _ => 0x38
  | .teardownDone _ => 0x39
  | .opReq .. => 0x3A
  | .opSet .. => 0x3B

/-- The packet of a message over a route, from Umber die u (14 R298): class MGMT, epoch 0, under the management key. DESIGN CHOICE (log 26):
its identifier counts the messages, and its data, whose layout the spec does not give, is the message itself beside the packet. -/
def State.mgmtPacket (s : State) (u : Nat) (m : Mgmt) (station route : Nat) : Packet :=
  { ver := 1, cls := 3, vl := 0, op := m.op, priv := false, epoch := 0, dst := BitVec.ofNat 20 station, src := s.pins.stn,
    dstRank := m.dest, srcRank := BitVec.ofNat 20 s.rank, tid := BitVec.ofNat 16 s.fab.heads.length, hop := 0,
    nhopm1 := BitVec.ofNat 3 (route / 2 ^ 40), route := BitVec.ofNat 40 route, gmask := BitVec.ofNat 8 (route / 2 ^ 44), addr := 0,
    resv := false, len32 := 0, iv := s.nextIv u true, tag := if s.sec.mgmtKey.isSome then .mgmtKey else .none, data := [] }

/-- A MGMT message leaves, sealed under the management key by the Umber die of its route's first port (14 R298, R303, 17 R359, 20 R387). -/
def State.sendMgmt (s : State) (m : Mgmt) : State :=
  let (station, route) := s.mgmtRoute m.dest.toNat
  let u := hopPort route 0 / 10 % 2
  let k := s.mgmtPacket u m station route
  ((s.onFab fun f => { f with mgmt := f.mgmt ++ [m], heads := f.heads ++ [k] }).sealPacket u true).count (4 + u) 0x26 (some 0) 48
def State.sendAll (s : State) (ms : List Mgmt) : State := ms.foldl (fun s m => s.sendMgmt m) s

def State.onLaunch (s : State) (f : Launch → Launch) : State := s.onFab fun x => { x with launch := f x.launch }
def State.setFab (s : State) (x : FabState) : State := s.onFab fun f => { f with state := x }

/-- The rank that the package is to have: its staged FAB_ID.RANK (14 R305). -/
def State.launchRank (s : State) : Nat := (s.shadowOf (umberBar 0 + 0x8004)).toNat % 2 ^ 20

/-- A child from which nothing has come yet. -/
def Child.fresh (r : Nat) : Child :=
  { rank := BitVec.ofNat 20 r, ack := false, done := none, commitAck := false, missing := false, standby := false, torn := false }

def Launch.onChild (l : Launch) (r : BitVec 20) (f : Child → Child) : Launch :=
  { l with children := l.children.map fun c => if c.rank == r then f c else c }
def State.onChild (s : State) (r : BitVec 20) (f : Child → Child) : State := s.onLaunch fun l => l.onChild r f
def State.child (s : State) (r : BitVec 20) : Option Child := s.fab.launch.children.find? fun c => c.rank == r

/-- PREPARE to a child from the package of a rank (14 R310, R312). -/
def Launch.prepareTo (l : Launch) (own : Nat) (c : Child) : Mgmt :=
  .prepare c.rank l.epoch l.n l.root (BitVec.ofNat 20 own) l.digest c.standby
def State.prepareAll (s : State) (l : Launch) (cs : List Child) : State := s.sendAll (cs.map fun c => l.prepareTo s.launchRank c)

/-- The edge updates of a launch, to children that have had none: their PREPARE names the digest that these give (14 R312; log 28). -/
def State.updateAll (s : State) (l : Launch) (cs : List Child) : State :=
  s.sendAll (cs.flatMap fun c => l.edges.map fun e => .edgeUpdate c.rank e.1 e.2.1 e.2.2)

/-! ### PREPARE -/

/-- The package's own status (14 R310). -/
def State.ownStatus (s : State) (digest : Digest) : PrepStatus :=
  if s.fab.launch.staged == some digest && s.epoch = 0 && s.fab.state = .idle then .ready
  else if s.fab.state = .scrubbing then .scrubbing
  else .refused

/-- The aggregate of two statuses. -/
def joinStatus (x y : PrepStatus) : PrepStatus :=
  if x = .refused || y = .refused then .refused else if x = .scrubbing || y = .scrubbing then .scrubbing else .ready

/-- Aggregate over the package and its children, once each has reported; a missing child has not (14 R310, R312). -/
def Launch.aggregate (l : Launch) : Option PrepStatus :=
  match l.own with
  | none => none
  | some st =>
    if l.children.all fun c => c.done.isSome then some (l.children.foldl (fun a c => joinStatus a (c.done.getD .refused)) st) else none

/-- A launch that has its aggregate and has not reported it. -/
def Launch.due (l : Launch) : Option PrepStatus := if l.sent then none else l.aggregate

/-- PREP_DONE to the parent, once; the root has none (14 R310). -/
def State.reportDone (s : State) : State :=
  if s.launchRank = 0 then s
  else
    let l := s.fab.launch
    let s := match l.due with
      | some st => (s.onLaunch fun l => { l with sent := true }).sendMgmt (.prepDone l.parent st)
      | none => s
    let m := s.fab.second
    match m.due with
    | some st => (s.onFab fun f => { f with second := { f.second with sent := true } }).sendMgmt (.prepDone m.parent st)
    | none => s

/-- PREPARE (14 R310): a standby has no children in this launch (14 R312). While another launch stands or is torn down, the one that is
refused, or waits for the scrubbing, is kept beside it. -/
def effPrepare (epoch : Word) (n : Nat) (root sender : BitVec 20) (digest : Digest) (standby : Bool) (s : State) : State :=
  let st := s.ownStatus digest
  let kids := if standby then [] else (treeChildren s.launchRank n).map Child.fresh
  let now := s.fab.launch
  let l : Launch := { now with epoch := epoch, n := BitVec.ofNat 32 n, root := root, parent := sender, digest := digest, own := some st,
                               sent := false, children := kids, applyAt := none, held := [] }
  let s := s.onFab fun f => if f.state = .idle then { f with launch := l } else { f with second := { l with staged := none } }
  let s := if s.launchRank = 0 then s else s.sendMgmt (.prepAck sender)
  let s := (s.updateAll l kids).prepareAll l kids
  (if st = .ready then s.setFab .prepared else s).reportDone
def execPrepare (epoch : Word) (n : Nat) (root : BitVec 20) (sender : PrepareSender) (digest : Digest) (s : State) :
    Host.Outcome State Fault Refusal := s.live (effPrepare epoch n root sender.rank digest sender.standby)

/-- The launch whose child still owes its status: the one kept beside the other, or that one (14 R310). -/
def State.onOwing (s : State) (r : BitVec 20) (f : Child → Child) : State :=
  if s.fab.second.children.any fun c => c.rank == r && c.done.isNone then
    s.onFab fun x => { x with second := x.second.onChild r f }
  else s.onChild r f

/-- PREP_ACK (14 R310). -/
def effPrepAck (child : BitVec 20) (s : State) : State := s.onOwing child fun c => { c with ack := true }
def execPrepAck (child : BitVec 20) (s : State) : Host.Outcome State Fault Refusal := s.live (effPrepAck child)

/-- PREP_DONE (14 R310). -/
def effPrepDone (child : BitVec 20) (st : PrepStatus) (s : State) : State :=
  (s.onOwing child fun c => { c with done := some st }).reportDone
def execPrepDone (child : BitVec 20) (st : PrepStatus) (s : State) : Host.Outcome State Fault Refusal := s.live (effPrepDone child st)

/-- A child of the launch that owes its status, or of the one that stands. -/
def State.owingChild (s : State) (r : BitVec 20) : Option Child :=
  match s.fab.second.children.find? fun c => c.rank == r && c.done.isNone with
  | some c => some c
  | none => s.child r

/-- PREP_ACK_TIMEOUT: the child's subtree counts as missing, and the root learns it (14 R310). -/
def effPrepAckTimeout (child : BitVec 20) (s : State) : State :=
  match s.owingChild child with
  | some c => if c.ack || c.missing then s else (s.onOwing child fun c => { c with missing := true }).sendMgmt (.missing child)
  | none => s
def execPrepAckTimeout (child : BitVec 20) (s : State) : Host.Outcome State Fault Refusal := s.live (effPrepAckTimeout child)

/-! ### Revert -/

/-- Words of the STG fields that a launch stages (14 R305). -/
def launchWords : List Nat :=
  ([0x8000, 0x8004, 0x800C, 0x8010, 0x8014, 0x8018, 0x8020, 0x8024] ++ (List.range 8).map fun i => 0x8040 + 4 * i).map (umberBar 0 + ·)

/-- The staged fields of a launch of an epoch are discarded, and a record is written (14 R313). -/
def State.discardLaunch (s : State) (epoch : Word) : State :=
  (((launchWords.foldl (fun s a => s.setShadow a (s.reg a)) s).onFront Front.dirty).onLaunch fun l => { l with edges := [] }).logError 4
    (plainEvent 0x24 .event 0 epoch.toNat)

/-- A committed launch's Front apply does not come any more. -/
def State.cancelApply (s : State) : State :=
  if s.fab.state = .committed then s.onFront fun f => { f with state := .idle, snapshot := [] } else s

/-- The launch is given up, and FAB_STATE returns to IDLE (14 R313). -/
def State.revertLaunch (s : State) : State :=
  let epoch := s.fab.launch.epoch
  ((s.cancelApply.setFab .idle).onLaunch fun _ => Launch.reset).discardLaunch epoch

/-- A launch has reached the package and has not been applied or reverted. -/
def State.launching (s : State) : Bool := s.fab.state = .prepared || s.fab.state = .committed || (s.fab.state = .idle && s.fab.launch.own.isSome)

/-- REVERT, passed down the tree (14 R312, R313): the launch that stands, or the one kept beside a job that runs or is torn down, whose
FAB_STATE stays (14 R314). -/
def effRevert (s : State) : State :=
  if s.launching then (s.sendAll (s.fab.launch.children.map fun c => .revert c.rank)).revertLaunch
  else if s.fab.second.own.isSome then
    let m := s.fab.second
    ((s.sendAll (m.children.map fun c => .revert c.rank)).onFab fun f => { f with second := Launch.reset }).discardLaunch m.epoch
  else s
def execRevert (s : State) : Host.Outcome State Fault Refusal := s.live effRevert

/-- PREPARED_TIMEOUT: PREPARED for 5 s without COMMIT (14 R313). -/
def effPreparedTimeout (s : State) : State := if s.fab.state = .prepared then s.revertLaunch else s
def execPreparedTimeout (s : State) : Host.Outcome State Fault Refusal := s.live effPreparedTimeout

/-! ### Missing ranks -/

/-- FAB_EDGE_BASE as staged (14 R305). -/
def State.stagedEdgeBase (s : State) : Nat :=
  bitsOf (s.shadowOf (umberBar 0 + 0x8014) ++ s.shadowOf (umberBar 0 + 0x8010) : DWord).toNat 43 4 * 16

/-- The entry enters the staged table, and the staged digest takes its new value (14 R312). -/
def State.stageEdge (s : State) (rank : BitVec 20) (entry : EdgeEntry) (digest : Digest) : State :=
  let a := s.stagedEdgeBase + 16 * rank.toNat
  let s := if s.spanMapped a 16 && s.ownOk 0 true a 16 then s.memWrite 0 a (leBytes 16 entry.toNat) false else s
  s.onLaunch fun l => { l with staged := some digest }

/-- A launch learns of an edge update. -/
def Launch.update (l : Launch) (rank : BitVec 20) (entry : EdgeEntry) (digest : Digest) : Launch :=
  { l with digest := digest, edges := l.edges ++ [(rank, entry, digest)] }

/-- The nearest live ancestor of a missing rank takes its children, and the standby in its place (14 R312): the launch, and those it prepares. -/
def Launch.adopt (l : Launch) (rank : BitVec 20) : Launch × List Child :=
  if l.children.any fun c => c.rank == rank then
    let orphans := (treeChildren rank.toNat l.n.toNat).map Child.fresh
    let standby := { Child.fresh rank.toNat with standby := true }
    ({ l.onChild rank fun _ => standby with children := (l.onChild rank fun _ => standby).children ++ orphans, sent := false },
     standby :: orphans)
  else (l, [])

/-- An edge update in the launch l: passed to its children, and the orphans and the standby updated and prepared (14 R312). -/
def State.spreadEdge (s : State) (l : Launch) (rank : BitVec 20) (entry : EdgeEntry) (digest : Digest) : State × Launch :=
  let m := l.update rank entry digest
  let s := s.sendAll ((m.children.filter fun c => !c.missing).map fun c => .edgeUpdate c.rank rank entry digest)
  let (m, cs) := m.adopt rank
  ((s.updateAll m cs).prepareAll m cs, m)

/-- EDGE_UPDATE: every package stages the entry; one that a launch has reached passes it down the tree and adopts the orphans (14 R312;
log 28). -/
def effEdgeUpdate (rank : BitVec 20) (entry : EdgeEntry) (digest : Digest) (s : State) : State :=
  let s := s.stageEdge rank entry digest
  if s.launching then
    let (s, m) := s.spreadEdge s.fab.launch rank entry digest
    s.onLaunch fun _ => m
  else
    let s := s.onLaunch fun l => { l with edges := l.edges ++ [(rank, entry, digest)] }
    if s.fab.second.own.isSome then
      let (s, m) := s.spreadEdge s.fab.second rank entry digest
      s.onFab fun f => { f with second := m }
    else s
def execEdgeUpdate (rank : BitVec 20) (entry : EdgeEntry) (digest : Digest) (s : State) : Host.Outcome State Fault Refusal :=
  s.live (effEdgeUpdate rank entry digest)

/-- MISSING at the root: a standby takes the rank, or the launch fails (14 R312). -/
def effMissing (rank : BitVec 20) (standby : Option EdgeEntry) (digest : Digest) (s : State) : State :=
  if !(s.launching || s.fab.second.own.isSome) || s.launchRank ≠ 0 then s
  else match standby with
    | some e => if rank = 0 then effRevert s else effEdgeUpdate rank e digest s
    | none => effRevert s
def execMissing (rank : BitVec 20) (standby : Option EdgeEntry) (digest : Digest) (s : State) : Host.Outcome State Fault Refusal :=
  s.live (effMissing rank standby digest)

/-! ### COMMIT -/

/-- The root commits only when every rank reports READY (14 R311). -/
def State.mayCommit (s : State) : Bool := s.launchRank ≠ 0 || s.fab.launch.aggregate == some .ready

/-- COMMIT: acknowledged, passed down, COMMITTED, with the Front apply of the staged state at T_apply, checked as R383 says (14 R311, 19
R383). -/
def effCommit (epoch : Word) (at_ : DWord) (s : State) : State :=
  if s.fab.state ≠ .prepared || epoch ≠ s.fab.launch.epoch || !s.mayCommit then s
  else
    let l := s.fab.launch
    let s := if s.launchRank = 0 then s else s.sendMgmt (.commitAck l.parent)
    let s := s.sendAll ((l.children.filter fun c => !c.missing).map fun c => .commit c.rank epoch at_)
    let s := (s.setFab .committed).onLaunch fun l => { l with applyAt := some at_ }
    s.beginApply true (tickAt at_)
def execCommit (epoch : Word) (at_ : DWord) (s : State) : Host.Outcome State Fault Refusal := s.live (effCommit epoch at_)

/-- COMMIT_ACK (14 R311). -/
def effCommitAck (child : BitVec 20) (s : State) : State := s.onChild child fun c => { c with commitAck := true }
def execCommitAck (child : BitVec 20) (s : State) : Host.Outcome State Fault Refusal := s.live (effCommitAck child)

/-- COMMIT_ACK_TIMEOUT: COMMIT goes directly to the child's children (14 R311). -/
def effCommitAckTimeout (child : BitVec 20) (s : State) : State :=
  match s.child child, s.fab.launch.applyAt with
  | some c, some t =>
    if c.commitAck || c.standby || s.fab.state ≠ .committed then s
    else s.sendAll ((treeChildren child.toNat s.fab.launch.n.toNat).map fun r => .commit (BitVec.ofNat 20 r) s.fab.launch.epoch t)
  | _, _ => s
def execCommitAckTimeout (child : BitVec 20) (s : State) : Host.Outcome State Fault Refusal := s.live (effCommitAckTimeout child)

/-- SCRUBBING_REPREPARE: the root sends PREPARE to the subtree again (14 R315). -/
def effScrubbingReprepare (child : BitVec 20) (s : State) : State :=
  match s.child child with
  | some c =>
    if s.launchRank = 0 && c.done == some .scrubbing then
      (s.onChild child fun c => { c with ack := false, done := none }).prepareAll s.fab.launch [c]
    else s
  | none => s
def execScrubbingReprepare (child : BitVec 20) (s : State) : Host.Outcome State Fault Refusal := s.live (effScrubbingReprepare child)

/-! ### Teardown -/

/-- CID and rank of the job that the package is in, or of the launch that is prepared or committed: the staged ones (14 R305, R314; log 28). -/
def State.jobNow (s : State) : Cid × BitVec 20 :=
  if s.fab.state = .active then (s.jobCid, BitVec.ofNat 20 s.rank)
  else ((s.shadowOf (umberBar 0 + 0x800C)).setWidth 16, BitVec.ofNat 20 s.launchRank)

/-- TEARDOWN, step 1: every ring of the job aborts, and the message goes down the tree; steps 2 and 3 follow at the next package tick
(14 R314). -/
def effTeardown (s : State) : State :=
  if s.fab.state ≠ .active && s.fab.state ≠ .prepared && s.fab.state ≠ .committed then s
  else
    let job := s.jobNow
    let s := (s.cancelApply.setFab .teardown).onFab fun f => { f with leaving := job }
    let s := (s.ringsOf job.1).foldl (fun s r => effAbort (Fin.ofNat 1024 r) s) s
    s.sendAll (s.fab.launch.children.map fun c => .teardown c.rank)
def execTeardown (s : State) : Host.Outcome State Fault Refusal := s.live effTeardown

/-- A word takes a value in force and in its shadow. -/
def State.force (s : State) (a : Nat) (v : Word) : State := (s.setReg a v).setShadow a v

/-- The job context closes; its granules are zeroed whether or not it was ever SEALED (14 R314). CID 0 is no job context of its own. -/
def State.closeJob (s : State) (t : Cid) : State :=
  if t = 0 || (s.ctx t).state = .free then s
  else
    let s := (s.closeRings t).freeObjects t
    if s.own.any fun p => p.2.owner == t then (s.setCtx t { s.ctx t with closing := true, prep := none }).releaseGranules t
    else s.freeCtx t

/-- Teardown, steps 2 and 3: epoch 0, no edges, no aliases, the epoch's key revoked, the job context closed (14 R314, 17 R359). -/
def State.teardownTick (s : State) : State :=
  if s.fab.state ≠ .teardown then s
  else
    let cid := s.fab.leaving.1
    let old := if s.epoch = 0 then s.fab.launch.epoch else s.epoch
    let u0 := umberBar 0
    let words : List Nat := [0x8000, 0x8018] ++ (List.range 8).map fun i => 0x8040 + 4 * i
    let s := words.foldl (fun (s : State) o => s.force (u0 + o) 0) s
    let s := { s with sec := { s.sec with epochKey := none }, fab := { s.fab with lastEpoch := old } }
    ({ s with rate := 0 }.closeJob cid).setFab .scrubbing

/-- TEARDOWN_SCRUB_DONE: the zeroing has ended (14 R314). -/
def effTeardownScrubDone (s : State) : State :=
  if s.fab.state ≠ .scrubbing || (s.ctx s.fab.leaving.1).closing then s
  else
    let s := (s.setFab .idle).onLaunch fun l => { l with own := none }
    if s.fab.leaving.2 = 0 then s else s.sendMgmt (.teardownDone s.fab.launch.parent)
def execTeardownScrubDone (s : State) : Host.Outcome State Fault Refusal := s.live effTeardownScrubDone

/-- TEARDOWN_DONE (14 R314). -/
def effTeardownDone (child : BitVec 20) (s : State) : State := s.onChild child fun c => { c with torn := true }
def execTeardownDone (child : BitVec 20) (s : State) : Host.Outcome State Fault Refusal := s.live (effTeardownDone child)

end Sys2Proof.Machine
end

