-- ==== Sys2Proof/Machine/Collect.lean ====
section
/-! DEFINITION. Collectives (14 R306-R309): a member's own data, what its peers send it, and its result. -/

namespace Sys2Proof.Machine

/-! ### What a member contributes and receives -/

def Cmd.collF (c : Cmd) : Fmt := (Fmt.ofCode c.collFmt).getD .fp32
def Cmd.collSize (c : Cmd) : Nat := grpSize c.group
/-- Bytes of a member's COUNT elements. -/
def Cmd.collBytes (c : Cmd) : Nat := packedBytes c.collF c.collCount

/-- Bytes that member i contributes: BARRIER none, BROADCAST the root alone (14 R306). -/
def Cmd.collGives (c : Cmd) (i : Nat) : Nat :=
  if c.collKind = 5 || (c.collKind = 4 && i ≠ c.collRoot) then 0 else c.collBytes

/-- Member me needs member i's data for its own result (14 R306): REDUCE_SUM is the root's alone. -/
def Cmd.collNeeds (c : Cmd) (me i : Nat) : Bool :=
  if c.collKind = 1 then me = c.collRoot else if c.collKind = 4 then i = c.collRoot else c.collKind ≠ 5

/-- A code with a NaN in its canonical form (02 R31). -/
def Fmt.clean (f : Fmt) (code : Nat) : Nat := if (f.value code).isNan then f.nanCode else code

/-- The order of additions of R307 over the members' codes of one element. -/
def gsum (f : Fmt) : Nat → List Nat → Nat
  | 0, xs => f.clean (xs.headD 0)
  | n + 1, xs =>
    if xs.length ≤ 1 then f.clean (xs.headD 0)
    else
      let half := 2 ^ (Nat.log2 (xs.length - 1))
      (f.round .ieee ((f.value (gsum f n (xs.take half))).add (f.value (gsum f n (xs.drop half))))).code

/-- One element of MAX or MIN (14 R307, 07 R140). -/
def gpick (f : Fmt) (op : Num → Num → Num) : List Nat → Nat
  | [] => 0
  | x :: xs => (f.round .ieee (xs.foldl (fun a y => op a (f.value y)) (f.value x))).code

/-- A LONG sum: exact; none when KINDs differ; whether it overflowed (14 R308, R309, 03 R54). -/
def longSum (xs : List Nat) : Option (Nat × Bool) :=
  let kind := longKind (xs.headD 0)
  if xs.all fun x => longKind x = kind then
    let es := xs.map Elem.ofNat
    let (e, ovf) := Elem.ofSum (es.any (·.nan)) (es.foldl (fun v e => v + e.a.toInt) 0)
    some (e.toNat kind, ovf)
  else none

/-- One reduced element of a command. -/
def Cmd.reduceOne (c : Cmd) (xs : List Nat) : Option (Nat × Bool) :=
  if c.collKind = 6 then some (gpick c.collF Num.maxOf xs, false)
  else if c.collKind = 7 then some (gpick c.collF Num.minOf xs, false)
  else if c.collF = .long then longSum xs
  else some (gsum c.collF 21 xs, false)

/-- Elements lo to lo + n − 1 of the reduction over the members' data. -/
def Cmd.reduce (c : Cmd) (data : List (List Byte)) (lo n : Nat) : Option (List Byte × Bool) :=
  let rows := data.map fun bs => unpackRow c.collF c.collCount bs
  let out := (List.range n).map fun e => c.reduceOne (rows.map fun r => r.getD (lo + e) 0)
  if out.all (·.isSome) then
    some (packRow c.collF (out.map fun x => (x.getD (0, false)).1), out.any fun x => (x.getD (0, false)).2)
  else none

/-- Bytes that member me receives (14 R306). -/
def Cmd.collOut (c : Cmd) (me : Nat) : Nat :=
  match c.collKind with
  | 1 => if me = c.collRoot then c.collBytes else 0
  | 2 => packedBytes c.collF (c.collCount / c.collSize)
  | 3 => c.collSize * c.collBytes
  | 5 => 0
  | _ => c.collBytes

/-- The result of member me; none when KINDs differ. -/
def Cmd.collResult (c : Cmd) (me : Nat) (data : List (List Byte)) : Option (List Byte × Bool) :=
  match c.collKind with
  | 1 => if me = c.collRoot then c.reduce data 0 c.collCount else some ([], false)
  | 2 => c.reduce data (me * (c.collCount / c.collSize)) (c.collCount / c.collSize)
  | 3 => some (data.flatten, false)
  | 4 => some (data.getD c.collRoot [], false)
  | 5 => some ([], false)
  | _ => c.reduce data 0 c.collCount

/-! ### The engine -/

def State.coll (s : State) (r : Nat) (q : Word) : Option Coll := s.fab.colls.find? fun x => x.ring == r && x.seq == q
def State.collOf (s : State) (u : Nat) (g : DWord) (t : Word) : Option Coll :=
  s.fab.colls.find? fun x => x.u == u && x.group == g && x.tag == t
def State.setColl (s : State) (x : Coll) : State :=
  s.onFab fun f => { f with colls := f.colls.map fun y => if y.ring == x.ring && y.seq == x.seq then x else y }
def State.dropColl (s : State) (x : Coll) : State :=
  s.onFab fun f => { f with colls := f.colls.filter fun y => !(y.ring == x.ring && y.seq == x.seq) }

def dataDflt (_ : Nat) : List Byte := []

/-- The package's own member index (14 R306). -/
def State.myMember (s : State) (c : Cmd) : Nat := (memberOf c.group s.rank).getD 0

/-- The collective fails: DST is written in part, with bytes that the manual leaves open, and PARTIAL is 1 (14 R309; log 4). -/
def State.collFail (s : State) (x : Coll) (st : Status) : State :=
  match s.cmd x.ring x.seq with
  | none => s.dropColl x
  | some c =>
    let n := c.collOut (s.myMember c)
    let dst := field c.slot 24 8
    let (s, v) := s.draw (8 * n)
    let s := match s.writePieces (dispatchReq x.ring (some x.seq)) c.cid .dispatchWrite false dst (leBytes n v.toNat) (granulePieces dst n) with
      | (t, .done) => t
      | _ => s
    (s.endCmd { c with partWrites := true, stall := none } st).dropColl x

/-- Every member has announced itself and all data that this member needs is here: its result is stored (14 R306-R309). -/
def State.collTry (s : State) (x : Coll) : State :=
  match s.cmd x.ring x.seq with
  | none => s
  | some c =>
    let me := s.myMember c
    let size := c.collSize
    let ready := (List.range size).all fun i => x.here.contains i && (!c.collNeeds me i || i = me || (tabFind x.data i).isSome)
    if !ready || c.stall.isSome then s
    else match c.collResult me ((List.range size).map fun i => tabGet dataDflt x.data i) with
      | none => s.collFail x stFormat
      | some (bs, ovf) =>
        let dst := field c.slot 24 8
        let t := s.storeRest { c with longOvf := c.longOvf || ovf } dst bs
        match t.cmd x.ring x.seq with
        | some d =>
          if d.stage = .finished then
            (t.dropColl x).count (4 + x.u) 0x27 (some c.cid) (if c.collKind ≤ 2 || 6 ≤ c.collKind then size * c.collBytes else 0)
          else t
        | none => t

/-- Own data: the in-line payload, or SRC piece by piece (14 R306). -/
def State.collSource (s : State) (c : Cmd) (got : List Byte) : List (Nat × Nat) → State × Got
  | [] => (s, .bytes got)
  | (p, n) :: ps =>
    match s.dispRead c.ring c.seq c.cid p n with
    | (t, .bytes bs) => State.collSource t c (got ++ bs) ps
    | (t, .mig _ k) => (t, .mig p k)
    | r => r

/-- The collective engine takes up a command: it announces itself and waits for its peers (14 R309). -/
def State.collStart (s : State) (c : Cmd) (bs : List Byte) : State :=
  let u := if c.ring < 512 then 0 else 1
  let me := s.myMember c
  let mine := s.fab.annc.filter fun a => a.1 == u && a.2.1 == c.group && a.2.2.1 == c.tag
  let x : Coll := { u := u, ring := c.ring, seq := c.seq, group := c.group, tag := c.tag,
                    here := (me :: mine.map fun a => a.2.2.2).eraseDups, data := tabPut [] me bs }
  let s := s.endErrand (.ring c.ring c.seq)
  (s.onFab fun f => { f with colls := f.colls ++ [x], annc := f.annc.filter fun a => !mine.contains a }).collTry x

/-- COLLECTIVE (14 R306, R309). -/
def effCollective (r : RingId) (seq : Word) (s : State) : State :=
  s.onStarted r seq 0x08 fun c =>
    match s.coll r seq with
    | some x => s.collTry x
    | none =>
      if s.fab.colls.any fun x => x.group == c.group && x.tag == c.tag then s.endCmd c stState
      else
        let n := c.collGives (s.myMember c)
        if c.inl then s.collStart c ((c.slots.drop 1).flatten.take n)
        else match s.collSource c [] (granulePieces (field c.slot 16 8) n) with
          | (t, .bytes bs) => t.collStart c bs
          | (t, .bad st) => (t.endErrand (.ring r seq)).endCmd c st
          | (t, .mig va k) => t.stallCmd c va k AccKind.dispatchRead.code
          | (t, _) => t
def execCollective (r : RingId) (seq : Word) (s : State) : Host.Outcome State Fault Refusal := s.live (effCollective r seq)

/-- A collective learns something of a member. -/
def State.collLearn (s : State) (x : Coll) (member : Nat) (data : Option (List Byte)) : State :=
  let x := { x with here := if x.here.contains member then x.here else x.here ++ [member],
                    data := match data with | some bs => tabPut x.data member bs | none => x.data }
  (s.setColl x).collTry x

/-- COLLECTIVE_ANNOUNCE: kept until the command starts here, if it has not (14 R309). -/
def effCollectiveAnnounce (u : UmberId) (group : DWord) (tag : Word) (member : Nat) (s : State) : State :=
  if grpSize group ≤ member then s
  else match s.collOf u group tag with
    | some x => s.collLearn x member none
    | none =>
      if s.fab.annc.contains (u.val, group, tag, member) then s
      else s.onFab fun f => { f with annc := f.annc ++ [(u.val, group, tag, member)] }
def execCollectiveAnnounce (u : UmberId) (group : DWord) (tag : Word) (member : Nat) (s : State) : Host.Outcome State Fault Refusal :=
  s.live (effCollectiveAnnounce u group tag member)

/-- A packet of collective data passes the checks of an arriving packet (14 R298, R299). -/
def State.collGood (s : State) (p : Nat) (k : Packet) : Bool :=
  s.portUp p && packetLegal k && packetLast k && k.cls = 0 && k.op = 4 && k.dst = s.pins.stn && k.epoch = s.epoch && s.tagGood k &&
  (!k.priv || s.serves k.dstRank.toNat) && (k.data.length + 31) / 32 = k.len32.toNat && k.data.length ≤ 512

/-- The packets of a member's data arrive: one that fails a check has the outcome of that check, and is lost to the collective (14 R299,
R309). -/
def State.collPackets (s : State) (ps : List (PortId × Packet)) : State × Bool :=
  ps.foldl (fun x q =>
    let (p, k) := q
    if x.1.collGood p k then x
    else if k.cls ≠ 0 then (x.1, false)
    else (x.1.arrive p k (fun s => s.wrongEpoch p k) fun s => s.serveRequest p k none, false)) (s, true)

/-- COLLECTIVE_DATA: the packets with a member's elements arrive, or one of them is lost or fails its checks (14 R299, R309). -/
def effCollectiveData (u : UmberId) (group : DWord) (tag : Word) (member : Nat) (packets : List (PortId × Packet)) (lost : Bool)
    (s : State) : State :=
  let elems := packets.flatMap fun q => q.2.data
  let (s, whole) := s.collPackets packets
  match s.collOf u group tag with
  | none => s
  | some x =>
    match s.cmd x.ring x.seq with
    | none => s
    | some c =>
      if c.collSize ≤ member || member = s.myMember c then s
      else if lost || !whole then s.collFail x stLink
      else if elems.length = c.collGives member then s.collLearn x member (some elems)
      else s
def execCollectiveData (u : UmberId) (group : DWord) (tag : Word) (member : Nat) (packets : List (PortId × Packet)) (lost : Bool)
    (s : State) : Host.Outcome State Fault Refusal := s.live (effCollectiveData u group tag member packets lost)

/-- COLLECTIVE_TIMEOUT: some member has not announced itself (14 R309). -/
def effCollectiveTimeout (u : UmberId) (group : DWord) (tag : Word) (s : State) : State :=
  match s.collOf u group tag with
  | none => s
  | some x => if (List.range (grpSize group)).all fun i => x.here.contains i then s else s.collFail x stTimeout
def execCollectiveTimeout (u : UmberId) (group : DWord) (tag : Word) (s : State) : Host.Outcome State Fault Refusal :=
  s.live (effCollectiveTimeout u group tag)

end Sys2Proof.Machine
end

