-- ==== Sys2Proof/Machine/Roce.lean ====
section
/-! DEFINITION. Queue pairs of ETHERNET ports: work-queue elements, incoming messages, completions (14 R291, R292, 21 R415, R416). The
messages on the wire have the model's own layout (log 29). -/

namespace Sys2Proof.Machine

/-- A port that is up in ETHERNET mode (14 R289, R291). -/
def State.ethUp (s : State) (p : Nat) : Bool := (s.port p).width ≠ 0 && !(s.port p).training && s.portMode p = 1

/-- A queue pair's registers: bases of its three queues (21 R415). -/
def State.qpBase (s : State) (p n off : Nat) : Nat := (s.reg64 (qpBlock p n + off)).toNat

/-- The requester of a queue pair; its ranges are walked where those of its die's root ports are (log 29). -/
def qpReq (p : Nat) : Requester := { die := if p < 10 then 0 else 2, cell := none, req := 0xFFFF, cmd := none, item := 0, thr := none }
def qpHome (p : Nat) : Requester := { die := 4 + p / 10, cell := none, req := 0xFFFF, cmd := none, item := 0, thr := none }

/-- Outcome of a translated access of a queue pair: a SEALED context takes none, whenever the pair or the key was set up (17 R344); a RETIRING
region serves it as before, since R212 names engines, cores and threads alone; a MIG range refuses it (10 R212; log 29). -/
def State.qpXlate (s : State) (p : Nat) (cid : Cid) (va n : Nat) (k : AccKind) : State × Xlated :=
  if s.sealedCid cid then (s, .bad stAccess)
  else match s.translate (qpReq p) cid va n k with
  | (t, .mig 0) => (t, .bad stAccess)
  | (t, .mig _) =>
    (match t.lookup (qpReq p) cid va k.code with
     | (u, .entry e) => (u, .at (u.localise (e.pbase + (va - e.start))) e.nolake)
     | (u, _) => (u, .waits))
  | r => r

/-- Read bytes under a CID, granule by granule as a translation gives their addresses; those of another package come over the fabric (14
R292, R293, R301). -/
def State.readUnder (s : State) (x : State → Nat → Nat → State × Xlated) (k : ErrandKey) (w : Requester) (cid : Cid) (got : List Byte) :
    List (Nat × Nat) → State × Got
  | [] => (s, .bytes got)
  | (va, n) :: ps =>
    match x s va n with
    | (t, .at a nl) =>
      match if isRemote a then s.errandRead t k w cid a n else t.readLocal w cid a n nl with
      | (t, .bytes bs) => State.readUnder t x k w cid (got ++ bs) ps
      | r => r
    | (t, .bad st) => (t, .bad st)
    | (t, _) => (s.waits t, .stall)

/-- Write bytes under a CID, granule by granule. -/
def State.writeUnder (s : State) (x : State → Nat → Nat → State × Xlated) (k : ErrandKey) (w : Requester) (cid : Cid) (va : Nat)
    (bs : List Byte) : List (Nat × Nat) → State × Put
  | [] => (s, .done)
  | (v, n) :: ps =>
    match x s v n with
    | (t, .at a nl) =>
      let b := (bs.drop (v - va)).take n
      match if isRemote a then s.errandWrite t k w cid a b else t.writeLocal w cid a b nl with
      | (t, .done) => State.writeUnder t x k w cid va bs ps
      | r => r
    | (t, .bad st) => (t, .bad st)
    | (t, _) => (s.waits t, .stall)

/-- Reads and writes of a queue pair under its CID (14 R292). -/
def State.qpRead (s : State) (k : ErrandKey) (p : Nat) (cid : Cid) (va n : Nat) : State × Got :=
  s.readUnder (fun s v m => s.qpXlate p cid v m .streamRead) k (qpHome p) cid [] (granulePieces va n)
def State.qpWrite (s : State) (k : ErrandKey) (p : Nat) (cid : Cid) (va : Nat) (bs : List Byte) : State × Put :=
  s.writeUnder (fun s v m => s.qpXlate p cid v m .streamWrite) k (qpHome p) cid va bs (granulePieces va bs.length)

/-- What a work that stops leaves, t being where it stopped: packets that it has sent stay sent (14 R301). -/
def State.waitsSent (s t : State) : State := if t.fab.reqs.length = s.fab.reqs.length then s.waits t else t

/-! ### Elements and completions -/

def elemOp (e : List Byte) : Nat := byteAt e 0
def elemLen (e : List Byte) : Nat := field e 4 4
def elemLaddr (e : List Byte) : Nat := field e 8 8

/-- Fields of an element (14 R292). -/
def elemOk (e : List Byte) : Bool :=
  elemOp e ≤ 2 && byteAt e 1 < 2 && zeroSpan e 2 2 && 1 ≤ elemLen e && elemLen e ≤ 2 ^ 31 && zeroSpan e 28 36 &&
  (elemOp e ≠ 0 || zeroSpan e 16 12)

/-- The 32 bytes of a completion record (21 R415). -/
def qpRecord (seq : Word) (st : Status) (recv : Bool) (n : Nat) (time : DWord) (q log2 : Nat) : List Byte :=
  leBytes 4 seq.toNat ++ leBytes 2 st.toNat ++ leBytes 1 recv.toNat ++ leBytes 1 0 ++ leBytes 4 n ++ leBytes 4 0 ++
  leBytes 8 time.toNat ++ leBytes 7 0 ++ [commitByte q log2]

/-- The completion records of a queue pair are written in order, as far as they can be; one that would fault is dropped (14 R292; log 29).
RUN's stop looks at what is still due. -/
def State.flushDue (s : State) (p n : Nat) : List (Nat × List Byte) → State
  | [] => s.setQp p n (s.qp p n).settle
  | (va, bs) :: rest =>
    match s.qpWrite (.qpRecord p n) p (s.qpCid p n) va bs with
    | (t, .done) | (t, .bad _) =>
      State.flushDue ((t.endErrand (.qpRecord p n)).setQp p n { t.qp p n with due := rest }) p n rest
    | (t, _) => s.waitsSent t
def State.flushQp (s : State) (p n : Nat) : State := if (s.qp p n).due.isEmpty then s else s.flushDue p n (s.qp p n).due
def State.qpFlush (s : State) : State :=
  (s.qps.filter fun q => !q.2.due.isEmpty).foldl (fun s q => s.flushQp (q.1 / 256) (q.1 % 256)) s

/-- A completion: a record where the element asks for one or its status is not OK. -/
def State.qpComplete (s : State) (p n : Nat) (seq : Word) (e : List Byte) (st : Status) (recv : Bool) (len : Nat) : State :=
  if byteAt e 1 % 2 = 0 && st = stOk then s
  else
    let x := s.qp p n
    let log2 := s.qpLog2 p n + 1
    let q := x.cqSeq.toNat
    let rec_ := (s.qpBase p n 0x10 + 32 * (q % 2 ^ log2), qpRecord seq st recv len s.time q log2)
    (s.setQp p n { x with cqSeq := x.cqSeq + 1, due := x.due ++ [rec_] }).flushQp p n

/-- QP_SQHEAD names the oldest uncompleted sequence (21 R415). -/
def Qp.advance (x : Qp) : Qp :=
  { x with sqHead := match x.flying with | [] => x.sqNext | (q, _) :: _ => q }

/-- The oldest element in progress has ended with a status (14 R292, 21 R415). -/
def State.qpEnd (s : State) (p n : Nat) (st : Status) : State :=
  let x := s.qp p n
  match x.flying with
  | [] => s
  | (q, e) :: rest =>
    let s := (s.endErrand (.qpBack p n)).setQp p n (Qp.advance { x with flying := rest })
    let s := s.qpComplete p n q e st false 0
    s.setQp p n (s.qp p n).settle

/-- A message on the wire: its kind and its fields. -/
def wireSend (bs : List Byte) : List Byte := leBytes 1 0 ++ bs
def wireWrite (e bs : List Byte) : List Byte := leBytes 1 1 ++ (e.drop 16).take 12 ++ bs
def wireRead (e : List Byte) : List Byte := leBytes 1 2 ++ (e.drop 16).take 12 ++ leBytes 4 (elemLen e)
def wireData (bs : List Byte) : List Byte := leBytes 1 3 ++ bs
def wireAck : List Byte := leBytes 1 4
def wireNak (syndrome : Nat) : List Byte := leBytes 1 5 ++ leBytes 1 syndrome
def State.onWire (s : State) (p n : Nat) (m : List Byte) : State :=
  s.setQp p n { s.qp p n with wire := (s.qp p n).wire ++ [m] }

/-- An element that ends at its start, with its completion; RUN's stop looks at what is still in progress. -/
def State.qpFail (s : State) (p n : Nat) (q : Word) (e : List Byte) (st : Status) : State :=
  let y := s.qp p n
  let rest := y.flying.filter fun f => f.1 != q
  let s := s.setQp p n (Qp.advance { y with flying := rest })
  let s := s.qpComplete p n q e st false 0
  s.setQp p n (s.qp p n).settle

/-- The next element of a queue pair starts, if its OP is one of this row's or none's: its message leaves, and it is in progress until
its acknowledgement; a malformed one ends with E_FORMAT, one whose local bytes cannot be read with the status of that (14 R292). -/
def State.qpStart (s : State) (p n op : Nat) : State :=
  let x := s.qp p n
  if !s.ethUp p || x.state ≠ .running || x.stopping || x.sqNext = x.sqTail then s
  else
    let cid := s.qpCid p n
    let va := s.qpBase p n 0x00 + 64 * (x.sqNext.toNat % 2 ^ s.qpLog2 p n)
    match s.qpRead (.qpOut p n) p cid va 64 with
    | (t, .bytes e) =>
      if elemOp e ≠ op && elemOp e ≤ 2 then s
      else
        let fly (u : State) : State :=
          (u.endErrand (.qpOut p n)).setQp p n { u.qp p n with sqNext := x.sqNext + 1, flying := (u.qp p n).flying ++ [(x.sqNext, e)] }
        if !elemOk e then (fly t).qpFail p n x.sqNext e stFormat
        else if op = 2 then (fly t).onWire p n (wireRead e)
        else match t.qpRead (.qpOut p n) p cid (elemLaddr e) (elemLen e) with
          | (u, .bytes bs) => (fly u).onWire p n (if op = 0 then wireSend bs else wireWrite e bs)
          | (u, .bad st) => (fly u).qpFail p n x.sqNext e st
          | (u, _) => s.waitsSent u
    | (t, .bad st) =>
      let e : List Byte := List.replicate 64 0
      ((t.endErrand (.qpOut p n)).setQp p n { t.qp p n with sqNext := x.sqNext + 1, flying := (t.qp p n).flying ++ [(x.sqNext, e)] }).qpFail p n x.sqNext e st
    | (t, _) => s.waitsSent t

/-- SEND (14 R292). -/
def effSend (p : PortId) (n : Fin 256) (s : State) : State := s.qpStart p n 0
def execSend (p : PortId) (n : Fin 256) (s : State) : Host.Outcome State Fault Refusal := s.live (effSend p n)

/-- RDMA WRITE (14 R292). -/
def effRdmaWrite (p : PortId) (n : Fin 256) (s : State) : State := s.qpStart p n 1
def execRdmaWrite (p : PortId) (n : Fin 256) (s : State) : Host.Outcome State Fault Refusal := s.live (effRdmaWrite p n)

/-- RDMA READ (14 R292). -/
def effRdmaRead (p : PortId) (n : Fin 256) (s : State) : State := s.qpStart p n 2
def execRdmaRead (p : PortId) (n : Fin 256) (s : State) : Host.Outcome State Fault Refusal := s.live (effRdmaRead p n)

/-- ROCE_ACKNOWLEDGEMENT: the oldest element in progress completes, a READ once its data is stored; a NAK faults the queue pair with
its syndrome (14 R292, 21 R415). -/
def effRoceAcknowledgement (p : PortId) (n : Fin 256) (data : List Byte) (nak : Option (BitVec 8)) (s : State) : State :=
  let x := s.qp p n
  match x.flying, nak with
  | [], _ => s
  | _, some y => (s.endErrand (.qpBack p n)).setQp p n { x with state := .faulted, syndrome := y, stopping := false, flying := [] }
  | (_, e) :: _, none =>
    if elemOp e ≠ 2 then s.qpEnd p n stOk
    else
      let va := elemLaddr e
      let bs := data.take (elemLen e)
      match s.qpWrite (.qpBack p n) p (s.qpCid p n) va bs with
      | (t, .done) => t.qpEnd p n stOk
      | (t, .bad st) => t.qpEnd p n st
      | (t, _) => s.waitsSent t
def execRoceAcknowledgement (p : PortId) (n : Fin 256) (data : List Byte) (nak : Option (BitVec 8)) (s : State) :
    Host.Outcome State Fault Refusal := s.live (effRoceAcknowledgement p n data nak)

/-- TRANSPORT_RETRIES_EXHAUSTED (21 R415). -/
def effTransportRetriesExhausted (p : PortId) (n : Fin 256) (s : State) : State := s.qpEnd p n stLink
def execTransportRetriesExhausted (p : PortId) (n : Fin 256) (s : State) : Host.Outcome State Fault Refusal :=
  s.live (effTransportRetriesExhausted p n)

/-! ### Incoming messages -/

/-- RoCEv2 syndromes of NAKs: remote access error, remote operational error, invalid request (log 29). -/
def nakAccess : Nat := 0x62
def nakError : Nat := 0x63
def nakRequest : Nat := 0x61

/-- INCOMING_SEND: the buffer of the next receive-queue element fills; with no element, or one that is too small, it is refused
(21 R415; log 29). -/
def effIncomingSend (p : PortId) (n : Fin 256) (data : List Byte) (s : State) : State :=
  let x := s.qp p n
  if !s.ethUp p || x.state ≠ .running then s
  else if x.rqHead = x.rqTail then s.onWire p n (wireNak nakRequest)
  else
    let cid := s.qpCid p n
    let va := s.qpBase p n 0x08 + 64 * (x.rqHead.toNat % 2 ^ s.qpLog2 p n)
    let done (t : State) (e : List Byte) (st : Status) (len : Nat) : State :=
      ((t.endErrand (.qpIn p n)).setQp p n { t.qp p n with rqHead := x.rqHead + 1 }).qpComplete p n x.rqHead e st true len
    match s.qpRead (.qpIn p n) p cid va 64 with
    | (t, .bytes e) =>
      if !elemOk e || elemOp e ≠ 0 then (done t e stFormat 0).onWire p n (wireNak nakError)
      else if elemLen e < data.length then (t.endErrand (.qpIn p n)).onWire p n (wireNak nakRequest)
      else match t.qpWrite (.qpIn p n) p cid (elemLaddr e) data with
        | (u, .done) => (done u e stOk data.length).onWire p n wireAck
        | (u, .bad st) => (done u e st 0).onWire p n (wireNak nakError)
        | (u, _) => s.waitsSent u
    | (t, .bad st) => (done t (List.replicate 64 0) st 0).onWire p n (wireNak nakError)
    | (t, _) => s.waitsSent t
def execIncomingSend (p : PortId) (n : Fin 256) (data : List Byte) (s : State) : Host.Outcome State Fault Refusal :=
  s.live (effIncomingSend p n data)

/-- Key-table entry e of a port: START, LENGTH, the word at bytes 16-19 and TAG (21 R416). -/
def State.keyStart (s : State) (p e : Nat) : Nat := (s.reg64 (keyBlock p e)).toNat
def State.keyLength (s : State) (p e : Nat) : Nat := (s.reg64 (keyBlock p e + 8)).toNat
def State.keyWord (s : State) (p e : Nat) : Nat := (s.reg (keyBlock p e + 16)).toNat
def State.keyTag (s : State) (p e : Nat) : Nat := (s.reg (keyBlock p e + 20)).toNat % 2 ^ 20

/-- The entry allows the access (21 R416). -/
def State.keyOk (s : State) (p : Nat) (rkey : Word) (va : Nat) (a : IoAccess) : Bool :=
  let e := rkey.toNat % 4096
  let w := s.keyWord p e
  bitOf w 16 && s.keyTag p e = rkey.toNat / 4096 && s.keyStart p e ≤ va && va + accBytes a ≤ s.keyStart p e + s.keyLength p e &&
  1 ≤ accBytes a &&
  (match a with | .read _ => bitOf w 17 | .write _ => bitOf w 18 | .atomic .. => false)

/-- INCOMING_RDMA: performed under the entry's CID, or refused with a NAK (14 R291, R292, 21 R416). -/
def effIncomingRdma (p : PortId) (n : Fin 256) (rkey : Word) (va : DWord) (a : IoAccess) (s : State) : State :=
  if !s.ethUp p || (s.qp p n).state ≠ .running then s
  else if !s.keyOk p rkey va.toNat a then s.onWire p n (wireNak nakAccess)
  else
    let cid := BitVec.ofNat 16 (s.keyWord p (rkey.toNat % 4096))
    let v := va.toNat
    let key := ErrandKey.qpIn p n
    match a with
    | .read k =>
      (match s.qpRead key p cid v k with
       | (t, .bytes bs) => (t.endErrand key).onWire p n (wireData bs)
       | (t, .bad st) => (t.endErrand key).onWire p n (wireNak (if st = stMemUe then nakError else nakAccess))
       | (t, _) => s.waitsSent t)
    | .write bs =>
      (match s.qpWrite key p cid v bs with
       | (t, .done) => (t.endErrand key).onWire p n wireAck
       | (t, .bad st) => (t.endErrand key).onWire p n (wireNak (if st = stMemUe then nakError else nakAccess))
       | (t, _) => s.waitsSent t)
    | .atomic .. => s
def execIncomingRdma (p : PortId) (n : Fin 256) (rkey : Word) (va : DWord) (a : IoAccess) (s : State) :
    Host.Outcome State Fault Refusal := s.live (effIncomingRdma p n rkey va a)

end Sys2Proof.Machine
end

