-- ==== Sys2Proof/Machine/Ticks.lean ====
section
/-! DEFINITION. What happens at a package tick (10 R208, 14 R314, 17 R359, 19 R380), and DEVTIME (14 R303, 19 R380). -/

namespace Sys2Proof.Machine

/-- A new management key takes effect (17 R359): each die's counter starts from 0. -/
def Security.keyTick (x : Security) : Security :=
  match x.mgmtNew with
  | none => x
  | some k => { x with mgmtKey := some k, mgmtOld := x.mgmtKey, mgmtNew := none, mgmtIv := [] }

/-- Misses that waited for a walker are walked where they can be (11 R220). -/
def State.allMisses (s : State) : State := (List.range 4).foldl (fun s d => s.queuedMisses d) s

/-- What has waited for a quota, a path or a walker is tried again (10 R208, 11 R220, 12 R249, 13 R286, 14 R292). -/
def State.goOn (s : State) : State := s.admitAll.allMisses.drainPorts.drainFab.drainBuffers.deliverAll.qpFlush

/-- Outside a job the operating point is the package's own (16 R335). -/
def State.ownOp (s : State) : State :=
  if s.epoch = 0 then { s with power := { s.power with curOp := s.power.reqOp, jobOp := s.power.reqOp } } else s

/-- What a package tick brings: new quotas, under which requests that waited go on, a torn-down job's epoch 0, outside a job the package's
own operating point, a new management key (10 R208, 14 R314, 16 R335, 17 R359). -/
def State.atTick (s : State) : State :=
  let s := s.quotaTick.goOn
  let s := s.tracePower s.teardownTick.ownOp
  { s with sec := s.sec.keyTick }

/-- DEVTIME moves forward to a time; a package tick that it reaches has its effect (19 R380). -/
def State.forwardTo (s : State) (t : DWord) : State :=
  if t.toNat ≤ s.time.toNat then s
  else
    let s' := { s with time := t }
    if s.time.toNat / 1000 = t.toNat / 1000 then s' else s'.atTick

/-- With no command waiting, time goes on to the next package tick (log 2). -/
def State.tick (s : State) : State :=
  match s.phase with
  | .up => s.forwardTo (nextTick s.time)
  | _ => s

/-- TIME_SYNC: within a job DEVTIME follows the root's by its rate, which the exchange sets, faster or slower, for the 1 ms until the next:
an offset in ns over 1 ms is a rate in ppm, of at most 200, and DEVTIME takes no step (14 R303, 19 R380; log 2). -/
def effTimeSync (adjust : Int) (s : State) : State :=
  if s.epoch = 0 then s else { s with rate := max (-200) (min adjust 200) }
def execTimeSync (adjust : Int) (s : State) : Host.Outcome State Fault Refusal := s.live (effTimeSync adjust)

/-- DEVTIME_STEP: outside a job, forward only (19 R380). -/
def effDevtimeStep (t : DWord) (s : State) : State := if s.epoch = 0 then s.forwardTo t else s
def execDevtimeStep (t : DWord) (s : State) : Host.Outcome State Fault Refusal := s.live (effDevtimeStep t)

end Sys2Proof.Machine
end

