-- ==== Sys2Proof/Machine/Power.lean ====
section
/-! DEFINITION. The power controller: the Gust limiter and ballast (16 R329-R334), operating points (16 R335, R336), the package cap
(16 R338), the fast current limit and droop (16 R339, R340), temperature (16 R342). -/

namespace Sys2Proof.Machine

def State.onPower (s : State) (f : Power → Power) : State := { s with power := f s.power }

/-- A word of the power registers in force (16 R343). -/
def State.pwrReg (s : State) (o : Nat) : Nat := (s.reg (umberBar 0 + o)).toNat
def State.capWatts (s : State) : Nat := s.pwrReg 0x5008 % 4096
def State.gustRamp (s : State) : Nat := s.pwrReg 0x500C % 256
def State.gustHold (s : State) : Nat := s.pwrReg 0x500C / 2 ^ 8 % 2 ^ 10
def State.prewarms (s : State) : Bool := bitOf (s.pwrReg 0x500C) 18

/-! ### Operating points -/

/-- The request is formed anew; outside a job JOB_OP equals it (16 R335, R343). -/
def State.formOp (s : State) : State :=
  let req := BitVec.ofNat 3 (min s.opMax (min s.power.capOp.toNat s.power.thermOp.toNat))
  s.onPower fun p => { p with reqOp := req, jobOp := if s.epoch = 0 then req else p.jobOp }

/-- The exchange of boundary k begins with the first message or boundary of k (16 R336). -/
def State.exchange (s : State) (k : Nat) : State :=
  if s.power.exK = k then s else s.onPower fun p => { p with exK := k, exMin := 7, exHeard := [], exSent := false }

/-- A request for k is heard. -/
def State.hear (s : State) (k : Nat) (r : BitVec 20) (op : Nat) : State :=
  (s.exchange k).onPower fun p =>
    { p with exMin := min p.exMin op, exHeard := if p.exHeard.contains r then p.exHeard else p.exHeard ++ [r] }

/-- OP_SET goes down the tree, and is kept until B_k + 500 µs (16 R336). -/
def State.passOpSet (s : State) (k op : Nat) : State :=
  (s.onPower fun p => { p with exSet := some (k, op) }).sendAll (s.fab.launch.children.map fun c => .opSet c.rank k op)

/-- The minimum goes to the parent; the root answers with OP_SET (16 R336). -/
def State.forwardOp (s : State) (k : Nat) : State :=
  if s.power.exSent then s
  else
    let m := s.power.exMin
    let s := s.onPower fun p => { p with exSent := true }
    if s.rank = 0 then s.passOpSet k m else s.sendMgmt (.opReq s.fab.launch.parent k m)

/-- The package itself and every child have spoken for k. -/
def State.allHeard (s : State) : Bool :=
  let own := BitVec.ofNat 20 s.rank
  s.power.exHeard.contains own && s.fab.launch.children.all fun c => s.power.exHeard.contains c.rank

/-- OP_EXCHANGE_BOUNDARY (16 R336). -/
def effOpExchangeBoundary (k : Nat) (s : State) : State :=
  if s.epoch = 0 then s
  else
    let s := s.hear k (BitVec.ofNat 20 s.rank) s.power.reqOp.toNat
    if s.allHeard then s.forwardOp k else s
def execOpExchangeBoundary (k : Nat) (s : State) : Host.Outcome State Fault Refusal := s.live (effOpExchangeBoundary k)

/-- OP_REQ of a child for boundary k; a late one takes no part (16 R336). -/
def effOpReq (child : BitVec 20) (k : Nat) (op : Fin 8) (s : State) : State :=
  if s.epoch = 0 || (s.child child).isNone || k < s.power.exK || (k = s.power.exK && s.power.exSent) then s
  else
    let s := s.hear k child op
    if s.allHeard then s.forwardOp k else s
def execOpReq (child : BitVec 20) (k : Nat) (op : Fin 8) (s : State) : Host.Outcome State Fault Refusal := s.live (effOpReq child k op)

/-- OP_REQ_TIMEOUT: 150 µs after B_k (16 R336). -/
def effOpReqTimeout (k : Nat) (s : State) : State :=
  if s.epoch ≠ 0 && s.power.exK = k && s.power.exHeard.contains (BitVec.ofNat 20 s.rank) then s.forwardOp k else s
def execOpReqTimeout (k : Nat) (s : State) : Host.Outcome State Fault Refusal := s.live (effOpReqTimeout k)

/-- OP_SET (16 R336). -/
def effOpSet (k : Nat) (op : Fin 8) (s : State) : State := if s.epoch = 0 then s else s.passOpSet k op
def execOpSet (k : Nat) (op : Fin 8) (s : State) : Host.Outcome State Fault Refusal := s.live (effOpSet k op)

/-- OP_APPLY at the package tick B_k + 500 µs (16 R336). -/
def effOpApply (k : Nat) (s : State) : State :=
  let old := s
  if s.epoch = 0 then s
  else
    let s := match s.power.exSet with
      | some (j, op) =>
        if j = k then s.onPower fun p => { p with curOp := BitVec.ofNat 3 op, jobOp := BitVec.ofNat 3 op }
        else s.onPower fun p => { p with exchMiss := true }
      | none => s.onPower fun p => { p with exchMiss := true }
    old.tracePower s.formOp
def execOpApply (k : Nat) (s : State) : Host.Outcome State Fault Refusal := s.live (effOpApply k)

/-! ### The cap -/

/-- One further step down, in the order of R338. -/
def Power.capDown (p : Power) : Power :=
  if p.capOp ≠ 0 then { p with capOp := p.capOp - 1 }
  else if p.hostSteps < 6 then { p with hostSteps := p.hostSteps + 1 }
  else if p.memSteps < 4 then { p with memSteps := p.memSteps + 1 }
  else p

/-- One step back, in the opposite order. -/
def Power.capUp (p : Power) : Power :=
  if p.memSteps ≠ 0 then { p with memSteps := p.memSteps - 1 }
  else if p.hostSteps ≠ 0 then { p with hostSteps := p.hostSteps - 1 }
  else if p.capOp ≠ 7 then { p with capOp := p.capOp + 1 }
  else p

/-- VPP_HBM, VDD_PLAT and VDD_IO report no telemetry and count at their typical power (22 R417, R421). -/
def silentWatts : Nat := 60 + 6 + 2

/-- POWER_CAP_WINDOW: the average of a window, what the regulators report and the rails without telemetry, against CAP (16 R338, 22 R421). -/
def effPowerCapWindow (reported : Nat) (s : State) : State :=
  let old := s
  let watts := reported + silentWatts
  let s :=
    if s.capWatts < watts then s.onPower fun p => { p.capDown with under := 0 }
    else if 100 * watts ≤ 95 * s.capWatts then
      s.onPower fun p => if p.under + 1 < 10 then { p with under := p.under + 1 } else { p.capUp with under := 0 }
    else s.onPower fun p => { p with under := 0 }
  old.tracePower s.formOp
def execPowerCapWindow (watts : Nat) (s : State) : Host.Outcome State Fault Refusal := s.live (effPowerCapWindow watts)

/-! ### Activity and ballast -/

/-- The slope of R330 over 100 ns, in units of 2^-20 of full load. -/
def State.gustSlope (s : State) : Nat := 2 ^ 20 / (10 * s.gustRamp)

/-- The envelope of a phase, in 1/1,024 of full load (16 R333). -/
def envelope (phase : Nat) : Nat := if phase = 0 then 1024 else if phase = 1 then 512 else if phase = 2 then 256 else 0

/-- The voltage of an Ochre die's cell islands follows its phase and a demand, or the prewarm level that passes it, in units of 2^-20; beside it stands the most that the
limiter lets the activity be: the envelope while a lowered die returns to nominal voltage, what it is while a gated one does. How long a
return takes within its bound of 5 µs or 30 µs is free (16 R333; log 11). -/
def State.island (s : State) (d demand : Nat) : State × Option Nat :=
  let x := s.gust d
  let env := 1024 * envelope x.phase.toNat
  let idle := x.phase = 3 && (s.inProgress d).isEmpty && demand = 0
  let back := fun (n : Nat) => s.setGust d { x with rising := some (Config.freeNat s.fresh % n) }
  let goTo := fun (v : Volt) => s.setGust d { x with volt := v, rising := none }
  match x.rising, x.volt with
  | some 0, _ => (goTo .nominal, none)
  | some (k + 1), v => (s.setGust d { x with rising := some k }, some (if v = .gated then x.activity else env))
  | none, .gated => if idle then (s, none) else ({ back 300 with fresh := s.fresh + 1 }, some x.activity)
  | none, .lowered =>
    if env < demand then ({ back 50 with fresh := s.fresh + 1 }, some env)
    else if idle then (goTo .gated, none) else if x.phase = 0 then (goTo .nominal, none) else (s, none)
  | none, .nominal =>
    if idle then (goTo .gated, none) else if (x.phase = 1 || x.phase = 2) && demand ≤ env then (goTo .lowered, none) else (s, none)

/-- ACTIVITY_ESTIMATE: the activity follows the demand within the slope, ballast making up a fall; a hold comes before the fall
(16 R329-R331), within what the islands' voltage lets it be (16 R333). -/
def effActivityEstimate (die : Fin 6) (demand : Nat) (s : State) : State :=
  let d := min demand 1024 * 1024
  let need := (s.gust die).warming.foldl (fun m w => max m (1024 * w.2)) d
  let (s, most) := if die.val < 4 then s.island die need else (s, none)
  let x := s.gust die
  let want := min need (most.getD need)
  let slope := s.gustSlope
  let y : Gust :=
    if x.activity ≤ want then { x with activity := min want (x.activity + slope), holding := false, falling := false }
    else if s.gustHold ≠ 0 && !x.falling then { x with holding := true }
    else { x with activity := max want (x.activity - slope), holding := false }
  s.setGust die { y with demand := d, ballast := y.activity - d }
def execActivityEstimate (die : Fin 6) (demand : Nat) (s : State) : Host.Outcome State Fault Refusal :=
  s.live (effActivityEstimate die demand)

/-- BALLAST_HOLD_END: the hold is over and the activity begins to fall (16 R331). -/
def effBallastHoldEnd (die : Fin 6) (s : State) : State :=
  let x := s.gust die
  if x.holding then s.setGust die { x with holding := false, falling := true } else s
def execBallastHoldEnd (die : Fin 6) (s : State) : Host.Outcome State Fault Refusal := s.live (effBallastHoldEnd die)

/-- Prewarm target of a phase (16 R333). -/
def prewarmTarget (phase : Nat) : Option Nat := if phase = 0 then some 1024 else if phase = 1 then some 512 else none

/-- The ring's next command waits only on its WAIT object (13 R273, 16 R334). -/
def State.waitsOnly (s : State) (r : Nat) : Option Cmd :=
  match s.nextCmd r with
  | some (before, c) =>
    if c.stage = .waiting && s.ringStarts r && s.admits before c && c.stall.isNone && !s.jobHolds c.cid && !s.waitOver c then some c else none
  | none => none

/-- PREWARM: the ring's hint; a die holds the highest level that its rings ask for (16 R334). -/
def effPrewarm (d : DieId) (r : RingId) (s : State) : State :=
  match s.waitsOnly r with
  | some c =>
    if s.prewarms && r.val / 256 = d.val && (prewarmTarget c.phase).isSome then
      let x := s.gust d
      s.setGust d { x with warming := x.warming.filter (fun w => w.1 != r.val) ++ [(r.val, (prewarmTarget c.phase).getD 0)] }
    else s
  | none => s
def execPrewarm (d : DieId) (r : RingId) (s : State) : Host.Outcome State Fault Refusal := s.live (effPrewarm d r)

/-- PREWARM_TIMEOUT: the oldest hint of the die has held its level for 200 µs (16 R334). -/
def effPrewarmTimeout (d : DieId) (s : State) : State := s.setGust d { s.gust d with warming := (s.gust d).warming.drop 1 }
def execPrewarmTimeout (d : DieId) (s : State) : Host.Outcome State Fault Refusal := s.live (effPrewarmTimeout d)

/-! ### The fast current limit and droop -/

/-- A record of TYPE 0x21 where the manifest's rate is passed; the manual does not give the rate (18 R367; log 4). -/
def State.mayRecord (s : State) (die inst : Nat) : State :=
  let (s, b) := s.draw 1
  if b = 1 then s.logError die (plainEvent 0x21 .event inst 0) else s

/-- PWR_ALERT: the islands of a rail stretch to half rate (16 R339). -/
def effPwrAlert (rail : Fin 6) (s : State) : State :=
  let bit : BitVec 6 := 1 <<< rail.val
  let t : State := { s with pins := { s.pins with pwrAlert := s.pins.pwrAlert ||| bit } }
  (s.tracePower (t.onPower fun p => { p with fast := p.fast ||| bit }).formOp).mayRecord rail rail
def execPwrAlert (rail : Fin 6) (s : State) : Host.Outcome State Fault Refusal := s.live (effPwrAlert rail)

/-- STRETCH_RELEASE: 100 µs after the condition clears (16 R339). -/
def effStretchRelease (rail : Fin 6) (s : State) : State :=
  let bit : BitVec 6 := 1 <<< rail.val
  let t : State := { s with pins := { s.pins with pwrAlert := s.pins.pwrAlert &&& ~~~bit } }
  s.tracePower (t.onPower fun p => { p with fast := p.fast &&& ~~~bit }).formOp
def execStretchRelease (rail : Fin 6) (s : State) : Host.Outcome State Fault Refusal := s.live (effStretchRelease rail)

/-- DROOP: the island stretches, and the die's DROOP_EVT rises unless FREEZE stops every counter (16 R340, 20 R387, R388). -/
def effDroop (die : Fin 6) (island : Nat) (s : State) : State :=
  let s := s.onPower fun p => { p with droops := if p.droops.contains (die.val, island) then p.droops else p.droops ++ [(die.val, island)] }
  let frozen := bitOf (s.reg (dieBar die + 0x3100)).toNat 0
  (if frozen then s else s.setLog die { s.log die with droop := (s.log die).droop + 1 }).mayRecord die island
def execDroop (die : Fin 6) (island : Nat) (s : State) : Host.Outcome State Fault Refusal := s.live (effDroop die island)

/-- DROOP_RECOVERY: 64 cycles after the supply recovers the island is at full rate again (16 R340). -/
def effDroopRecovery (die : Fin 6) (island : Nat) (s : State) : State :=
  s.onPower fun p => { p with droops := p.droops.filter (· != (die.val, island)) }
def execDroopRecovery (die : Fin 6) (island : Nat) (s : State) : Host.Outcome State Fault Refusal := s.live (effDroopRecovery die island)

/-! ### Temperature -/

/-- Bits of a mask that take a value where a test of the reading holds. -/
def markDies (n : Nat) (readings : List Nat) (old : Nat) (set clear : Nat → Bool) : Nat :=
  (List.range n).foldl (fun m i =>
    let t := readings.getD i 0
    m + (if set t then 1 else if clear t then 0 else old / 2 ^ i % 2) * 2 ^ i) 0

/-- Die number of a record for the i-th die of a poll (18 R367). -/
def pollDie (i : Nat) : Nat := if i < 6 then i else 0x10 + (i - 6)

/-- A die enters the 105 °C row: its record, HOT_EVT, SERVICE_SOON (16 R342, 18 R370). -/
def State.enterHot (s : State) (i t : Nat) : State :=
  if 105 ≤ t && !s.power.hot.getLsbD i then
    ((s.onPower fun p => { p with hotEvt := true }).request 23 true false).logError (pollDie i) (plainEvent 0x20 .event 0 t)
  else s

/-- The point that temperature permits: one down for each 10 ms of polls at 100 °C or above, one up for each 100 ms at 95 °C or below
(16 R342; log 30). -/
def Power.thermPoint (p : Power) (top : Nat) : Power :=
  if 100 ≤ top then
    (if p.fallPolls + 1 < 100 then { p with fallPolls := p.fallPolls + 1, risePolls := 0 }
     else { p with fallPolls := 0, risePolls := 0, thermOp := if p.thermOp = 0 then 0 else p.thermOp - 1 })
  else if top ≤ 95 then
    (if p.risePolls + 1 < 1000 then { p with risePolls := p.risePolls + 1, fallPolls := 0 }
     else { p with fallPolls := 0, risePolls := 0, thermOp := if p.thermOp = 7 then 7 else p.thermOp + 1 })
  else { p with fallPolls := 0, risePolls := 0 }

/-- THERMAL_POLL: junction temperatures of O0-O3, U0, U1 and the base dies of S0-S11, then the core dies of S0-S11 (16 R342). -/
def effThermalPoll (tj hbm : List Nat) (s : State) : State :=
  let top := tj.foldl max 0
  let old := s
  let s := (List.range 18).foldl (fun s i => s.enterHot i (tj.getD i 0)) s
  let p := s.power
  let throttle := markDies 18 tj p.throttle.toNat (fun t => 100 ≤ t) (fun t => t < 100)
  let quarter := markDies 18 tj p.quarter.toNat (fun t => 105 ≤ t) (fun t => t < 100)
  let hot := markDies 18 tj 0 (fun t => 105 ≤ t) (fun _ => true)
  let refresh2 := markDies 12 hbm 0 (fun t => 85 < t) (fun _ => true)
  let half := markDies 12 hbm p.halfAdmit.toNat (fun t => 95 < t) (fun t => t ≤ 90)
  let trip : Bool := 110 ≤ top
  let s := s.onPower fun p => { p.thermPoint top with
    tjMax := BitVec.ofNat 8 (min top 255), throttle := BitVec.ofNat 18 throttle, quarter := BitVec.ofNat 18 quarter,
    hot := BitVec.ofNat 18 hot, refresh2 := BitVec.ofNat 12 refresh2, halfAdmit := BitVec.ofNat 12 half, trip := trip }
  old.tracePower s.formOp
def execThermalPoll (tj hbm : List Nat) (s : State) : Host.Outcome State Fault Refusal := s.live (effThermalPoll tj hbm)

/-- THERMTRIP: a die has been at 110 °C or above for 1 ms (16 R342). -/
def effThermtrip (s : State) : State := if s.power.trip then { s with pins := { s.pins with thermtrip := true } } else s
def execThermtrip (s : State) : Host.Outcome State Fault Refusal := s.live effThermtrip

end Sys2Proof.Machine
end

