-- ==== Sys2Proof/Machine/Secure.lean ====
section
/-! DEFINITION. Requests of the mailbox (17 R348, R351-R361, R439), sealing (17 R355), and the zeroing of granules (11 R235). Bodies
that the manual does not lay out have the model's own layout (log 31). -/

namespace Sys2Proof.Machine

/-! ### Serving a request -/

/-- The security processor serves the request of a code that is waiting (17 R351, R352). -/
def State.serveBox (s : State) (code : Nat) (f : List Byte → State) : State :=
  if s.sec.mboxState = 1 && field s.sec.header 0 2 = code && !s.sec.setting && s.sec.unlocking.isNone && s.sec.tenant.isNone then
    f s.sec.body
  else s

/-- The response fits the header's capacity (17 R352). -/
def State.boxFits (s : State) (n : Nat) : Bool := n ≤ field s.sec.header 16 4

/-- A request ends with a response, or with FORMAT and no effect where the response does not fit (17 R352). -/
def State.boxAnswer (s t : State) (response : List Byte) : State :=
  if s.boxFits response.length then t.mboxDone mbOk response else s.mboxDone mbFormat []

/-- A context that is SEALED, or was and has frozen or faulted since, or has SEAL_PREP pending (17 R361, R439, 13 R280). -/
def Ctx.guarded (x : Ctx) : Bool := x.isSealed || x.prep.isSome

/-- Granules of the table whose OWNER is a CID, with their entries. -/
def State.granulesOfCid (s : State) (t : Cid) : List (Nat × Own) := s.own.filter fun p => p.2.owner == t

/-! ### GRANULE_SET, KEY_NEW, EXTEND (17 R439) -/

/-- A slot holds a key: slot 0 from start-up on, another once KEY_NEW has filled it (11 R234, 17 R439). -/
def State.hasKey (s : State) (k : Nat) : Bool := (tabFind s.sec.keys k).isSome

/-- The FORMAT checks of a GRANULE_SET: first granule, count, entry. -/
def State.granuleFormat (s : State) (b : List Byte) : Bool :=
  let a := field b 0 8
  let n := field b 8 4
  b.length = 32 && zeroSpan b 17 15 && a % 2 ^ 21 = 0 && 1 ≤ n && n ≤ 65536 && field b 14 2 ≤ 4095 && byteAt b 16 ≤ 2 &&
  (List.range n).all fun i => hasOwner (a + i * 2 ^ 21) && s.mapped (a + i * 2 ^ 21)

/-- One granule of the span takes its entry: at once where only MODE changes, else once it is zeroed (11 R235). -/
def State.setGranule (s : State) (g : Nat) (new : Own) : State :=
  let old := s.owner g
  if old.owner = new.owner && old.kslot = new.kslot then s.setOwner g new
  else s.onSec fun x => { x with zeroing := x.zeroing ++ [{ granule := g, entry := new }], setting := true }

/-- GRANULE_SET (17 R439, 11 R235). -/
def effGranuleSet (s : State) : State :=
  s.serveBox 1 fun b =>
    if !s.granuleFormat b then s.mboxDone mbFormat []
    else
      let first := field b 0 8 / 2 ^ 21
      let span := (List.range (field b 8 4)).map (first + ·)
      let new : Own := { owner := BitVec.ofNat 16 (field b 12 2), kslot := BitVec.ofNat 12 (field b 14 2), mode := BitVec.ofNat 2 (byteAt b 16) }
      if (span.any fun g => (s.ctx (s.owner g).owner).guarded) || (new.kslot = 0 && new.owner ≠ 0) || !s.hasKey new.kslot.toNat then
        s.mboxDone mbRefused []
      else
        let t := span.foldl (fun t g => t.setGranule g new) s
        if t.sec.setting then t else t.mboxDone mbOk []
def execGranuleSet (s : State) : Host.Outcome State Fault Refusal := s.live effGranuleSet

/-- KEY_NEW (17 R352, R353, R439): the key is a fresh random value (log 4). -/
def effKeyNew (s : State) : State :=
  s.serveBox 2 fun b =>
    let k := field b 0 2
    if b.length ≠ 8 || !zeroSpan b 2 6 || k = 0 || 4095 < k then s.mboxDone mbFormat []
    else if s.own.any fun p => p.2.kslot.toNat == k then s.mboxDone mbRefused []
    else
      let (s, v) := s.draw 256
      (s.onSec fun x => { x with keys := tabPut x.keys k v }).mboxDone mbOk []
def execKeyNew (s : State) : Host.Outcome State Fault Refusal := s.live effKeyNew

/-- A measurement register is extended (17 R348). -/
def Security.extend (x : Security) (i : Nat) (d : Digest) : Security := { x with mr := x.mr.set i (mrExtend (x.mr.getD i 0) d) }

/-- EXTEND: MR6 (17 R348, R439). -/
def effExtend (s : State) : State :=
  s.serveBox 9 fun b =>
    if b.length ≠ 32 then s.mboxDone mbFormat []
    else (s.onSec fun x => x.extend 6 (BitVec.ofNat 256 (leNat b))).mboxDone mbOk []
def execExtend (s : State) : Host.Outcome State Fault Refusal := s.live effExtend

/-! ### Reports (17 R357) -/

/-- Bytes 0-1,567 of a report. -/
def State.reportBody (s : State) (cid : Cid) (state : Nat) (meas policy nonce : Digest) (ek : Option (List Byte)) : List Byte :=
  leBytes 2 1 ++ leBytes 2 (s.sec.debugged.toNat + 2 * ek.isSome.toNat) ++ leBytes 4 s.flash.svn.toNat ++ leBytes 8 0 ++
  leBytes 32 (devId 0).toNat ++ s.sec.mr.flatMap (fun d => leBytes 32 d.toNat) ++ leBytes 32 nonce.toNat ++ leBytes 8 s.time.toNat ++
  leBytes 2 cid.toNat ++ leBytes 1 state ++ leBytes 5 0 ++ leBytes 32 meas.toNat ++ leBytes 32 policy.toNat ++
  (ek.getD (List.replicate 1184 0))

/-- A signed report of a context. -/
def State.reportOf (s : State) (cid : Cid) (nonce : Digest) (ek : Option (List Byte)) : List Byte :=
  let x := s.ctx cid
  let state := if x.prep.isSome then 5 else x.state.code
  let meas := match x.prep with | some p => p.meas | none => x.meas
  let b := s.reportBody cid state meas x.policy nonce ek
  b ++ Config.mlDsaSign (dieSecret 0) b

/-- A new ML-KEM key pair: its number (17 R354, R357; log 12). -/
def State.newPair (s : State) : State × Nat := ({ s with fresh := s.fresh + 1 }, s.fresh)

/-- Length of a report (17 R357). -/
def reportLength : Nat := 3988

/-- REPORT: CID, flag EK, nonce (17 R352, R357; log 31). -/
def effReport (s : State) : State :=
  s.serveBox 3 fun b =>
    let cid := BitVec.ofNat 16 (field b 0 2)
    let ek := bitOf (byteAt b 2) 0
    let nonce := BitVec.ofNat 256 (field b 8 32)
    if b.length ≠ 40 || 2 ≤ byteAt b 2 || !zeroSpan b 3 5 || !s.boxFits reportLength then s.mboxDone mbFormat []
    else if ek then
      let (t, n) := s.newPair
      let t := t.onSec fun x => { x with ek := some (nonce, n) }
      t.mboxDone mbOk (t.reportOf cid nonce (some (Config.mlKemPublic n)))
    else s.mboxDone mbOk (s.reportOf cid nonce none)
def execReport (s : State) : Host.Outcome State Fault Refusal := s.live effReport

/-! ### SEAL_PREP (17 R354) -/

/-- Bytes that the security processor reads: the Lake and the counters see them, and uncorrectable data is recorded and gives none (10 R201,
18 R363). -/
def State.spRead (s : State) (cid : Cid) (a n : Nat) : State × Option (List Byte) :=
  if n = 0 then (s, some [])
  else if s.brokenIn a n then (s.ueRecord cid a n none, none) else (let (s, bs) := s.memRead cid a n false; (s, some bs))

/-- A piece under a CID; none where it cannot be read (17 R354). -/
def State.measurePiece (s : State) (t : Cid) (va n : Nat) : State × Option (List Byte) :=
  let s := (s.walkOf t va).1.foldl (fun s r => (s.memRead r.1 r.2.1 r.2.2 false).1) s
  match s.walk t va with
  | .ok e =>
    let a := s.localise (e.pbase + (va - e.start))
    if e.mig || !e.r || isRemote a then (s, none)
    else (match s.checkLocal t false a n e.nolake with
      | .at p _ => if isMemory p then s.spRead t p n else (s, none)
      | _ => (s, none))
  | .error _ => (s, none)

/-- Bytes under a CID, granule by granule, none when one of them cannot be read (17 R354). -/
def State.measure (s : State) (t : Cid) (got : List Byte) : List (Nat × Nat) → State × Option (List Byte)
  | [] => (s, some got)
  | (va, n) :: ps =>
    match s.measurePiece t va n with
    | (s, some bs) => State.measure s t (got ++ bs) ps
    | r => r

/-- The entries of a measurement list, one after another: each one's VA, its length and its bytes (17 R354). -/
def State.measureAll (s : State) (t : Cid) (got : List Byte) : List (Nat × Nat) → State × Option (List Byte)
  | [] => (s, some got)
  | (va, n) :: es =>
    match s.measure t (got ++ leBytes 8 va ++ leBytes 8 n) (granulePieces va n) with
    | (s, some bs) => State.measureAll s t bs es
    | r => r

/-- Every granule of memory has its entry listed in the table: only CID 0 owns unlisted ones, and they carry slot 0 (11 R232). -/
def State.allListed (s : State) : Bool :=
  let spans := (List.range 768).map (· * 2 ^ 30) ++ (List.range 2048).flatMap fun i => [2 ^ 40 + i * 2 ^ 30, 2 ^ 41 + i * 2 ^ 30]
  spans.all fun a => !s.mapped a || (List.range 512).all fun i => (tabFind s.own (a / 2 ^ 21 + i)).isSome

/-- The one key slot of the granules of a CID, when there is one, it is not 0 and no other CID uses it (17 R354). -/
def State.oneSlot (s : State) (t : Cid) : Bool :=
  (t ≠ 0 || s.allListed) &&
  match s.granulesOfCid t with
  | [] => false
  | (_, o) :: rest => o.kslot ≠ 0 && (rest.all fun p => p.2.kslot == o.kslot) && s.own.all fun p => p.2.kslot != o.kslot || p.2.owner == t

/-- Address and bytes of the range table that word 0 names (11 R215). -/
def tableSpan (w : Nat) : Nat × Nat := (bitsOf w 43 5 * 32, 32 * bitsOf w 63 44)

/-- The range table lies in granules that the CID owns. -/
def State.tableOwned (s : State) (t : Cid) (w : Nat) : Bool :=
  let (a, n) := tableSpan w
  n = 0 || (s.spanMapped a n && hasOwner a && (granulesOf a n).all fun g => (s.owner g).owner = t)

/-- Entries of a measurement list. -/
def measureList (bs : List Byte) : List (Nat × Nat) :=
  (List.range (bs.length / 16)).map fun i => (field bs (16 * i) 8, field bs (16 * i + 8) 8)

/-- The conditions of R354 other than those of reading; a debug unlock refuses too (17 R361). -/
def State.sealReady (s : State) (t : Cid) : Bool :=
  (s.ctx t).state = .opened && ((s.ringsOf t).all fun r => (s.ring r).state = .stopped) && !s.pasidNames t && s.oneSlot t &&
  s.sec.unlock.isNone

/-- CTX_MEAS: word 0, the range table, and for each entry its VA, its length and its bytes (17 R354). -/
def State.ctxMeas (s : State) (t : Cid) (w : Nat) (list : List (Nat × Nat)) : State × Option Digest :=
  match s.spRead t (tableSpan w).1 (tableSpan w).2 with
  | (s, some table) =>
    let (s, bs) := s.measureAll t (leBytes 8 w ++ table) list
    (s, bs.map sha3)
  | (s, none) => (s, none)

/-- SEAL_PREP: TCID, nonce, measurement list; the pair of an earlier one for TCID is discarded (17 R354; log 31). -/
def effSealPrep (s : State) : State :=
  s.serveBox 4 fun b =>
    let t := BitVec.ofNat 16 (field b 0 2)
    let nonce := BitVec.ofNat 256 (field b 8 32)
    let list := measureList (b.drop 40)
    if b.length < 56 || b.length % 16 ≠ 8 || 4096 < list.length || !zeroSpan b 2 6 || !(list.all fun e => e.2 % 2 ^ 16 = 0) ||
        !s.boxFits reportLength then s.mboxDone mbFormat []
    else
    let s := s.setCtx t { s.ctx t with prep := none }
    match s.contextWord t with
      | .error _ => s.mboxDone mbState []
      | .ok w =>
        if !s.sealReady t || !s.tableOwned t w then s.mboxDone mbState []
        else match s.ctxMeas t w list with
          | (s, none) => s.mboxDone mbState []
          | (s, some meas) =>
            let (u, n) := s.newPair
            let u := (u.granulesOfCid t).foldl (fun u p => u.setOwner p.1 { p.2 with mode := 0 }) u
            let u := u.setCtx t { u.ctx t with prep := some { word0 := BitVec.ofNat 64 w, meas := meas, key := n } }
            u.mboxDone mbOk (u.reportOf t nonce (some (Config.mlKemPublic n)))
def execSealPrep (s : State) : Host.Outcome State Fault Refusal := s.live effSealPrep

/-! ### PASID grants -/

/-- A port's map names the requester ID and PASID already (17 R355). -/
def State.granted (s : State) (p : Nat) (rid : BitVec 16) (pasid : BitVec 20) : Bool := (s.pasidCid p rid pasid).isSome

/-- The first free entry of a port's map. -/
def State.freeEntry (s : State) (p : Nat) : Option Nat := (List.range 4096).find? fun e => !bitOf (s.pasidEntry p e) 63

/-- A grant is installed in the first free entry (17 R355, R356). -/
def State.install? (s : State) (p : Nat) (rid : BitVec 16) (pasid : BitVec 20) (t : Cid) : Option State :=
  if s.granted p rid pasid then none
  else (s.freeEntry p).map fun e =>
    let a := rootBlock p + 0x8000 + 8 * e
    let s := (s.setReg a (t ++ rid)).setReg (a + 4) (0x80000000 ||| pasid.setWidth 32)
    s.setRoot p { s.root p with granted := (s.root p).granted.filter (· != e) ++ [e] }

/-! ### TENANT (17 R358) -/

def tenantIv (answer : Bool) (counter : DWord) : BitVec 96 := (if answer then (1 : Word) else 0) ++ counter

/-- The operation that a plaintext names, none where its layout or a limit of R358 is broken: a code, 7 zero bytes, the operands
(17 R355, R358; the model's own layout, log 31). -/
def tenantOpOf (b : List Byte) : Option TenantOp :=
  let n := b.length
  if n < 8 || !zeroSpan b 1 7 then none
  else match byteAt b 0 with
    | 1 => if 16 ≤ n && n ≤ 16 + 61440 then some (.import_ (BitVec.ofNat 64 (field b 8 8)) (b.drop 16)) else none
    | 2 => if n = 20 && field b 16 4 ≤ 61440 then some (.export_ (BitVec.ofNat 64 (field b 8 8)) (field b 16 4)) else none
    | 3 => if n = 16 && field b 8 8 % 32 = 0 then some (.setRt (BitVec.ofNat 64 (field b 8 8))) else none
    | 4 =>
      if n = 16 && field b 8 2 < 4 && field b 12 4 < 2 ^ 20 then
        some (.pasidGrant (field b 8 2) (BitVec.ofNat 16 (field b 10 2)) (BitVec.ofNat 20 (field b 12 4)))
      else none
    | 5 => if n = 44 then some (.epochKey (BitVec.ofNat 32 (field b 8 4)) (BitVec.ofNat 256 (field b 12 32))) else none
    | 6 => if n = 40 then some (.report (BitVec.ofNat 256 (field b 8 32))) else none
    | _ => none

/-- Bytes of the encrypted response: its plaintext and a 16-byte tag (17 R358). -/
def TenantOp.answers : TenantOp → Nat
  | .export_ _ n => n + 16
  | .report _ => reportLength + 16
  | _ => 16

/-- TENANT: TCID, counter, ciphertext, tag; an authentic request waits for the row of its operation. One that is malformed, or whose
response does not fit, has no effect (17 R352, R358; log 31). -/
def effTenant (s : State) : State :=
  s.serveBox 5 fun b =>
    let t := BitVec.ofNat 16 (field b 0 2)
    let n := BitVec.ofNat 64 (field b 4 8)
    let x := s.ctx t
    if b.length < 28 || !zeroSpan b 2 2 then s.mboxDone mbFormat []
    else if x.state ≠ .sealed then s.mboxDone mbState []
    else if x.counter.any fun c => n.toNat ≤ c.toNat then s.mboxDone mbRefused []
    else match Config.gcmOpen x.ks (tenantIv false n) [] (b.drop 12) with
      | none => s.mboxDone mbAuth []
      | some plain =>
        match tenantOpOf plain with
        | none => s.mboxDone mbFormat []
        | some op =>
          if !s.boxFits op.answers then s.mboxDone mbFormat []
          else (s.setCtx t { x with counter := some n }).onSec fun y => { y with tenant := some (t, n, op) }
def execTenant (s : State) : Host.Outcome State Fault Refusal := s.live effTenant

/-- The authentic tenant request that waits for an operation is served; another operation than its own is not the request's. -/
def State.tenantOp (s : State) (op : TenantOp) (f : Cid → DWord → State) : State :=
  match s.sec.tenant with
  | some (t, n, o) => if s.sec.mboxState = 1 && o = op then f t n else s
  | none => s

/-- An encrypted response (17 R358). -/
def State.tenantAnswer (s : State) (t : Cid) (n : DWord) (bs : List Byte) : List Byte :=
  Config.gcmSeal (s.ctx t).ks (tenantIv true n) [] bs

/-- A tenant request ends with OK and its encrypted response (17 R358). -/
def State.tenantDone (s : State) (t : Cid) (n : DWord) (bs : List Byte) : State := s.mboxDone mbOk (s.tenantAnswer t n bs)

/-- A tenant's bytes in its own context, SEALED as it is, are reached through its range table. DESIGN CHOICE (log 31): the security processor
takes no migratable fault, so a range with MIG = 1 and a RETIRING region serve it where they lie, under the range's permissions and the
ownership check (11 R217, R233, 17 R356, R358). -/
def State.tenantXlate (s : State) (t : Cid) (write : Bool) (va n : Nat) : State × Xlated :=
  let k : AccKind := if write then .streamWrite else .streamRead
  match s.translate (qpReq 0) t va n k with
  | (u, .mig _) =>
    (match u.lookup (qpReq 0) t va k.code with
     | (v, .entry e) =>
       let a := v.localise (e.pbase + (va - e.start))
       if !(if write then e.w else e.r) then (v, .bad stAccess)
       else if isRemote a then (v, .at a e.nolake)
       else (match v.checkLocal t write a n e.nolake with
        | .bad st => (v, .bad st)
        | _ => (v, .at a e.nolake))
     | (v, _) => (v, .waits))
  | r => r

/-- IMPORT (17 R358); bytes that cannot be written give REFUSED. -/
def effImportTenant (va : DWord) (data : List Byte) (s : State) : State :=
  s.tenantOp (.import_ va data) fun t k =>
    match s.writeUnder (fun s => s.tenantXlate t true) .tenant (qpHome 0) t va.toNat data (granulePieces va.toNat data.length) with
    | (u, .done) => (u.endErrand .tenant).tenantDone t k []
    | (u, .bad _) => (u.endErrand .tenant).mboxDone mbRefused []
    | (u, _) => s.waitsSent u
def execImportTenant (va : DWord) (data : List Byte) (s : State) : Host.Outcome State Fault Refusal := s.live (effImportTenant va data)

/-- EXPORT (17 R358). -/
def effExportTenant (va : DWord) (n : Nat) (s : State) : State :=
  s.tenantOp (.export_ va n) fun t k =>
    match s.readUnder (fun s => s.tenantXlate t false) .tenant (qpHome 0) t [] (granulePieces va.toNat n) with
    | (u, .bytes bs) => (u.endErrand .tenant).tenantDone t k bs
    | (u, .bad _) => (u.endErrand .tenant).mboxDone mbRefused []
    | (u, _) => s.waitsSent u
def execExportTenant (va : DWord) (n : Nat) (s : State) : Host.Outcome State Fault Refusal := s.live (effExportTenant va n)

/-- SET_RT (17 R356, R358). -/
def effSetRt (word0 : DWord) (s : State) : State :=
  s.tenantOp (.setRt word0) fun t k => (s.setCtx t { s.ctx t with word0 := word0 }).tenantDone t k []
def execSetRt (word0 : DWord) (s : State) : Host.Outcome State Fault Refusal := s.live (effSetRt word0)

/-- PASID_GRANT (17 R355, R358): an identity that is mapped already gives REFUSED. -/
def effPasidGrant (p : RootId) (rid : BitVec 16) (pasid : BitVec 20) (s : State) : State :=
  s.tenantOp (.pasidGrant p rid pasid) fun t k =>
    match s.install? p rid pasid t with
    | some u => u.tenantDone t k []
    | none => s.mboxDone mbRefused []
def execPasidGrant (p : RootId) (rid : BitVec 16) (pasid : BitVec 20) (s : State) : Host.Outcome State Fault Refusal :=
  s.live (effPasidGrant p rid pasid)

/-- EPOCH_KEY: staged until the launch apply (17 R358, R359). -/
def effEpochKey (epoch : Word) (key : BitVec 256) (s : State) : State :=
  s.tenantOp (.epochKey epoch key) fun t k => (s.onSec fun x => { x with stagedKey := some (epoch, key, some t) }).tenantDone t k []
def execEpochKey (epoch : Word) (key : BitVec 256) (s : State) : Host.Outcome State Fault Refusal := s.live (effEpochKey epoch key)

/-- REPORT of a tenant (17 R358). -/
def effTenantReport (nonce : BitVec 256) (s : State) : State :=
  s.tenantOp (.report nonce) fun t k => s.tenantDone t k (s.reportOf t nonce none)
def execTenantReport (nonce : BitVec 256) (s : State) : Host.Outcome State Fault Refusal := s.live (effTenantReport nonce)

/-! ### OPERATOR (17 R359) -/

/-- A body that ends in an ML-DSA-44 signature over the rest, good under a key that a hash names. -/
def signedBy (h : Digest) (b : List Byte) : Bool := Config.mlDsaVerify h (b.take (b.length - 2420)) (b.drop (b.length - 2420))

/-- An OPERATOR body: kind, 3 zero bytes, epoch, nonce, the 1,088-byte encapsulation that delivers the key, signature (17 R359; the model's
own layout, log 31). -/
def operatorBody (b : List Byte) : Bool :=
  b.length = 3548 && byteAt b 0 < 2 && zeroSpan b 1 3 && (byteAt b 0 = 0 || zeroSpan b 4 4)

/-- The key that an OPERATOR body delivers, encapsulated to the latest report's key pair, when the three conditions hold (17 R359). -/
def State.operatorKey (s : State) (b : List Byte) : Option (BitVec 256) :=
  match s.sec.ek with
  | some (nonce, pair) =>
    if signedBy s.flash.opKeyHash b && field b 8 32 = nonce.toNat then some (Config.mlKemDecaps pair ((b.drop 40).take 1088)) else none
  | none => none

/-- OPERATOR: the row names what the body carries; the nonce is used up (17 R359). -/
def effOperatorReq (management : Bool) (epoch : Word) (key nonce : BitVec 256) (s : State) : State :=
  s.serveBox 6 fun b =>
    if !operatorBody b then s.mboxDone mbFormat []
    else if byteAt b 0 ≠ management.toNat || field b 4 4 ≠ epoch.toNat || field b 8 32 ≠ nonce.toNat then s
    else if s.operatorKey b ≠ some key then s.mboxDone mbAuth []
    else
      (s.onSec fun x =>
        if management then { x with ek := none, mgmtNew := some key }
        else { x with ek := none, stagedKey := some (epoch, key, none) }).mboxDone mbOk []
def execOperatorReq (management : Bool) (epoch : Word) (key nonce : BitVec 256) (s : State) : Host.Outcome State Fault Refusal :=
  s.live (effOperatorReq management epoch key nonce)

/-- MGMT_KEY_GRACE_END (17 R359). -/
def effMgmtKeyGraceEnd (s : State) : State := s.onSec fun x => { x with mgmtOld := none }
def execMgmtKeyGraceEnd (s : State) : Host.Outcome State Fault Refusal := s.live effMgmtKeyGraceEnd

/-! ### Debug (17 R360, R361) -/

/-- DEBUG_CHALLENGE: a fresh nonce for a scope (17 R352, R360; log 4, log 31). -/
def effDebugChallenge (s : State) : State :=
  s.serveBox 7 fun b =>
    if b.length ≠ 4 || 16 ≤ leNat b || !s.boxFits 32 then s.mboxDone mbFormat []
    else
      let (s, v) := s.draw 256
      (s.onSec fun x => { x with dbgNonces := x.dbgNonces ++ [(v, s.time)] }).mboxDone mbOk (leBytes 32 v.toNat)
def execDebugChallenge (s : State) : Host.Outcome State Fault Refusal := s.live effDebugChallenge

/-- Scope of a token (17 R360). -/
def tokenScope (b : List Byte) : Nat := field b 4 4

/-- The nonce is one that was issued, at most 60 s ago, and that no token has used (17 R360). -/
def State.nonceOk (s : State) (b : List Byte) : Bool :=
  s.sec.dbgNonces.any fun n => field b 40 32 = n.1.toNat && s.time.toNat ≤ n.2.toNat + 60000000000

/-- A token uses up the nonce that it carries, whatever becomes of it (17 R360). -/
def Security.spendNonce (x : Security) (b : List Byte) : Security :=
  { x with dbgNonces := x.dbgNonces.filter fun n => field b 40 32 ≠ n.1.toNat }

/-- A token is accepted (17 R360). -/
def State.tokenOk (s : State) (b : List Byte) : Bool :=
  field b 8 32 = (devId 0).toNat && s.nonceOk b && s.time.toNat ≤ field b 72 8 &&
  (signedBy Config.debugKeyHash b || (tokenScope b < 8 && signedBy s.flash.opKeyHash b))

/-- A context with secrets faults: its pending SEAL_PREP ends, its key slots are erased, its granules are released (17 R361). -/
def State.exposeCtx (s : State) (t : Cid) : State :=
  let slots := ((s.granulesOfCid t).map fun p => p.2.kslot.toNat).eraseDups
  let s := s.faultCtx t
  let s := s.setCtx t { s.ctx t with state := .faulted, prep := none }
  (s.onSec fun x => { x with keys := x.keys.filter fun k => !slots.contains k.1 }).releaseGranules t

/-- The last steps: MR5, the DEBUG flag, the grant (17 R361). -/
def State.finishUnlock (s : State) : State :=
  match s.sec.unlocking with
  | none => s
  | some b =>
    (s.onSec fun x => { (x.extend 5 (sha3 b)) with debugged := true, unlock := some (BitVec.ofNat 32 (tokenScope b)), unlocking := none }).mboxDone
      mbOk []

/-- DEBUG_UNLOCK (17 R360, R361). -/
def effDebugUnlock (s : State) : State :=
  s.serveBox 8 fun b =>
    if b.length ≠ 2500 || field b 0 4 ≠ 1 || 16 ≤ tokenScope b then s.mboxDone mbFormat []
    else if !s.tokenOk b then (s.onSec fun x => x.spendNonce b).mboxDone mbAuth []
    else
      let s := ((s.ctxs.filter fun p => p.2.guarded).map fun p => BitVec.ofNat 16 p.1).foldl (fun s t => s.exposeCtx t) s
      let s := s.onSec fun x => { x.spendNonce b with
        unlocking := some b, epochKey := x.epochKey.filter (fun e => e.2.2.isNone),
        stagedKey := x.stagedKey.filter fun e => e.2.2.isNone }
      if s.sec.zeroing.isEmpty then s.finishUnlock else s
def execDebugUnlock (s : State) : Host.Outcome State Fault Refusal := s.live effDebugUnlock

/-! ### CTX_SEAL (17 R355) -/

/-- A policy record's grant, if it is one. -/
def policyGrant (r : List Byte) : Option (Nat × BitVec 16 × BitVec 20) :=
  if byteAt r 0 = 1 then some (field r 2 2, BitVec.ofNat 16 (field r 4 2), BitVec.ofNat 20 (field r 8 4)) else none

/-- The grants of a seal, one after another. -/
def State.installAll (s : State) (t : Cid) : List (Nat × BitVec 16 × BitVec 20) → Option State
  | [] => some s
  | (p, rid, pasid) :: gs =>
    match s.install? p rid pasid t with
    | some u => State.installAll u t gs
    | none => none

/-- Session key (17 R355). -/
def sessionKey (secret : BitVec 256) (meas : Digest) : Digest := sha3 ([0x02] ++ leBytes 32 secret.toNat ++ leBytes 32 meas.toNat)

/-- CTX_SEAL: the pair is discarded however it ends (17 R354, R355); a wrong tag or a grant of a mapped identity faults TCID, whose seal it is
(log 32). -/
def effCtxSeal (r : RingId) (seq : Word) (s : State) : State :=
  s.onStarted r seq 0x21 fun c =>
    let t := c.tcid
    let x := s.ctx t
    let a := field c.slot 24 8
    let bad := { c with sealBad := true }
    let ready := s.sealable t
    let readable : Bool := s.spanMapped a 1104 && s.spOk a 1104
    if readable && !s.homeTakes 0 a (.read 1104) then s else
    let s := s.setCtx t { x with prep := none }
    match x.prep with
    | none => s.endCmd c stState
    | some prep =>
      if !ready then s.endCmd c stState
      else if !s.spanMapped a 1104 then s.endCmd c stRange
      else if !s.spOk a 1104 then s.endCmd c stAccess
      else if s.brokenIn a 1104 then (s.ueRecord 0 a 1104 (some (r.val, seq))).endCmd c stMemUe
      else
        let (s, blk) := s.memRead 0 a 1104 false (some (r.val, seq))
        let records := (c.slots.drop 1).flatten
        let ks := sessionKey (Config.mlKemDecaps prep.key (blk.take 1088)) prep.meas
        let aad := leBytes 2 t.toNat ++ leBytes 32 prep.meas.toNat ++ records
        if (Config.gcmOpen ks 0 aad (blk.drop 1088)).isNone then s.endCmd bad stAccess
        else match s.installAll t ((c.slots.drop 1).filterMap policyGrant) with
          | none => s.endCmd bad stAccess
          | some u =>
            (u.setCtx t { x with prep := none, state := .sealed, everSealed := true, word0 := prep.word0, meas := prep.meas,
                                 policy := if records.isEmpty then 0 else sha3 records, ks := ks, counter := none }).endCmd c stOk
def execCtxSeal (r : RingId) (seq : Word) (s : State) : Host.Outcome State Fault Refusal := s.live (effCtxSeal r seq)

/-! ### Zeroing (11 R235) -/

/-- A granule reads as zero from here on, and no code word of it is broken. -/
def State.zeroGranule (s : State) (g : Nat) : State :=
  let a := g * 2 ^ 21
  let n := 2 ^ 21
  ((((s.clearBroken a n).endReservations a n).dropCopies a n).forget fun b => b / 2 ^ 21 = g)

/-- A context that awaited its granules becomes FREE, and its CTX_CLOSE completes (13 R280, 14 R314). -/
def State.finishClose (s : State) (t : Cid) : State :=
  let s := s.freeCtx t
  { s with cmds := s.cmds.map fun c =>
      if c.opcode = 0x23 && c.tcid = t && c.stage = .running then { c with stage := .finished, status := stOk } else c }

/-- GRANULE_ZEROING_DONE: every pending change takes effect (11 R235), and what waits for it goes on (13 R280, 17 R352, R361). -/
def effGranuleZeroingDone (s : State) : State :=
  if s.sec.zeroing.isEmpty then s
  else
    let zs := s.sec.zeroing
    let s := s.onSec fun x => { x with zeroing := [] }
    let s := zs.foldl (fun s z => (s.zeroGranule z.granule).setOwner z.granule z.entry) s
    let s := ((s.ctxs.filter fun p => p.2.closing).map fun p => BitVec.ofNat 16 p.1).foldl (fun s t => s.finishClose t) s
    let s := if s.sec.setting then (s.onSec fun x => { x with setting := false }).mboxDone mbOk [] else s
    s.finishUnlock
def execGranuleZeroingDone (s : State) : Host.Outcome State Fault Refusal := s.live effGranuleZeroingDone

end Sys2Proof.Machine
end

