-- ==== Sys2Proof/Machine/FrontApply.lean ====
section
/-! DEFINITION. The Front check (19 R381-R384), the placement of regions (10 R192-R194) and the Front apply (10 R196-R198, R204, R213,
11, 14 R289, R305, R311, 19 R373, R381-R383). -/

namespace Sys2Proof.Machine

/-! ### Regions -/

/-- Zeroed free bands on IN_SERVICE channels (10 R194, R198): package channel and band. -/
def State.freeBands (s : State) : List (Nat × Nat) :=
  (s.hbm.bands.filter fun p => p.2 = .free && (s.chan (p.1 / 128)).state = .inService).map fun p => (p.1 / 128, p.1 % 128)

/-- Key of a package channel (10 R194). -/
def chanKey (c : Nat) : Nat := 3 * (c % 32) + c / 32 % 3

/-- Whether channel x comes before channel y: more free bands, then the smaller key (10 R194). Entries are (channel, free bands). -/
def comesFirst (x y : Nat × Nat) : Bool := y.2 < x.2 || (x.2 = y.2 && chanKey x.1 ≤ chanKey y.1)

def insertChan (x : Nat × Nat) : List (Nat × Nat) → List (Nat × Nat)
  | [] => [x]
  | y :: ys => if comesFirst x y then x :: y :: ys else y :: insertChan x ys

/-- Channels of a die that hold a zeroed free band, in the order of 10 R194. -/
def rankChans (free : List (Nat × Nat)) (d : Nat) : List Nat :=
  (((List.range 96).map fun i => (96 * d + i, (free.filter fun f => f.1 = 96 * d + i).length)).foldr
    (fun x l => if x.2 = 0 then l else insertChan x l) []).map (·.1)

/-- Lowest-numbered zeroed free band of a channel. -/
def lowBand (free : List (Nat × Nat)) (c : Nat) : Nat :=
  (free.filter fun f => f.1 = c).foldl (fun b f => min b f.2) 127

/-- Channels of a region that forms, in member order, or none when the bands cannot be found (10 R194). -/
def placeChans (free : List (Nat × Nat)) (kind die : Nat) : Option (List Nat) :=
  if kind = 1 then
    let cs := (rankChans free die).take 64
    if cs.length = 64 then some cs else none
  else
    let dies := (List.range 4).map fun d => (rankChans free d).take 16
    if dies.all fun cs => cs.length = 16 then some ((List.range 64).map fun m => (dies.getD (m % 4) []).getD (m / 4) 0) else none

/-- Members of a region that forms (10 R194). -/
def placeRegion (free : List (Nat × Nat)) (kind die : Nat) : Option (List (Nat × Nat)) :=
  (placeChans free kind die).map fun cs => cs.map fun c => (c, lowBand free c)

/-- Place regions in increasing number; none when one cannot be placed (10 R194). Entries are (region, kind, die). -/
def placeAll (free : List (Nat × Nat)) : List (Nat × Nat × Nat) → Option (List (Nat × Nat × Nat × List (Nat × Nat)))
  | [] => some []
  | (r, kind, die) :: rest =>
    match placeRegion free kind die with
    | none => none
    | some ms => (placeAll (free.filter fun f => !ms.contains f) rest).map fun l => (r, kind, die, ms) :: l

/-- A region takes its bands (10 R193, R194). -/
def State.formRegion (s : State) (r kind die : Nat) (ms : List (Nat × Nat)) : State :=
  let s := s.setRegion r { kind := BitVec.ofNat 2 kind, die := BitVec.ofNat 2 die, formed := true, retiring := false, members := ms }
  ms.foldl (fun s m => s.setBand m.1 m.2 .used) s

/-- A region leaves the map with its data; the scrubber takes its bands, but for those that are retiring (10 R193, R196, R213). -/
def State.freeRegion (s : State) (r : Nat) : State :=
  let x := s.region r
  let s := x.members.foldl (fun s m => if s.band m.1 m.2 = .used then s.setBand m.1 m.2 .zeroing else s) s
  let s := s.setRegion r { kind := 0, die := 0, formed := false, retiring := false, members := [] }
  let s := s.forget fun a => a / 2 ^ 30 = r
  { s with hbm := { s.hbm with broken := s.hbm.broken.filter fun w => w * 32 / 2 ^ 30 ≠ r,
                               ueTyp := s.hbm.ueTyp.filter fun p => p.1 * 32 / 2 ^ 30 ≠ r,
                               scrubbed := s.hbm.scrubbed.filter fun p => p.1 * 32 / 2 ^ 30 ≠ r } }

/-! ### The check -/

/-- The words of the STG fields that a check or an apply reads. -/
abbrev Words := Tab Word
def wordOf (w : Words) (a : Nat) : Nat := (tabGet regDflt w a).toNat
def u0Word (w : Words) (o : Nat) : Nat := wordOf w (umberBar 0 + o)
def u0Wide (w : Words) (o : Nat) : Nat := u0Word w o + 2 ^ 32 * u0Word w (o + 4)

/-- KIND and DIE that the words give to a region. -/
def imapKind (w : Words) (r : Nat) : Nat := u0Word w (0xB000 + 4 * r) % 4
def imapDie (w : Words) (r : Nat) : Nat := u0Word w (0xB000 + 4 * r) / 4 % 4

/-- Regions that the words form: their KIND changes from FREE (10 R193). -/
def State.forming (s : State) (w : Words) : List (Nat × Nat × Nat) :=
  ((List.range 768).filter fun r => imapKind w r ≠ 0 && !(s.region r).formed).map fun r => (r, imapKind w r, imapDie w r)
/-- Regions that the words free. -/
def State.freeing (s : State) (w : Words) : List Nat := (List.range 768).filter fun r => imapKind w r = 0 && (s.region r).formed

/-- Fail code 0x01 (10 R193). -/
def State.mapBad (s : State) (w : Words) : Bool :=
  ((List.range 768).any fun r =>
    let k := imapKind w r
    let d := imapDie w r
    let x := s.region r
    k = 3 || (d ≠ 0 && k ≠ 1) || (x.formed && k ≠ 0 && (k ≠ x.kind.toNat || d ≠ x.die.toNat))) ||
  (placeAll s.freeBands (s.forming w)).isNone

/-- Fail code 0x02 (10 R208). -/
def quotasBad (w : Words) : Bool :=
  (List.range 12).any fun st => 93437 < (List.range 16).foldl (fun n p => n + u0Word w (0xA200 + 4 * (12 * p + st)) % 2 ^ 17) 0

def outside (v hi lo least most : Nat) : Bool := bitsOf v hi lo < least || most < bitsOf v hi lo

/-- Fail code 0x03 (15 R325, 16 R343, 21 R413). -/
def boundsBad (w : Words) : Bool :=
  let cap := u0Word w 0x5008
  let gust := u0Word w 0x500C
  let act := u0Word w 0xA010
  outside cap 11 0 1200 3600 || outside cap 18 12 1 100 || outside gust 7 0 8 128 || outside gust 17 8 0 1000 ||
  (List.range 4).any (fun l => 8 < u0Word w (0x9000 + 16 * l) % 16) || outside (u0Word w 0xA008) 2 0 1 4 ||
  outside act 6 0 1 102 || outside act 12 7 1 51 || outside act 21 13 0 307 || outside act 27 22 1 51 ||
  102 < u0Word w 0xA014 % 128 ||
  (List.range 16).any (fun p => 65536 < u0Word w (0xA100 + 4 * p) % 2 ^ 16 + u0Word w (0xA100 + 4 * p) / 2 ^ 16)

/-- The staged fabric tables (14 R294, R295, R305): edge entries, and the route sets that they name, in increasing order. -/
def edgeCountOf (w : Words) : Nat := u0Word w 0x8018 % 2 ^ 21
def edgeBaseOf (w : Words) : Nat := bitsOf (u0Wide w 0x8010) 43 4 * 16
def rsetBaseOf (w : Words) : Nat := bitsOf (u0Wide w 0x8020) 43 5 * 32
def State.edgesOf (s : State) (w : Words) : List Nat := (List.range (edgeCountOf w)).map fun r => s.readNat (edgeBaseOf w + 16 * r) 16

/-- Insert a number that an increasing list does not hold. -/
def insertNat (n : Nat) : List Nat → List Nat
  | [] => [n]
  | m :: ms => if n < m then n :: m :: ms else if n = m then m :: ms else m :: insertNat n ms

/-- Route sets that valid edge entries name: RSET, and ALT_RSET of a PRIV entry (14 R294). -/
def namedSets (edges : List Nat) : List Nat :=
  edges.foldl (fun l e =>
    if bitOf e 20 then (let l := insertNat (bitsOf e 39 24) l; if bitOf e 21 then insertNat (bitsOf e 79 64) l else l) else l) []

/-- Local memory owned by CID 0 (14 R294). -/
def State.tableOk (s : State) (a n : Nat) : Bool :=
  n = 0 || (hasOwner a && hasOwner (a + n - 1) && s.spanMapped a n && (granulesOf a n).all fun g => (s.owner g).owner = 0)

/-- Reserved bits of an edge entry and of a route (14 R294, R295). -/
def edgeReserved (e : Nat) : Bool := bitsOf e 23 22 ≠ 0 || bitsOf e 63 60 ≠ 0 || bitsOf e 127 80 ≠ 0
def routeReserved (v : Nat) : Bool := bitsOf v 63 52 ≠ 0

/-- The four routes of a staged route set. -/
def State.routesOf (s : State) (w : Words) (set : Nat) : List Nat :=
  (List.range 4).map fun i => s.readNat (rsetBaseOf w + 32 * set + 8 * i) 8

/-- FAB_ALIAS_k as the words give it. -/
def aliasWordOf (w : Words) (k : Nat) : Nat := u0Wide w (0x8040 + 8 * k)

/-- The staged tables that a check reads: the edge table, and the route sets that it names, as far as they are memory of CID 0. -/
def State.tableSpans (s : State) (w : Words) : List (Nat × Nat) :=
  let n := 16 * edgeCountOf w
  if n = 0 || !s.tableOk (edgeBaseOf w) n then []
  else (edgeBaseOf w, n) ::
    ((namedSets (s.edgesOf w)).map fun r => (rsetBaseOf w + 32 * r, 32)).filter fun p => s.tableOk p.1 p.2

/-- A check reads the staged tables: the Lake and the counters see it, and uncorrectable data has its record (10 R201, 18 R363). -/
def State.readTables (s : State) (w : Words) : State :=
  (s.tableSpans w).foldl (fun s p => if s.brokenIn p.1 p.2 then s.ueRecord 0 p.1 p.2 none else (s.memRead 0 p.1 p.2 false).1) s

/-- Fail code 0x04 (14 R293, R305, 19 R381). DESIGN CHOICE (log 71): a table that holds uncorrectable data fails as one whose fields are not
good does, since the check may not use such data (18 R363). -/
def State.tablesBad (s : State) (w : Words) : Bool :=
  let top := 2 ^ 20 - 1
  if top < edgeCountOf w || u0Word w 0x8004 % 2 ^ 20 = top then true
  else if (List.range 4).any fun k => bitsOf (aliasWordOf w k) 21 20 = 3 || bitsOf (aliasWordOf w k) 19 0 = top then true
  else if !s.tableOk (edgeBaseOf w) (16 * edgeCountOf w) || (s.tableSpans w).any (fun p => s.brokenIn p.1 p.2) then true
  else
    let edges := s.edgesOf w
    edges.any edgeReserved ||
    (namedSets edges).any fun r => !s.tableOk (rsetBaseOf w + 32 * r) 32 || (s.routesOf w r).any routeReserved

/-- Ports of this package that a staged route set names: first hops of the sets of edges and aliases (14 R289, R295, R302). -/
def State.namedPorts (s : State) (w : Words) : List Nat :=
  let aliases := ((List.range 4).filter fun k => bitsOf (aliasWordOf w k) 21 20 = 2).map fun k => bitsOf (aliasWordOf w k) 57 42
  ((namedSets (s.edgesOf w) ++ aliases).flatMap fun r => s.routesOf w r).filterMap fun v => if bitOf v 43 then some (hopPort v 0) else none

/-- MODE that the words give to a port. -/
def portModeIn (w : Words) (p : Nat) : Nat := wordOf w (umberBar (p / 10) + 0x8800 + 8 * (p % 10)) % 4

/-- Fail codes 0x05 and 0x06 (14 R289, 19 R381). -/
def State.modesBad (s : State) (w : Words) : Bool :=
  (List.range 20).any fun p => portModeIn w p ≠ s.portMode p && (s.namedPorts w).contains p
def modeReserved (w : Words) : Bool := (List.range 20).any fun p => portModeIn w p = 3

/-- The first failing rule, 0 when every rule holds (19 R381). -/
def State.failCode (s : State) (w : Words) : BitVec 8 :=
  if s.mapBad w then 1 else if quotasBad w then 2 else if boundsBad w then 3 else if s.tablesBad w then 4
  else if s.modesBad w then 5 else if modeReserved w then 6 else 0

/-- SHA3-256 of the edge entries and of the route sets that they name (14 R305; log 28). -/
def State.tableDigest (s : State) (w : Words) : Digest :=
  sha3 (s.readBytes (edgeBaseOf w) (16 * edgeCountOf w) ++
        (namedSets (s.edgesOf w)).flatMap fun r => s.readBytes (rsetBaseOf w + 32 * r) 32)

/-- The result of a check that has ended: of the words that it took at its GO, against the hardware state of now (19 R382, R383). -/
def State.reportCheck (s : State) (x : FcRun) : State :=
  let w := x.words
  let code := s.failCode w
  let s := s.readTables w
  let s := s.onFront fun f => { f with result := if code = 0 then 1 else 2, failCode := code, clean := code = 0 && !x.dirtied }
  if code = 0 then
   (let plan := (placeAll s.freeBands (s.forming w)).getD []
    let s := s.onFront fun f => { f with gen := s.degradeGen, plan := plan }
    let d := s.tableDigest w; s.onFab fun f => { f with launch := { f.launch with staged := some d } }) else s

/-- FC_CHECK_DONE: the oldest check in progress ends. One for the next apply, started beside a pending one, reports its result even after
that apply has taken effect or has been discarded, and leaves a pending apply as it is (19 R382-R384). -/
def effFcCheckDone (s : State) : State :=
  match s.front.sides, s.front.state with
  | x :: rest, _ => (s.reportCheck x).onFront fun f => { f with sides := rest }
  | [], .checking false => (s.reportCheck s.front.main).onFront fun f => { f with state := .idle }
  | [], .checking true =>
    let t := s.reportCheck s.front.main
    if t.front.result = 1 then (t.onFront fun f => { f with applyGen := f.gen, applyPlan := f.plan }).becomePending
    else t.onFront fun f => { f with state := .idle, snapshot := [] }
  | [], _ => s
def execFcCheckDone (s : State) : Host.Outcome State Fault Refusal := s.live effFcCheckDone

/-! ### The apply -/

/-- Every STG field takes its snapshot value (19 R381). -/
def State.takeWords (s : State) (w : Words) : State :=
  stgWords.foldl (fun s a => s.setReg a (merge (s.reg a) (stgMask a) (tabGet regDflt w a))) s

/-- The interleave map changes: regions leave it, then regions form (10 R193, R194, R197). -/
def State.changeMap (s : State) (w : Words) (placed : List (Nat × Nat × Nat × List (Nat × Nat))) : State :=
  let s := (s.freeing w).foldl (fun s r => s.freeRegion r) s
  placed.foldl (fun s p => s.formRegion p.1 p.2.1 p.2.2.1 p.2.2.2) s

/-- A formed region holds a band of a test. -/
def State.inUse (s : State) (f : Nat × Nat → Bool) : Bool :=
  (List.range 768).any fun r => (s.region r).formed && (s.region r).members.any f

/-- A RETIRING channel on which no formed region holds a band goes OFFLINE, and its Lake lines are discarded (10 R213). -/
def State.offlineChan (s : State) (c : Nat) : State :=
  let x := s.chan c
  if x.state ≠ .retiring || s.inUse fun m => m.1 = c then s
  else
    s.degrade (c / 96) c 0 fun s =>
      let s := s.setChan c { x with state := .offline }
      let s := { s with hbm := { s.hbm with lake := s.hbm.lake.filter fun p => !(p.1 / 2 ^ 20 = c / 32 && p.2.tag / 2 ^ 10 = c % 32) } }
      ((List.range 4).foldl (fun s k => s.groupOff (c / 32) k) s).keepCap

/-- A retiring band that no formed region holds goes offline in the same way (10 R213). -/
def State.offlineBand (s : State) (c b : Nat) : State :=
  if s.band c b ≠ .retiring || s.inUse fun m => m == (c, b) then s
  else
    s.degrade (c / 96) c b fun s =>
      let s := s.setBand c b .offline
      let s := { s with hbm := { s.hbm with lake := s.hbm.lake.filter fun p => !(p.1 / 2 ^ 20 = c / 32 && p.2.tag / 2 ^ 3 = c % 32 * 2 ^ 7 + b) } }
      ((List.range 4).foldl (fun s k => s.groupOff (c / 32) k) s).keepCap

/-- Parts that leave service at an apply (10 R213). -/
def State.offlineAll (s : State) : State :=
  let s := s.hbm.chans.foldl (fun s p => s.offlineChan p.1) s
  s.hbm.bands.foldl (fun s p => s.offlineBand (p.1 / 128) (p.1 % 128)) s

/-- LAKE_CTL.WAYS = n (10 R204): groups from n on power down, each once it holds no line; the others are powered. -/
def State.lakeWays (s : State) (n : Nat) : State :=
  (List.range 12).foldl (fun s slice =>
    (List.range 4).foldl (fun s k =>
      let bit : BitVec 4 := 1 <<< k
      let on := tabGet waysDflt s.hbm.ways slice
      let cl := tabGet cleanDflt s.hbm.cleaning slice
      if k < n then
        { s with hbm := { s.hbm with ways := tabSet waysDflt s.hbm.ways slice (on ||| bit),
                                     cleaning := tabSet cleanDflt s.hbm.cleaning slice (cl &&& ~~~bit) } }
      else if bitOf on.toNat k then
        { s with hbm := { s.hbm with cleaning := tabSet cleanDflt s.hbm.cleaning slice (cl ||| bit) } }.groupOff slice k
      else s) s) s

/-- A port whose mode changes retrains, unless it is OFF now, and its queued packets are dropped; the most that it trains to stays (14 R289, 18
R371). -/
def State.remode (s : State) (p old : Nat) : State :=
  let m := s.portMode p
  if m = old then s
  else
    let s := s.setPort p { s.port p with width := 0, training := m ≠ 2 }
    s.onFab fun f => { f with outbox := f.outbox.filter fun q => q.1 ≠ p }

/-- The job begins at the apply of a launch: the staged key takes effect, and held packets are processed (14 R311, 17 R359). -/
def State.startJob (s : State) : State :=
  if s.fab.state ≠ .committed then s
  else
    let s := (s.setFab .active).onLaunch fun l => { l with applyAt := none, edges := [] }
    let s := s.onSec fun x => match x.stagedKey with
      | some k => { x with epochKey := some k, stagedKey := none, epochIv := [] }
      | none => x
    s.releaseHeld

/-- A package that enters a job keeps the operating point in force as the job's (16 R335, R336). -/
def State.enterJob (s : State) (was : Word) : State :=
  if was = 0 && s.epoch ≠ 0 then s.onPower fun p => { p with jobOp := p.curOp } else s

/-- The apply of a snapshot whose check has passed, at its tick (19 R381, R383): what a decoder has routed before it completes under the old
map (10 R197). -/
def State.applyWords (s : State) (w : Words) (placed : List (Nat × Nat × Nat × List (Nat × Nat))) : State :=
  let modes := (List.range 20).map s.portMode
  let ctxBase := s.ctxBase
  let epoch := s.epoch
  let s := s.finishHeld.finishFab.takeWords w
  let s := (s.changeMap w placed).offlineAll.keepCap
  let s := s.lakeWays (u0Word w 0xA008 % 8)
  let s := (List.range 20).foldl (fun s p => s.remode p (modes.getD p 0)) s
  let s := if s.ctxBase ≠ ctxBase then s.flushTranslations else s
  let s := s.onFront fun f =>
    { f with state := .idle, applied := true, count := f.count + 1, lastTime := f.applyAt, snapshot := [] }
  (s.formOp.enterJob epoch).startJob

/-- The last passing check still holds: no degrade event since, and the bands that it placed are still there for the same regions
(19 R373, R383; DESIGN CHOICE, log 72: a placement that another apply has overtaken is made again). -/
def State.planHolds (s : State) (w : Words) : Bool :=
  s.front.applyGen == s.degradeGen && (s.front.applyPlan.map fun p => (p.1, p.2.1, p.2.2.1)) == s.forming w &&
  s.front.applyPlan.all fun p => p.2.2.2.all fun m => s.freeBands.contains m

/-- FRONT_APPLY: the tick of a pending apply has come; after a degrade event its rules are checked again, against the state of that tick
(19 R373, R381-R383). -/
def effFrontApply (s : State) : State :=
  match s.front.state with
  | .pending =>
    let s := s.forwardTo s.front.applyAt
    let old := s
    let w := s.front.snapshot
    let holds := s.planHolds w
    let code := if holds then 0 else s.failCode w
    (match (if holds then some s.front.applyPlan else placeAll s.freeBands (s.forming w)) with
     | some placed =>
       if code = 0 then old.tracePower (s.applyWords w placed)
       else s.onFront fun f => { f with state := .idle, result := 2, failCode := code, clean := false, snapshot := [] }
     | none => s.onFront fun f => { f with state := .idle, result := 2, failCode := code, clean := false, snapshot := [] })
  | _ => s
def execFrontApply (s : State) : Host.Outcome State Fault Refusal := s.live effFrontApply

/-! ### The management window -/

/-- The management controller may read a span (19 R385). -/
def State.winReadable (s : State) (a n : Nat) : Bool :=
  s.spanMapped a n && (granulesOf a n).all fun g => !(s.ctx (s.owner g).owner).guarded

/-- MC_WIN_READ (19 R385). -/
def effMcWinRead (off n : Nat) (s : State) : State :=
  let a := s.mc.base.toNat + off
  let ones := List.replicate n (0xFF : Byte)
  if n = 0 then s
  else if !s.winReadable a n then { s with mc := { s.mc with refused := true, data := ones } }
  else if s.brokenIn a n then
    let s := s.ueRecord 0xFFFF a n none
    { s with mc := { s.mc with ue := true, data := ones } }
  else
    let bs := s.readBytes a n
    let s := s.seeAccess 0 none a n false false
    { s with mc := { s.mc with data := bs } }
def execMcWinRead (off n : Nat) (s : State) : Host.Outcome State Fault Refusal := s.live (effMcWinRead off n)

/-- MC_WIN_WRITE (19 R385): a write that covers part of an uncorrectable word changes no byte (18 R363). -/
def effMcWinWrite (off : Nat) (data : List Byte) (s : State) : State :=
  let a := s.mc.base.toNat + off
  if data.isEmpty then s
  else if !s.tableOk a data.length then { s with mc := { s.mc with refused := true } }
  else if s.partlyBroken a data.length then
    let s := s.ueStore 0xFFFF a data.length none
    { s with mc := { s.mc with ue := true } }
  else s.bgWrite 0 a data false
def execMcWinWrite (off : Nat) (data : List Byte) (s : State) : Host.Outcome State Fault Refusal := s.live (effMcWinWrite off data)

end Sys2Proof.Machine
end

