-- ==== Sys2Proof/Machine/RegRows.lean ====
section
/-! DEFINITION. Writes and latching reads of device registers as commands (00 R6-R8, 21 R402-R404), the registers of the management
sideband among them (19 R385, 22 R422; Registers.lean). -/

namespace Sys2Proof.Machine

/-- REGISTER_WRITE (00 R6, R7): only CID 0 reaches registers other than doorbells (21 R403). -/
def effRegisterWrite (cid : Cid) (addr : DWord) (data : List Byte) (s : State) : State :=
  let a := addr.toNat
  if bar0Ok cid a then s.mmioWrite cid a data else s
def execRegisterWrite (cid : Cid) (addr : DWord) (data : List Byte) (s : State) : Host.Outcome State Fault Refusal :=
  s.live (effRegisterWrite cid addr data)

/-- The words of a span of registers. -/
def wordsIn (a n : Nat) : List Nat := (List.range ((n + 3) / 4)).map fun i => a + 4 * i

/-- STAGED_WRITE: a write that names an STG field (00 R7, R8). -/
def effStagedWrite (cid : Cid) (addr : DWord) (data : List Byte) (s : State) : State :=
  let a := addr.toNat
  if bar0Ok cid a && (wordsIn a data.length).any fun w => stgMask w ≠ 0 then s.mmioWrite cid a data else s
def execStagedWrite (cid : Cid) (addr : DWord) (data : List Byte) (s : State) : Host.Outcome State Fault Refusal :=
  s.live (effStagedWrite cid addr data)

/-- LOW_HALF_READ_LATCH: a read of 1 to 4 bytes of the low half of a 64-bit register (21 R404). -/
def effLowHalfReadLatch (cid : Cid) (addr : DWord) (n : Nat) (s : State) : State :=
  let a := regAlias addr.toNat
  if bar0Ok cid addr.toNat && isLow (a / 4 * 4) && 1 ≤ n && n ≤ 4 then (s.mmioRead a n).1 else s
def execLowHalfReadLatch (cid : Cid) (addr : DWord) (n : Nat) (s : State) : Host.Outcome State Fault Refusal :=
  s.live (effLowHalfReadLatch cid addr n)

/-- LOW_HALF_WRITE_HOLD (21 R404). -/
def effLowHalfWriteHold (cid : Cid) (addr : DWord) (v : Word) (s : State) : State :=
  let a := regAlias addr.toNat
  if bar0Ok cid addr.toNat && isLow a && a % 4 = 0 then s.writeReg cid a v else s
def execLowHalfWriteHold (cid : Cid) (addr : DWord) (v : Word) (s : State) : Host.Outcome State Fault Refusal :=
  s.live (effLowHalfWriteHold cid addr v)

/-- HIGH_HALF_WRITE (21 R404). -/
def effHighHalfWrite (cid : Cid) (addr : DWord) (v : Word) (s : State) : State :=
  let a := regAlias addr.toNat
  if bar0Ok cid addr.toNat && 4 ≤ a && isLow (a - 4) && a % 4 = 0 then s.writeReg cid a v else s
def execHighHalfWrite (cid : Cid) (addr : DWord) (v : Word) (s : State) : Host.Outcome State Fault Refusal :=
  s.live (effHighHalfWrite cid addr v)

end Sys2Proof.Machine
end

