-- ==== Sys2Proof/Machine/Reliability.lean ====
section
/-! DEFINITION. Errors that structures find, consumers of uncorrectable data, the log's open and held records, and losses of hardware
in service (18 R362-R373). -/

namespace Sys2Proof.Machine

/-- Memory protected by 18 R362 codes 0x01, 0x02, 0x04 and 0x09, whose uncorrectable words R363 and R364 contain. -/
def ofMemory (typ : Nat) : Bool := typ = 0x01 || typ = 0x02 || typ = 0x04 || typ = 0x09

/-- The 32-byte word of an address is uncorrectable from here on, until a write covers it (18 R363, R364). -/
def State.breakWord (s : State) (a : Nat) : State :=
  if !hasOwner a || !s.mapped a || s.hbm.broken.contains (a / 32) then s
  else { s with hbm := { s.hbm with broken := s.hbm.broken ++ [a / 32] } }

/-- A cell is disabled, in a degrade event, and the repair list keeps it disabled (18 R369, R372). -/
def State.disableCell (s : State) (g : Nat) : State :=
  let d := g / 64
  if !(s.ochre d).cellEn.getLsbD (g % 64) then s
  else
    let s := s.degrade d g 0 fun s => s.dropCells d (1 <<< (g % 64))
    { s with flash := { s.flash with cells := if s.flash.cells.contains g then s.flash.cells else s.flash.cells ++ [g] } }

/-- A cell's memories show an uncorrectable error; the second within 24 h disables the cell (18 R369). -/
def State.cellFails (s : State) (g : Nat) : State :=
  let twice := (tabFind s.cellErr g).any fun t => (s.time - t).toNat < dayNs
  let s := { s with cellErr := tabPut s.cellErr g s.time }
  if twice then s.disableCell g else s

/-! ### Clean lines and cached entries (18 R366) -/

/-- The Lake line of an address leaves the Lake, when it is there and clean. -/
def State.lakeDropClean (s : State) (a : Nat) : Option State :=
  if !inHbm a then none
  else
    let (c, b, t) := s.hbmPlace a
    let q := stackLine c b t
    match s.lakeWay (c / 32) q with
    | some w =>
      let k := lakeKey (c / 32) (lakeSet q) w
      if (s.lakeLine k).dirty then none else some (s.setLakeLine k (lineDflt k))
    | none => none

/-- The cache that an event of TYPE 0x09 names: of a control core on an Ochre die; of a host core, or else the L3, on an Umber die. -/
def State.eventCache (s : State) (die inst line : Nat) : Holder :=
  let e := s.dirEntry line
  let l2 := Holder.l2 (Fin.ofNat 96 inst)
  if die < 4 then .dcache (Fin.ofNat 256 inst)
  else if e.owner == some l2 || e.sharers.contains l2 then l2 else .l3 (Fin.ofNat 2 (die - 4))

/-- The line of an address leaves a cache that holds it clean. -/
def State.cacheDropClean (s : State) (die inst a : Nat) : Option State :=
  let line := a / 128
  let e := s.dirEntry line
  let h := s.eventCache die inst line
  if e.owner == some h then (if e.modified then none else some ((s.setDir line { e with owner := none }).lineLeaves line h))
  else if e.sharers.contains h then some ((s.setDir line { e with sharers := e.sharers.filter (· != h) }).lineLeaves line h)
  else none

/-- A translation-cache entry of an event: its CID's, reaching its address. -/
def XEntry.struck (x : XEntry) (e : ErrorEvent) : Bool := x.cid == e.cid && x.pbase ≤ e.addr.toNat && e.addr.toNat < x.pbase + x.length

/-- An event of TYPE 0x0B finds something to drop: a cached entry, or a walk that has not begun again already (18 R366). -/
def State.xltHolds (s : State) (d : Nat) (e : ErrorEvent) : Bool :=
  ((s.ochre d).xc.any fun x => x.struck e) || ((s.ochre d).walks.any fun w => w.cid == e.cid && !w.stale) ||
  s.cells.any fun p => p.1 / 64 = d && p.2.xc.any fun x => x.struck e

/-- The entries of a CID that reach an address leave the die's cache and the caches of its cells, and its walks begin again. DESIGN CHOICE
(log 71): an event of TYPE 0x0B names its entry by CID and by the physical address that the entry reaches. -/
def State.xltDrop (s : State) (d : Nat) (e : ErrorEvent) : State :=
  let keep : XEntry → Bool := fun x => !x.struck e
  let o := s.ochre d
  let s := s.setOchre d { o with xc := o.xc.filter keep, walks := o.walks.map fun w => if w.cid == e.cid then { w with stale := true } else w }
  s.mapCells fun g c => if g / 64 = d then { c with xc := c.xc.filter keep } else c

/-- What a structure whose data is kept elsewhere does about an error that its protection cannot correct: a clean line of the Lake, of a
cache or of a cell's L1, or an entry of a translation cache, is invalidated, and fetched or walked again (18 R362, R366). -/
def State.refetch (s : State) (die : Nat) (e : ErrorEvent) : Option State :=
  let a := e.addr.toNat
  let i := e.inst.toNat
  match e.typ.toNat with
  | 0x02 => s.lakeDropClean a
  | 0x05 => if i < 256 && ((s.cell i).l1Read a 1).isSome then some (s.setCell i ((s.cell i).l1Drop a)) else none
  | 0x09 => s.cacheDropClean die i a
  | 0x0B => if die < 4 && s.xltHolds die e then some (s.xltDrop die e) else none
  | _ => none

/-- The work of a cell that needs the data ends: its item or piece, or block b of its thread group. -/
def State.cellEnds (s : State) (g b : Nat) (st : Status) : State := if (s.cell g).job.isSome then s.endItem g st else s.endBlock g b st

/-- What an error that cannot be corrected does beside its record (18 R362): memory, a cell's memories, engines and registers, sync
objects, root ports. DESIGN CHOICE (log 71): DETAIL of a cell's TYPE names the block whose register or data it is. -/
def State.uncorrected (s : State) (e : ErrorEvent) : State :=
  let t := e.typ.toNat
  let i := e.inst.toNat
  if ofMemory t then
    let s := s.breakWord e.addr.toNat
    if t = 0x02 || t = 0x09 then { s with hbm := { s.hbm with ueTyp := tabPut s.hbm.ueTyp (e.addr.toNat / 32) e.typ } } else s
  else if 0x05 ≤ t && t ≤ 0x08 && i < 256 then (s.cellEnds i e.detail.toNat stMemUe).cellFails i
  else if t = 0x0C && i < 65536 then { s with soBad := if s.soBad.contains i then s.soBad else s.soBad ++ [i] }
  else if t = 0x0F && i < 4 then s.logAer i
  else s

/-- Structures whose uncorrectable errors are FATAL: Lake tags and state, the directory, platform memories and security state (18 R362). -/
def alwaysFatal (typ : Nat) : Bool := typ = 0x03 || typ = 0x0A || typ = 0x10

/-- A corrected error of an HBM row: the third within 24 h starts the row's soft repair (18 R369; which row an address of a band lies in is
free: log 48). -/
def State.countRow (s : State) (e : ErrorEvent) : State :=
  let a := e.addr.toNat
  if e.typ ≠ 0x01 || !inHbm a || !s.mapped a then s
  else
    let (c, b, t) := s.hbmPlace a
    let row := Config.hbmRow t
    let kept := s.hbm.rowErrs.filter fun x => (s.time - x.2.2.2).toNat < dayNs
    let mine := kept.filter fun x => x.1 = c && x.2.1 = b && x.2.2.1 = row
    if mine.length < 2 then { s with hbm := { s.hbm with rowErrs := kept ++ [(c, b, row, s.time)] } }
    else { s with hbm := { s.hbm with rowErrs := kept.filter fun x => !mine.contains x,
                                      rowDue := if s.hbm.rowDue.contains (c, b, row) then s.hbm.rowDue else s.hbm.rowDue ++ [(c, b, row)] } }

/-- ERROR_DETECTED (18 R362, R365-R367, R369): its record, and the outcome for the structure when it was not corrected; an error that a refetch
makes good counts as corrected (18 R366). -/
def effErrorDetected (die : Nat) (e : ErrorEvent) (s : State) : State :=
  match e.sev with
  | .contained =>
    if alwaysFatal e.typ.toNat then s.logError die { e with sev := .fatal }
    else (match s.refetch die e with
     | some t => t.logError die { e with sev := .corrected }
     | none => (s.logError die e).uncorrected e)
  | .corrected => (s.logError die e).countRow e
  | _ => s.logError die e
def execErrorDetected (die : Nat) (e : ErrorEvent) (s : State) : Host.Outcome State Fault Refusal :=
  s.live (effErrorDetected die e)

/-- CID of a consumer, 0xFFFF for none (18 R367). -/
def State.consumerCid (s : State) : UeConsumer → Cid
  | .cell g => match (s.cell g).job with
    | some j => j.cid
    | none => 0xFFFF
  | .block g b => match (s.cell g).blocks[b]? with
    | some x => x.cid
    | none => 0xFFFF
  | .command r _ => (s.ring r).cid
  | .hostCore _ => 0
  | .thirdDevice p => s.defCid p
  | .fabric _ _ => s.jobCid
  | .background => 0xFFFF
  | .migrationCopy => 0xFFFF

/-- The command that a consumer serves, whose tags the record carries (18 R367). -/
def State.consumerCmd (s : State) : UeConsumer → Option (Nat × Word)
  | .cell g => (s.cell g).job.map fun j => (j.ring, j.seq)
  | .block g b => ((s.cell g).blocks[b]?).map fun x => (x.ring, x.seq)
  | .command r q => some (r.val, q)
  | _ => none

/-- The request of a fabric consumer, as far as the row names it: its station and its TID. -/
def consumerPacket (tid : BitVec 16) (src : BitVec 20) : Packet :=
  { ver := 1, cls := 0, vl := 0, op := 1, priv := false, epoch := 0, dst := 0, src := src, dstRank := 0, srcRank := 0, tid := tid, hop := 0,
    nhopm1 := 0, route := 0, gmask := 0, addr := 0, resv := false, len32 := 0, iv := 0, tag := .none, data := [] }

/-- How a consumer of uncorrectable data ends (18 R363). -/
def State.consumerEnds (s : State) (c : UeConsumer) (a : Nat) : State :=
  match c with
  | .cell g => s.endItem g stMemUe
  | .block g b => s.endBlock g b stMemUe
  | .command r q => match s.cmd r q with
    | some x => if x.hasStarted && x.stage ≠ .recording then s.endCmd x stMemUe else s
    | none => s
  | .hostCore h => s.trap h .machineCheck
  | .thirdDevice p => s.refuseDev p (.read 0) csAbort
  | .fabric tid src =>
    s.respond (10 * s.home a) (consumerPacket tid src) .ue []
  | .background => s
  | .migrationCopy => s

/-- UE_CONSUMED: one record, and the consumer's end (18 R363). -/
def effUeConsumed (c : UeConsumer) (pa : DWord) (s : State) : State :=
  let a := pa.toNat
  ((s.breakWord a).ueRecord (s.consumerCid c) a 1 (s.consumerCmd c)).consumerEnds c a
def execUeConsumed (c : UeConsumer) (pa : DWord) (s : State) : Host.Outcome State Fault Refusal := s.live (effUeConsumed c pa)

/-- OPEN_RECORD_FLUSH: an open corrected record is written, 1 s after its first event (18 R368). -/
def effOpenRecordFlush (die : Fin 6) (i : Nat) (s : State) : State :=
  let l := s.log die
  match l.opened[i]? with
  | none => s
  | some r => (s.setLog die { l with opened := l.opened.eraseIdx i }).writeErr die r
def execOpenRecordFlush (die : Fin 6) (i : Nat) (s : State) : Host.Outcome State Fault Refusal := s.live (effOpenRecordFlush die i)

/-- HELD_RECORD_WRITE: the oldest held record, once the log is enabled, has room and can be reached (18 R368). -/
def effHeldRecordWrite (die : Fin 6) (s : State) : State :=
  let l := s.log die
  match l.held with
  | [] => s
  | r :: rs => if s.errEn die && !s.errFull die && s.errReady die then (s.setLog die { l with held := rs }).storeErr die r else s
def execHeldRecordWrite (die : Fin 6) (s : State) : Host.Outcome State Fault Refusal := s.live (effHeldRecordWrite die)

/-- A lane group of a link that carries traffic is lost (15 R321). -/
def State.loseGroup (s : State) (l g : Nat) : State :=
  let x := s.link l
  if x.state = .down || !bitOf x.groups.toNat g then s else s.narrowLink l (x.groups &&& ~~~(1 <<< g : BitVec 12))

/-- DEGRADE_EVENT (18 R371, R372). -/
def effDegradeEvent (l : Loss) (s : State) : State :=
  match l with
  | .cell g => s.disableCell g
  | .channel c => s.retireChannel c
  | .band c b => s.retireBand c b
  | .linkGroup k g => s.loseGroup k g
  | .portWidth p => s.narrowPort p 1
def execDegradeEvent (l : Loss) (s : State) : Host.Outcome State Fault Refusal := s.live (effDegradeEvent l)

end Sys2Proof.Machine
end

