-- ==== Sys2Proof/Machine/Riscv.lean ====
section
/-! DEFINITION. The instructions of RV64IMC that act on a control core's registers and pc alone (05 R88), by the RISC-V standard that R88
names (PRESUMED, log 37), and how a word of any kind ends (05 R91, R95, R431). -/

namespace Sys2Proof.Machine

/-- Integer operations of RV64IM. -/
inductive AluOp where
  | add | sub | sll | slt | sltu | xor | srl | sra | or | and
  | mul | mulh | mulhsu | mulhu | div | divu | rem | remu
deriving DecidableEq, Repr

/-- An operation on w bits; a shift takes the low bits of its count that w admits. A division by zero gives all ones and leaves the dividend
as remainder; the quotient -2^(w-1) / -1 wraps. -/
def AluOp.eval (op : AluOp) (w : Nat) (x y : BitVec w) : BitVec w :=
  match op with
  | .add => x + y
  | .sub => x - y
  | .sll => x <<< (y.toNat % w)
  | .slt => BitVec.ofNat w (x.slt y).toNat
  | .sltu => BitVec.ofNat w (x.ult y).toNat
  | .xor => x ^^^ y
  | .srl => x >>> (y.toNat % w)
  | .sra => x.sshiftRight (y.toNat % w)
  | .or => x ||| y
  | .and => x &&& y
  | .mul => x * y
  | .mulh => BitVec.ofInt w (x.toInt * y.toInt / 2 ^ w)
  | .mulhsu => BitVec.ofInt w (x.toInt * y.toNat / 2 ^ w)
  | .mulhu => BitVec.ofNat w (x.toNat * y.toNat / 2 ^ w)
  | .div => if y = 0 then BitVec.allOnes w else x.sdiv y
  | .divu => if y = 0 then BitVec.allOnes w else x / y
  | .rem => if y = 0 then x else x.srem y
  | .remu => if y = 0 then x else x % y

/-- An operation on 64 bits, or on the low 32 with the result extended by its sign. -/
def AluOp.word (op : AluOp) (narrow : Bool) (x y : DWord) : DWord :=
  if narrow then (op.eval 32 (x.setWidth 32) (y.setWidth 32)).signExtend 64 else op.eval 64 x y

/-- Conditions of the branches. -/
inductive Cond where
  | eq | ne | lt | ge | ltu | geu
deriving DecidableEq, Repr

def Cond.holds (c : Cond) (x y : DWord) : Bool :=
  match c with
  | .eq => x == y
  | .ne => x != y
  | .lt => x.slt y
  | .ge => !x.slt y
  | .ltu => x.ult y
  | .geu => !x.ult y

/-- An instruction that acts on the registers and the pc. -/
inductive RvInstr where
  | op (f : AluOp) (narrow : Bool) (rd rs1 rs2 : Nat)
  | opImm (f : AluOp) (narrow : Bool) (rd rs1 : Nat) (imm : DWord)
  | lui (rd : Nat) (imm : DWord)
  | auipc (rd : Nat) (imm : DWord)
  | jal (rd : Nat) (off : DWord)
  | jalr (rd rs1 : Nat) (off : DWord)
  | branch (c : Cond) (rs1 rs2 : Nat) (off : DWord)
deriving DecidableEq, Repr

/-- What a word is to a control core. -/
inductive CoreWordKind where
  | plain (i : RvInstr) (size : Nat)    -- an instruction on registers and pc
  | counter (rd : Reg) (k : Zicntr)     -- a read of a counter
  | ownRow                              -- an instruction that another command of the table runs
  | illegal
deriving DecidableEq, Repr

/-- A field of w bits as a signed 64-bit number. -/
def sx (w v : Nat) : DWord := (BitVec.ofNat w v).signExtend 64

/-- Operations by funct3: of the base set, of M, and of M on words. -/
def baseOp (f3 : Nat) : AluOp :=
  match f3 with
  | 0 => .add | 1 => .sll | 2 => .slt | 3 => .sltu | 4 => .xor | 5 => .srl | 6 => .or | _ => .and
def mulOp (f3 : Nat) : AluOp :=
  match f3 with
  | 0 => .mul | 1 => .mulh | 2 => .mulhsu | 3 => .mulhu | 4 => .div | 5 => .divu | 6 => .rem | _ => .remu

/-- The operation of a register-register word by funct7 and funct3. -/
def regOp (narrow : Bool) (f7 f3 : Nat) : Option AluOp :=
  if f7 = 0 then (if !narrow || f3 = 0 || f3 = 1 || f3 = 5 then some (baseOp f3) else none)
  else if f7 = 0x20 then (match f3 with | 0 => some .sub | 5 => some .sra | _ => none)
  else if f7 = 1 then (if !narrow || f3 = 0 || 4 ≤ f3 then some (mulOp f3) else none)
  else none

/-- The operation and operand of a register-immediate word: a shift has its count, and its kind above it. -/
def immOp (narrow : Bool) (v f3 : Nat) : Option (AluOp × DWord) :=
  let bits := if narrow then 5 else 6
  let count := BitVec.ofNat 64 (bitsOf v (19 + bits) 20)
  let kind := bitsOf v 31 (20 + bits)
  match f3 with
  | 1 => if kind = 0 then some (.sll, count) else none
  | 5 => if kind = 0 then some (.srl, count) else if kind = 2 ^ (10 - bits) then some (.sra, count) else none
  | _ => if narrow && f3 ≠ 0 then none else some (baseOp f3, sx 12 (bitsOf v 31 20))

def branchCond (f3 : Nat) : Option Cond :=
  match f3 with
  | 0 => some .eq | 1 => some .ne | 4 => some .lt | 5 => some .ge | 6 => some .ltu | 7 => some .geu | _ => none

/-- Offsets of JAL and of the branches. -/
def jalOff (v : Nat) : DWord := sx 21 (bitsOf v 31 31 * 2 ^ 20 + bitsOf v 19 12 * 2 ^ 12 + bitsOf v 20 20 * 2 ^ 11 + bitsOf v 30 21 * 2)
def branchOff (v : Nat) : DWord := sx 13 (bitsOf v 31 31 * 2 ^ 12 + bitsOf v 7 7 * 2 ^ 11 + bitsOf v 30 25 * 2 ^ 5 + bitsOf v 11 8 * 2)

/-- An AMO of RV64A, or LR or SC: the words that rows of the table run (12 R256, R258). -/
def amoWord (v : Nat) : Bool :=
  let f5 := bitsOf v 31 27
  (bitsOf v 14 12 = 2 || bitsOf v 14 12 = 3) && (f5 < 5 && (f5 ≠ 2 || bitsOf v 24 20 = 0) || f5 % 4 = 0)

/-- A 32-bit word. -/
def wordKind (g : CellId) (w : Word) : CoreWordKind :=
  let v := w.toNat
  let f3 := bitsOf v 14 12
  let rd := bitsOf v 11 7
  let rs1 := bitsOf v 19 15
  let rs2 := bitsOf v 24 20
  let own := fun (b : Bool) => if b then CoreWordKind.ownRow else .illegal
  let plain := fun (i : Option RvInstr) => match i with | some i => CoreWordKind.plain i 4 | none => .illegal
  match v % 128 with
  | 0x33 => plain ((regOp false (bitsOf v 31 25) f3).map fun f => .op f false rd rs1 rs2)
  | 0x3B => plain ((regOp true (bitsOf v 31 25) f3).map fun f => .op f true rd rs1 rs2)
  | 0x13 => plain ((immOp false v f3).map fun f => .opImm f.1 false rd rs1 f.2)
  | 0x1B => plain ((immOp true v f3).map fun f => .opImm f.1 true rd rs1 f.2)
  | 0x37 => plain (some (.lui rd (sx 32 (bitsOf v 31 12 * 2 ^ 12))))
  | 0x17 => plain (some (.auipc rd (sx 32 (bitsOf v 31 12 * 2 ^ 12))))
  | 0x6F => plain (some (.jal rd (jalOff v)))
  | 0x67 => plain (if f3 = 0 then some (.jalr rd rs1 (sx 12 (bitsOf v 31 20))) else none)
  | 0x63 => plain ((branchCond f3).map fun c => .branch c rs1 rs2 (branchOff v))
  | 0x03 => own (f3 < 7)
  | 0x23 => own (f3 < 4)
  | 0x2F => own (amoWord v)
  | 0x0F => own (f3 < 2)
  | 0x73 =>
    (match zicntrRead w with
     | some (rd, k) => .counter rd k
     | none => own (v = 0x00100073))
  | _ => own (customInstr g w).isSome

/-- A compressed word: its low 16 bits. Registers of three bits are x8 to x15. -/
def shortKind (v : Nat) : CoreWordKind :=
  let f3 := bitsOf v 15 13
  let rd := bitsOf v 11 7
  let rs2 := bitsOf v 6 2
  let lo := 8 + bitsOf v 4 2
  let hi := 8 + bitsOf v 9 7
  let imm := sx 6 (bitsOf v 12 12 * 32 + bitsOf v 6 2)
  let count : DWord := BitVec.ofNat 64 (bitsOf v 12 12 * 32 + bitsOf v 6 2)
  let jump := sx 12 (bitsOf v 12 12 * 2 ^ 11 + bitsOf v 8 8 * 2 ^ 10 + bitsOf v 10 9 * 2 ^ 8 + bitsOf v 6 6 * 2 ^ 7 + bitsOf v 7 7 * 2 ^ 6 +
    bitsOf v 2 2 * 2 ^ 5 + bitsOf v 11 11 * 2 ^ 4 + bitsOf v 5 3 * 2)
  let near := sx 9 (bitsOf v 12 12 * 2 ^ 8 + bitsOf v 6 5 * 2 ^ 6 + bitsOf v 2 2 * 2 ^ 5 + bitsOf v 11 10 * 2 ^ 3 + bitsOf v 4 3 * 2)
  let sp16 := sx 10 (bitsOf v 12 12 * 2 ^ 9 + bitsOf v 4 3 * 2 ^ 7 + bitsOf v 5 5 * 2 ^ 6 + bitsOf v 2 2 * 2 ^ 5 + bitsOf v 6 6 * 2 ^ 4)
  let sp4 : DWord := BitVec.ofNat 64 (bitsOf v 10 7 * 2 ^ 6 + bitsOf v 12 11 * 2 ^ 4 + bitsOf v 5 5 * 2 ^ 3 + bitsOf v 6 6 * 2 ^ 2)
  let plainIf := fun (b : Bool) (i : RvInstr) => if b then CoreWordKind.plain i 2 else .illegal
  match v % 4, f3 with
  | 0, 0 => plainIf (sp4 ≠ 0) (.opImm .add false lo 2 sp4)
  | 0, 2 | 0, 3 | 0, 6 | 0, 7 => .ownRow
  | 1, 0 => plainIf true (.opImm .add false rd rd imm)
  | 1, 1 => plainIf (rd ≠ 0) (.opImm .add true rd rd imm)
  | 1, 2 => plainIf true (.opImm .add false rd 0 imm)
  | 1, 3 => if rd = 2 then plainIf (sp16 ≠ 0) (.opImm .add false 2 2 sp16) else plainIf (imm ≠ 0) (.lui rd (imm <<< 12))
  | 1, 4 =>
    (match bitsOf v 11 10 with
     | 0 => plainIf true (.opImm .srl false hi hi count)
     | 1 => plainIf true (.opImm .sra false hi hi count)
     | 2 => plainIf true (.opImm .and false hi hi imm)
     | _ =>
       match bitsOf v 12 12, bitsOf v 6 5 with
       | 0, 0 => plainIf true (.op .sub false hi hi lo)
       | 0, 1 => plainIf true (.op .xor false hi hi lo)
       | 0, 2 => plainIf true (.op .or false hi hi lo)
       | 0, _ => plainIf true (.op .and false hi hi lo)
       | _, 0 => plainIf true (.op .sub true hi hi lo)
       | _, 1 => plainIf true (.op .add true hi hi lo)
       | _, _ => .illegal)
  | 1, 5 => plainIf true (.jal 0 jump)
  | 1, 6 => plainIf true (.branch .eq hi 0 near)
  | 1, 7 => plainIf true (.branch .ne hi 0 near)
  | 2, 0 => plainIf true (.opImm .sll false rd rd count)
  | 2, 2 | 2, 3 => if rd = 0 then .illegal else .ownRow
  | 2, 4 =>
    if bitsOf v 12 12 = 0 then (if rs2 = 0 then plainIf (rd ≠ 0) (.jalr 0 rd 0) else plainIf true (.op .add false rd 0 rs2))
    else if rs2 = 0 then (if rd = 0 then .ownRow else plainIf true (.jalr 1 rd 0))
    else plainIf true (.op .add false rd rd rs2)
  | 2, 6 | 2, 7 => .ownRow
  | _, _ => .illegal

/-- What a word, of 16 or 32 bits by its low two bits, is to the core of a cell. -/
def coreWordKind (g : CellId) (w : Word) : CoreWordKind :=
  if w.toNat % 4 = 3 then wordKind g w else shortKind (w.toNat % 2 ^ 16)

/-- The result and the next pc of an instruction of size bytes on the registers. -/
def RvInstr.eval (i : RvInstr) (k : ControlCore) (size : Nat) : Nat × DWord × DWord :=
  let next := k.pc + BitVec.ofNat 64 size
  match i with
  | .op f n rd a b => (rd, f.word n (k.get a) (k.get b), next)
  | .opImm f n rd a imm => (rd, f.word n (k.get a) imm, next)
  | .lui rd imm => (rd, imm, next)
  | .auipc rd imm => (rd, k.pc + imm, next)
  | .jal rd off => (rd, next, k.pc + off)
  | .jalr rd a off => (rd, next, (k.get a + off) &&& ~~~1)
  | .branch c a b off => (0, 0, if c.holds (k.get a) (k.get b) then k.pc + off else next)

/-- The core after an instruction: rd has its result, and the pc the address of the next one (05 R88, R431). -/
def ControlCore.run (k : ControlCore) (i : RvInstr) (size : Nat) : ControlCore :=
  let (rd, v, pc) := i.eval k size
  { k.set rd v with pc := pc, instret := k.instret + 1 }

/-- What a Zicntr counter of a cell reads; the cell's clock, and so its cycles since the item's start, is not the model's, but for the 0 from
which they count (05 R431; log 37). -/
def State.zicntr (s : State) (g : Nat) : Zicntr → DWord
  | .time => s.time
  | .cycle =>
    let k := (s.cell g).core
    if s.time = k.started && k.instret = 0 then 0 else Config.cellCycles k.started.toNat s.time.toNat
  | .instret => (s.cell g).core.instret

/-- ILLEGAL_INSTRUCTION: the word that a core is to run where no other command runs it. An instruction on its registers runs, and a read of a
counter reads it; a word that another command of the table runs is left to it; any other ends the item, and no handler runs (05 R88, R91,
R95, R431; log 37). -/
def effIllegalInstruction (g : CellId) (word : Word) (s : State) : State :=
  s.onCore g fun c _ =>
    match coreWordKind g word with
    | .plain i n => s.setCell g { c with core := c.core.run i n }
    | .counter rd k => s.retire g rd (s.zicntr g k)
    | .ownRow => s
    | .illegal => s.endItem g stFormat
def execIllegalInstruction (g : CoreWord) (s : State) : Host.Outcome State Fault Refusal :=
  s.live (effIllegalInstruction g.cell g.word)

end Sys2Proof.Machine
end

