-- ==== Sys2Proof/Machine/StartUp.lean ====
section
/-! DEFINITION. Power, package reset and start-up (17 R347, R348, 18 R369, 19 R375-R379, 22 R419, R424). -/

namespace Sys2Proof.Machine

/-- Everything but the flash, the pins and the model's own fields is lost (12 R252, 19 R376). -/
def State.dark (s : State) (ph : Phase) : State :=
  { State.reset with pending := s.pending, phase := ph, pins := { s.pins with atb := [] }, flash := s.flash, bring := s.bring,
                     fresh := s.fresh, time := 0, released := false, everReleased := false,
                     sec := { Security.reset [] with mr := List.replicate 7 0, keys := [] } }

/-- PWR_GOOD_RISE: step 1 of the power-up sequence begins, unless PKG_RST_N holds it (19 R377, 22 R424). -/
def effPwrGoodRise (s : State) : State :=
  match s.phase with
  | .off =>
    let s := s.dark (if s.pins.pkgRstN then .starting else .held)
    { s with pins := { s.pins with pwrGood := true, thermtrip := false } }
  | _ => s
def execPwrGoodRise (s : State) : Host.Outcome State Fault Refusal := s.pinEvent effPwrGoodRise

/-- PWR_GOOD_FALL: every island stops and all state is lost; THERMTRIP_N alone keeps its level (22 R419). -/
def effPwrGoodFall (s : State) : State :=
  let s := s.dark .off
  { s with pins := { s.pins with pwrGood := false } }
def execPwrGoodFall (s : State) : Host.Outcome State Fault Refusal := s.pinEvent effPwrGoodFall

/-- PACKAGE_RESET: PKG_RST_N has been low for 10 µs (19 R375, R376, 22 R424). -/
def effPackageReset (s : State) : State :=
  let s := match s.phase with
    | .off => s
    | _ => s.dark .held
  { s with pins := { s.pins with pkgRstN := false } }
def execPackageReset (s : State) : Host.Outcome State Fault Refusal := s.pinEvent effPackageReset

/-- PKG_RST_N_RISE: the power-up sequence begins here (22 R424). -/
def effPkgRstNRise (s : State) : State :=
  let s := { s with pins := { s.pins with pkgRstN := true } }
  match s.phase with
  | .held => { s with phase := .starting }
  | _ => s
def execPkgRstNRise (s : State) : Host.Outcome State Fault Refusal := s.pinEvent effPkgRstNRise

/-- A failed boot: an error record, REPLACE, and the host cores stay in reset (17 R346, R347, 19 R378). -/
def State.bootFails (s : State) : State := (s.logError 4 (plainEvent 0x25 .event 0 0)).request 25 false true

/-- No region formed, every band zeroed and free (19 R377 step 9). -/
def State.blankMap (s : State) : State :=
  let free : Region := { kind := 0, die := 0, formed := false, retiring := false, members := [] }
  { s with hbm := { s.hbm with regions := (List.range 768).map fun r => (r, free),
                               bands := (List.range 49152).map fun k => (k, BandState.free) } }

/-- KIND and DIE that the manifest gives to a region (10 R192). -/
def Flash.region (f : Flash) (r : Nat) : Nat × Nat :=
  let v := ((tabFind f.imap r).getD 2).toNat
  (v % 4, v / 4 % 4)

/-- Start-up forms a region of the manifest, or leaves it FREE with an error record, whose TYPE the manual does not give (19 R379). -/
def State.startRegion (s : State) (r : Nat) : State :=
  let (kind, die) := s.flash.region r
  if kind = 0 || kind = 3 then s.force (umberBar 0 + 0xB000 + 4 * r) 0
  else match placeRegion s.freeBands kind die with
    | some ms => (s.force (umberBar 0 + 0xB000 + 4 * r) (BitVec.ofNat 32 (kind + 4 * die))).formRegion r kind die ms
    | none =>
      let (s, typ) := (s.force (umberBar 0 + 0xB000 + 4 * r) 0).draw 16
      s.logError 4 (plainEvent typ .event r 0)

/-- The regions of the manifest; the shipped manifest forms all 768 as PKG (10 R192, 19 R379). -/
def State.startRegions (s : State) : State :=
  if s.flash.imap.isEmpty && s.bring.chanBad.isEmpty then s else ((List.range 768).foldl (fun s r => s.startRegion r) s.blankMap).keepCap

/-- Isobar ports train in their manifest modes (14 R289, 19 R377 step 8). -/
def State.startPorts (s : State) : State :=
  s.flash.portMode.foldl (fun s m =>
    let p := m.1
    let s := s.force (umberBar (p / 10) + 0x8800 + 8 * (p % 10)) (m.2.setWidth 32)
    if m.2 = 2 then s.setPort p { s.port p with width := 0 } else s) s

/-- Cells that the repair list names stay disabled, and those that fail their self-test are disabled, each with a record (18 R369, R370, 19
R378; the record's TYPE is that of a cell that leaves service: log 33); the hard repairs of the list are done. -/
def State.startCells (s : State) : State :=
  let s := s.flash.cells.foldl (fun s g =>
    (s.dropCells (g / 64) (1 <<< (g % 64))).logError (g / 64) (plainEvent 0x26 .event g 0)) s
  let s := s.bring.cellBad.foldl (fun s g => s.disableCell g) s
  { s with flash := { s.flash with rows := [] } }

/-- Groups of package links that fail their test stay out, as in service (15 R320-R322, 19 R378). -/
def State.startLinks (s : State) : State :=
  s.bring.links.foldl (fun s g =>
    let x := s.link g.1
    if x.groups &&& g.2 = x.groups then s else s.narrowLink g.1 (x.groups &&& g.2)) s

/-- A channel with a failed lane and no spare for it starts OFFLINE (19 R378). -/
def State.startChan (s : State) (c : Nat) : State :=
  ((s.setChan c { s.chan c with state := .offline, spares := 4 }).request 17 false true).logError (0x10 + c / 32) (plainEvent 0x01 .event c 0)

/-- A tier-B channel that fails training leaves its half unmapped (10 R188, 18 R367, R370). -/
def State.startLp (s : State) (c : Nat) : State :=
  let s := if c < 16 then { s with tierB0 := false } else { s with tierB1 := false }
  (s.request 27 true false).logError (4 + c / 16) (plainEvent 0x28 .event c 0)

/-- Spare lanes that training switches in (10 R209, 19 R377 step 5). -/
def State.startSpares (s : State) : State :=
  s.bring.spares.foldl (fun s p => s.setChan p.1 { s.chan p.1 with spares := min p.2 4 }) s

/-- HBM and tier-B channels train against what the manifest declares (10 R188, 19 R377, R378). -/
def State.startMemory (s : State) : State :=
  let s := s.startSpares
  let s := s.bring.chanBad.foldl (fun s c => s.startChan c) s
  if s.flash.tierB.isSome then s.bring.lpBad.foldl (fun s c => s.startLp c) s else s

/-- Ports whose lanes fail run x4 or stay down (14 R290, 19 R378). -/
def State.startLanes (s : State) : State := s.bring.isoLanes.foldl (fun s p => s.narrowPort p.1 (widthOf p.2)) s

/-- Root ports train to their lanes and speed; one with no device stays in Detect, and requests toward it fail at once (13 R285, R288, 19
R377 step 8, R378). -/
def State.startRoots (s : State) : State :=
  let s := s.bring.roots.foldl (fun s p => s.setRoot p.port { s.root p.port with lanes := p.lanes, speed := p.speed }) s
  s.bring.noDevice.foldl (fun s (p : RootId) => s.setRoot p { s.root p with l0 := false, dead := true }) s

/-- PROD_TEST forces STRICT and keeps the host cores in reset (02 R39, 19 R380). -/
def State.startTest (s : State) : State :=
  if s.pins.prodTest then
    let s := (List.range 4).foldl (fun s d => s.setOchre d { s.ochre d with strictForced := true }) s
    { s with released := false, everReleased := false }
  else s

/-- The manifest and the images of step 2 verify, the SVN is at its floor, and both seeds can be reconstructed (17 R346, R347). -/
def State.boots (s : State) : Bool := s.flash.good && 1 ≤ s.flash.svn.toNat && s.bring.noSeed.isEmpty

/-- Steps 2 to 10 of the power-up sequence (19 R377-R379); the key of slot 0 is a fresh random value (11 R234, 17 R353; log 4). -/
def State.startUp (s : State) : State :=
  let (u, key) := (s.dark .starting).draw 256
  let u := { u with time := State.reset.time, released := true, everReleased := true, tierB0 := s.flash.tierB.isSome, tierB1 := s.flash.tierB.isSome,
                    sec := { Security.reset (s.flash.measured s.pins) with keys := [(0, key)] } }
  u.startLinks.startMemory.startCells.startRegions.startPorts.startLanes.startRoots.startTest

/-- The host firmware fails its check at step 10: its measurement is not made, and the host cores stay in reset while everything else
runs (17 R347 step 5, 19 R377, 22 R422). -/
def State.holdHosts (s : State) : State :=
  ({ s with released := false, everReleased := false, sec := { s.sec with mr := s.sec.mr.set 3 0 } }).bootFails

/-- STRAP_SAMPLE: the straps are sampled, 500 µs after the start, and start-up runs to the release of host core 0; a check of step 2 that
fails stops boot before any island but the security processor's runs, one of the host firmware leaves the host cores in reset (17 R347,
19 R377, R378, R380, 22 R422, R424). -/
def effStrapSample (s : State) : State :=
  match s.phase with
  | .starting =>
    if !s.boots then s.keepInputs (s.dark .starting).bootFails
    else { s.keepInputs (if s.flash.hostGood then s.startUp else s.startUp.holdHosts) with phase := .up }
  | _ => s
def execStrapSample (s : State) : Host.Outcome State Fault Refusal := s.pinEvent effStrapSample

end Sys2Proof.Machine
end

