-- ==== Sys2Proof/Machine/Dispatch.lean ====
section
/-! DEFINITION. One arm for each command of spec/opcode_table.json, in the table's order. -/

namespace Sys2Proof.Machine

def exec (i : Instr) (s : State) : Host.Outcome State Fault Refusal :=
  match i with
  | .registerWrite cid addr data => Sys2Proof.Machine.execRegisterWrite cid addr data s
  | .stagedWrite cid addr data => Sys2Proof.Machine.execStagedWrite cid addr data s
  | .lowHalfReadLatch cid addr n => Sys2Proof.Machine.execLowHalfReadLatch cid addr n s
  | .lowHalfWriteHold cid addr v => Sys2Proof.Machine.execLowHalfWriteHold cid addr v s
  | .highHalfWrite cid addr v => Sys2Proof.Machine.execHighHalfWrite cid addr v s
  | .dispatchWorkItem r seq => Sys2Proof.Machine.execDispatchWorkItem r seq s
  | .workItemStart g => Sys2Proof.Machine.execWorkItemStart g s
  | .workItemEnd g item => Sys2Proof.Machine.execWorkItemEnd g item s
  | .workItemTimeout g item => Sys2Proof.Machine.execWorkItemTimeout g item s
  | .emat g rd rs1 => Sys2Proof.Machine.execEmat g rd rs1 s
  | .evec g rd rs1 rs2 => Sys2Proof.Machine.execEvec g rd rs1 rs2 s
  | .evec2 g rd rs1 rs2 rs3 => Sys2Proof.Machine.execEvec2 g rd rs1 rs2 rs3 s
  | .estr g rd rs1 => Sys2Proof.Machine.execEstr g rd rs1 s
  | .ewait g rd rs1 rs2 => Sys2Proof.Machine.execEwait g rd rs1 rs2 s
  | .esig g rs1 rs2 => Sys2Proof.Machine.execEsig g rs1 rs2 s
  | .esigAddition g => Sys2Proof.Machine.execEsigAddition g s
  | .ewso g rd rs1 rs2 => Sys2Proof.Machine.execEwso g rd rs1 rs2 s
  | .efence g scope => Sys2Proof.Machine.execEfence g scope s
  | .edone g rs1 => Sys2Proof.Machine.execEdone g rs1 s
  | .fenceI g => Sys2Proof.Machine.execFenceI g s
  | .ebreak g compressed => Sys2Proof.Machine.execEbreak g compressed s
  | .dbgResume d mask => Sys2Proof.Machine.execDbgResume d mask s
  | .dbgDataWrite d v => Sys2Proof.Machine.execDbgDataWrite d v s
  | .matrixBlockStart g => Sys2Proof.Machine.execMatrixBlockStart g s
  | .readyReceived g higher => Sys2Proof.Machine.execReadyReceived g higher s
  | .rawStreamSend g => Sys2Proof.Machine.execRawStreamSend g s
  | .rawStreamLanded g higher => Sys2Proof.Machine.execRawStreamLanded g higher s
  | .matrixDrain g => Sys2Proof.Machine.execMatrixDrain g s
  | .drainQueuePush g => Sys2Proof.Machine.execDrainQueuePush g s
  | .matrixTicketComplete g e => Sys2Proof.Machine.execMatrixTicketComplete g e s
  | .vld g => Sys2Proof.Machine.execVld g s
  | .vst g => Sys2Proof.Machine.execVst g s
  | .pop g => Sys2Proof.Machine.execPop g s
  | .cvt g => Sys2Proof.Machine.execCvt g s
  | .quant g => Sys2Proof.Machine.execQuant g s
  | .dequant g => Sys2Proof.Machine.execDequant g s
  | .slice g => Sys2Proof.Machine.execSlice g s
  | .expv g => Sys2Proof.Machine.execExpv g s
  | .add g => Sys2Proof.Machine.execAdd g s
  | .sub g => Sys2Proof.Machine.execSub g s
  | .mul g => Sys2Proof.Machine.execMul g s
  | .div g => Sys2Proof.Machine.execDiv g s
  | .fma g => Sys2Proof.Machine.execFma g s
  | .max g => Sys2Proof.Machine.execMax g s
  | .min g => Sys2Proof.Machine.execMin g s
  | .sdiv g => Sys2Proof.Machine.execSdiv g s
  | .smul g => Sys2Proof.Machine.execSmul g s
  | .sqrt g => Sys2Proof.Machine.execSqrt g s
  | .abs g => Sys2Proof.Machine.execAbs g s
  | .neg g => Sys2Proof.Machine.execNeg g s
  | .rsum g => Sys2Proof.Machine.execRsum g s
  | .rmax g => Sys2Proof.Machine.execRmax g s
  | .rmin g => Sys2Proof.Machine.execRmin g s
  | .ramax g => Sys2Proof.Machine.execRamax g s
  | .rdot g => Sys2Proof.Machine.execRdot g s
  | .rstat g => Sys2Proof.Machine.execRstat g s
  | .rxs g => Sys2Proof.Machine.execRxs g s
  | .rxa g => Sys2Proof.Machine.execRxa g s
  | .func g => Sys2Proof.Machine.execFunc g s
  | .streamTransfer g => Sys2Proof.Machine.execStreamTransfer g s
  | .dispatchBlock r seq => Sys2Proof.Machine.execDispatchBlock r seq s
  | .gmma g b t w => Sys2Proof.Machine.execGmma g b t w s
  | .gmld g b t w => Sys2Proof.Machine.execGmld g b t w s
  | .gdrain g b t w => Sys2Proof.Machine.execGdrain g b t w s
  | .bar g b t w => Sys2Proof.Machine.execBar g b t w s
  | .gsync g b t w => Sys2Proof.Machine.execGsync g b t w s
  | .gvote g b t w => Sys2Proof.Machine.execGvote g b t w s
  | .gshfl g b t w => Sys2Proof.Machine.execGshfl g b t w s
  | .eGroupStall g b grp => Sys2Proof.Machine.execEGroupStall g b grp s
  | .soadd g b t w => Sys2Proof.Machine.execSoadd g b t w s
  | .sowait g b t w => Sys2Proof.Machine.execSowait g b t w s
  | .soread g b t w => Sys2Proof.Machine.execSoread g b t w s
  | .tfence g b t w => Sys2Proof.Machine.execTfence g b t w s
  | .atomg g b t w => Sys2Proof.Machine.execAtomg g b t w s
  | .atomb g b t w => Sys2Proof.Machine.execAtomb g b t w s
  | .exit g b t w => Sys2Proof.Machine.execExit g b t w s
  | .threadLoad g b t global bypass w dst addr => Sys2Proof.Machine.execThreadLoad g b t global bypass w dst addr s
  | .threadStore g b t global w addr src => Sys2Proof.Machine.execThreadStore g b t global w addr src s
  | .load op => Sys2Proof.Machine.execLoad op s
  | .store op => Sys2Proof.Machine.execStore op s
  | .atomic op => Sys2Proof.Machine.execAtomic op s
  | .lr op => Sys2Proof.Machine.execLr op s
  | .sc op => Sys2Proof.Machine.execSc op s
  | .fence c pred succ tso => Sys2Proof.Machine.execFence c pred succ tso s
  | .yfence c word => Sys2Proof.Machine.execYfence c word s
  | .getS h pa => Sys2Proof.Machine.execGetS h pa s
  | .getM h pa => Sys2Proof.Machine.execGetM h pa s
  | .writeback h pa => Sys2Proof.Machine.execWriteback h pa s
  | .forwardedRequest h pa => Sys2Proof.Machine.execForwardedRequest h pa s
  | .holdEnd h pa => Sys2Proof.Machine.execHoldEnd h pa s
  | .homeRetry h pa => Sys2Proof.Machine.execHomeRetry h pa s
  | .ioCoherentAccess cid pa noAlloc a => Sys2Proof.Machine.execIoCoherentAccess cid pa noAlloc a s
  | .nearAtomic cid pa fn dword operand compare => Sys2Proof.Machine.execNearAtomic cid pa fn dword operand compare s
  | .finePathAccess cid pa a => Sys2Proof.Machine.execFinePathAccess cid pa a s
  | .lakeWayClean st set way => Sys2Proof.Machine.execLakeWayClean st set way s
  | .bandZeroed c b => Sys2Proof.Machine.execBandZeroed c b s
  | .patrolScrubPass st behind broken => Sys2Proof.Machine.execPatrolScrubPass st behind broken s
  | .quotaAdmission => Sys2Proof.Machine.execQuotaAdmission s
  | .hbmLaneFailure c lane => Sys2Proof.Machine.execHbmLaneFailure c lane s
  | .hbmRetrain c => Sys2Proof.Machine.execHbmRetrain c s
  | .rowSoftRepair c band row spareLeft => Sys2Proof.Machine.execRowSoftRepair c band row spareLeft s
  | .xltInv c u data => Sys2Proof.Machine.execXltInv c u data s
  | .invalidationBroadcast => Sys2Proof.Machine.execInvalidationBroadcast s
  | .invalidationComplete => Sys2Proof.Machine.execInvalidationComplete s
  | .translationWalk d cid va kind => Sys2Proof.Machine.execTranslationWalk d cid va kind s
  | .walkFinish d ix => Sys2Proof.Machine.execWalkFinish d ix s
  | .faultRecordWrite d => Sys2Proof.Machine.execFaultRecordWrite d s
  | .xltResumeRetry d fid => Sys2Proof.Machine.execXltResumeRetry d fid s
  | .xltResumeAbort d fid => Sys2Proof.Machine.execXltResumeAbort d fid s
  | .thirdDeviceRequest p q => Sys2Proof.Machine.execThirdDeviceRequest p q s
  | .atsTranslationRequest p rid pasid va => Sys2Proof.Machine.execAtsTranslationRequest p rid pasid va s
  | .priPageRequest p rid pasid va prg => Sys2Proof.Machine.execPriPageRequest p rid pasid va prg s
  | .atsInvalidateCompletion p rid => Sys2Proof.Machine.execAtsInvalidateCompletion p rid s
  | .atsInvalidateTimeout p rid => Sys2Proof.Machine.execAtsInvalidateTimeout p rid s
  | .pasidEntryWrite p e hi => Sys2Proof.Machine.execPasidEntryWrite p e hi s
  | .rpDefcidWrite p cid => Sys2Proof.Machine.execRpDefcidWrite p cid s
  | .doorbell r cid tail => Sys2Proof.Machine.execDoorbell r cid tail s
  | .ringConfigWrite r off v => Sys2Proof.Machine.execRingConfigWrite r off v s
  | .ringCtlSetting r log2size replay => Sys2Proof.Machine.execRingCtlSetting r log2size replay s
  | .run r on => Sys2Proof.Machine.execRun r on s
  | .clear r => Sys2Proof.Machine.execClear r s
  | .abort r => Sys2Proof.Machine.execAbort r s
  | .descriptorFetch r => Sys2Proof.Machine.execDescriptorFetch r s
  | .commandAdmit r => Sys2Proof.Machine.execCommandAdmit r s
  | .commandStart r => Sys2Proof.Machine.execCommandStart r s
  | .nop r seq => Sys2Proof.Machine.execNop r seq s
  | .cell r seq => Sys2Proof.Machine.execCell r seq s
  | .kernel r seq => Sys2Proof.Machine.execKernel r seq s
  | .copy r seq => Sys2Proof.Machine.execCopy r seq s
  | .write r seq => Sys2Proof.Machine.execWrite r seq s
  | .collective r seq => Sys2Proof.Machine.execCollective r seq s
  | .ctxOpen r seq => Sys2Proof.Machine.execCtxOpen r seq s
  | .ctxSeal r seq => Sys2Proof.Machine.execCtxSeal r seq s
  | .ctxThaw r seq => Sys2Proof.Machine.execCtxThaw r seq s
  | .ctxClose r seq => Sys2Proof.Machine.execCtxClose r seq s
  | .commandComplete r seq => Sys2Proof.Machine.execCommandComplete r seq s
  | .hostWarmReset lost => Sys2Proof.Machine.execHostWarmReset lost s
  | .preservedStateWrite => Sys2Proof.Machine.execPreservedStateWrite s
  | .postedWrite p q relaxed => Sys2Proof.Machine.execPostedWrite p q relaxed s
  | .mmioAccess src addr data n answer => Sys2Proof.Machine.execMmioAccess src addr data n answer s
  | .rootPortLinkDown p => Sys2Proof.Machine.execRootPortLinkDown p s
  | .rootPortLinkUp p => Sys2Proof.Machine.execRootPortLinkUp p s
  | .hostpathTimeout p => Sys2Proof.Machine.execHostpathTimeout p s
  | .fabricRead p k n => Sys2Proof.Machine.execFabricRead p k n s
  | .fabricWrite p k => Sys2Proof.Machine.execFabricWrite p k s
  | .fabricAtomic p k fn dword operand compare => Sys2Proof.Machine.execFabricAtomic p k fn dword operand compare s
  | .collectiveData u group tag member packets lost => Sys2Proof.Machine.execCollectiveData u group tag member packets lost s
  | .fabricResponse p k st => Sys2Proof.Machine.execFabricResponse p k st s
  | .fabricForward p k => Sys2Proof.Machine.execFabricForward p k s
  | .packetTransit p k => Sys2Proof.Machine.execPacketTransit p k s
  | .fabricRequestTimeout tid => Sys2Proof.Machine.execFabricRequestTimeout tid s
  | .wrongRankResend tid => Sys2Proof.Machine.execWrongRankResend tid s
  | .routeChoiceChange u station => Sys2Proof.Machine.execRouteChoiceChange u station s
  | .routeResume u station => Sys2Proof.Machine.execRouteResume u station s
  | .isobarLaneFailure p lanesLeft => Sys2Proof.Machine.execIsobarLaneFailure p lanesLeft s
  | .prepare epoch n root sender digest => Sys2Proof.Machine.execPrepare epoch n root sender digest s
  | .prepAck child => Sys2Proof.Machine.execPrepAck child s
  | .prepDone child st => Sys2Proof.Machine.execPrepDone child st s
  | .prepAckTimeout child => Sys2Proof.Machine.execPrepAckTimeout child s
  | .missing rank standby digest => Sys2Proof.Machine.execMissing rank standby digest s
  | .edgeUpdate rank entry digest => Sys2Proof.Machine.execEdgeUpdate rank entry digest s
  | .commit epoch at_ => Sys2Proof.Machine.execCommit epoch at_ s
  | .commitAck child => Sys2Proof.Machine.execCommitAck child s
  | .commitAckTimeout child => Sys2Proof.Machine.execCommitAckTimeout child s
  | .revert => Sys2Proof.Machine.execRevert s
  | .preparedTimeout => Sys2Proof.Machine.execPreparedTimeout s
  | .teardown => Sys2Proof.Machine.execTeardown s
  | .teardownScrubDone => Sys2Proof.Machine.execTeardownScrubDone s
  | .teardownDone child => Sys2Proof.Machine.execTeardownDone child s
  | .scrubbingReprepare child => Sys2Proof.Machine.execScrubbingReprepare child s
  | .timeSync adjust => Sys2Proof.Machine.execTimeSync adjust s
  | .collectiveAnnounce u group tag member => Sys2Proof.Machine.execCollectiveAnnounce u group tag member s
  | .collectiveTimeout u group tag => Sys2Proof.Machine.execCollectiveTimeout u group tag s
  | .qpDoorbell p n cid recv tail => Sys2Proof.Machine.execQpDoorbell p n cid recv tail s
  | .send p n => Sys2Proof.Machine.execSend p n s
  | .rdmaWrite p n => Sys2Proof.Machine.execRdmaWrite p n s
  | .rdmaRead p n => Sys2Proof.Machine.execRdmaRead p n s
  | .incomingRdma p n rkey va a => Sys2Proof.Machine.execIncomingRdma p n rkey va a s
  | .incomingSend p n data => Sys2Proof.Machine.execIncomingSend p n data s
  | .qpRun p n on => Sys2Proof.Machine.execQpRun p n on s
  | .keyEntryWrite p e v => Sys2Proof.Machine.execKeyEntryWrite p e v s
  | .flitReceive l toHigh corrected flit => Sys2Proof.Machine.execFlitReceive l toHigh corrected flit s
  | .nak l toHigh seq => Sys2Proof.Machine.execNak l toHigh seq s
  | .linkRetrain l => Sys2Proof.Machine.execLinkRetrain l s
  | .retrain l => Sys2Proof.Machine.execRetrain l s
  | .retrainComplete l pass => Sys2Proof.Machine.execRetrainComplete l pass s
  | .retrainTimeout l => Sys2Proof.Machine.execRetrainTimeout l s
  | .pathResume src dst => Sys2Proof.Machine.execPathResume src dst s
  | .activityEstimate die demand => Sys2Proof.Machine.execActivityEstimate die demand s
  | .ballastHoldEnd die => Sys2Proof.Machine.execBallastHoldEnd die s
  | .prewarm d r => Sys2Proof.Machine.execPrewarm d r s
  | .prewarmTimeout d => Sys2Proof.Machine.execPrewarmTimeout d s
  | .opReq child k op => Sys2Proof.Machine.execOpReq child k op s
  | .opReqTimeout k => Sys2Proof.Machine.execOpReqTimeout k s
  | .opSet k op => Sys2Proof.Machine.execOpSet k op s
  | .opApply k => Sys2Proof.Machine.execOpApply k s
  | .powerCapWindow watts => Sys2Proof.Machine.execPowerCapWindow watts s
  | .pwrAlert rail => Sys2Proof.Machine.execPwrAlert rail s
  | .stretchRelease rail => Sys2Proof.Machine.execStretchRelease rail s
  | .droop die island => Sys2Proof.Machine.execDroop die island s
  | .thermalPoll tj hbm => Sys2Proof.Machine.execThermalPoll tj hbm s
  | .thermtrip => Sys2Proof.Machine.execThermtrip s
  | .go => Sys2Proof.Machine.execGo s
  | .granuleSet => Sys2Proof.Machine.execGranuleSet s
  | .keyNew => Sys2Proof.Machine.execKeyNew s
  | .report => Sys2Proof.Machine.execReport s
  | .sealPrep => Sys2Proof.Machine.execSealPrep s
  | .tenant => Sys2Proof.Machine.execTenant s
  | .importTenant va data => Sys2Proof.Machine.execImportTenant va data s
  | .exportTenant va n => Sys2Proof.Machine.execExportTenant va n s
  | .setRt word0 => Sys2Proof.Machine.execSetRt word0 s
  | .pasidGrant p rid pasid => Sys2Proof.Machine.execPasidGrant p rid pasid s
  | .epochKey epoch key => Sys2Proof.Machine.execEpochKey epoch key s
  | .tenantReport nonce => Sys2Proof.Machine.execTenantReport nonce s
  | .operatorReq management epoch key nonce => Sys2Proof.Machine.execOperatorReq management epoch key nonce s
  | .mgmtKeyGraceEnd => Sys2Proof.Machine.execMgmtKeyGraceEnd s
  | .debugChallenge => Sys2Proof.Machine.execDebugChallenge s
  | .debugUnlock => Sys2Proof.Machine.execDebugUnlock s
  | .extend => Sys2Proof.Machine.execExtend s
  | .errorDetected die e => Sys2Proof.Machine.execErrorDetected die e s
  | .ueConsumed c pa => Sys2Proof.Machine.execUeConsumed c pa s
  | .openRecordFlush die ix => Sys2Proof.Machine.execOpenRecordFlush die ix s
  | .heldRecordWrite die => Sys2Proof.Machine.execHeldRecordWrite die s
  | .degradeEvent l => Sys2Proof.Machine.execDegradeEvent l s
  | .pwrGoodRise => Sys2Proof.Machine.execPwrGoodRise s
  | .strapSample => Sys2Proof.Machine.execStrapSample s
  | .pwrGoodFall => Sys2Proof.Machine.execPwrGoodFall s
  | .packageReset => Sys2Proof.Machine.execPackageReset s
  | .hostRstN => Sys2Proof.Machine.execHostRstN s
  | .hostRstCtlGo => Sys2Proof.Machine.execHostRstCtlGo s
  | .fcCheck => Sys2Proof.Machine.execFcCheck s
  | .fcCheckDone => Sys2Proof.Machine.execFcCheckDone s
  | .fcApply sched => Sys2Proof.Machine.execFcApply sched s
  | .cancel => Sys2Proof.Machine.execCancel s
  | .frontApply => Sys2Proof.Machine.execFrontApply s
  | .devtimeStep t => Sys2Proof.Machine.execDevtimeStep t s
  | .mcWinRead off n => Sys2Proof.Machine.execMcWinRead off n s
  | .mcWinWrite off data => Sys2Proof.Machine.execMcWinWrite off data s
  | .freeze die on => Sys2Proof.Machine.execFreeze die on s
  | .pmcClear die => Sys2Proof.Machine.execPmcClear die s
  | .counterSample => Sys2Proof.Machine.execCounterSample s
  | .traceLostRecord die => Sys2Proof.Machine.execTraceLostRecord die s
  | .soValWrite o wide v => Sys2Proof.Machine.execSoValWrite o wide v s
  | .soOwnWrite u j v => Sys2Proof.Machine.execSoOwnWrite u j v s
  | .atbSelect die bus src => Sys2Proof.Machine.execAtbSelect die bus src s
  | .testInstrumentRequest ix part => Sys2Proof.Machine.execTestInstrumentRequest ix part s
  | .granuleZeroingDone => Sys2Proof.Machine.execGranuleZeroingDone s
  | .roceAcknowledgement p n data nak => Sys2Proof.Machine.execRoceAcknowledgement p n data nak s
  | .transportRetriesExhausted p n => Sys2Proof.Machine.execTransportRetriesExhausted p n s
  | .pkgRstNRise => Sys2Proof.Machine.execPkgRstNRise s
  | .hostRstNRise => Sys2Proof.Machine.execHostRstNRise s
  | .droopRecovery die island => Sys2Proof.Machine.execDroopRecovery die island s
  | .opExchangeBoundary k => Sys2Proof.Machine.execOpExchangeBoundary k s
  | .wbDone => Sys2Proof.Machine.execWbDone s
  | .isobarPortTrained p lanes => Sys2Proof.Machine.execIsobarPortTrained p lanes s
  | .illegalInstruction g => Sys2Proof.Machine.execIllegalInstruction g s

end Sys2Proof.Machine
end

