-- ==== Sys2Proof/Safety.lean ====
section
/-! DEFINITION. What a good state and a safe step are, in the terms that the statements use. -/

namespace Sys2Proof.Machine

/-- The phase agrees with the levels at PWR_GOOD and PKG_RST_N (19 R375, R377, 22 R419, R424). -/
def State.powerWf (s : State) : Prop :=
  (s.phase = .off ↔ s.pins.pwrGood = false) ∧ (s.phase = .held → s.pins.pkgRstN = false) ∧
  (s.phase = .starting → s.pins.pkgRstN = true) ∧ (s.phase = .up → s.pins.pkgRstN = true)

/-- The control core of cell g runs work item j and waits for nothing, and does not fetch from the cell-memory window (05 R89, R91). -/
def State.coreRuns (s : State) (g : Nat) (j : Job) : Prop :=
  (s.cell g).job = some j ∧ j.ended = none ∧ j.kind = .item ∧ (s.cell g).core.wait = .running ∧ (s.cell g).core.pc.toNat < cellWindow

/-- Host core c issues its next instruction at once: it is out of reset and started, waits for no invalidation slot and no barrier, has no
exception due, and its store buffer is empty (12 R243, R249, 19 R377). -/
def State.hostReady (s : State) (c : HostId) : Prop :=
  s.hostRuns c = true ∧ s.hostFree c = true ∧ (s.host c).barrier = false ∧ (s.host c).buffer = []

/-- No request of a device waits at a root port (13 R286). -/
def State.portsIdle (s : State) : Prop := ∀ p : Nat, (s.root p).posted = []

/-- Nothing has waited for a quota, a path, a walker, a response or a device: a package tick lets nothing go on (10 R208, 11 R220, 12 R249,
13 R286, 14 R292). -/
def State.nothingWaits (s : State) : Prop :=
  s.hbm.quotaHeld = [] ∧ s.portsIdle ∧ s.fab.waiting = [] ∧ (∀ d : Nat, (s.ochre d).missQ = []) ∧
  (∀ p ∈ s.hosts, p.2.buffer = [] ∧ p.2.due = none) ∧ (∀ p : Nat, (s.root p).ready = []) ∧ ∀ q ∈ s.qps, q.2.due = []

/-- The engines of cell g act for job j, which has started and not ended (05 R93). -/
def State.engineRuns (s : State) (g : Nat) (j : Job) : Prop :=
  (s.cell g).job = some j ∧ j.ended = none ∧ (s.cell g).core.wait ≠ .zeroing

/-- A step that ends neither in a fault nor in a refusal. -/
def Completes (o : Host.Outcome State Fault Refusal) : Prop := ∃ t, o = .next t

/-- The vector engine of cell g carries out instruction w next, for job j (07 R131). -/
def State.vecNext (s : State) (g : Nat) (j : Job) (w : VWord) : Prop :=
  s.engineRuns g j ∧ ∃ q, ((s.cell g).vec.queue.find? fun q => !q.done) = some q ∧ VWord.decode q.word q.rs2 q.rs3 = w

/-- What no vector instruction changes: memory, every other cell, the job, and the part of the queue that has not acted but for its
head (07 R131). -/
def VecFrame (s t : State) (g : Nat) : Prop :=
  t.mem = s.mem ∧ (∀ h, h ≠ g → t.cell h = s.cell h) ∧ (t.cell g).job = (s.cell g).job ∧
  (t.cell g).vec.queue.filter (fun q => !q.done) = ((s.cell g).vec.queue.filter fun q => !q.done).tail

/-- The accumulators, their flags and the term counter stay (07 R128). -/
def VecAccsKept (s t : State) (g : Nat) : Prop :=
  (t.cell g).vec.narrow = (s.cell g).vec.narrow ∧ (t.cell g).vec.wide = (s.cell g).vec.wide ∧
  (t.cell g).vec.nflags = (s.cell g).vec.nflags ∧ (t.cell g).vec.wflags = (s.cell g).vec.wflags ∧
  (t.cell g).vec.terms = (s.cell g).vec.terms

/-- Tile buffer d holds bs from its first byte on, and every other byte of the tile buffers and all of cell memory is as before
(07 R129). -/
def VecTile (s t : State) (g d : Nat) (bs : List Byte) : Prop :=
  (t.cell g).mem = (s.cell g).mem ∧
  ∀ k : Nat, tabGet zeroByte (t.cell g).vec.tb k =
    if 65536 * d ≤ k ∧ k < 65536 * d + bs.length then bs.getD (k - 65536 * d) 0 else tabGet zeroByte (s.cell g).vec.tb k

/-- An instruction that changes one tile buffer and nothing else. -/
def VecWrote (s t : State) (g d : Nat) (bs : List Byte) : Prop := VecFrame s t g ∧ VecAccsKept s t g ∧ VecTile s t g d bs

/-- Thread t of block b of cell g. -/
def State.threadAt (s : State) (g b t : Nat) : Option Thread := ((s.cell g).blocks[b]?).bind fun x => x.threads[t]?

/-- Thread t of block b of cell g is y and can issue; its block is x (09 R168). -/
def State.threadRuns (s : State) (g b t : Nat) (x : Block) (y : Thread) : Prop :=
  (s.cell g).blocks[b]? = some x ∧ x.threads[t]? = some y ∧ x.ended = none ∧ y.ended = false ∧ y.wait = .none

/-- How block b of cell g has ended. -/
def State.blockEnded (s : State) (g b : Nat) : Option Status := ((s.cell g).blocks[b]?).bind Block.ended

/-- What an instruction of block b leaves as it was: memory, every other cell, every other block of the cell. -/
def BlockFrame (s u : State) (g b : Nat) : Prop :=
  u.mem = s.mem ∧ (∀ h, h ≠ g → u.cell h = s.cell h) ∧ ∀ c : Nat, c ≠ b → (u.cell g).blocks[c]? = (s.cell g).blocks[c]?

/-- Thread t of the block becomes y; every other thread, cell memory, memory and the other cells stay. -/
def ThreadBecomes (s u : State) (g b t : Nat) (y : Thread) : Prop :=
  BlockFrame s u g b ∧ (u.cell g).mem = (s.cell g).mem ∧ u.blockEnded g b = s.blockEnded g b ∧ u.threadAt g b t = some y ∧
  ∀ v : Nat, v ≠ t → u.threadAt g b v = s.threadAt g b v

/-- The block ends with a status; memory, cell memory and the other blocks and cells stay. -/
def BlockEnds (s u : State) (g b : Nat) (st : Status) : Prop :=
  BlockFrame s u g b ∧ (u.cell g).mem = (s.cell g).mem ∧ u.blockEnded g b = some st

/-- Every other thread of the group of thread t waits at the group matrix instruction w at the same address, and none has ended; the
group is whole (09 R173). -/
def Block.groupArrived (x : Block) (t : Nat) (w : DWord) (pc : DWord) : Prop :=
  (x.members (t / 32)).length = 32 ∧
  ∀ v ∈ x.members (t / 32), v.2.ended = false ∧ (v.1 ≠ t → v.2.wait = .groupMatrix w ∧ v.2.pc = pc)

/-- The security processor serves the request of a code now: it is BUSY with it, and no zeroing or tenant operation of an earlier one is
open (17 R351, R352). -/
def State.boxServes (s : State) (code : Nat) : Prop :=
  s.sec.mboxState = 1 ∧ field s.sec.header 0 2 = code ∧ s.sec.setting = false ∧ s.sec.unlocking = none ∧ s.sec.tenant = none

/-- The mailbox is DONE with a result, and holds no request (17 R351). -/
def State.boxDone (t : State) (r : BitVec 4) : Prop :=
  t.sec.mboxState = 2 ∧ t.sec.mboxResult = r ∧ t.sec.doneEvt = true ∧ t.sec.body = [] ∧ t.sec.tenant = none

end Sys2Proof.Machine
end

