-- ==== Sys2Proof/Certificates/Slice0/Obligations.lean ====
section
/-! DEFINITION. The statements for the provers. -/

open Sys2Proof Sys2Proof.Machine

/-- For every command c and state s whose queue begins with c, step at s is exec of c on s with the queue's rest; on an empty queue
a step is a package tick (the model's choice, log 2). Every command answers a next state, in every state and with every operand
(the model's choice, log 1), and while the package does not run one that is no pin event changes nothing (the model's choice,
log 33). R375, R377 and R419 are cited for the phases alone. (spec/19_startup.md R375, spec/19_startup.md R377,
spec/22_electrical.md R419) -/
def Obligations.StepRunsFrontCommand : Prop :=
  (∀ (c : Instr) (s : State) (rest : List Instr), s.pending = c :: rest → step s = exec c { s with pending := rest }) ∧
  (∀ s : State, s.pending = [] → step s = .next s.tick) ∧
  (∀ (c : Instr) (s : State), ∃ t, exec c s = .next t) ∧
  (∀ (c : Instr) (s : State), s.phase ≠ .up →
    c ∉ [Instr.pwrGoodRise, .strapSample, .pwrGoodFall, .packageReset, .pkgRstNRise, .hostRstN, .hostRstNRise] → exec c s = .next s)

/-- The item that a command hands out next goes to the lowest-numbered idle cell of its set, which holds that job and, when the CID
changes, cell memory of zeros; the command's next item rises by 1 and no other cell changes. At its start, with no L1 given up,
the core's pc is the entry and x10, x11, x12, x13 and x2 hold the values of R90, every other register 0, and every engine's
tickets 0. The time limit ends a running item with E_TIMEOUT. An ended item frees its cell, and its command learns its status.
The clauses that rest on log entries 1, 42 are the model's choice. (spec/05_cell.md R104, spec/05_cell.md R90, spec/05_cell.md
R95, spec/05_cell.md R98) -/
def Obligations.WorkItemLifecycle : Prop :=
  (∀ (s : State) (r : RingId) (seq : Word) (c : Cmd) (g : Nat), s.phase = .up → s.handsOut r seq = some c → c.opcode ≠ 2 →
      ((s.cellSet c).find? fun g => (s.cell g).idle) = some g →
      ∃ t, exec (.dispatchWorkItem r seq) s = .next t ∧ t.mem = s.mem ∧ (∀ h, h ≠ g → t.cell h = s.cell h) ∧
        (t.cell g).job = some { ring := c.ring, seq := c.seq, index := c.next, kind := if c.opcode = 3 then .piece else .item,
                                cid := c.cid, ended := none } ∧
        (c.opcode ≠ 3 → (s.cell g).lastCid ≠ some c.cid → ∀ a, tabGet zeroByte (t.cell g).mem a = 0) ∧
        ∃ d, t.cmd r seq = some d ∧ d.next = c.next + 1) ∧
  (∀ (s : State) (g : CellId) (j : Job) (c : Cmd), s.phase = .up → (s.cell g).job = some j → j.ended = none → j.kind = .item →
      (s.cell g).core.wait = .zeroing → s.cmd j.ring j.seq = some c → (s.cell g).part.l1 ≤ c.partition.l1 →
      ∃ t, exec (.workItemStart g) s = .next t ∧ (∀ h, h ≠ g.val → t.cell h = s.cell h) ∧ t.mem = s.mem ∧
        (t.cell g).core.pc = c.entry ∧ (t.cell g).core.wait = .running ∧ (t.cell g).part = c.partition ∧
        (∀ r : Nat, (t.cell g).core.get r =
          if r = 10 then BitVec.ofNat 64 j.index else if r = 11 then c.arg else if r = 12 then BitVec.ofNat 64 g.val
          else if r = 13 then 0xFFFFFFFFFFE00000
          else if r = 2 then BitVec.ofNat 64 (0xFFFFFFFFFFE00000 + (2097152 - c.partition.l1 - c.partition.bl)) else 0) ∧
        ∀ e : Engine, (t.cell g).tickets e = (0, 0)) ∧
  (∀ (s : State) (g : CellId) (j : Job), s.phase = .up → (s.cell g).job = some j → j.ended = none →
      (s.cell g).core.wait ≠ .zeroing → (s.cell g).core.wait ≠ .halted →
      ∃ t, exec (.workItemTimeout g j.index) s = .next t ∧ (t.cell g).job = some { j with ended := some stTimeout } ∧ t.mem = s.mem) ∧
  (∀ (s : State) (g : CellId) (j : Job) (st : Status), s.phase = .up → (s.cell g).job = some j → j.ended = some st →
      ∃ t, exec (.workItemEnd g j.index) s = .next t ∧ (t.cell g).job = none ∧ t.mem = s.mem ∧
        ∀ c, s.cmd j.ring j.seq = some c → t.cmd j.ring j.seq = some (Cmd.noteEnd c.soe c j.index st))

/-- After an instruction of n bytes retires with value v for rd: x0 reads 0, rd reads v unless it is x0, every other register reads
as before, the pc has moved on by n, and instret by 1. For a running item: after FENCE.I no parcel stored before it may be
stale, and it retires; an RV64IMC word on the core's registers writes its result to its destination unless that is x0, moves the
pc to the next instruction's address and counts in instret; a word that is a read of time, cycle or instret retires with that
counter's value; a word that another command of the table runs changes nothing here; any other ends the item with E_FORMAT, and
so does EBREAK without a debug unlock of scope bit 1; under one, EBREAK halts the core with its pc past the instruction and sets
its bit of DBG_HALT. Under such an unlock DBG_RESUME of one halted core's bit makes it run and clears its bit, and DBG_DATA
writes the register that DBG_SEL names of a halted core; without it neither changes anything. The clauses that rest on log
entries 1, 37, 42 are the model's choice. (spec/05_cell.md R88, spec/05_cell.md R91, spec/05_cell.md R431, spec/05_cell.md R95,
spec/05_cell.md R96, spec/05_cell.md R430, spec/17_security.md R361) -/
def Obligations.CoresRetireTrapAndHalt : Prop :=
  (
  ∀ (k : ControlCore) (rd n : Nat) (v : DWord),
    (∀ r : Nat, (k.retire rd v n).get r = if r = 0 then 0 else if r = rd then v else k.get r) ∧
    (k.retire rd v n).pc = k.pc + BitVec.ofNat 64 n ∧ (k.retire rd v n).instret = k.instret + 1 ∧
    (k.retire rd v n).wait = k.wait) ∧
  (
  (∀ (s : State) (g : CellId) (j : Job), s.phase = .up → s.coreRuns g j →
      (∃ t, exec (.fenceI g) s = .next t ∧ (t.cell g).core.fenced = s.older.length ∧ (t.cell g).core.pc = (s.cell g).core.pc + 4) ∧
      (∀ w : Word, (coreWordKind g w = .illegal → exec (.illegalInstruction ⟨g, w⟩) s = .next (s.endItem g stFormat)) ∧
        (coreWordKind g w = .ownRow → exec (.illegalInstruction ⟨g, w⟩) s = .next s) ∧
        (∀ (rd : Reg) (k : Zicntr), coreWordKind g w = .counter rd k →
          exec (.illegalInstruction ⟨g, w⟩) s = .next (s.retire g rd (s.zicntr g k))) ∧
        ∀ (i : RvInstr) (n : Nat), coreWordKind g w = .plain i n →
          exec (.illegalInstruction ⟨g, w⟩) s = .next (s.setCell g { s.cell g with core := (s.cell g).core.run i n }) ∧
          ∀ k : ControlCore, (k.run i n).get 0 = 0 ∧ (k.run i n).instret = k.instret + 1 ∧ (k.run i n).pc = (i.eval k n).2.2 ∧
            (∀ r : Nat, r ≠ 0 → (k.run i n).get r = if r = (i.eval k n).1 then (i.eval k n).2.1 else k.get r)) ∧
      (s.unlocked 1 = false → ∀ z, exec (.ebreak g z) s = .next (s.endItem g stFormat)) ∧
      (s.unlocked 1 = true → ∀ z, ∃ t, exec (.ebreak g z) s = .next t ∧ (t.cell g).core.wait = .halted ∧
        (t.cell g).core.pc = (s.cell g).core.pc + (if z then 2 else 4) ∧ (t.cell g).core.x = (s.cell g).core.x ∧
        (t.ochre (g.val / 64)).dbgHalt = (s.ochre (g.val / 64)).dbgHalt ||| ((1 : DWord) <<< (g.val % 64)))) ∧
  (∀ (s : State) (d : DieId) (v m : DWord), s.phase = .up →
      (s.unlocked 1 = false → exec (.dbgResume d m) s = .next s ∧ exec (.dbgDataWrite d v) s = .next s) ∧
      (s.unlocked 1 = true → (s.cell (s.dbgCell d)).core.wait = .halted →
        (s.dbgReg d < 32 → exec (.dbgDataWrite d v) s = .next (s.setCell (s.dbgCell d)
            { s.cell (s.dbgCell d) with core := (s.cell (s.dbgCell d)).core.set (s.dbgReg d) v })) ∧
        (s.dbgReg d = 32 → exec (.dbgDataWrite d v) s = .next (s.setCell (s.dbgCell d)
            { s.cell (s.dbgCell d) with core := { (s.cell (s.dbgCell d)).core with pc := v } }))) ∧
      (s.unlocked 1 = true → ∀ n : Fin 64, (s.cell (64 * d.val + n.val)).core.wait = .halted →
        ∃ t, exec (.dbgResume d ((1 : DWord) <<< n.val)) s = .next t ∧ (t.cell (64 * d.val + n.val)).core.wait = .running ∧
          (t.cell (64 * d.val + n.val)).core.pc = (s.cell (64 * d.val + n.val)).core.pc ∧
          (t.ochre d).dbgHalt.getLsbD n.val = false)))

/-- The word of every engine instruction decodes to it (an EFENCE of a scope up to 2). For a running item: an issue to a full queue
changes nothing; one that fails its checks ends the item with their status, for each of the four; one that passes them joins its
engine's queue, the ticket issued rises by 1 and rd takes it, and the core's pc moves on by 4. For EMAT this is said of a block
that expects no stream. The clauses that rest on log entries 1, 51, 52 are the model's choice. (spec/05_cell.md R91,
spec/05_cell.md R92, spec/05_cell.md R93) -/
def Obligations.EngineInstructionsIssue : Prop :=
  (∀ (i : Instr) (w : Word), customWord i = some w → (∀ g scope, i = .efence g scope → scope.toNat ≤ 2) → ∃ g, customInstr g w = some i) ∧
  ∀ (s : State) (g : CellId) (j : Job) (rd rs1 rs2 rs3 : Reg), s.phase = .up → s.coreRuns g j →
    (4 ≤ (s.cell g).matrix.queue.length → exec (.emat g rd rs1) s = .next s) ∧
    (16 ≤ (s.cell g).vec.queue.length → exec (.evec g rd rs1 rs2) s = .next s ∧ exec (.evec2 g rd rs1 rs2 rs3) s = .next s) ∧
    (32 ≤ (s.cell g).str.queue.length → exec (.estr g rd rs1) s = .next s) ∧
    ((s.cell g).matrix.queue.length < 4 →
      (s.blockCheck g ((s.cell g).core.get rs1).toNat j ≠ stOk →
        exec (.emat g rd rs1) s = .next (s.endItem g (s.blockCheck g ((s.cell g).core.get rs1).toNat j))) ∧
      (s.blockCheck g ((s.cell g).core.get rs1).toNat j = stOk →
        (MBlk.decode (BitVec.ofNat 1024 ((s.cell g).readNat ((s.cell g).core.get rs1).toNat 128))).sides = [] →
        ∃ t, exec (.emat g rd rs1) s = .next t ∧ (t.cell g).matrix.issued = (s.cell g).matrix.issued + 1 ∧
          (t.cell g).core = (s.cell g).core.retire rd (((s.cell g).matrix.issued + 1).setWidth 64) 4 ∧
          (t.cell g).matrix.queue.length = (s.cell g).matrix.queue.length + 1 ∧ t.mem = s.mem ∧ (t.cell g).mem = (s.cell g).mem)) ∧
    ((s.cell g).vec.queue.length < 16 →
      ((VWord.decode ((s.cell g).core.get rs1) ((s.cell g).core.get rs2) 0).check (s.cell g).limit ≠ stOk →
        exec (.evec g rd rs1 rs2) s = .next (s.endItem g
          ((VWord.decode ((s.cell g).core.get rs1) ((s.cell g).core.get rs2) 0).check (s.cell g).limit))) ∧
      ((VWord.decode ((s.cell g).core.get rs1) ((s.cell g).core.get rs2) ((s.cell g).core.get rs3)).check (s.cell g).limit ≠ stOk →
        exec (.evec2 g rd rs1 rs2 rs3) s = .next (s.endItem g
          ((VWord.decode ((s.cell g).core.get rs1) ((s.cell g).core.get rs2) ((s.cell g).core.get rs3)).check (s.cell g).limit))) ∧
      ((VWord.decode ((s.cell g).core.get rs1) ((s.cell g).core.get rs2) 0).check (s.cell g).limit = stOk →
        ∃ t, exec (.evec g rd rs1 rs2) s = .next t ∧
          (t.cell g).vec.queue = (s.cell g).vec.queue ++ [{ ticket := (s.cell g).vec.issued + 1, word := (s.cell g).core.get rs1,
                                                            rs2 := (s.cell g).core.get rs2, rs3 := 0, done := false }] ∧
          (t.cell g).core = (s.cell g).core.retire rd (((s.cell g).vec.issued + 1).setWidth 64) 4 ∧ t.mem = s.mem) ∧
      ((VWord.decode ((s.cell g).core.get rs1) ((s.cell g).core.get rs2) ((s.cell g).core.get rs3)).check (s.cell g).limit = stOk →
        ∃ t, exec (.evec2 g rd rs1 rs2 rs3) s = .next t ∧
          (t.cell g).vec.queue = (s.cell g).vec.queue ++ [{ ticket := (s.cell g).vec.issued + 1, word := (s.cell g).core.get rs1,
                                                            rs2 := (s.cell g).core.get rs2, rs3 := (s.cell g).core.get rs3,
                                                            done := false }] ∧
          (t.cell g).core = (s.cell g).core.retire rd (((s.cell g).vec.issued + 1).setWidth 64) 4 ∧ t.mem = s.mem)) ∧
    ((s.cell g).str.queue.length < 32 → (s.cell g).streamCheck ((s.cell g).core.get rs1).toNat ≠ stOk →
      exec (.estr g rd rs1) s = .next (s.endItem g ((s.cell g).streamCheck ((s.cell g).core.get rs1).toNat))) ∧
    ((s.cell g).str.queue.length < 32 → (s.cell g).streamCheck ((s.cell g).core.get rs1).toNat = stOk →
      ∃ t, exec (.estr g rd rs1) s = .next t ∧ (t.cell g).str.issued = (s.cell g).str.issued + 1 ∧
        (t.cell g).core = (s.cell g).core.retire rd (((s.cell g).str.issued + 1).setWidth 64) 4 ∧
        (t.cell g).str.queue.length = (s.cell g).str.queue.length + 1 ∧ t.mem = s.mem)

/-- For a running item: EWAIT on a completed ticket of the matrix engine retires with the last completed ticket, on an issued one
that is not complete changes nothing, and on one not issued ends the item with E_STATE. EWSO on an allowed sound object to which
the way is open retires with its value once it has reached the value, and changes nothing before. EFENCE of scope 0 retires once
the engines are idle. EDONE then ends the item with the status in rs1, once every write of the item is performed. ESIG on an
allowed object schedules the addition behind the tickets issued; the addition is made once those have completed and the cell
owes no access. ESIG and EWSO on an object of another CID end the item with E_ACCESS. The clauses that rest on log entries 1, 51
are the model's choice. (spec/05_cell.md R91, spec/05_cell.md R93, spec/05_cell.md R432, spec/13_commands.md R274) -/
def Obligations.EngineWaitsAndSignals : Prop :=
  ∀ (s : State) (g : CellId) (j : Job) (rd rs1 rs2 : Reg), s.phase = .up → s.coreRuns g j →
    (((s.cell g).core.get rs1).toNat = 0 →
      (reached32 (s.cell g).matrix.issued (((s.cell g).core.get rs2).setWidth 32) = false →
        exec (.ewait g rd rs1 rs2) s = .next (s.endItem g stState)) ∧
      (reached32 (s.cell g).matrix.issued (((s.cell g).core.get rs2).setWidth 32) = true →
        (reached32 (s.cell g).matrix.done (((s.cell g).core.get rs2).setWidth 32) = true →
          exec (.ewait g rd rs1 rs2) s = .next (s.retire g rd ((s.cell g).matrix.done.setWidth 64))) ∧
        (reached32 (s.cell g).matrix.done (((s.cell g).core.get rs2).setWidth 32) = false →
          exec (.ewait g rd rs1 rs2) s = .next s))) ∧
    (s.soAllowed j.cid (((s.cell g).core.get rs1).toNat % 65536) = true → s.soBroken (((s.cell g).core.get rs1).toNat % 65536) = false →
      s.soWay (g.val / 64) (((s.cell g).core.get rs1).toNat % 65536) = .clear →
      (reached64 (s.so (((s.cell g).core.get rs1).toNat % 65536)) ((s.cell g).core.get rs2) = true →
        exec (.ewso g rd rs1 rs2) s = .next (s.retire g rd (s.so (((s.cell g).core.get rs1).toNat % 65536)))) ∧
      (reached64 (s.so (((s.cell g).core.get rs1).toNat % 65536)) ((s.cell g).core.get rs2) = false →
        exec (.ewso g rd rs1 rs2) s = .next s)) ∧
    (s.soAllowed j.cid (((s.cell g).core.get rs1).toNat % 65536) = false →
      exec (.ewso g rd rs1 rs2) s = .next (s.endItem g stAccess) ∧ exec (.esig g rs1 rs2) s = .next (s.endItem g stAccess)) ∧
    ((s.cell g).enginesIdle = true → exec (.efence g 0) s = .next (s.retire g 0 0)) ∧
    ((s.cell g).enginesIdle = false → exec (.efence g 0) s = .next s ∧ exec (.edone g rs1) s = .next s) ∧
    ((s.cell g).enginesIdle = true → (s.cell g).esig = [] → s.itemOwed j.ring j.seq j.index = false →
      exec (.edone g rs1) s = .next (s.endItem g (((s.cell g).core.get rs1).setWidth 16))) ∧
    (s.soAllowed j.cid (((s.cell g).core.get rs1).toNat % 65536) = true →
      ∃ t, exec (.esig g rs1 rs2) s = .next t ∧ t.soVal = s.soVal ∧ (t.cell g).esig =
        (s.cell g).esig ++ [{ obj := ((s.cell g).core.get rs1).setWidth 16, val := (s.cell g).core.get rs2,
                              mat := (s.cell g).matrix.issued, vec := (s.cell g).vec.issued, str := (s.cell g).str.issued }]) ∧
    (∀ (a : EsigAdd) (rest : List EsigAdd), (s.cell g).esig = a :: rest → s.cellOwed g = false → s.soBroken a.obj.toNat = false →
      s.soWay (g.val / 64) a.obj.toNat = .clear →
      ((s.cell g).esigDue a = true →
        exec (.esigAddition g) s = .next ((s.setCell g { s.cell g with esig := rest }).setSo a.obj.toNat (s.so a.obj.toNat + a.val))) ∧
      ((s.cell g).esigDue a = false → exec (.esigAddition g) s = .next s))

/-- When the oldest queued block of a running item may start, its start values have its kind and it has one group,
MATRIX_BLOCK_START makes the bank non-empty and of its kind; each element (i, j) of its M × N tile becomes the start value plus
the block's products, narrowed as R54 says; the other bank, memory and cell memory keep their contents, and the block is then
accumulated, or done when it neither drains nor sends nor receives. That the narrowing is applied to the whole sum, and what an
EMPTY bank holds, are the choices of log entry 66; a free element is that of log entry 4. (spec/06_matrix_engine.md R116,
spec/06_matrix_engine.md R117, spec/06_matrix_engine.md R118, spec/03_exact_dot_product.md R54) -/
def Obligations.MatrixBlockAccumulates : Prop :=
  ∀ (s : State) (g : CellId) (j : Job) (i : Nat) (q : MatBlock), s.phase = .up → s.engineRuns g j →
    s.startable j (s.cell g).matrix = some i → (s.cell g).matrix.queue[i]? = some q →
    (s.cell g).kindsMatch q.dec (s.psetOf j q.dec) = true → q.dec.groups ≤ 1 → q.dec.n ≤ 128 →
    ∃ t, exec (.matrixBlockStart g) s = .next t ∧ t.mem = s.mem ∧ (t.cell g).mem = (s.cell g).mem ∧
      ((t.cell g).matrix.bank q.dec.bank).empty = false ∧
      ((t.cell g).matrix.bank q.dec.bank).int = q.dec.isInt (s.psetOf j q.dec) ∧
      (∀ r c : Nat, r < q.dec.m → c < q.dec.n →
        ((t.cell g).matrix.bank q.dec.bank).get r c = ((s.cell g).accElem q.dec (s.psetOf j q.dec) r c).1) ∧
      (t.cell g).matrix.bank (!q.dec.bank) = (s.cell g).matrix.bank (!q.dec.bank) ∧
      ((t.cell g).matrix.queue[i]?).map MatBlock.phase =
        some (if q.dec.dst = 0 ∧ q.dec.rxm = 0 then .done else .accumulated)

/-- For a block that may drain, whose landed streams have its bank's kind, MATRIX_DRAIN leaves in its bank the sums with those
streams and the other bank as it was. A block without an output is then done and writes nothing; one whose output is cell memory
writes each element of its tile at its line and place there and is done; one whose output is the drain queue puts its tile
behind the tiles there when there is room, and without room stalls and the queue keeps its tiles. A stalled block pushes its
tile once there is room, and nothing changes before. An engine's oldest instruction that has acted completes its ticket; where
none has, nothing changes. The clauses that rest on log entries 1, 42, 60, 66 are the model's choice. (spec/06_matrix_engine.md
R119, spec/06_matrix_engine.md R122, spec/05_cell.md R102, spec/05_cell.md R103, spec/05_cell.md R93) -/
def Obligations.MatrixDrainsIntoQueue : Prop :=
  (∀ (s : State) (g : CellId) (j : Job) (i : Nat) (q : MatBlock) (c : Cell) (p : Machine.PSet) (strict : Bool), s.phase = .up → s.engineRuns g j →
      (s.cell g).matrix.drainable = some i → (s.cell g).matrix.queue[i]? = some q → (s.cell g).landedKinds q.dec = true →
      p = s.psetOf j q.dec → strict = ((s.cmd j.ring j.seq).map Cmd.strict).getD false →
      c = { s.cell g with matrix := (s.cell g).matrix.setBank q.dec.bank ((s.cell g).addLanded q.dec).1 } →
      ∃ t, exec (.matrixDrain g) s = .next t ∧ t.mem = s.mem ∧ (∀ h, h ≠ g.val → t.cell h = s.cell h) ∧
        (t.cell g).matrix.bank q.dec.bank = ((s.cell g).addLanded q.dec).1 ∧
        (t.cell g).matrix.bank (!q.dec.bank) = (s.cell g).matrix.bank (!q.dec.bank) ∧
        (q.dec.dst ≠ 2 ∨ (s.cell g).queueRoom p.out = true → ((t.cell g).matrix.queue[i]?).map MatBlock.phase = some .done) ∧
        (q.dec.dst ≠ 1 → (t.cell g).mem = (s.cell g).mem) ∧ (q.dec.dst ≠ 2 → (t.cell g).dq = (s.cell g).dq) ∧
        (q.dec.dst = 1 → (t.cell g).mem = ((c.drainTile q.dec p strict).foldl (fun k x => k.write (q.dec.ooff +
            (if q.dec.lo then x.2.1 else x.1) * 32 * q.dec.ldo + (if q.dec.lo then x.1 else x.2.1) * (p.out.bits / 8)) x.2.2.1) c).mem) ∧
        (q.dec.dst = 2 → (s.cell g).queueRoom p.out = true →
          (t.cell g).dq = (s.cell g).dq ++ [{ fmt := p.fout, bytes := queueBytes q.dec p (c.drainTile q.dec p strict) }]) ∧
        (q.dec.dst = 2 → (s.cell g).queueRoom p.out = false →
          (t.cell g).dq = (s.cell g).dq ∧ ((t.cell g).matrix.queue[i]?).map MatBlock.phase = some .stalled)) ∧
  (∀ (s : State) (g : CellId) (j : Job) (i : Nat) (q : MatBlock), s.phase = .up → s.engineRuns g j →
      ((s.cell g).matrix.queue.findIdx? fun q => q.phase = .stalled) = some i → (s.cell g).matrix.queue[i]? = some q →
      ((s.cell g).queueRoom (s.psetOf j q.dec).out = false → exec (.drainQueuePush g) s = .next s) ∧
      ((s.cell g).queueRoom (s.psetOf j q.dec).out = true →
        ∃ t, exec (.drainQueuePush g) s = .next t ∧ t.mem = s.mem ∧ (∀ h, h ≠ g.val → t.cell h = s.cell h) ∧
          ((t.cell g).matrix.queue[i]?).map MatBlock.phase = some .done ∧
          (q.dec.dst = 2 → (t.cell g).mem = (s.cell g).mem ∧ (t.cell g).dq = (s.cell g).dq ++ [⟨(s.psetOf j q.dec).fout,
            queueBytes q.dec (s.psetOf j q.dec) ((s.cell g).drainTile q.dec (s.psetOf j q.dec)
              (((s.cmd j.ring j.seq).map Cmd.strict).getD false))⟩]))) ∧
  (∀ (s : State) (g : CellId) (j : Job), s.phase = .up → s.engineRuns g j →
      (∀ (q : MatBlock) (rest : List MatBlock), (s.cell g).matrix.queue = q :: rest →
        (q.phase = .done → exec (.matrixTicketComplete g .matrix) s =
          .next (s.setCell g { s.cell g with matrix := { (s.cell g).matrix with queue := rest, done := q.ticket } })) ∧
        (q.phase ≠ .done → exec (.matrixTicketComplete g .matrix) s = .next s)) ∧
      (∀ (q : VecInstr) (rest : List VecInstr), (s.cell g).vec.queue = q :: rest →
        (q.done = true → exec (.matrixTicketComplete g .vector) s =
          .next (s.setCell g { s.cell g with vec := { (s.cell g).vec with queue := rest, done := q.ticket } })) ∧
        (q.done = false → exec (.matrixTicketComplete g .vector) s = .next s)) ∧
      (∀ (q : StreamDesc) (rest : List StreamDesc), (s.cell g).str.queue = q :: rest →
        (q.done = true → exec (.matrixTicketComplete g .stream) s =
          .next (s.setCell g { s.cell g with str := { (s.cell g).str with queue := rest, done := q.ticket } })) ∧
        (q.done = false → exec (.matrixTicketComplete g .stream) s = .next s)) ∧
      ((s.cell g).matrix.queue = [] → exec (.matrixTicketComplete g .matrix) s = .next s) ∧
      ((s.cell g).vec.queue = [] → exec (.matrixTicketComplete g .vector) s = .next s) ∧
      ((s.cell g).str.queue = [] → exec (.matrixTicketComplete g .stream) s = .next s))

/-- A READY message under way takes a slot while fewer than eight are held and its way is open, and waits otherwise. A block that
sends, whose way is open and whose READY has come with the sender's CID, M and N, leaves with its bank's LONG containers toward
the neighbour and is done; with another CID the item ends with E_ACCESS, with another shape with E_FORMAT. While the way is held
nothing changes, and where no path is left the item ends with E_LINK. A stream that arrives for a queued block that expects it
sets the block's landed bit and writes its landing area; one that carries a failed comparison ends the item with its status. The
clauses that rest on log entries 1, 66 are the model's choice. (spec/06_matrix_engine.md R122, spec/06_matrix_engine.md R123,
spec/15_package_links.md R319, spec/15_package_links.md R323) -/
def Obligations.RawStreamsCrossSideLinks : Prop :=
  (∀ (s : State) (g : CellId) (h : Bool) (r : Ready) (rest : List Ready), s.phase = .up → (s.cell g).matrix.net h = r :: rest →
      (8 ≤ ((s.cell g).matrix.ready h).length → exec (.readyReceived g h) s = .next s) ∧
      (s.sideWay (sideCell g h) g ≠ .clear → exec (.readyReceived g h) s = .next s) ∧
      (((s.cell g).matrix.ready h).length < 8 → s.sideWay (sideCell g h) g = .clear → ∃ t, exec (.readyReceived g h) s = .next t ∧
        (t.cell g).matrix.net h = rest ∧ (t.cell g).matrix.ready h = (s.cell g).matrix.ready h ++ [r] ∧ t.mem = s.mem)) ∧
  (∀ (s : State) (g : CellId) (j : Job) (i : Nat) (r : Ready) (q : MatBlock), s.phase = .up → s.engineRuns g j →
      (s.cell g).matrix.sendable = some (i, r) → (s.cell g).matrix.queue[i]? = some q → sideCell g q.dec.peer ≠ g.val →
      (s.sideWay g (sideCell g q.dec.peer) = .stall → exec (.rawStreamSend g) s = .next s) ∧
      (s.sideWay g (sideCell g q.dec.peer) = .cut → exec (.rawStreamSend g) s = .next (s.endItem g stLink)) ∧
      (s.sideWay g (sideCell g q.dec.peer) = .clear →
      (r.cid = j.cid → r.m = q.dec.m → r.n = q.dec.n → ∃ t, exec (.rawStreamSend g) s = .next t ∧ t.mem = s.mem ∧
        ((t.cell g).matrix.queue[i]?).map MatBlock.phase = some .done ∧ (t.cell g).job = (s.cell g).job ∧
        { tag := r.tag, src := g.val, bytes := ((s.cell g).matrix.bank q.dec.bank).containers q.dec.m q.dec.n, bad := stOk } ∈
          (t.cell (sideCell g q.dec.peer)).matrix.rawLo ++ (t.cell (sideCell g q.dec.peer)).matrix.rawHi) ∧
      (r.cid ≠ j.cid → ∃ t, exec (.rawStreamSend g) s = .next t ∧ (t.cell g).job = some { j with ended := some stAccess }) ∧
      (r.cid = j.cid → (r.m ≠ q.dec.m ∨ r.n ≠ q.dec.n) →
        ∃ t, exec (.rawStreamSend g) s = .next t ∧ (t.cell g).job = some { j with ended := some stFormat }))) ∧
  (∀ (s : State) (g : CellId) (h : Bool) (j : Job) (x : RawStream) (rest : List RawStream) (i : Nat) (q : MatBlock), s.phase = .up →
      (s.cell g).job = some j → j.ended = none →
      (if h then (s.cell g).matrix.rawHi else (s.cell g).matrix.rawLo) = x :: rest →
      ((s.cell g).matrix.queue.findIdx? fun q =>
        q.dec.tag = x.tag.toNat && bitOf q.dec.rxm h.toNat && (q.landed &&& sideBit h) = 0) = some i →
      (s.cell g).matrix.queue[i]? = some q →
      (x.bad = stOk → s.sideWay x.src g ≠ .clear → exec (.rawStreamLanded g h) s = .next s) ∧
      (x.bad = stOk → s.sideWay x.src g = .clear → ∃ t, exec (.rawStreamLanded g h) s = .next t ∧ t.mem = s.mem ∧
        ((t.cell g).matrix.queue[i]?).map MatBlock.landed = some (q.landed ||| sideBit h) ∧
        ∀ k : Nat, tabGet zeroByte (t.cell g).mem k =
          if q.dec.landing h ≤ k ∧ k < q.dec.landing h + x.bytes.length then x.bytes.getD (k - q.dec.landing h) 0
          else tabGet zeroByte (s.cell g).mem k) ∧
      (x.bad ≠ stOk → ∃ t, exec (.rawStreamLanded g h) s = .next t ∧ (t.cell g).job = some { j with ended := some x.bad }))

/-- For the next instruction of a running item's vector engine: ADD, SUB, MUL, DIV, FMA, MAX and MIN take each element of S1 with
its B, SQRT, ABS and NEG each element of S1; the packed results, each rounded once in the class format, fill D; the
accumulators, the other bytes of the tile buffers, cell memory, memory, the job and the other cells keep their contents and the
next instruction moves up. SDIV and SMUL do so when every factor is positive and finite, and otherwise end the item with
E_FORMAT. For the next instruction of a running item's vector engine: CVT, QUANT and DEQUANT convert each element of S1 to the
destination format in the command's overflow mode, EXPV gives its alignment exponent code and FUNC the correctly rounded
function; the packed results fill D and nothing else of the buffers, accumulators, cell memory, memory and other cells changes.
The clauses that rest on log entries 13, 14, 52 are the model's choice. (spec/07_vector_engine.md R133, spec/07_vector_engine.md
R134, spec/07_vector_engine.md R136, spec/02_number_formats.md R50, spec/07_vector_engine.md R135, spec/07_vector_engine.md
R137, spec/02_number_formats.md R41, spec/02_number_formats.md R47, spec/04_sliced_precision.md R75) -/
def Obligations.VectorArithmeticAndConversions : Prop :=
  (
  ∀ (s : State) (g : CellId) (j : Job) (w : VWord), s.phase = .up → s.vecNext g j w →
    let two := fun f : Machine.Num → Machine.Num → Machine.Num => packRows w.cls w.m w.c ((w.pairs (s.cell g).vec).map fun p =>
      (w.cls.round .ieee (f p.1 p.2)).code)
    let one := fun f : Machine.Num → Machine.Num => packRows w.cls w.m w.c ((w.xs (s.cell g).vec).map fun x => (w.cls.round .ieee (f x)).code)
    (w.op = 0x10 → ∃ t, exec (.add g) s = .next t ∧ VecWrote s t g w.d (two Machine.Num.add)) ∧
    (w.op = 0x11 → ∃ t, exec (.sub g) s = .next t ∧ VecWrote s t g w.d (two fun x b => x.add b.neg)) ∧
    (w.op = 0x12 → ∃ t, exec (.mul g) s = .next t ∧ VecWrote s t g w.d (two Machine.Num.mul)) ∧
    (w.op = 0x13 → ∃ t, exec (.div g) s = .next t ∧ VecWrote s t g w.d (two Machine.Num.div)) ∧
    (w.op = 0x14 → ∃ t, exec (.fma g) s = .next t ∧ VecWrote s t g w.d (two fun x b => (x.mul b).add w.addend)) ∧
    (w.op = 0x15 → ∃ t, exec (.max g) s = .next t ∧ VecWrote s t g w.d (two Machine.Num.maxOf)) ∧
    (w.op = 0x16 → ∃ t, exec (.min g) s = .next t ∧ VecWrote s t g w.d (two Machine.Num.minOf)) ∧
    (w.op = 0x19 → ∃ t, exec (.sqrt g) s = .next t ∧ VecWrote s t g w.d (one Machine.Num.sqrt)) ∧
    (w.op = 0x1A → ∃ t, exec (.abs g) s = .next t ∧ VecWrote s t g w.d (one Machine.Num.abs)) ∧
    (w.op = 0x1B → ∃ t, exec (.neg g) s = .next t ∧ VecWrote s t g w.d (one Machine.Num.neg)) ∧
    ((w.factors (s.cell g).vec).all Machine.Num.isPosFinite = true →
      (w.op = 0x17 → ∃ t, exec (.sdiv g) s = .next t ∧ VecWrote s t g w.d (two Machine.Num.div)) ∧
      (w.op = 0x18 → ∃ t, exec (.smul g) s = .next t ∧ VecWrote s t g w.d (two Machine.Num.mul))) ∧
    ((w.factors (s.cell g).vec).all Machine.Num.isPosFinite = false →
      (w.op = 0x17 → exec (.sdiv g) s = .next (s.endItem g stFormat)) ∧
      (w.op = 0x18 → exec (.smul g) s = .next (s.endItem g stFormat)))) ∧
  (
  ∀ (s : State) (g : CellId) (j : Job) (w : VWord), s.phase = .up → s.vecNext g j w →
    let v := (s.cell g).vec
    let conv := fun f : Nat → Written => packRows w.dst w.m w.c ((v.codes w.s1 w.src w.m w.c).map fun x => (f x).code)
    (w.op = 0x04 → ∃ t, exec (.cvt g) s = .next t ∧ VecWrote s t g w.d (conv (convert w.src w.dst (s.modeOf j)))) ∧
    (w.op = 0x05 → ∃ t, exec (.quant g) s = .next t ∧
      VecWrote s t g w.d (conv fun x => quantise w.dst (s.modeOf j) (fp32 w.rs2) (signedOf 16 w.rs3) (w.src.value x))) ∧
    (w.op = 0x06 → ∃ t, exec (.dequant g) s = .next t ∧
      VecWrote s t g w.d (conv (dequantise w.src w.dst (s.modeOf j) (fp32 w.rs2) (signedOf 16 w.rs3)))) ∧
    (w.op = 0x08 → ∃ t, exec (.expv g) s = .next t ∧
      VecWrote s t g w.d ((w.xs v).flatMap fun x =>
        leBytes 2 (match alignExp [x] with | some e => (e % 65536).toNat | none => 0x7FFF))) ∧
    (0x40 ≤ w.op → w.op ≤ 0x5F → ∃ t, exec (.func g) s = .next t ∧
      VecWrote s t g w.d (packRows .fp32 w.m w.c ((w.xs v).map fun x => vectorFunction (w.op - 0x40) (fp32 w.rs2) x))))

/-- For the next instruction of a running item's vector engine: VLD fills D with the rows it reads from cell memory, the pad nibble
of a row of odd length as 0. VST stores row r of S1 at its place, so that each byte of a row that no later row covers reads as
S1's byte (its pad nibble as 0) and every byte outside the rows as before, and the tile buffers stay. POP of an empty queue
changes nothing while a drain will still come and otherwise ends the item with E_STATE; of a head of another format it ends the
item with E_FORMAT; otherwise the head leaves the queue and fills D. The clauses that rest on log entries 1, 43 are the model's
choice. (spec/07_vector_engine.md R133, spec/07_vector_engine.md R145, spec/02_number_formats.md R26, spec/05_cell.md R102,
spec/05_cell.md R103) -/
def Obligations.VectorMoves : Prop :=
  ∀ (s : State) (g : CellId) (j : Job) (w : VWord), s.phase = .up → s.vecNext g j w →
    let c := s.cell g
    let n := rowBytes w.src w.c
    (w.op = 0x01 → ∃ t, exec (.vld g) s = .next t ∧
      VecWrote s t g w.d ((List.range w.m).flatMap fun r => cleanRow w.src w.c (c.read (w.cellOff + r * w.cellStride) n))) ∧
    (w.op = 0x02 → ∃ t, exec (.vst g) s = .next t ∧ VecFrame s t g ∧ VecAccsKept s t g ∧ (t.cell g).vec.tb = c.vec.tb ∧
      (∀ r i : Nat, r < w.m → i < n →
        (∀ q, r < q → q < w.m → ¬ (w.cellOff + q * w.cellStride ≤ w.cellOff + r * w.cellStride + i ∧
            w.cellOff + r * w.cellStride + i < w.cellOff + q * w.cellStride + n)) →
        tabGet zeroByte (t.cell g).mem (w.cellOff + r * w.cellStride + i) =
          if w.src.bits = 4 ∧ w.c % 2 = 1 ∧ i + 1 = n then tabGet zeroByte c.vec.tb (65536 * w.s1 + (r * n + i)) &&& 0x0F
          else tabGet zeroByte c.vec.tb (65536 * w.s1 + (r * n + i))) ∧
      (∀ k : Nat, (∀ r, r < w.m → ¬ (w.cellOff + r * w.cellStride ≤ k ∧ k < w.cellOff + r * w.cellStride + n)) →
        tabGet zeroByte (t.cell g).mem k = tabGet zeroByte c.mem k)) ∧
    (w.op = 0x03 →
      (c.dq = [] → (c.matrix.queue.any fun q => q.dec.dst = 2 && q.phase ≠ .done) = true → exec (.pop g) s = .next s) ∧
      (c.dq = [] → (c.matrix.queue.any fun q => q.dec.dst = 2 && q.phase ≠ .done) = false →
        exec (.pop g) s = .next (s.endItem g stState)) ∧
      (∀ (x : QueueTile) (rest : List QueueTile), c.dq = x :: rest →
        (x.fmt ≠ w.f1 → exec (.pop g) s = .next (s.endItem g stFormat)) ∧
        (x.fmt = w.f1 → ∃ t, exec (.pop g) s = .next t ∧ (t.cell g).dq = rest ∧ VecWrote s t g w.d x.bytes)))

/-- For the next instruction of a running item's vector engine: with RSC 0 or 1, RSUM and RDOT write for each scope the exact sum of
its terms, rounded once, and leave the accumulator used, its flags and the counter as the last scope left them. With RSC 2 or 3
the accumulator used, the narrow one for RSUM of the FP32 class and the wide one otherwise, becomes the exact sum of what it
held (or 0 when ACC is 0) and of every term, when that fits it, its flags and the saturating term counter follow, and RSC 2
writes its rounding to D. RMAX, RMIN and RAMAX write the extremum of each scope and keep the accumulators; with RSC 3 they write
nothing. The clauses that rest on log entries 4, 52 and 66 (what is written of a sum beyond the accumulator's width) are the
model's choice. (spec/07_vector_engine.md R138, spec/07_vector_engine.md R139, spec/07_vector_engine.md R140,
spec/07_vector_engine.md R130) -/
def Obligations.VectorReductions : Prop :=
  ∀ (s : State) (g : CellId) (j : Job) (w : VWord), s.phase = .up → s.vecNext g j w →
    let v := (s.cell g).vec
    let sums := fun (q : Nat) (terms : List Machine.Num) => packRow w.dst ((w.scopes terms).map fun l =>
      (w.dst.round .ieee ((l.foldl (Sum.term q) Sum.clear).value q (satTerms l.length))).code)
    let total := fun (q : Nat) (now : Sum) (terms : List Machine.Num) => terms.foldl (Sum.term q) (if w.acc then now else Sum.clear)
    let count := fun (terms : List Machine.Num) => satTerms ((if w.acc then v.terms.toNat else 0) + terms.length)
    let ext := fun (f : Machine.Num → Machine.Num → Machine.Num) (h : Machine.Num → Machine.Num) =>
      if w.rsc = 3 then [] else packRow w.cls (((w.scopes ((w.xs v).map h)).map (extremum f)).map fun r => (w.cls.round .ieee r).code)
    let prods := (w.pairs v).map fun p => p.1.mul p.2
    let narrow : Sum := { v := v.narrow.toInt, f := v.nflags }
    let wide : Sum := { v := v.wide.toInt, f := v.wflags }
    let fits := fun (k : Nat) (a : Sum) => -(2 ^ k : Int) ≤ a.v ∧ a.v < 2 ^ k
    let narrowIs := fun (t : State) (a : Sum) => (fits 319 a → (t.cell g).vec.narrow.toInt = a.v) ∧ (t.cell g).vec.nflags = a.f ∧
      (t.cell g).vec.wide = v.wide ∧ (t.cell g).vec.wflags = v.wflags
    let wideIs := fun (t : State) (a : Sum) => (fits 4351 a → (t.cell g).vec.wide.toInt = a.v) ∧ (t.cell g).vec.wflags = a.f ∧
      (t.cell g).vec.narrow = v.narrow ∧ (t.cell g).vec.nflags = v.nflags
    let final := fun (q : Nat) (l : List Machine.Num) => l.foldl (Sum.term q) Sum.clear
    (w.op = 0x20 → w.rsc < 2 → ∃ t, exec (.rsum g) s = .next t ∧ VecFrame s t g ∧
      VecTile s t g w.d (sums (if w.wide then wideUnit else narrowUnit) (w.xs v)) ∧
      ∀ l, (w.scopes (w.xs v)).getLast? = some l → (t.cell g).vec.terms.toNat = satTerms l.length ∧
        (w.wide = false → narrowIs t (final narrowUnit l)) ∧ (w.wide = true → wideIs t (final wideUnit l))) ∧
    (w.op = 0x24 → w.rsc < 2 → ∃ t, exec (.rdot g) s = .next t ∧ VecFrame s t g ∧ VecTile s t g w.d (sums wideUnit prods) ∧
      ∀ l, (w.scopes prods).getLast? = some l → (t.cell g).vec.terms.toNat = satTerms l.length ∧ wideIs t (final wideUnit l)) ∧
    (w.op = 0x20 → 2 ≤ w.rsc → w.rsc < 4 → w.wide = false → ∃ t, exec (.rsum g) s = .next t ∧ VecFrame s t g ∧
      narrowIs t (total narrowUnit narrow (w.xs v)) ∧ (t.cell g).vec.terms.toNat = count (w.xs v) ∧
      VecTile s t g w.d (if w.rsc = 3 then [] else packRow w.dst
        [(w.dst.round .ieee ((total narrowUnit narrow (w.xs v)).value narrowUnit (count (w.xs v)))).code])) ∧
    (w.op = 0x20 → 2 ≤ w.rsc → w.rsc < 4 → w.wide = true → ∃ t, exec (.rsum g) s = .next t ∧ VecFrame s t g ∧
      wideIs t (total wideUnit wide (w.xs v)) ∧ (t.cell g).vec.terms.toNat = count (w.xs v) ∧
      VecTile s t g w.d (if w.rsc = 3 then [] else packRow w.dst
        [(w.dst.round .ieee ((total wideUnit wide (w.xs v)).value wideUnit (count (w.xs v)))).code])) ∧
    (w.op = 0x24 → 2 ≤ w.rsc → w.rsc < 4 → ∃ t, exec (.rdot g) s = .next t ∧ VecFrame s t g ∧
      wideIs t (total wideUnit wide prods) ∧ (t.cell g).vec.terms.toNat = count prods ∧
      VecTile s t g w.d (if w.rsc = 3 then [] else packRow w.dst
        [(w.dst.round .ieee ((total wideUnit wide prods).value wideUnit (count prods))).code])) ∧
    (w.op = 0x21 → ∃ t, exec (.rmax g) s = .next t ∧ VecWrote s t g w.d (ext Machine.Num.maxOf id)) ∧
    (w.op = 0x22 → ∃ t, exec (.rmin g) s = .next t ∧ VecWrote s t g w.d (ext Machine.Num.minOf id)) ∧
    (w.op = 0x23 → ∃ t, exec (.ramax g) s = .next t ∧ VecWrote s t g w.d (ext Machine.Num.maxOf Machine.Num.abs))

/-- For the next instruction of a running item's vector engine: RSTAT with RSC 0 writes mean and reciprocal standard deviation of
each row, where their sums give them; with RSC 2 or 3 its accumulators become the exact sums of the terms and of their squares,
with what they held when ACC is set, its flags and counter follow, and RSC 2 writes the pair. RXS writes the 640-byte record,
whose fields hold the narrow and wide accumulators, the flags and the counter. RXA adds the record's sums exactly where they
fit, ORs its flags and adds its count, saturating. SLICE with exponents that fail the check of R78 ends the item with E_FORMAT
and writes nothing; otherwise it writes its parts to cell memory and changes no tile buffer and no accumulator. The clauses that
rest on log entries 52 and 66 (the parts' pads) are the model's choice. (spec/07_vector_engine.md R142, spec/07_vector_engine.md
R143, spec/07_vector_engine.md R144, spec/04_sliced_precision.md R78) -/
def Obligations.VectorExactState : Prop :=
  ∀ (s : State) (g : CellId) (j : Job) (w : VWord), s.phase = .up → s.vecNext g j w →
    let v := (s.cell g).vec
    let narrow : Sum := { v := v.narrow.toInt, f := v.nflags }
    let wide : Sum := { v := v.wide.toInt, f := v.wflags }
    let squares := (w.xs v).map fun x => x.mul x
    let total := fun (q : Nat) (now : Sum) (terms : List Machine.Num) => terms.foldl (Sum.term q) (if w.acc then now else Sum.clear)
    let stat := fun (l : List Machine.Num) (x y : Sum) (n : Nat) => statPair (l.foldl (Sum.term narrowUnit) x)
      (l.foldl (fun a x => Sum.term wideUnit a (x.mul x)) y) (satTerms n) (fp32 w.rs2)
    let whole := fun (l : List Machine.Num) => if w.acc then stat l narrow wide (v.terms.toNat + l.length) else
      stat l Sum.clear Sum.clear l.length
    (w.op = 0x25 → w.rsc = 0 → ∃ t, exec (.rstat g) s = .next t ∧ VecFrame s t g ∧
        ((∀ l ∈ w.scopes (w.xs v), (stat l Sum.clear Sum.clear l.length).2.isSome = true) →
          VecTile s t g w.d (packRow .fp32 ((w.scopes (w.xs v)).flatMap fun l =>
            [toFp32 (stat l Sum.clear Sum.clear l.length).1, ((stat l Sum.clear Sum.clear l.length).2.map toFp32).getD 0])))) ∧
    (w.op = 0x25 → 2 ≤ w.rsc → w.rsc < 4 → ∃ t, exec (.rstat g) s = .next t ∧ VecFrame s t g ∧
        (-(2 ^ 319 : Int) ≤ (total narrowUnit narrow (w.xs v)).v → (total narrowUnit narrow (w.xs v)).v < 2 ^ 319 →
          (t.cell g).vec.narrow.toInt = (total narrowUnit narrow (w.xs v)).v) ∧
        (-(2 ^ 4351 : Int) ≤ (total wideUnit wide squares).v → (total wideUnit wide squares).v < 2 ^ 4351 →
          (t.cell g).vec.wide.toInt = (total wideUnit wide squares).v) ∧
        (t.cell g).vec.nflags = (total narrowUnit narrow (w.xs v)).f ∧ (t.cell g).vec.wflags = (total wideUnit wide squares).f ∧
        (t.cell g).vec.terms.toNat = satTerms ((if w.acc then v.terms.toNat else 0) + (w.xs v).length) ∧
        (w.rsc = 3 → VecTile s t g w.d []) ∧
        (∀ d : Machine.Num, w.rsc = 2 → (whole (w.xs v)).2 = some d →
          VecTile s t g w.d (packRow .fp32 [toFp32 (whole (w.xs v)).1, toFp32 d]))) ∧
    (w.op = 0x26 → ∃ (t : State) (r : List Byte), exec (.rxs g) s = .next t ∧ VecWrote s t g w.d r ∧ r.length = 640 ∧
      field r 0 40 = v.narrow.toNat ∧ byteAt r 40 = v.nflags.byte ∧ field r 41 7 = 0 ∧ field r 48 544 = v.wide.toNat ∧
      byteAt r 592 = v.wflags.byte ∧ field r 596 4 = v.terms.toNat ∧ field r 600 40 = 0) ∧
    (w.op = 0x27 → ∃ t, exec (.rxa g) s = .next t ∧ VecFrame s t g ∧ (t.cell g).vec.tb = v.tb ∧ (t.cell g).mem = (s.cell g).mem ∧
      (∀ n : BitVec 320, n = BitVec.ofNat 320 (field (v.bytes w.s1 640) 0 40) → -(2 ^ 319 : Int) ≤ v.narrow.toInt + n.toInt →
        v.narrow.toInt + n.toInt < 2 ^ 319 → (t.cell g).vec.narrow.toInt = v.narrow.toInt + n.toInt) ∧
      (∀ n : BitVec 4352, n = BitVec.ofNat 4352 (field (v.bytes w.s1 640) 48 544) → -(2 ^ 4351 : Int) ≤ v.wide.toInt + n.toInt →
        v.wide.toInt + n.toInt < 2 ^ 4351 → (t.cell g).vec.wide.toInt = v.wide.toInt + n.toInt) ∧
      (t.cell g).vec.nflags = v.nflags.orByte (byteAt (v.bytes w.s1 640) 40) ∧
      (t.cell g).vec.wflags = v.wflags.orByte (byteAt (v.bytes w.s1 640) 592) ∧
      (t.cell g).vec.terms.toNat = min (v.terms.toNat + field (v.bytes w.s1 640) 596 4) (2 ^ 32 - 1)) ∧
    (w.op = 0x07 →
      ((w.given && !(List.range w.vecs).all fun i => givenOk ((s.cell g).givenExp w i) (w.vector (w.xs v) i)) = true →
        exec (.slice g) s = .next (s.endItem g stFormat)) ∧
      ((w.given && !(List.range w.vecs).all fun i => givenOk ((s.cell g).givenExp w i) (w.vector (w.xs v) i)) = false →
        ∃ t, exec (.slice g) s = .next t ∧ VecFrame s t g ∧ VecAccsKept s t g ∧ (t.cell g).vec.tb = v.tb ∧
          (t.cell g).mem = (((s.cell g).sliceParts w (w.xs v)).foldl (fun c p => c.write p.1 p.2) (s.cell g)).mem))

/-- For a thread that can issue a well-formed word whose predicate holds, naming an object of its CID that is not uncorrectable and
to which the way is open: SOADD adds its value to that object alone once the thread owes no remote access, and waits while it
does, SOREAD and a SOWAIT whose value is reached return the object's value, and SOWAIT then drops the cell's L1; a SOWAIT not
reached changes nothing. An object of another CID ends the block with E_ACCESS. TFENCE moves the thread on, and with acquire at
scope SYSTEM drops the L1. For each thread instruction with a 64-bit word but the group matrix ones: where the predicate does
not hold for the thread, its pc moves on by 8 and nothing else of threads, cell memory, memory or other cells changes; where it
holds, a word that the encoding does not allow (a field that is not named and not 0, a reserved value, a register that the
kernel does not have, an odd pair) ends the block with E_FORMAT. The word that names another operation does nothing. The clauses
that rest on log entries 1, 41, 51 are the model's choice. (spec/09_thread_groups.md R181, spec/09_thread_groups.md R179,
spec/12_memory_model.md R247, spec/09_thread_groups.md R184, spec/09_thread_groups.md R166) -/
def Obligations.ThreadsSignalFenceOrGoOn : Prop :=
  (
  ∀ (s : State) (g : CellId) (b t : Nat) (w : DWord) (x : Block) (y : Thread), s.phase = .up → s.threadRuns g b t x y →
    let d := TWord.decode w
    let o := (y.get d.sa1).toNat % 2 ^ 16
    d.holds y = true →
    (d.opc = 0xD0 → d.fieldsOk false true true false 0 = true → d.sa1 < x.rq → pairOk x.rq d.sa2 = true →
      (s.soAllowed x.cid o = false → ∃ u, exec (.soadd g b t w) s = .next u ∧ BlockEnds s u g b stAccess ∧ u.soVal = s.soVal) ∧
      (s.soAllowed x.cid o = true → s.soBroken o = false → s.soWay (g.val / 64) o = .clear →
        (s.threadOwed g t x = true → exec (.soadd g b t w) s = .next s) ∧
        (s.threadOwed g t x = false → ∃ u, exec (.soadd g b t w) s = .next u ∧ ThreadBecomes s u g b t y.step ∧
          u.so o = s.so o + y.get64 d.sa2 ∧ ∀ q : Nat, q ≠ o → u.so q = s.so q))) ∧
    (d.opc = 0xD1 → d.fieldsOk true true true false 0 = true → d.sa1 < x.rq → pairOk x.rq d.sa2 = true → pairOk x.rq d.dst = true →
      (s.soAllowed x.cid o = false → ∃ u, exec (.sowait g b t w) s = .next u ∧ BlockEnds s u g b stAccess) ∧
      (s.soAllowed x.cid o = true → s.soBroken o = false → s.soWay (g.val / 64) o = .clear →
        (reached64 (s.so o) (y.get64 d.sa2) = true → ∃ u, exec (.sowait g b t w) s = .next u ∧
          ThreadBecomes s u g b t (y.set64 d.dst (s.so o)).step ∧ (u.cell g).l1 = [] ∧ u.soVal = s.soVal) ∧
        (reached64 (s.so o) (y.get64 d.sa2) = false → exec (.sowait g b t w) s = .next s))) ∧
    (d.opc = 0xD2 → d.fieldsOk true true false false 0 = true → d.sa1 < x.rq → pairOk x.rq d.dst = true →
      (s.soAllowed x.cid o = false → ∃ u, exec (.soread g b t w) s = .next u ∧ BlockEnds s u g b stAccess) ∧
      (s.soAllowed x.cid o = true → s.soBroken o = false → s.soWay (g.val / 64) o = .clear → ∃ u, exec (.soread g b t w) s = .next u ∧
        ThreadBecomes s u g b t (y.set64 d.dst (s.so o)).step ∧ u.soVal = s.soVal ∧ (u.cell g).l1 = (s.cell g).l1)) ∧
    (d.opc = 0xD8 → d.fieldsOk false false false false 4 = true → d.fn % 4 ≠ 3 → s.threadOwed g t x = false →
      ∃ u, exec (.tfence g b t w) s = .next u ∧ ThreadBecomes s u g b t y.step ∧ u.soVal = s.soVal ∧
        (u.cell g).l1 = if d.fn % 4 = 2 ∧ bitOf d.fn 3 = true then [] else (s.cell g).l1)) ∧
  (
  ∀ (s : State) (g : CellId) (b t : Nat) (w : DWord) (x : Block) (y : Thread), s.phase = .up → s.threadRuns g b t x y →
    let d := TWord.decode w
    let r := fun n : Nat => decide (n < x.rq)
    let pair := pairOk x.rq
    let value := fun n : Nat => if bitOf d.fn 4 then pair n else r n
    let cas := decide (d.fn % 16 = 9)
    let atomic := d.fieldsOk true true true cas 5 && decide (d.fn % 16 < 10) && value d.dst && value d.sa2 && (!cas || value d.sa3)
    ∀ p ∈ ([(0xC8, .bar g b t w, d.fieldsOk false false false false 4),
            (0xC9, .gsync g b t w, d.fieldsOk false true false false 0 && r d.sa1),
            (0xCA, .gvote g b t w, d.fieldsOk true true false false 5 && r d.sa1 && r d.dst && decide (d.fn % 8 ≠ 7) && decide (d.fn / 8 ≠ 3)),
            (0xCB, .gshfl g b t w, d.fieldsOk true true true true 0 && r d.dst && r d.sa1 && r d.sa2 && r d.sa3),
            (0xD0, .soadd g b t w, d.fieldsOk false true true false 0 && r d.sa1 && pair d.sa2),
            (0xD1, .sowait g b t w, d.fieldsOk true true true false 0 && pair d.dst && r d.sa1 && pair d.sa2),
            (0xD2, .soread g b t w, d.fieldsOk true true false false 0 && pair d.dst && r d.sa1),
            (0xD8, .tfence g b t w, d.fieldsOk false false false false 4 && decide (d.fn % 4 ≠ 3)),
            (0xD9, .atomg g b t w, atomic && pair d.sa1), (0xDA, .atomb g b t w, atomic && r d.sa1),
            (0xDB, .exit g b t w, d.fieldsOk false false false false 0)] : List (Nat × Instr × Bool)),
      (d.opc ≠ p.1 → exec p.2.1 s = .next s) ∧
      (d.opc = p.1 → d.holds y = false → ∃ u, exec p.2.1 s = .next u ∧ ThreadBecomes s u g b t y.step) ∧
      (d.opc = p.1 → d.holds y = true → p.2.2 = false → ∃ u, exec p.2.1 s = .next u ∧ BlockEnds s u g b stFormat))

/-- For a thread that can issue a well-formed word whose predicate holds: BAR n waits while some other thread has neither ended nor
reached barrier n; otherwise the thread and every thread that waits there pass the barrier. EXIT ends the thread; when every
other thread has ended the block ends with OK, while one of them still runs the block goes on, and when a thread of its group
waits at a group matrix instruction the block ends with E_GROUP_INCOMPLETE. The clauses that rest on log entry 41 are the
model's choice. (spec/09_thread_groups.md R171, spec/09_thread_groups.md R166, spec/09_thread_groups.md R173) -/
def Obligations.ThreadsBarrierAndExit : Prop :=
  ∀ (s : State) (g : CellId) (b t : Nat) (w : DWord) (x : Block) (y : Thread), s.phase = .up → s.threadRuns g b t x y →
    let d := TWord.decode w
    d.holds y = true →
    (d.opc = 0xC8 → d.fieldsOk false false false false 4 = true →
      ((∃ (v : Nat) (z : Thread), v ≠ t ∧ x.threads[v]? = some z ∧ z.ended = false ∧ z.wait ≠ .bar d.fn) →
        ∃ u, exec (.bar g b t w) s = .next u ∧ ThreadBecomes s u g b t { y with wait := .bar d.fn }) ∧
      ((∀ (v : Nat) (z : Thread), v ≠ t → x.threads[v]? = some z → z.ended = true ∨ z.wait = .bar d.fn) →
        ∃ u, exec (.bar g b t w) s = .next u ∧ BlockFrame s u g b ∧ (u.cell g).mem = (s.cell g).mem ∧
          ∀ (v : Nat) (z : Thread), x.threads[v]? = some z →
            u.threadAt g b v = some (if v = t ∨ z.wait = .bar d.fn then z.step else z))) ∧
    (d.opc = 0xDB → d.fieldsOk false false false false 0 = true →
      ((∀ (v : Nat) (z : Thread), v ≠ t → x.threads[v]? = some z → z.ended = true ∧ z.wait = .none) →
        ∃ u, exec (.exit g b t w) s = .next u ∧ BlockEnds s u g b stOk) ∧
      ((∀ (v : Nat) (z : Thread), v ≠ t → x.threads[v]? = some z → z.wait = .none) →
        (∃ (v : Nat) (z : Thread), v ≠ t ∧ x.threads[v]? = some z ∧ z.ended = false) →
        ∃ u, exec (.exit g b t w) s = .next u ∧ ThreadBecomes s u g b t { y with ended := true }) ∧
      ((∃ (v : Nat) (z : Thread), v ≠ t ∧ v / 32 = t / 32 ∧ x.threads[v]? = some z ∧ z.atMatrix = true) →
        ∃ u, exec (.exit g b t w) s = .next u ∧ BlockEnds s u g b stGroupIncomplete))

/-- For a thread that can issue a well-formed word whose predicate holds, with a member mask that names it: while a named thread has
not arrived and none has ended or waits elsewhere, the thread waits. Once every other named thread of the group waits at the
same address with the same mask, and no thread outside the mask waits in a group-wide instruction, all of them pass: GVOTE gives
each the vote over their predicates and GSHFL the register of the lane each names, or its own when that lane is no member. A
named thread that has ended ends the block with E_GROUP_INCOMPLETE; where none of the group has, one that waits at another
group-wide instruction, or with another mask, ends it with E_GROUP_MISMATCH. Each of these is said of all three instructions.
E_GROUP_STALL ends a block whose group waits at a group-wide or a group matrix instruction, and changes nothing otherwise. The
clauses that rest on log entries 1, 36, 41 are the model's choice. (spec/09_thread_groups.md R172, spec/09_thread_groups.md
R173, spec/09_thread_groups.md R184) -/
def Obligations.GroupWideExchange : Prop :=
  (∀ (s : State) (g : CellId) (b t : Nat) (w : DWord) (x : Block) (y : Thread), s.phase = .up → s.threadRuns g b t x y →
    let d := TWord.decode w
    let m := y.get d.sa1
    let others := fun p : Thread → Prop => ∀ (v : Nat) (z : Thread), v ≠ t → v / 32 = t / 32 → x.threads[v]? = some z → named m v = true → p z
    let arrived := others (fun z => z.ended = false ∧ z.wide = some (y.pc, m)) ∧
      ∀ (v : Nat) (z : Thread), v ≠ t → v / 32 = t / 32 → x.threads[v]? = some z → named m v = false → z.wide = none
    let all := (x.members (t / 32)).filter fun v => named m v.1
    let passes := fun (u : State) (f : Thread → Thread) => BlockFrame s u g b ∧ (u.cell g).mem = (s.cell g).mem ∧
      ∀ (v : Nat) (z : Thread), x.threads[v]? = some z →
        u.threadAt g b v = some (if v / 32 = t / 32 ∧ named m v = true then (f z).step else z)
    let meets := fun (i : Instr) (f : Thread → Thread) =>
      (arrived → ∃ u, exec i s = .next u ∧ passes u f) ∧
      (others (fun z => z.ended = false) → (∀ (v : Nat) (z : Thread), v ≠ t → v / 32 = t / 32 → x.threads[v]? = some z → z.wide = none) →
        (∃ (v : Nat) (z : Thread), v ≠ t ∧ v / 32 = t / 32 ∧ x.threads[v]? = some z ∧ named m v = true) →
        ∃ u, exec i s = .next u ∧ ThreadBecomes s u g b t { y with wait := .groupWide w m }) ∧
      ((∃ (v : Nat) (z : Thread), v ≠ t ∧ v / 32 = t / 32 ∧ x.threads[v]? = some z ∧ named m v = true ∧ z.ended = true) →
        ∃ u, exec i s = .next u ∧ BlockFrame s u g b ∧ u.blockEnded g b = some stGroupIncomplete) ∧
      ((∀ (v : Nat) (z : Thread), v / 32 = t / 32 → x.threads[v]? = some z → z.ended = false) →
        (∃ (v : Nat) (z : Thread) (k : DWord × Word), v ≠ t ∧ v / 32 = t / 32 ∧ x.threads[v]? = some z ∧ named m v = true ∧
          z.wide = some k ∧ k ≠ (y.pc, m)) →
        ∃ u, exec i s = .next u ∧ BlockFrame s u g b ∧ u.blockEnded g b = some stGroupMismatch)
    d.holds y = true → named m t = true → d.sa1 < x.rq →
    (d.opc = 0xC9 → d.fieldsOk false true false false 0 = true → meets (.gsync g b t w) id) ∧
    (d.opc = 0xCA → d.fieldsOk true true false false 5 = true → d.dst < x.rq → d.fn % 8 ≠ 7 → d.fn / 8 ≠ 3 →
      meets (.gvote g b t w) fun z => z.set d.dst (voteOf (d.fn / 8) (d.fn % 8) all)) ∧
    (d.opc = 0xCB → d.fieldsOk true true true true 0 = true → d.dst < x.rq → d.sa2 < x.rq → d.sa3 < x.rq →
      meets (.gshfl g b t w) fun z => z.set d.dst (shuffled d all z))) ∧
  (∀ (s : State) (g : CellId) (b grp : Nat) (x : Block), s.phase = .up → (s.cell g).blocks[b]? = some x →
    ((∀ v ∈ x.members grp, v.2.wide = none ∧ v.2.atMatrix = false) → exec (.eGroupStall g b grp) s = .next s) ∧
    ((∃ v ∈ x.members grp, v.2.wide ≠ none ∨ v.2.atMatrix = true) → x.ended = none →
      ∃ u, exec (.eGroupStall g b grp) s = .next u ∧ BlockEnds s u g b stGroupStall))

/-- A thread that arrives first waits. With the last arrival of a whole group at the same word: GMMA of formats and registers that
R174 allows leaves in each element (i, j) of the destination tile the element before (or 0) plus the exact product, narrowed as
R54 says; GMLD fills the tile or fragment from block-local memory; GDRAIN writes each element's bytes there; every thread of the
group moves on by 8. A GMLD whose tile leaves the block's memory ends the block with E_RANGE, a group that is not whole, or of
which a thread has ended, with E_GROUP_INCOMPLETE, and an arrival at another group matrix instruction than the one where a
thread of the group waits with E_GROUP_MISMATCH. The clauses that rest on log entries 24, 36, 66 (the narrowing of the whole
sum) are the model's choice. (spec/09_thread_groups.md R173, spec/09_thread_groups.md R174, spec/09_thread_groups.md R175,
spec/09_thread_groups.md R176, spec/03_exact_dot_product.md R54) -/
def Obligations.GroupMatrixInstructions : Prop :=
  ∀ (s : State) (g : CellId) (b t : Nat) (w : DWord) (x : Block) (y : Thread), s.phase = .up → s.threadRuns g b t x y →
    let d := TWord.decode w
    let c := s.cell g
    let off1 := (x.lane t 0 d.sa1).toNat
    let ld1 := (x.lane t 0 d.sa2).toNat
    let passes := fun u : State => BlockFrame s u g b ∧ u.blockEnded g b = none ∧
      ∀ (v : Nat) (z : Thread), v / 32 = t / 32 → x.threads[v]? = some z →
        ∃ z', u.threadAt g b v = some z' ∧ z'.pc = z.pc + 8 ∧ z'.wait = .none ∧ z'.ended = false
    d.pred = 7 →
    (∀ p ∈ ([(0xC0, .gmma g b t w), (0xC1, .gmld g b t w), (0xC2, .gdrain g b t w)] : List (Nat × Instr)), d.opc = p.1 →
      ((x.members (t / 32)).length < 32 ∨ (∃ v ∈ x.members (t / 32), v.2.ended = true) →
        ∃ u, exec p.2 s = .next u ∧ BlockEnds s u g b stGroupIncomplete) ∧
      ((x.members (t / 32)).length = 32 → (∀ v ∈ x.members (t / 32), v.2.ended = false) →
        (∃ v ∈ x.members (t / 32), ∃ k : DWord, v.2.wait = .groupMatrix k ∧ (v.2.pc ≠ y.pc ∨ k ≠ w)) →
        ∃ u, exec p.2 s = .next u ∧ BlockEnds s u g b stGroupMismatch)) ∧
    ((x.members (t / 32)).length = 32 → (∀ v ∈ x.members (t / 32), v.2.ended = false ∧ (v.1 ≠ t → v.2.wait = .none)) → d.opc = 0xC0 →
      ∃ u, exec (.gmma g b t w) s = .next u ∧ ThreadBecomes s u g b t { y with wait := .groupMatrix w }) ∧
    (x.groupArrived t w y.pc →
      (∀ p : Machine.PSet, s.blockPset x (d.fn % 64) = some p → d.opc = 0xC0 → d.fieldsOk true true true false 7 = true →
        p.fa ∈ [0, 1, 5, 6] → p.fb ∈ [0, 1, 5, 6] → baseOk x.rq d.dst 32 = true → baseOk x.rq d.sa1 4 = true → baseOk x.rq d.sa2 4 = true →
        overlap d.sa1 4 d.dst 32 = false → overlap d.sa2 4 d.dst 32 = false →
        (bitOf d.fn 6 = true ∨ ∀ i j : Nat, i < 16 → j < 16 → longKind (x.accOf t d.dst i j) = !p.fmtA.isFloat) →
        ∃ u, exec (.gmma g b t w) s = .next u ∧ passes u ∧ (u.cell g).mem = c.mem ∧
          ∀ i j : Nat, i < 16 → j < 16 → ∃ x', (u.cell g).blocks[b]? = some x' ∧
            x'.accOf t d.dst i j =
              let e : Elem := if bitOf d.fn 6 then { a := 0, nan := false } else Elem.ofNat (x.accOf t d.dst i j)
              (Elem.ofSum (e.nan || (x.fragSum t p d.sa1 d.sa2 i j).2) (e.a.toInt + (x.fragSum t p d.sa1 d.sa2 i j).1)).1.toNat
                (!p.fmtA.isFloat)) ∧
      (d.opc = 0xC1 → d.fieldsOk true true true false 3 = true → d.sa1 < x.rq → d.sa2 < x.rq → ldOk ld1 = true →
        (d.fn % 4 = 2 → baseOk x.rq d.dst 32 = true →
          (tileStop off1 ld1 16 16 16 (bitOf d.fn 2) ≤ 1024 * x.lkib →
            ∃ u, exec (.gmld g b t w) s = .next u ∧ passes u ∧ (u.cell g).mem = c.mem ∧
              ∀ i j : Nat, i < 16 → j < 16 → ∃ x', (u.cell g).blocks[b]? = some x' ∧
                x'.accOf t d.dst i j = c.readNat (x.base + tileAt off1 ld1 16 i j (bitOf d.fn 2)) 16) ∧
          (1024 * x.lkib < tileStop off1 ld1 16 16 16 (bitOf d.fn 2) →
            ∃ u, exec (.gmld g b t w) s = .next u ∧ u.blockEnded g b = some stRange ∧ (u.cell g).mem = c.mem)) ∧
        (d.fn % 4 < 2 → baseOk x.rq d.dst 4 = true →
          tileStop off1 ld1 1 (if d.fn % 4 = 0 then 16 else 32) (if d.fn % 4 = 0 then 32 else 16) (bitOf d.fn 2) ≤ 1024 * x.lkib →
          ∃ u, exec (.gmld g b t w) s = .next u ∧ passes u ∧ (u.cell g).mem = c.mem ∧
            ∀ l m : Nat, l < 32 → m < 4 → ∃ x', (u.cell g).blocks[b]? = some x' ∧
              x'.lane t l (d.dst + m) = c.fragReg x.base off1 ld1 l m (d.fn % 4 = 1) (bitOf d.fn 2))) ∧
      (∀ p : Machine.PSet, s.blockPset x (d.fn % 64) = some p → d.opc = 0xC2 → d.fieldsOk false true true true 7 = true →
        baseOk x.rq d.sa1 32 = true → d.sa2 < x.rq → d.sa3 < x.rq → ldOk (x.lane t 0 d.sa3).toNat = true → p.bmode = 0 → p.amode < 2 →
        tileStop (x.lane t 0 d.sa2).toNat (x.lane t 0 d.sa3).toNat (p.out.bits / 8) 16 16 (bitOf d.fn 6) ≤ 1024 * x.lkib →
        ∃ u, exec (.gdrain g b t w) s = .next u ∧ passes u ∧
          (u.cell g).mem = ((tileIndex 16 16).foldl (fun c ij => c.write
            (x.base + tileAt (x.lane t 0 d.sa2).toNat (x.lane t 0 d.sa3).toNat (p.out.bits / 8) ij.1 ij.2 (bitOf d.fn 6))
            (gdrainElem p (((s.cmd x.ring x.seq).map Cmd.strict).getD false) (x.accOf t d.sa1 ij.1 ij.2)).1) c).mem))

/-- For a thread that can issue: a block-local access that is aligned and within the block's memory returns the bytes there, or
stores the register's low bytes there and leaves every other byte of cell memory; a misaligned one ends the block with E_FORMAT,
one outside with E_RANGE. ATOMB stores the function's value and returns the old one. A global load past the L1, whose address
translates to local memory that is reachable, within quota, held by no transaction and not uncorrectable, returns memory's
bytes; a store writes exactly the bytes there and ATOMG the new value, returning the old one. The clauses that rest on log
entries 18, 41 are the model's choice. (spec/09_thread_groups.md R177, spec/09_thread_groups.md R178, spec/09_thread_groups.md
R180, spec/09_thread_groups.md R166) -/
def Obligations.ThreadAccessesReachMemory : Prop :=
  ∀ (s : State) (g : CellId) (b t : Nat) (x : Block) (y : Thread), s.phase = .up → s.threadRuns g b t x y →
    let c := s.cell g
    (∀ (wd : Width) (bypass : Bool) (dst addr : Nat), let n := wd.bytes; let o := (y.get addr).toNat
      (if n = 8 then pairOk x.rq dst else regOk x.rq dst) = true → addr < x.rq →
      (o % n = 0 → o + n ≤ 1024 * x.lkib →
        (∃ u, exec (.threadLoad g b t false bypass wd dst addr) s = .next u ∧
          ThreadBecomes s u g b t (y.setN dst n (c.readNat (x.base + o) n)).step) ∧
        (∃ u, exec (.threadStore g b t false wd addr dst) s = .next u ∧ BlockFrame s u g b ∧ u.threadAt g b t = some y.step ∧
          ∀ k : Nat, tabGet zeroByte (u.cell g).mem k =
            if x.base + o ≤ k ∧ k < x.base + o + n then (leBytes n (y.getN dst n)).getD (k - (x.base + o)) 0 else tabGet zeroByte c.mem k)) ∧
      (o % n ≠ 0 → (∃ u, exec (.threadLoad g b t false bypass wd dst addr) s = .next u ∧ BlockEnds s u g b stFormat) ∧
        ∃ u, exec (.threadStore g b t false wd addr dst) s = .next u ∧ BlockEnds s u g b stFormat) ∧
      (o % n = 0 → 1024 * x.lkib < o + n →
        (∃ u, exec (.threadLoad g b t false bypass wd dst addr) s = .next u ∧ BlockEnds s u g b stRange) ∧
        ∃ u, exec (.threadStore g b t false wd addr dst) s = .next u ∧ BlockEnds s u g b stRange)) ∧
    (∀ w : DWord, let d := TWord.decode w; let o := (y.get d.sa1).toNat
      d.opc = 0xDA → d.holds y = true → d.atomicOk x.rq false = true → o % d.size = 0 → o + d.size ≤ 1024 * x.lkib →
      ∃ u, exec (.atomb g b t w) s = .next u ∧ BlockFrame s u g b ∧
        u.threadAt g b t = some (y.setN d.dst d.size (c.readNat (x.base + o) d.size)).step ∧
        ∀ k : Nat, tabGet zeroByte (u.cell g).mem k =
          if x.base + o ≤ k ∧ k < x.base + o + d.size then
            (leBytes d.size (atomicNew d.afn (8 * d.size) (c.readNat (x.base + o) d.size) (y.getN d.sa2 d.size) (d.compare y))).getD
              (k - (x.base + o)) 0
          else tabGet zeroByte c.mem k) ∧
    (∀ (v : State) (wd : Width) (dst addr a : Nat) (nl : Bool), let n := wd.bytes; let va := (y.get64 addr).toNat
      (if n = 8 then pairOk x.rq dst else regOk x.rq dst) = true → addr % 2 = 0 → addr + 1 < x.rq → va % n = 0 → isRemote a = false → isMemory a = true →
      v.ways (g.val / 64) a n = .clear → v.quotaOk x.cid a n = true →
      (s.translate (x.requester g t) x.cid va n .threadLoad = (v, .at a nl) → v.quiet a n false none = true → v.brokenIn a n = false →
        ∃ u, exec (.threadLoad g b t true true wd dst addr) s = .next u ∧ u.mem = s.mem ∧
          u.threadAt g b t = some (y.setN dst n (s.readNat a n)).step) ∧
      (s.translate (x.requester g t) x.cid va n .threadStore = (v, .at a nl) → v.quiet a n true none = true → v.partlyBroken a n = false →
        ∃ u, exec (.threadStore g b t true wd addr dst) s = .next u ∧ u.threadAt g b t = some y.step ∧
          ∀ k : Nat, u.readByte k = if a ≤ k ∧ k < a + n then (leBytes n (y.getN dst n)).getD (k - a) 0 else s.readByte k)) ∧
    (∀ (v : State) (w : DWord) (a : Nat) (nl : Bool), let d := TWord.decode w; let va := (y.get64 d.sa1).toNat
      d.opc = 0xD9 → d.holds y = true → d.atomicOk x.rq true = true → va % d.size = 0 → isRemote a = false → v.cacheable a = true →
      s.translate (x.requester g t) x.cid va d.size .threadStore = (v, .at a nl) →
      v.ways (g.val / 64) a d.size = .clear → v.siteOk x.cid (96 + g.val) (.dcache g) a d.size = true →
      v.coreBad (.dcache g) (v.badWords a d.size) = [] →
      ∃ u, exec (.atomg g b t w) s = .next u ∧ u.threadAt g b t = some (y.setN d.dst d.size (s.readNat a d.size)).step ∧
        ∀ k : Nat, u.readByte k = if a ≤ k ∧ k < a + d.size then
          (leBytes d.size (atomicNew d.afn (8 * d.size) (s.readNat a d.size) (y.getN d.sa2 d.size) (d.compare y))).getD (k - a) 0
          else s.readByte k)

/-- When a kernel that may hand out a block finds a cell, DISPATCH_BLOCK adds the block there and nowhere else and moves the
command's next block on; each of its threads stands at the entry address with w0 its index, w1 the block's, w2 and w3 the
argument's halves and w4 the cell, its other registers and predicates 0. At the kernel's first block on the cell the L1 is
empty. Memory is unchanged. The clauses that rest on log entry 4 are the model's choice. (spec/09_thread_groups.md R160,
spec/09_thread_groups.md R164, spec/09_thread_groups.md R165, spec/09_thread_groups.md R167, spec/05_cell.md R98) -/
def Obligations.BlocksStartInTheirShare : Prop :=
  ∀ (s : State) (r : RingId) (seq : Word) (c : Cmd) (g : Nat), s.phase = .up → s.handsOut r seq = some c → c.opcode = 2 →
    s.blockCell c = some g →
    ∃ u, exec (.dispatchBlock r seq) s = .next u ∧ u.mem = s.mem ∧ (∀ h, h ≠ g → u.cell h = s.cell h) ∧
      (u.cell g).blocks.length = (s.cell g).blocks.length + 1 ∧ (u.cell g).blocks.take (s.cell g).blocks.length = (s.cell g).blocks ∧
      ((s.cell g).kernel ≠ some (c.ring, c.seq) → (u.cell g).l1 = []) ∧
      (∃ d, u.cmd r seq = some d ∧ d.next = c.next + 1) ∧
      ∀ t : Nat, t < c.threads → ∃ y, u.threadAt g (s.cell g).blocks.length t = some y ∧ y.pc = c.entry ∧ y.q = 0 ∧ y.ended = false ∧
        y.wait = .none ∧ ∀ k : Nat, y.get k =
          if k = 0 then BitVec.ofNat 32 t else if k = 1 then BitVec.ofNat 32 c.next
          else if k = 2 then c.arg.setWidth 32 else if k = 3 then (c.arg >>> 32).setWidth 32
          else if k = 4 then BitVec.ofNat 32 g else 0

/-- For an item's descriptor with one row left that is not stalled and owes no response: when the row lies in one granule,
translates to local memory that is reachable, within quota, held by no transaction and not uncorrectable, a load copies memory's
bytes to the row's place in cell memory and leaves memory and the rest of cell memory, a store copies cell memory's bytes to
memory and leaves the rest; the descriptor is then done. A failed translation ends the item with its status and leaves memory
but for the record of an uncorrectable table. A migration piece whose ends pass the checks of MCID copies its bytes and ends OK,
or waits while no share of traffic is left to migration. The clauses that rest on log entries 1, 57 are the model's choice.
(spec/05_cell.md R100, spec/05_cell.md R101, spec/13_commands.md R271, spec/13_commands.md R435, spec/10_memory_system.md R207) -/
def Obligations.StreamRowsMove : Prop :=
  (∀ (s v : State) (g : CellId) (j : Job) (q : StreamDesc) (a : Nat) (nl : Bool), s.phase = .up → s.engineRuns g j → j.kind = .item →
    ((s.cell g).str.queue.find? fun q => !q.done) = some q → (s.cell g).str.stall = none → s.streamOwed g j = false →
    let d := SDesc.decode q.desc
    let va := ((s.cell g).rowAt d q.moved).1
    let off := ((s.cell g).rowAt d q.moved).2.1
    let n := ((s.cell g).rowAt d q.moved).2.2
    d.rows = q.moved + 1 → granulePieces va n = [(va, n)] →
    (∀ st : Status, (s.translate (j.requester g) j.cid va n (if d.store then .streamWrite else .streamRead)).2 = .bad st →
      ∃ t, exec (.streamTransfer g) s = .next t ∧ (st ≠ stMemUe → t.mem = s.mem) ∧ (t.cell g).job = some { j with ended := some st }) ∧
    (s.translate (j.requester g) j.cid va n (if d.store then .streamWrite else .streamRead) = (v, .at a nl) →
      isRemote a = false → isMemory a = true → v.ways (g.val / 64) a n = .clear → v.quotaOk j.cid a n = true →
      (d.store = false → v.quiet a n false none = true → v.brokenIn a n = false → ∃ t, exec (.streamTransfer g) s = .next t ∧ t.mem = s.mem ∧
        (∀ k : Nat, tabGet zeroByte (t.cell g).mem k =
          if off ≤ k ∧ k < off + n then s.readByte (a + (k - off)) else tabGet zeroByte (s.cell g).mem k) ∧
        ((t.cell g).str.queue.filter fun q => !q.done) = ((s.cell g).str.queue.filter fun q => !q.done).tail) ∧
      (d.store = true → v.quiet a n true none = true → v.partlyBroken a n = false → ∃ t, exec (.streamTransfer g) s = .next t ∧ (t.cell g).mem = (s.cell g).mem ∧
        (∀ k : Nat, t.readByte k = if a ≤ k ∧ k < a + n then tabGet zeroByte (s.cell g).mem (off + (k - a)) else s.readByte k) ∧
        ((t.cell g).str.queue.filter fun q => !q.done) = ((s.cell g).str.queue.filter fun q => !q.done).tail))) ∧
  (∀ (s : State) (g : CellId) (j : Job) (q : StreamDesc) (rest : List StreamDesc) (c : Cmd), s.phase = .up → s.engineRuns g j →
    j.kind = .piece → s.cmd j.ring j.seq = some c → (s.cell g).str.queue = q :: rest → c.mig = true →
    let n := c.pieceLen j.index
    let src := c.src + 65536 * j.index
    let dst := c.dst + 65536 * j.index
    (s.migCheck c.mcid false src n ≠ stOk →
      exec (.streamTransfer g) s = .next (s.endItem g (s.migCheck c.mcid false src n))) ∧
    (s.migCheck c.mcid false src n = stOk → s.migCheck c.mcid true dst n ≠ stOk →
      exec (.streamTransfer g) s = .next (s.endItem g (s.migCheck c.mcid true dst n))) ∧
    (s.migCheck c.mcid false src n = stOk → s.migCheck c.mcid true dst n = stOk → s.migrateShare = 0 →
      exec (.streamTransfer g) s = .next s) ∧
    (s.migCheck c.mcid false src n = stOk → s.migCheck c.mcid true dst n = stOk → s.migrateShare ≠ 0 →
      isMemory src = true → isMemory dst = true → s.ways (g.val / 64) src n = .clear → s.ways (g.val / 64) dst n = .clear →
      s.quiet src n false none = true → s.quiet dst n true none = true →
      ∃ t, exec (.streamTransfer g) s = .next t ∧ (t.cell g).job = some { j with ended := some stOk } ∧
        ∀ k : Nat, t.readByte k = if dst ≤ k ∧ k < dst + n then s.readByte (src + (k - dst)) else s.readByte k))

/-- For an access that its CID may make to mapped memory and that meets no uncorrectable data: where no transaction holds its lines,
its quota admits it and no earlier request for its bytes waits, a read leaves memory, a write stores exactly its bytes and an
atomic its new value, and no cached copy of a written line remains (of an atomic's, in HBM); otherwise the request waits, last,
and nothing else changes; QUOTA_ADMISSION performs the first held request that its quota now admits. NEAR_ATOMIC does the same
for an atomic on HBM, FINE_PATH_ACCESS for a read or write within one 32-byte word of HBM. An access that is not allowed changes
nothing. The clauses that rest on log entry 1 are the model's choice. (spec/12_memory_model.md R240, spec/12_memory_model.md
R258, spec/10_memory_system.md R199, spec/10_memory_system.md R206, spec/10_memory_system.md R208) -/
def Obligations.HomePerformsAccesses : Prop :=
  ∀ (s : State) (cid : Cid) (pa : DWord) (na : Bool), s.phase = .up →
    let p := pa.toNat
    let stores := fun (t : State) (bs : List Byte) =>
      (∀ k : Nat, t.readByte k = if p ≤ k ∧ k < p + bs.length then bs.getD (k - p) 0 else s.readByte k) ∧
      (∀ l : Nat, p / 128 ≤ l → l ≤ (p + bs.length - 1) / 128 → t.dirEntry l = dirDflt l)
    let free := fun acc : IoAccess => s.homeTakes cid p acc && !s.heldOver p (accBytes acc) && !s.waitsOver p (accBytes acc)
    (∀ acc : IoAccess, s.homeOk cid p acc = false → exec (.ioCoherentAccess cid pa na acc) s = .next s) ∧
    (∀ acc : IoAccess, s.homeOk cid p acc = true → free acc = false →
      exec (.ioCoherentAccess cid pa na acc) s =
        .next { s with hbm := { s.hbm with quotaHeld := s.hbm.quotaHeld ++ [(cid, p, na, acc)] } }) ∧
    (∀ n : Nat, s.homeOk cid p (.read n) = true → free (.read n) = true → s.brokenIn p n = false →
      (∃ t, exec (.ioCoherentAccess cid pa na (.read n)) s = .next t ∧ t.mem = s.mem ∧ t.coh = s.coh) ∧
      (inHbm p = true → p / 32 = (p + n - 1) / 32 →
        ∃ t, exec (.finePathAccess cid pa (.read n)) s = .next t ∧ t.mem = s.mem ∧ t.coh = s.coh ∧ t.hbm.lake = s.hbm.lake)) ∧
    (∀ bs : List Byte, s.homeOk cid p (.write bs) = true → s.homeTakes cid p (.write bs) = true → s.partlyBroken p bs.length = false →
      (free (.write bs) = true → ∃ t, exec (.ioCoherentAccess cid pa na (.write bs)) s = .next t ∧ stores t bs) ∧
      (free (.write bs) = true → inHbm p = true → p / 32 = (p + bs.length - 1) / 32 → ∃ t, exec (.finePathAccess cid pa (.write bs)) s = .next t ∧ stores t bs) ∧
      (s.hbm.quotaHeld = [(cid, p, na, .write bs)] → s.portsIdle → ∃ t, exec .quotaAdmission s = .next t ∧ t.hbm.quotaHeld = [] ∧ stores t bs)) ∧
    (∀ (fn : AtomicFn) (d : Bool) (x y : DWord), let n := if d then 8 else 4
      s.homeOk cid p (.atomic fn d x y) = true → free (.atomic fn d x y) = true → s.brokenIn p n = false →
      (∃ t, exec (.ioCoherentAccess cid pa na (.atomic fn d x y)) s = .next t ∧
        (inHbm p = true → stores t (leBytes n (atomicNew fn (8 * n) (s.readNat p n) x.toNat y.toNat))) ∧
        ∀ k : Nat, t.readByte k = if p ≤ k ∧ k < p + n then
          (leBytes n (atomicNew fn (8 * n) (s.readNat p n) x.toNat y.toNat)).getD (k - p) 0 else s.readByte k) ∧
      (inHbm p = true → ∃ t, exec (.nearAtomic cid pa fn d x y) s = .next t ∧
        stores t (leBytes n (atomicNew fn (8 * n) (s.readNat p n) x.toNat y.toNat))))

/-- A line of a way group that powers down becomes invalid. A zeroing band becomes free, and no other band does. Patrol scrub marks
the words it finds, and sets SCRUB_LAG when behind. A lane that fails while a spare is left waits for it; without one the
channel becomes RETIRING. A retraining moves spares in for the failed lanes. A row whose soft repair is due joins the repair
list with a spare; without one its band becomes retiring; of another row nothing changes. The clauses that rest on log entries
1, 48 are the model's choice. (spec/10_memory_system.md R196, spec/10_memory_system.md R204, spec/10_memory_system.md R207,
spec/10_memory_system.md R209, spec/10_memory_system.md R210, spec/10_memory_system.md R211, spec/18_reliability.md R364) -/
def Obligations.HbmMaintenance : Prop :=
  ∀ (s : State), s.phase = .up →
    (∀ (st : StackId) (set way : Nat),
      (bitOf (tabGet cleanDflt s.hbm.cleaning st.val).toNat (way / 4) = false → exec (.lakeWayClean st set way) s = .next s) ∧
      (bitOf (tabGet cleanDflt s.hbm.cleaning st.val).toNat (way / 4) = true → ∃ t, exec (.lakeWayClean st set way) s = .next t ∧
        t.mem = s.mem ∧ t.lakeLine (lakeKey st.val set way) = lineDflt (lakeKey st.val set way) ∧
        ∀ k : Nat, k ≠ lakeKey st.val set way → t.lakeLine k = s.lakeLine k)) ∧
    (∀ (c : ChanId) (b : Nat),
      (s.band c b = .zeroing → exec (.bandZeroed c b) s = .next (s.setBand c b .free)) ∧
      (s.band c b ≠ .zeroing → exec (.bandZeroed c b) s = .next s)) ∧
    (∀ (st : StackId) (a : DWord), inHbm a.toNat = true → s.mapped a.toNat = true → (s.hbmPlace a.toNat).1 / 32 = st.val →
      s.errEn (st.val / 3) = false →
      ∃ t, exec (.patrolScrubPass st false [a]) s = .next t ∧ t.mem = s.mem ∧ a.toNat / 32 ∈ t.hbm.broken ∧
        ∀ w ∈ s.hbm.broken, w ∈ t.hbm.broken) ∧
    (s.hbm.broken = [] → ∀ st : StackId, exec (.patrolScrubPass st true []) s = .next (s.setRegBit (umberBar 0 + 0xA004) 0)) ∧
    (∀ (c : ChanId) (lane : Nat), lane ∉ (s.chan c).failed →
      ((s.chan c).state ≠ .offline → (s.chan c).spares + (s.chan c).failed.length < 4 →
        exec (.hbmLaneFailure c lane) s = .next (s.setChan c { s.chan c with failed := (s.chan c).failed ++ [lane] })) ∧
      ((s.chan c).state = .inService → 4 ≤ (s.chan c).spares + (s.chan c).failed.length →
        ∃ t, exec (.hbmLaneFailure c lane) s = .next t ∧ (t.chan c).state = .retiring ∧
          (t.chan c).failed = (s.chan c).failed ++ [lane])) ∧
    (∀ c : ChanId, (s.chan c).state ≠ .offline → (s.chan c).failed ≠ [] → (s.chan c).spares < 4 →
      ∃ t, exec (.hbmRetrain c) s = .next t ∧
        (t.chan c).spares = (s.chan c).spares + min (s.chan c).failed.length (4 - (s.chan c).spares) ∧
        (t.chan c).failed = (s.chan c).failed.drop (4 - (s.chan c).spares) ∧ (t.chan c).state = (s.chan c).state) ∧
    (∀ (c : ChanId) (b row : Nat),
      ((c.val, b, row) ∈ s.hbm.rowDue →
        (∃ t, exec (.rowSoftRepair c b row true) s = .next t ∧ (c.val, b, row) ∈ t.flash.rows ∧ (c.val, b, row) ∉ t.hbm.rowDue ∧
          t.hbm.bands = s.hbm.bands) ∧
        (s.band c b ≠ .offline → ∃ t, exec (.rowSoftRepair c b row false) s = .next t ∧ t.band c b = .retiring)) ∧
      ((c.val, b, row) ∉ s.hbm.rowDue → ∀ k, exec (.rowSoftRepair c b row k) s = .next s))

/-- An XLT_INV of a host core that issues, with no load or atomic outstanding, joins the queue; with 64 queued the core waits. The
next broadcast takes the previous generation plus 1 modulo 2^16, leaves no entry of its CID and range in any die or cell cache,
makes every walk of its CID start again when it finishes, and leaves memory. Such a walk installs nothing when it finishes but
begins again at the generation then in force, while another installs what it found. The broadcast completes by adding 1 to its
object once its conditions hold, and changes nothing before. The clauses that rest on log entries 1, 54 are the model's choice.
(spec/11_translation.md R221, spec/11_translation.md R222, spec/11_translation.md R223) -/
def Obligations.InvalidationReachesEveryCache : Prop :=
  (∀ (s : State) (c : HostId) (u : UmberId) (data : List Byte), s.phase = .up → s.hostReady c → s.hostOwed c = false → data.length = 32 →
    (s.xlt.queue.length < 64 → ∃ t, exec (.xltInv c u data) s = .next t ∧ t.xlt.queue = s.xlt.queue ++ [(invOf data).1] ∧
      t.xlt.gen = s.xlt.gen ∧ t.mem = s.mem) ∧
    (64 ≤ s.xlt.queue.length → ∃ t, exec (.xltInv c u data) s = .next t ∧ (t.host c).invStore = some (u.val, data) ∧
      t.xlt = s.xlt ∧ t.mem = s.mem)) ∧
  (∀ (s : State) (b : Inv) (q : List Inv), s.phase = .up → s.xlt.queue = b :: q →
    ∃ t, exec .invalidationBroadcast s = .next t ∧ t.xlt.gen = s.xlt.gen + 1 ∧ t.mem = s.mem ∧ t.soVal = s.soVal ∧
      (∀ (d : Nat) (e : XEntry), e ∈ (t.ochre d).xc → b.drops e = false) ∧
      (∀ (g : Nat) (e : XEntry), e ∈ (t.cell g).xc → b.drops e = false) ∧
      (∀ (d : Nat) (w : Walk), w ∈ (t.ochre d).walks → w.cid = b.cid → w.stale = true)) ∧
  (∀ (s : State) (d : DieId) (i : Nat) (w : Walk), s.phase = .up → s.portsIdle → (s.ochre d).walks[i]? = some w →
    (w.stale = true → ∃ t, exec (.walkFinish d i) s = .next t ∧ (t.ochre d).xc = (s.ochre d).xc ∧
      ∃ v, (t.ochre d).walks[i]? = some v ∧ v.cid = w.cid ∧ v.va = w.va ∧ v.gen = s.xlt.gen ∧ v.stale = false) ∧
    (w.stale = false → (s.ochre d).missQ = [] → ∀ e, w.found = some e → ∃ t, exec (.walkFinish d i) s = .next t ∧
      e ∈ (t.ochre d).xc ∧ (t.ochre d).walks = (s.ochre d).walks.eraseIdx i ∧ t.mem = s.mem)) ∧
  (∀ (s : State) (b : Inv) (q : List Inv), s.phase = .up → s.xlt.flying = b :: q →
    (s.invDone b = false → exec .invalidationComplete s = .next s) ∧
    (s.invDone b = true → s.soBroken b.so.toNat = false → ∃ t, exec .invalidationComplete s = .next t ∧ t.xlt.flying = q ∧
      t.so b.so.toNat = s.so b.so.toNat + 1 ∧ ∀ o : Nat, o ≠ b.so.toNat → t.so o = s.so o))

/-- A miss that no cache of the die covers and no walk serves starts a walk while fewer than 32 run and paths and quota admit its
reads, and waits in the queue otherwise; one that is covered or served changes nothing. With the queue enabled and not full, and
its path open, the oldest unwritten record is written: the tail moves on, the interrupt is delivered and the record is marked.
RETRY of a pending record removes it, drops the entries of its granule and lets the core that waits on it go on; ABORT ends the
waiting item with E_ACCESS; a core waits on its granule's oldest record. An identifier that no record carries changes nothing.
The clauses that rest on log entries 1, 18, 19, 46 are the model's choice. (spec/11_translation.md R220, spec/11_translation.md
R227, spec/11_translation.md R228) -/
def Obligations.WalksAndFaultRecords : Prop :=
  (∀ (s : State) (d : DieId) (cid : Cid) (va : DWord) (k : Nat), s.phase = .up →
    ((s.ochre d).xc.any fun e => e.covers cid va.toNat) = false →
    ((s.ochre d).walks.any fun w => w.cid == cid && w.va == va.toNat) = false →
    (s.walkerFree d cid va.toNat = true → s.walkWay d (s.walkOf cid va.toNat).1 = .clear →
      ∃ t, exec (.translationWalk d cid va k) s = .next t ∧ (s.walk cid va.toNat ≠ .error stMemUe → t.mem = s.mem) ∧
      ∃ w, (t.ochre d).walks = (s.ochre d).walks ++ [w] ∧ w.cid = cid ∧ w.va = va.toNat ∧ w.gen = s.xlt.gen ∧
        (∀ e, s.walk cid va.toNat = .ok e → w.found = some e) ∧ ∀ st, s.walk cid va.toNat = .error st → w.found = none ∧ w.status = st) ∧
    (s.walkerFree d cid va.toNat = false → ((s.ochre d).missQ.any fun m => m.1 == cid && m.2.1 == va.toNat) = false → ∃ t, exec (.translationWalk d cid va k) s = .next t ∧
      (t.ochre d).missQ = (s.ochre d).missQ ++ [(cid, va.toNat, k)] ∧ (t.ochre d).walks = (s.ochre d).walks)) ∧
  (∀ (s : State) (d : DieId) (cid : Cid) (va : DWord) (k : Nat), s.phase = .up →
    ((s.ochre d).xc.any fun e => e.covers cid va.toNat) = true ∨ ((s.ochre d).walks.any fun w => w.cid == cid && w.va == va.toNat) = true →
    exec (.translationWalk d cid va k) s = .next s) ∧
  (∀ (s : State) (d : DieId), s.phase = .up →
    (s.fqEn d = false ∨ s.fqFull d = true → exec (.faultRecordWrite d) s = .next s) ∧
    (∀ f : FaultRec, s.fqEn d = true → s.fqFull d = false →
      (s.ownSlot (s.fqSlot d) 32 = true → s.recordWay d (s.fqSlot d) 32 = true) → ((s.ochre d).faults.find? fun f => !f.written) = some f →
      ∃ t, exec (.faultRecordWrite d) s = .next t ∧ (t.ochre d).fqTail = (s.ochre d).fqTail + 1 ∧
        { f with written := true } ∈ (t.ochre d).faults ∧ (d.val, 256) ∈ t.irqs ∧
        (s.ownSlot (s.fqSlot d) 32 = true → s.trcOn d 3 = false → s.faultCmd f = none → s.obsBase = 0 →
          s.fqSlot d = s.fqBase d + 32 * ((s.ochre d).fqTail.toNat % 1024) ∧ t.readBytes (s.fqSlot d) 32 = f.bytes s.time (s.ochre d).fqTail.toNat))) ∧
  (∀ (s : State) (d : DieId) (fid : BitVec 16), s.phase = .up →
    (s.faultOf d fid = none → exec (.xltResumeRetry d fid) s = .next s ∧ exec (.xltResumeAbort d fid) s = .next s) ∧
    (∀ f : FaultRec, s.faultOf d fid = some f →
      (∃ t, exec (.xltResumeRetry d fid) s = .next t ∧ t.mem = s.mem ∧ (∀ x ∈ (t.ochre d).faults, x.fid ≠ fid) ∧
        (∀ e ∈ (t.ochre d).xc, e.cid = f.cid → ¬ (e.start < f.va + 2 ^ 16 ∧ f.va < e.start + e.length)) ∧
        ∀ (n : Fin 64) (j : Job), s.waitsOn d f = true → (s.cell (64 * d.val + n.val)).job = some j → j.cid = f.cid →
          (s.cell (64 * d.val + n.val)).core.wait = .faultOn f.va → (t.cell (64 * d.val + n.val)).core.wait = .running) ∧
      (∃ t, exec (.xltResumeAbort d fid) s = .next t ∧ t.mem = s.mem ∧ (∀ x ∈ (t.ochre d).faults, x.fid ≠ fid) ∧
        ∀ (n : Fin 64) (j : Job), s.waitsOn d f = true → (s.cell (64 * d.val + n.val)).job = some j → j.cid = f.cid → j.ended = none →
          (s.cell (64 * d.val + n.val)).core.wait = .faultOn f.va →
          (t.cell (64 * d.val + n.val)).job = some { j with ended := some stAccess })))

/-- A request whose CID and address are found, on mapped memory its CID may access, of a CID that is not sealed, reachable, taken by
its home and not uncorrectable, behind no earlier write of its function: a write, posted or not, stores exactly its bytes; a
read answers them and leaves memory. A read without a CID or an address answers Unsupported Request and writes nothing more than
its translation did (the record of an uncorrectable table). A function that lost ATS gets Unsupported Request. A PRI request
adds a fault record with CAUSE 2. An acknowledgement ends the function's oldest Invalidate Request and what it holds under that
request's PASIDs; a timeout takes ATS from it; where the function owes nothing neither changes the port. A duplicate PASID entry
sets DUP and writes nothing, one of a SEALED CID writes nothing, RP_DEFCID likewise. The clauses that rest on log entries 1, 46
are the model's choice. (spec/11_translation.md R229, spec/11_translation.md R230, spec/11_translation.md R231,
spec/13_commands.md R286, spec/21_registers.md R411, spec/17_security.md R356) -/
def Obligations.ThirdDevicesUnderOwnership : Prop :=
  (∀ (s v : State) (p : RootId) (q : DeviceRequest) (cid : Cid) (a : Nat) (nl : Bool), s.phase = .up → s.devCid p q.rid q.pasid = some cid →
    s.devAddr p cid q = (v, .at a nl) → isRemote a = false → isMemory a = true → v.sealedCid cid = false →
    (s.root p).posted = [] → s.behindWrites p q.rid [] = false → v.ways (4 + p.val / 2) a (accBytes q.access) = .clear →
    v.homeTakes cid a q.access = true →
    (∀ bs : List Byte, q.access = .write bs → bs ≠ [] → v.spanMapped a bs.length = true → v.ownOk cid true a bs.length = true →
      v.partlyBroken a bs.length = false →
      ∀ e ∈ ([.thirdDeviceRequest p q, .postedWrite p q false, .postedWrite p q true] : List Instr),
        ∃ t, exec e s = .next t ∧ ∀ k : Nat, t.readByte k = if a ≤ k ∧ k < a + bs.length then bs.getD (k - a) 0 else s.readByte k) ∧
    (∀ n : Nat, q.access = .read n → n ≠ 0 → v.spanMapped a n = true → v.ownOk cid false a n = true →
      v.brokenIn a n = false →
      ∃ t, exec (.thirdDeviceRequest p q) s = .next t ∧ t.mem = s.mem ∧ (t.root p).answer = some (csOk, s.readBytes a n))) ∧
  (∀ (s : State) (p : RootId) (q : DeviceRequest) (n : Nat), s.phase = .up → q.access = .read n →
    (s.root p).posted = [] → s.behindWrites p q.rid [] = false →
    ∀ v : State, (s.devCid p q.rid q.pasid = none ∧ v = s ∨
      ∃ cid, s.devCid p q.rid q.pasid = some cid ∧ s.devAddr p cid q = (v, .unsupported)) →
    ∃ t, exec (.thirdDeviceRequest p q) s = .next t ∧ t.mem = v.mem ∧ (t.root p).answer = some (csUnsupported, []) ∧
      (t.root p).aer = (s.root p).aer + 1) ∧
  (∀ (s : State) (p : RootId) (rid : BitVec 16) (pasid : Option (BitVec 20)) (va : DWord), s.phase = .up →
    (rid ∈ (s.root p).atsOff → ∃ t, exec (.atsTranslationRequest p rid pasid va) s = .next t ∧
      (t.root p).answer = some (csUnsupported, []) ∧ (t.root p).ats = (s.root p).ats) ∧
    (∀ (cid : Cid) (e : XEntry), rid ∉ (s.root p).atsOff → s.devCid p rid pasid = some cid → (s.lookup (portReq p) cid va.toNat 0).2 = .entry e →
      e.mig = true → ∃ t, exec (.atsTranslationRequest p rid pasid va) s = .next t ∧ t.mem = s.mem ∧
        (t.root p).answer = some (csOk, atsBytes 0 (atsSize e va.toNat) false false)) ∧
    (∀ (cid : Cid) (prg : BitVec 16), s.devCid p rid pasid = some cid → ∃ t, exec (.priPageRequest p rid pasid va prg) s = .next t ∧
      ∃ f, (t.ochre (portReq p).die).faults = (s.ochre (portReq p).die).faults ++ [f] ∧ f.cause = 2 ∧ f.kind = 8 ∧ f.cid = cid ∧
        f.va = vaGranule va.toNat ∧ f.prg = prg ∧ f.written = false) ∧
    (((s.root p).atsOwed.any fun x => x.rid == rid) = false →
      (∃ t, exec (.atsInvalidateCompletion p rid) s = .next t ∧ t.root p = s.root p ∧ t.mem = s.mem) ∧
      exec (.atsInvalidateTimeout p rid) s = .next s) ∧
    (∀ x : AtsReq, ((s.root p).atsOwed.find? fun x => x.rid == rid) = some x →
      (∃ t, exec (.atsInvalidateCompletion p rid) s = .next t ∧ t.mem = s.mem ∧ x ∉ (t.root p).atsOwed ∧
        (∀ y ∈ (s.root p).atsOwed, y ≠ x → y ∈ (t.root p).atsOwed) ∧
        ∀ f : BitVec 16 × BitVec 20, f ∈ (t.root p).ats ↔ f ∈ (s.root p).ats ∧ ¬ (f.1 = rid ∧ f.2 ∈ x.wipes)) ∧
      ∃ t, exec (.atsInvalidateTimeout p rid) s = .next t ∧ t.mem = s.mem ∧ rid ∈ (t.root p).atsOff ∧ (t.root p).atsEvt = true ∧
        (∀ y ∈ (t.root p).atsOwed, y.rid ≠ rid) ∧ ∀ f ∈ (t.root p).ats, f.1 ≠ rid)) ∧
  (∀ (s : State) (p : RootId) (e i : Fin 4096) (hi : Word) (cid : Cid), s.phase = .up →
    let a := rootBlock p + 0x8000 + 8 * e.val
    let lo := s.lowHalf a (s.reg a)
    (i ≠ e → bitOf hi.toNat 31 = true → bitOf (s.pasidEntry p i) 63 = true → bitsOf (s.pasidEntry p i) 15 0 = lo.toNat % 2 ^ 16 →
      bitsOf (s.pasidEntry p i) 51 32 = hi.toNat % 2 ^ 20 →
      ∃ t, exec (.pasidEntryWrite p e hi) s = .next t ∧ (t.root p).dup = true ∧ t.regs = s.regs) ∧
    ((∀ k : Fin 4096, bitOf (s.pasidEntry p k) 63 = false) → bitOf hi.toNat 31 = true →
      (s.sealedCid (BitVec.ofNat 16 (lo.toNat / 2 ^ 16)) = true →
        ∃ t, exec (.pasidEntryWrite p e hi) s = .next t ∧ t.regs = s.regs ∧ (t.root p).dup = (s.root p).dup) ∧
      (s.sealedCid (BitVec.ofNat 16 (lo.toNat / 2 ^ 16)) = false →
        ∃ t, exec (.pasidEntryWrite p e hi) s = .next t ∧ t.reg64 a = (hi &&& 0x800FFFFF) ++ lo)) ∧
    (s.sealedCid cid = true → exec (.rpDefcidWrite p cid) s = .next s) ∧
    (s.sealedCid cid = false → exec (.rpDefcidWrite p cid) s = .next (s.setReg (rootBlock p) (cid.setWidth 32))))

/-- For a host core that issues, on an open way to the port, and root ports at which no device request waits and whose devices'
writes are all performed: an access in the window of a port whose link is in L0 is sent, and a host's read returns the device's
data, or takes an access fault when the device refuses; while the link is down it is held, last; after 50 ms without the link a
host's read takes an access fault; so does one that no port serves or no path reaches, and one whose path is held changes
nothing. Leaving L0 changes only the link's state; with posted writes held, all of them are sent in their order when the link is
in L0 again, at its width and speed. HOSTPATH_TIMEOUT drops what is held, and a held host read takes an access fault. The
clauses that rest on log entries 1, 4, 6 are the model's choice. (spec/13_commands.md R288, spec/13_commands.md R434,
spec/13_commands.md R287, spec/13_commands.md R285, spec/10_memory_system.md R187) -/
def Obligations.RootPortLinksHoldRequests : Prop :=
  (∀ (s : State) (c : HostId) (addr : DWord) (n : Nat) (ans : MmioAnswer), s.phase = .up → placeOf addr.toNat = .mmio → n ≠ 0 →
    s.hostReady c →
    (s.portOf addr.toNat = none → exec (.mmioAccess (.host c) addr [] n ans) s = .next (s.trap c .accessFault)) ∧
    (∀ p : Nat, s.portOf addr.toNat = some p → s.spanWay (hostDie c) (4 + p / 2) addr.toNat n = .clear →
      let q : MmioReq := { hostMmio c addr.toNat [] n with id := (s.root p).nextId }
      ((s.root p).l0 = true → (s.root p).posted = [] → s.portOwes p = false →
        (∀ v, ∃ t, exec (.mmioAccess (.host c) addr [] n (.data v)) s = .next t ∧
          (t.host c).loaded = BitVec.ofNat 64 (leNat v) ∧ (t.root p).sent = (s.root p).sent ++ [q] ∧ t.mem = s.mem) ∧
        ∃ t, exec (.mmioAccess (.host c) addr [] n .refused) s = .next t ∧ (t.host c).trap = some .accessFault ∧
          (t.root p).sent = (s.root p).sent ++ [q] ∧ t.mem = s.mem) ∧
      ((s.root p).l0 = false → (s.root p).dead = false → ∃ t, exec (.mmioAccess (.host c) addr [] n ans) s = .next t ∧
        (t.root p).held = (s.root p).held ++ [q] ∧ (t.root p).sent = (s.root p).sent ∧ t.mem = s.mem ∧ t.host c = s.host c) ∧
      ((s.root p).l0 = false → (s.root p).dead = true →
        exec (.mmioAccess (.host c) addr [] n ans) s = .next (s.trap c .accessFault))) ∧
    (∀ p : Nat, s.portOf addr.toNat = some p →
      (s.spanWay (hostDie c) (4 + p / 2) addr.toNat n = .cut →
        exec (.mmioAccess (.host c) addr [] n ans) s = .next (s.trap c .accessFault)) ∧
      (s.spanWay (hostDie c) (4 + p / 2) addr.toNat n = .stall → exec (.mmioAccess (.host c) addr [] n ans) s = .next s))) ∧
  (∀ (s : State) (p : RootId) (lanes : PcieWidth) (speed : PcieSpeed), s.phase = .up →
    ((s.root p).l0 = true → exec (.rootPortLinkDown p) s = .next (s.setRoot p { s.root p with l0 := false, dead := false }) ∧
      exec (.rootPortLinkUp ⟨p, lanes, speed⟩) s = .next s ∧ exec (.hostpathTimeout p) s = .next s) ∧
    ((s.root p).l0 = false → exec (.rootPortLinkDown p) s = .next s) ∧
    ((s.root p).l0 = false → s.portsIdle → (∀ h ∈ (s.root p).held, h.data ≠ []) →
      ∃ t, exec (.rootPortLinkUp ⟨p, lanes, speed⟩) s = .next t ∧ (t.root p).l0 = true ∧ (t.root p).lanes = lanes ∧ (t.root p).speed = speed ∧
        (t.root p).held = [] ∧ (t.root p).sent = (s.root p).sent ++ (s.root p).held ∧ t.mem = s.mem) ∧
    ((s.root p).l0 = false → (s.root p).dead = false → s.portsIdle →
      ((s.root p).held = [] → ∃ t, exec (.hostpathTimeout p) s = .next t ∧ (t.root p).dead = true ∧ (t.root p).l0 = false ∧
        (t.root p).held = [] ∧ t.mem = s.mem) ∧
      (∀ (c : HostId) (h : MmioReq), (s.root p).held = [h] → h.src = .host c → h.data = [] → (s.host c).buffer = [] → (s.host c).invStore = none →
        ∃ t, exec (.hostpathTimeout p) s = .next t ∧ (t.host c).trap = some .accessFault ∧ (t.root p).held = [] ∧ (t.root p).dead = true ∧
          t.mem = s.mem)))

/-- HOST_WARM_RESET, a write of HOST_RST_CTL.GO while no warm reset runs and HOST_RST_N is high, and a fall of HOST_RST_N once the
host cores have been released leave them in reset with the warm reset in progress; with no ring in use, an OPEN or SEALED
context other than CID 0 becomes FROZEN with its state kept. WB_DONE drops every copy in host caches and releases the cores when
HOST_RST_N is high, and its rise releases them once WB_DONE is set. The preserved-state table is written once no ring is RUNNING
or DRAINING, at its base unless that is 0. The clauses that rest on log entries 1, 40, 45 are the model's choice.
(spec/13_commands.md R283, spec/13_commands.md R284, spec/12_memory_model.md R250, spec/22_electrical.md R424,
spec/19_startup.md R376) -/
def Obligations.HostWarmReset : Prop :=
  (∀ (s : State) (lost : List (HostId × DWord)), s.phase = .up →
    let began := fun t : State => t.released = false ∧ t.hosts = [] ∧ t.warm.active = true ∧ t.warm.at_ = s.time ∧ t.warm.wbDone = false ∧
      t.warm.complete = false ∧
      (s.rings = [] → s.cmds = [] → ∀ cid : Cid, cid ≠ 0 → ((s.ctx cid).state = .opened ∨ (s.ctx cid).state = .sealed) →
        t.ctx cid = { s.ctx cid with state := .frozen, before := (s.ctx cid).state, frozenAt := s.time })
    (∃ t, exec (.hostWarmReset lost) s = .next t ∧ began t) ∧
    (s.warm.active = false → s.pins.hostRstN = true → ∃ t, exec .hostRstCtlGo s = .next t ∧ began t) ∧
    (s.warm.active = true ∨ s.pins.hostRstN = false → exec .hostRstCtlGo s = .next s) ∧
    (s.everReleased = true → ∃ t, exec .hostRstN s = .next t ∧ began t ∧ t.pins.hostRstN = false) ∧
    (s.everReleased = false → exec .hostRstN s = .next { s with pins := { s.pins with hostRstN := false } })) ∧
  (∀ s : State, s.phase = .up →
    (s.warm.active = false → exec .wbDone s = .next s ∧ exec .preservedStateWrite s = .next s ∧
      exec .hostRstNRise s = .next { s with pins := { s.pins with hostRstN := true } }) ∧
    (s.warm.active = true → (∃ t, exec .wbDone s = .next t ∧ t.warm.wbDone = true ∧ t.mem = s.mem ∧
        (s.pins.hostRstN = true → s.everReleased = true → t.released = true) ∧
        (s.pins.hostRstN = false ∨ s.everReleased = false → t.released = s.released) ∧
        ∀ (l : Nat) (c : HostId), (t.dirEntry l).owner ≠ some (.l2 c) ∧ .l2 c ∉ (t.dirEntry l).sharers) ∧
      (s.warm.wbDone = true → s.everReleased = true → ∃ t, exec .hostRstNRise s = .next t ∧ t.released = true ∧ t.pins.hostRstN = true) ∧
      ((∃ p ∈ s.rings, p.2.state = .running ∨ p.2.state = .draining) → exec .preservedStateWrite s = .next s) ∧
      (s.warm.complete = false → (∀ p ∈ s.rings, p.2.state ≠ .running ∧ p.2.state ≠ .draining) →
        (s.pstBase = 0 → ∃ t, exec .preservedStateWrite s = .next t ∧ t.warm.complete = true ∧ t.mem = s.mem) ∧
        (s.pstBase ≠ 0 → s.spanMapped s.pstBase (2 ^ 22) = true → s.ownOk 0 true s.pstBase s.pstBytes.length = true →
          ∃ t, exec .preservedStateWrite s = .next t ∧ t.warm.complete = true ∧
            ∀ k : Nat, t.readByte k = if s.pstBase ≤ k ∧ k < s.pstBase + s.pstBytes.length then s.pstBytes.getD (k - s.pstBase) 0
              else s.readByte k))))

/-- For a host core that issues, with nothing in its store buffer, an access to local memory that is mapped, allowed, reachable,
held by no transaction or quota and not uncorrectable but in lines that its own cache has read: a load returns the bytes and
leaves memory; a store writes exactly its bytes, an aligned atomic its new value, returning the old one, when no load or atomic
of the core to another package is outstanding; after either no reservation on the line remains and the other cores keep their
state. An access that may not be made takes an access fault and changes nothing else; one to uncorrectable data takes a machine
check and loads nothing. That reservations end by a write of their line is read from the spec by log entry 15; what a misaligned
atomic does, and one outside memory, is the choice of log entry 23. (spec/12_memory_model.md R238, spec/12_memory_model.md R258,
spec/12_memory_model.md R256, spec/10_memory_system.md R187, spec/18_reliability.md R363) -/
def Obligations.HostCoresAccessMemory : Prop :=
  ∀ (s : State) (c : HostId) (a : DWord), s.phase = .up → s.hostReady c →
    let p := s.localise a.toNat
    (∀ w : Width,
      (s.hostWay c p w.bytes false = .trap → exec (.load (.host c w a)) s = .next (s.trap c .accessFault)) ∧
      (s.hostWay c p w.bytes false = .memory → s.cacheOk 0 (.l2 c) p w.bytes false = true → s.coreBad (.l2 c) (s.badWords p w.bytes) = [] →
        ∃ t, exec (.load (.host c w a)) s = .next t ∧ t.mem = s.mem ∧ (t.host c).loaded = BitVec.ofNat 64 (s.readNat p w.bytes) ∧
          (t.host c).trap = (s.host c).trap ∧ (∀ d, d ≠ c.val → t.host d = s.host d) ∧ (s.coh.dir.length < 15 → t.coh.resv = s.coh.resv)) ∧
      (s.hostWay c p w.bytes false = .memory → s.cacheOk 0 (.l2 c) p w.bytes false = true → s.coreBad (.l2 c) (s.badWords p w.bytes) ≠ [] →
        ∃ t, exec (.load (.host c w a)) s = .next t ∧ (t.host c).trap = some .machineCheck ∧ (t.host c).loaded = (s.host c).loaded)) ∧
    (∀ (w : Width) (v : DWord), s.hostOwed c = false →
      (s.hostWay c p w.bytes true = .trap → exec (.store (.host c w a v)) s = .next (s.trap c .accessFault)) ∧
      (s.hostWay c p w.bytes true = .memory → s.cacheOk 0 (.l2 c) p w.bytes true = true → s.coreBad (.l2 c) (s.partWords p w.bytes) = [] →
        ∃ t, exec (.store (.host c w a v)) s = .next t ∧ (∀ d, t.host d = s.host d) ∧ (∀ k : Core, t.reserved k (p / 128) = false) ∧
          ∀ k : Nat, t.readByte k = if p ≤ k ∧ k < p + w.bytes then (leBytes w.bytes v.toNat).getD (k - p) 0 else s.readByte k)) ∧
    (∀ (fn : AtomicFn) (d : Bool) (x y : DWord), s.hostOwed c = false → let n := if d then 8 else 4
      (p % n ≠ 0 ∨ s.hostWay c p n true = .trap → exec (.atomic (.host c fn d a x y)) s = .next (s.trap c .accessFault)) ∧
      (p % n = 0 → s.hostWay c p n true = .memory → s.siteOk 0 c (.l2 c) p n = true → s.coreBad (.l2 c) (s.badWords p n) = [] →
        ∃ t, exec (.atomic (.host c fn d a x y)) s = .next t ∧
          (t.host c).loaded = BitVec.ofInt 64 (signedOf (8 * n) (s.readNat p n)) ∧ (∀ k : Core, t.reserved k (p / 128) = false) ∧
          (∀ e, e ≠ c.val → t.host e = s.host e) ∧
          ∀ k : Nat, t.readByte k = if p ≤ k ∧ k < p + n then
            (leBytes n (atomicNew fn (8 * n) (s.readNat p n) x.toNat y.toNat)).getD (k - p) 0 else s.readByte k))

/-- For a running item, an aligned access in the window acts on cell memory, and one below it on local memory at the address that
the translation gives, when that is reachable, held by no transaction or quota and not uncorrectable: a load puts the bytes,
sign- or zero-extended, into rd; a store writes exactly its bytes; an atomic stores the new value and returns the old. The core
then stands at the next instruction, 4 bytes on, or 2 for a compressed one. A misaligned access and a compare-and-swap end the
item with E_FORMAT; a translation that fails ends it with its status. That a reservation ends by a store to its line is read
from the spec by log entry 15; the clauses that rest on log entries 23, 66 are the model's choice. (spec/05_cell.md R88,
spec/05_cell.md R89, spec/05_cell.md R95, spec/11_translation.md R218, spec/12_memory_model.md R258) -/
def Obligations.ControlCoresAccessMemory : Prop :=
  ∀ (s : State) (g : CellId) (j : Job) (w : Width) (rd rs1 rs2 : Reg) (imm : BitVec 12) (z : Bool), s.phase = .up → s.coreRuns g j →
    let c := s.cell g
    let n := w.bytes
    let va := (c.core.get rs1 + imm.signExtend 64).toNat
    let vx := (c.core.get rs1).toNat
    (va % n ≠ 0 → (∀ sg, exec (.load (.cell g w sg rd rs1 imm z)) s = .next (s.endItem g stFormat)) ∧
      exec (.store (.cell g w rs1 rs2 imm z)) s = .next (s.endItem g stFormat)) ∧
    (∀ d, exec (.atomic (.cell g .cas d rd rs1 rs2)) s = .next (s.endItem g stFormat)) ∧
    (va % n = 0 → cellWindow ≤ va →
      (∀ sg, exec (.load (.cell g w sg rd rs1 imm z)) s =
        .next (s.retire g rd (extended sg n (c.readNat (va - cellWindow) n)) (sizeOf2 z))) ∧
      ∃ t, exec (.store (.cell g w rs1 rs2 imm z)) s = .next t ∧ t.mem = s.mem ∧ (t.cell g).core = c.core.retire 0 0 (sizeOf2 z) ∧
        ∀ k : Nat, tabGet zeroByte (t.cell g).mem k = if va - cellWindow ≤ k ∧ k < va - cellWindow + n then
          (leBytes n (c.core.get rs2).toNat).getD (k - (va - cellWindow)) 0 else tabGet zeroByte c.mem k) ∧
    (∀ (fn : AtomicFn) (d : Bool), let m := if d then 8 else 4
      fn ≠ .cas → vx % m = 0 → cellWindow ≤ vx →
      ∃ t, exec (.atomic (.cell g fn d rd rs1 rs2)) s = .next t ∧ t.mem = s.mem ∧
        (t.cell g).core = c.core.retire rd (BitVec.ofInt 64 (signedOf (8 * m) (c.readNat (vx - cellWindow) m))) 4 ∧
        ∀ k : Nat, tabGet zeroByte (t.cell g).mem k = if vx - cellWindow ≤ k ∧ k < vx - cellWindow + m then
          (leBytes m (atomicNew fn (8 * m) (c.readNat (vx - cellWindow) m) (c.core.get rs2).toNat 0)).getD (k - (vx - cellWindow)) 0
          else tabGet zeroByte c.mem k) ∧
    (∀ (v : State) (a : Nat) (nl : Bool), va % n = 0 → va < cellWindow → isRemote a = false → v.cacheable a = true →
      v.ways (g.val / 64) a n = .clear →
      (s.translate (j.requester g) j.cid va n .coreLoad = (v, .at a nl) → v.cacheOk j.cid (.dcache g) a n false = true →
        v.coreBad (.dcache g) (v.badWords a n) = [] → ∀ sg,
        ∃ t, exec (.load (.cell g w sg rd rs1 imm z)) s = .next t ∧ t.mem = s.mem ∧
          (t.cell g).core = c.core.retire rd (extended sg n (s.readNat a n)) (sizeOf2 z) ∧ (t.cell g).mem = c.mem) ∧
      (s.translate (j.requester g) j.cid va n .coreStore = (v, .at a nl) → v.cacheOk j.cid (.dcache g) a n true = true →
        v.coreBad (.dcache g) (v.partWords a n) = [] →
        ∃ t, exec (.store (.cell g w rs1 rs2 imm z)) s = .next t ∧ (t.cell g).core.x = c.core.x ∧
          (t.cell g).core.pc = c.core.pc + BitVec.ofNat 64 (sizeOf2 z) ∧
          (t.cell g).mem = c.mem ∧ (∀ k : Core, t.reserved k (a / 128) = false) ∧
          ∀ k : Nat, t.readByte k =
            if a ≤ k ∧ k < a + n then (leBytes n (c.core.get rs2).toNat).getD (k - a) 0 else s.readByte k)) ∧
    (∀ (v : State) (st : Status), va % n = 0 → va < cellWindow → s.translate (j.requester g) j.cid va n .coreLoad = (v, .bad st) → ∀ sg,
      ∃ t, exec (.load (.cell g w sg rd rs1 imm z)) s = .next t ∧ t.mem = v.mem ∧ (t.cell g).job = some { j with ended := some st }) ∧
    (∀ (fn : AtomicFn) (d : Bool) (v : State) (a : Nat) (nl : Bool), let m := if d then 8 else 4
      fn ≠ .cas → vx % m = 0 → vx < cellWindow → isRemote a = false → s.translate (j.requester g) j.cid vx m .coreStore = (v, .at a nl) →
      v.cacheable a = true → v.ways (g.val / 64) a m = .clear → v.siteOk j.cid (96 + g.val) (.dcache g) a m = true →
      v.coreBad (.dcache g) (v.badWords a m) = [] →
      ∃ t, exec (.atomic (.cell g fn d rd rs1 rs2)) s = .next t ∧ (t.cell g).mem = c.mem ∧
        (t.cell g).core.x = (c.core.retire rd (BitVec.ofInt 64 (signedOf (8 * m) (s.readNat a m))) 4).x ∧
        (t.cell g).core.pc = c.core.pc + 4 ∧
        ∀ k : Nat, t.readByte k = if a ≤ k ∧ k < a + m then
          (leBytes m (atomicNew fn (8 * m) (s.readNat a m) (c.core.get rs2).toNat 0)).getD (k - a) 0 else s.readByte k)

/-- For a host core that issues, with nothing in its store buffer, LR to aligned local memory that no transaction or quota holds
returns the value and reserves the line for that core alone, keeping the reservations of others while the directory has room.
SC, with no load or atomic of the core outstanding, and with a reservation on the line, writes exactly its bytes and returns 0;
without one it writes nothing and returns 1; either way the core holds no reservation after it. A control core's LR and SC do
the same with rd. FENCE of a control core retires, unless its scope is SYSTEM and an access is owed, when it waits. FENCE of
SYSTEM scope and YFENCE of that scope leave a host core at its barrier while accesses of it are not performed; with none, and
for the other scopes, they only retire, and a custom-0 word other than the three of YFENCE takes an illegal instruction. A core
at its barrier whose stores have all left does nothing until those accesses have ended. The clauses that rest on log entries 15,
39 are the model's choice. (spec/12_memory_model.md R256, spec/12_memory_model.md R245, spec/12_memory_model.md R243) -/
def Obligations.ReservationsAndBarriers : Prop :=
  (∀ (s : State) (c : HostId) (d : Bool) (a v : DWord), s.phase = .up → s.hostReady c →
    let p := s.localise a.toNat
    let n := if d then 8 else 4
    p % n = 0 → s.coreBad (.l2 c) (s.badWords p n) = [] →
    (s.hostWay c p n false = .memory → s.cacheOk 0 (.l2 c) p n false = true → ∃ t, exec (.lr (.host c d a)) s = .next t ∧ t.mem = s.mem ∧
      (t.host c).loaded = BitVec.ofInt 64 (signedOf (8 * n) (s.readNat p n)) ∧ t.reserved (.host c) (p / 128) = true ∧
      (∀ l : Nat, l ≠ p / 128 → t.reserved (.host c) l = false) ∧
      (s.coh.dir.length < 16 → ∀ (k : Core) (l : Nat), k ≠ .host c → t.reserved k l = s.reserved k l)) ∧
    (s.hostOwed c = false → s.hostWay c p n true = .memory → s.cacheOk 0 (.l2 c) p n true = true →
      (s.reserved (.host c) (p / 128) = true → ∃ t, exec (.sc (.host c d a v)) s = .next t ∧ (t.host c).loaded = 0 ∧
        (∀ l, t.reserved (.host c) l = false) ∧
        ∀ k : Nat, t.readByte k = if p ≤ k ∧ k < p + n then (leBytes n v.toNat).getD (k - p) 0 else s.readByte k) ∧
      (s.reserved (.host c) (p / 128) = false → ∃ t, exec (.sc (.host c d a v)) s = .next t ∧ (t.host c).loaded = 1 ∧
        t.mem = s.mem ∧ ∀ l, t.reserved (.host c) l = false))) ∧
  (∀ (s v : State) (g : CellId) (j : Job) (d : Bool) (rd rs1 rs2 : Reg) (a : Nat) (nl : Bool), s.phase = .up → s.coreRuns g j →
    let n := if d then 8 else 4
    let c := s.cell g
    let va := (c.core.get rs1).toNat
    va % n = 0 → va < cellWindow → isRemote a = false → v.cacheable a = true →
    v.ways (g.val / 64) a n = .clear → v.coreBad (.dcache g) (v.badWords a n) = [] →
    (s.translate (j.requester g) j.cid va n .coreLoad = (v, .at a nl) → v.cacheOk j.cid (.dcache g) a n false = true →
      ∃ t, exec (.lr (.cell g d rd rs1)) s = .next t ∧ t.mem = s.mem ∧ t.reserved (.cell g) (a / 128) = true ∧
        (t.cell g).core = c.core.retire rd (BitVec.ofInt 64 (signedOf (8 * n) (s.readNat a n))) 4) ∧
    (s.translate (j.requester g) j.cid va n .coreStore = (v, .at a nl) →
      (s.reserved (.cell g) (a / 128) = false → ∃ t, exec (.sc (.cell g d rd rs1 rs2)) s = .next t ∧ t.mem = s.mem ∧
        (t.cell g).core = c.core.retire rd 1 4 ∧ ∀ l, t.reserved (.cell g) l = false) ∧
      (s.reserved (.cell g) (a / 128) = true → v.cacheOk j.cid (.dcache g) a n true = true →
        ∃ t, exec (.sc (.cell g d rd rs1 rs2)) s = .next t ∧
        (t.cell g).core.x = (c.core.retire rd 0 4).x ∧ (t.cell g).core.pc = c.core.pc + 4 ∧ (∀ l, t.reserved (.cell g) l = false) ∧
        ∀ k : Nat, t.readByte k = if a ≤ k ∧ k < a + n then (leBytes n (c.core.get rs2).toNat).getD (k - a) 0 else s.readByte k))) ∧
  (∀ (s : State) (g : CellId) (j : Job) (p u : BitVec 4) (tso : Bool), s.phase = .up → s.coreRuns g j →
    (systemScope p u tso = false ∨ s.cellOwed g = false → exec (.fence (.cell g) p u tso) s = .next (s.retire g 0 0)) ∧
    (systemScope p u tso = true → s.cellOwed g = true → exec (.fence (.cell g) p u tso) s = .next s)) ∧
  (∀ (s : State) (c : HostId) (w : Word) (p u : BitVec 4) (tso : Bool), s.phase = .up → s.hostReady c →
    (systemScope p u tso = false ∨ s.hostAwaits c = false → exec (.fence (.host c) p u tso) s = .next (s.hostRetires c)) ∧
    (systemScope p u tso = true → s.hostAwaits c = true → exec (.fence (.host c) p u tso) s = .next ((s.hostBarrier c).hostRetires c)) ∧
    exec (.yfence c 0x0000600B) s = .next (s.hostRetires c) ∧ exec (.yfence c 0x0200600B) s = .next (s.hostRetires c) ∧
    (s.hostAwaits c = false → exec (.yfence c 0x0400600B) s = .next (s.hostRetires c)) ∧
    (s.hostAwaits c = true → exec (.yfence c 0x0400600B) s = .next ((s.hostBarrier c).hostRetires c)) ∧
    (w ∉ [0x0000600B, 0x0200600B, 0x0400600B] → exec (.yfence c w) s = .next (s.trap c .illegal))) ∧
  (∀ (s : State) (c : HostId) (w : Width) (d : Bool) (a v : DWord), s.phase = .up → (s.host c).barrier = true → s.hostAwaits c = true →
    (s.host c).buffer = [] → (s.host c).due = none →
    ∀ i ∈ [Instr.load (.host c w a), .store (.host c w a v), .atomic (.host c .add d a v 0), .lr (.host c d a), .sc (.host c d a v)],
      exec i s = .next s)

/-- Where the way between the cache and the home is open: for a cacheable line whose request the quota admits, with no request
accepted before, that is not busy and has no tokens while the home's table has room: GetS of a line nobody holds makes the
requester its E owner and GetM its M owner; a line that another owns becomes busy with one forward to the owner. A line enters a
full directory set only as another leaves. A request of a busy line, a WRITEBACK of its owner among them, takes a token, one for
each requester and home. A WRITEBACK of the owner otherwise leaves no owner. The owner's answer to a forwarded GetM makes the
requester the M owner, and to a forwarded GetS leaves both as sharers; a hold defers it until HOLD_END. HOME_RETRY serves the
oldest token of the line. Memory never changes. The clauses that rest on log entries 1, 39 are the model's choice.
(spec/12_memory_model.md R254, spec/12_memory_model.md R255, spec/12_memory_model.md R256, spec/12_memory_model.md R257) -/
def Obligations.DirectoryServesRequests : Prop :=
  (∀ (s : State) (h : Holder) (pa : DWord), s.phase = .up → s.cacheable pa.toNat = true →
    let line := pa.toNat / 128
    s.homeWay h pa.toNat = .clear → s.quotaOk (s.holderCid h) (128 * line) 128 = true → (∀ k ∈ s.coh.accepted, k.1 ≠ line) →
    (s.isBusy line = false → (∀ k ∈ s.coh.tokens, k.1 ≠ line) → s.tableFull line = false →
      ((s.dirEntry line).owner = none → (s.dirEntry line).sharers = [] →
        (∃ t, exec (.getS h pa) s = .next t ∧ t.mem = s.mem ∧ t.dirEntry line = { owner := some h, modified := false, sharers := [] } ∧
          ((s.setMates line).length < 16 → ∀ l, l ≠ line → t.dirEntry l = s.dirEntry l)) ∧
        (∃ t, exec (.getM h pa) s = .next t ∧ t.mem = s.mem ∧
          t.dirEntry line = { owner := some h, modified := true, sharers := [], noLake := (s.dirEntry line).noLake } ∧
          ((s.setMates line).length < 16 → ∀ l, l ≠ line → t.dirEntry l = s.dirEntry l))) ∧
      (∀ o : Holder, o ≠ h → (s.dirEntry line).owner = some o →
        (∃ t, exec (.getS h pa) s = .next t ∧ t.mem = s.mem ∧ t.isBusy line = true ∧
          t.coh.fwds = s.coh.fwds ++ [{ dst := o, line := line, kind := .getS, req := some h, deferred := false }] ∧ t.coh.dir = s.coh.dir) ∧
        (∃ t, exec (.getM h pa) s = .next t ∧ t.mem = s.mem ∧ t.isBusy line = true ∧
          t.coh.fwds = s.coh.fwds ++ [{ dst := o, line := line, kind := .getM, req := some h, deferred := false }] ∧ t.coh.dir = s.coh.dir))) ∧
    (s.isBusy line = true →
      ((∀ k ∈ s.coh.tokens, k.2.1 ≠ h) →
        (∃ t, exec (.getM h pa) s = .next t ∧ t.mem = s.mem ∧ t.coh.dir = s.coh.dir ∧ t.coh.tokens = s.coh.tokens ++ [(line, h, .getM)]) ∧
        ∃ t, exec (.getS h pa) s = .next t ∧ t.mem = s.mem ∧ t.coh.dir = s.coh.dir ∧ t.coh.tokens = s.coh.tokens ++ [(line, h, .getS)]) ∧
      ((∃ k ∈ s.coh.tokens, k.1 = line ∧ k.2.1 = h) → exec (.getM h pa) s = .next s ∧ exec (.getS h pa) s = .next s))) ∧
  (∀ (s : State) (h : Holder) (pa : DWord), s.phase = .up →
    let line := pa.toNat / 128
    ((∀ f ∈ s.coh.fwds, f.deferred = false) → ∃ t, exec (.holdEnd h pa) s = .next t ∧ t.isHeld line h = false ∧
      t.coh.dir = s.coh.dir ∧ t.mem = s.mem) ∧
    (s.homeWay h pa.toNat = .clear →
    ((s.dirEntry line).owner = some h → s.isBusy line = false → ∃ t, exec (.writeback h pa) s = .next t ∧ t.mem = s.mem ∧
      t.dirEntry line = { s.dirEntry line with owner := none, modified := false, noLake := false } ∧
      ∀ l, l ≠ line → t.dirEntry l = s.dirEntry l) ∧
    ((s.dirEntry line).owner = some h → s.isBusy line = true → (∀ k ∈ s.coh.tokens, k.2.1 ≠ h) →
      ∃ t, exec (.writeback h pa) s = .next t ∧ t.mem = s.mem ∧ t.coh.dir = s.coh.dir ∧
        t.coh.tokens = s.coh.tokens ++ [(line, h, .writeback)]) ∧
    ((s.dirEntry line).owner ≠ some h → exec (.writeback h pa) s = .next s) ∧
    (∀ (f : Fwd) (r : Holder), (s.coh.fwds.find? fun f => f.dst == h && f.line == line) = some f → f.req = some r → r ≠ h →
      (s.isHeld line h = true → ∃ t, exec (.forwardedRequest h pa) s = .next t ∧ t.coh.dir = s.coh.dir ∧ t.mem = s.mem ∧
        { f with deferred := true } ∈ t.coh.fwds) ∧
      (s.isHeld line h = false → (∀ k ∈ s.coh.accepted, k.1 ≠ line) → (s.dirEntry line).owner = some h → (s.dirEntry line).sharers = [] →
        (f.kind = .getM → ∃ t, exec (.forwardedRequest h pa) s = .next t ∧ t.mem = s.mem ∧
          t.dirEntry line = { owner := some r, modified := true, sharers := [], noLake := (s.dirEntry line).noLake } ∧ t.isBusy line = false ∧ f ∉ t.coh.fwds) ∧
        (f.kind = .getS → ∃ t, exec (.forwardedRequest h pa) s = .next t ∧ t.mem = s.mem ∧
          t.dirEntry line = { owner := none, modified := false, sharers := [h, r] } ∧ t.isBusy line = false ∧ f ∉ t.coh.fwds))) ∧
    (∀ (m : ReqKind) (rest : List (Nat × Holder × ReqKind)), s.coh.tokens = (line, h, m) :: rest → m = .getS ∨ m = .getM →
      s.isBusy line = false → (∀ k ∈ s.coh.accepted, k.1 ≠ line) → s.setFull line = false →
      (s.dirEntry line).owner = none → (s.dirEntry line).sharers = [] →
      ∃ t, exec (.homeRetry h pa) s = .next t ∧ (line, h, m) ∉ t.coh.tokens ∧ (t.dirEntry line).owner = some h ∧
        (t.dirEntry line).modified = decide (m = .getM) ∧ t.mem = s.mem)))

/-- Sequences are 32-bit words; the descriptor of sequence q lies at RING_DBASE + 64 × (q mod SIZE) and its record at RING_CBASE +
32 × (q mod SIZE). A doorbell of CID 0 or of the ring's CID whose value lies within SIZE of RING_HEAD and of RING_TAIL sets
RING_TAIL to it and changes nothing else. One of another CID sets DB_ERR and changes nothing else. A refused value sets DB_ERR,
keeps the tail, and moves a RUNNING ring, and no other, to FAULTED, where its commands that have not started are dropped. (R265,
R266) -/
def Obligations.DoorbellRule : Prop :=
  ∀ (s : State) (r : RingId) (cid : Cid) (tail : Word), s.phase = .up →
    ((cid = 0 ∨ cid = (s.ring r).cid) → (tail - (s.ring r).head).toNat ≤ (s.ring r).size →
        (tail - (s.ring r).tail).toNat ≤ (s.ring r).size →
      exec (.doorbell r cid tail) s = .next (s.setRing r { s.ring r with tail := tail })) ∧
    (cid ≠ 0 → cid ≠ (s.ring r).cid →
      exec (.doorbell r cid tail) s = .next (s.setRing r { s.ring r with dbErr := true })) ∧
    ((cid = 0 ∨ cid = (s.ring r).cid) →
        ¬ ((tail - (s.ring r).head).toNat ≤ (s.ring r).size ∧ (tail - (s.ring r).tail).toNat ≤ (s.ring r).size) →
      ((s.ring r).state ≠ .running →
        exec (.doorbell r cid tail) s = .next (s.setRing r { s.ring r with dbErr := true })) ∧
      ((s.ring r).state = .running → ∃ t, exec (.doorbell r cid tail) s = .next t ∧
        t.ring r = { s.ring r with state := .faulted, aborting := false, dbErr := true, stall := none, own := [] } ∧
        (t.cmds = s.cmds.filter fun c => c.ring != r.val || c.hasStarted) ∧
        t.mem = s.mem ∧ t.ctxs = s.ctxs ∧ ∀ q : RingId, q ≠ r → t.ring q = s.ring q)) ∧
    ∀ q : Word, (s.ring r).slotAddr q = (s.ring r).dbase.toNat + 64 * (q.toNat % (s.ring r).size) ∧
      (s.ring r).recordAddr q = (s.ring r).cbase.toNat + 32 * (q.toNat % (s.ring r).size)

/-- RING_CID, RING_HEAD and RING_TAIL of a STOPPED ring take the value written, and a base takes the high half written with the low
half held; in any other state the write sets CFG_ERR and changes nothing else. LOG2SIZE and REPLAY of a STOPPED ring take values
in range; a field that differs and is refused keeps its value and sets CFG_ERR. (spec/13_commands.md R263, spec/21_registers.md
R404) -/
def Obligations.RingRegistersWhileStopped : Prop :=
  ∀ (s : State) (r : RingId) (v : Word), s.phase = .up →
    ((s.ring r).state ≠ .stopped → ∀ off : Nat,
      exec (.ringConfigWrite r off v) s = .next (s.setRing r { s.ring r with cfgErr := true })) ∧
    ((s.ring r).state = .stopped →
      exec (.ringConfigWrite r 0x10 v) s = .next (s.setRing r { s.ring r with cid := v.setWidth 16 }) ∧
      exec (.ringConfigWrite r 0x14 v) s = .next (s.setRing r { s.ring r with head := v }) ∧
      exec (.ringConfigWrite r 0x18 v) s = .next (s.setRing r { s.ring r with tail := v }) ∧
      (∀ lo : Word, ∃ t, exec (.ringConfigWrite r 0x00 lo) s = .next t ∧ t.ring r = s.ring r ∧
        ∃ u, exec (.ringConfigWrite r 0x04 v) t = .next u ∧ (u.ring r).dbase = v ++ lo)) ∧
    (∀ (n : BitVec 4) (replay : Bool), (s.ring r).state = .stopped → 2 ≤ n.toNat → n.toNat ≤ 12 →
      exec (.ringCtlSetting r n replay) s = .next (s.setRing r { s.ring r with log2 := n, replay := replay })) ∧
    (∀ (n : BitVec 4) (replay : Bool), (s.ring r).state ≠ .stopped → (n ≠ (s.ring r).log2 ∨ replay ≠ (s.ring r).replay) →
      exec (.ringCtlSetting r n replay) s = .next (s.setRing r { s.ring r with cfgErr := true }))

/-- RUN = 1 reads back as written. On a STOPPED ring it starts it with nothing fetched when its context is OPEN or SEALED, its bases
are aligned and the tail lies within SIZE of the head; otherwise CFG_ERR is set. RUN = 1 on a RUNNING ring changes nothing, and
on a DRAINING or FAULTED ring sets CFG_ERR. CLEAR moves a FAULTED ring whose context is OPEN or SEALED to STOPPED with its
reasons cleared, and sets CFG_ERR on the ring of a FAULTED context. RUN = 0 on a RUNNING ring leaves it DRAINING while a started
command of it is in progress, and STOPPED when there is none; commands of it that have not started are dropped, and no other
ring changes. ABORT on a ring that is not STOPPED likewise drops what has not started, and stops the ring when nothing of it
has; otherwise the ring reads DRAINING, or FAULTED as before, until they have ended, and every started command is cut: one
without work items ends with E_ABORT, one with items hands out no more, its running items and blocks end, with E_ABORT where
none had ended, and its lowest item not started counts as ended so. Memory and the other rings do not change. On a STOPPED ring,
or after a fault of its context in the same package tick, ABORT changes nothing. The clauses that rest on log entry 40 are the
model's choice. (spec/13_commands.md R263, spec/13_commands.md R279, spec/13_commands.md R282, spec/13_commands.md R437,
spec/13_commands.md R267, spec/00_scope.md R7) -/
def Obligations.RingsStartDrainAndClear : Prop :=
  (
  ∀ (s : State) (r : RingId), s.phase = .up →
    (∃ t, exec (.run r true) s = .next t ∧ t.mem = s.mem ∧ t.cmds = s.cmds ∧ (∀ q : RingId, q ≠ r → t.ring q = s.ring q) ∧
      t.ring r =
        if (s.ring r).state = .stopped ∧ s.mayRun r = true then
          { s.ring r with run := true, state := .running, fetch := (s.ring r).head, commits := [], stall := none, own := [] }
        else if (s.ring r).state = .running then { s.ring r with run := true }
        else { s.ring r with run := true, cfgErr := true }) ∧
    ((s.ring r).state = .faulted → ((s.ctx (s.ring r).cid).state = .opened ∨ (s.ctx (s.ring r).cid).state = .sealed) →
      exec (.clear r) s = .next (s.setRing r { s.ring r with state := .stopped, soeStop := false, ctxFault := false,
                                                             recFail := false, aborting := false })) ∧
    ((s.ctx (s.ring r).cid).state = .faulted →
      exec (.clear r) s = .next (s.setRing r { s.ring r with cfgErr := true }))) ∧
  (
  ∀ (s : State) (r : RingId), s.phase = .up →
    ((s.ring r).state = .running → ∃ t, exec (.run r false) s = .next t ∧
      (t.cmds = s.cmds.filter fun c => c.ring != r.val || c.hasStarted) ∧
      ((∃ c ∈ s.cmds, c.ring = r.val ∧ c.hasStarted = true) → (t.ring r).state = .draining) ∧
      ((∀ c ∈ s.cmds, c.ring = r.val → c.hasStarted = false) → (t.ring r).state = .stopped) ∧
      (∀ q : RingId, q ≠ r → t.ring q = s.ring q)) ∧
    ((s.ring r).state ≠ .stopped → s.faultFirst (s.ring r).cid = false → ∃ t, exec (.abort r) s = .next t ∧
      t.mem = s.mem ∧ (∀ q : RingId, q ≠ r → t.ring q = s.ring q) ∧ (∀ c ∈ t.cmds, c.ring = r.val → c.hasStarted = true) ∧
      ((∀ c ∈ s.cmds, c.ring = r.val → c.hasStarted = false) →
        (t.ring r).state = .stopped ∧ t.cmds = s.cmds.filter fun c => c.ring != r.val) ∧
      ((∃ c ∈ s.cmds, c.ring = r.val ∧ c.hasStarted = true) →
        (t.ring r).aborting = true ∧ (t.ring r).state = if (s.ring r).state = .faulted then .faulted else .draining) ∧
      ∀ (seq : Word) (c : Cmd), s.cmd r seq = some c → c.hasStarted = true → ∃ d, t.cmd r seq = some d ∧
        ((c.stage = .started ∨ c.stage = .running) → c.hasItems = false → d.stage = .finished ∧ d.final = stAbort) ∧
        (c.stage = .started → c.hasItems = true → d.stage = .finished ∧ (c.firstBad = none → d.firstBad = some (0, stAbort))) ∧
        (c.stage = .running → c.hasItems = true → d.stopped = true ∧
          (c.next < c.total → c.firstBad = none → d.firstBad = some (c.next, stAbort))) ∧
        ((c.stage = .recording ∨ (c.stage = .finished ∧ s.cmdOwed r seq = false)) → d = c) ∧
        ∀ g ∈ cellsOfRing r,
          (∀ j : Job, (s.cell g).job = some j → j.of r seq = true → j.ended = none → (t.cell g).job = some { j with ended := some stAbort }) ∧
          ∀ b ∈ (t.cell g).blocks, b.of r seq = true → b.ended.isSome = true) ∧
    ((s.ring r).state = .stopped ∨ s.faultFirst (s.ring r).cid = true → exec (.abort r) s = .next s))

/-- When a ring may start commands, does not stall, its fetch sequence is not its tail, and the 64 bytes of the slot with no
extension slots have been read for it (the dispatch unit's read answers them), DESCRIPTOR_FETCH adds one command of that
sequence in stage fetched and moves the fetch sequence on by one. COMMAND_ADMIT moves the ring's next command to waiting when
its checks give OK, and otherwise finishes it with the status they give. COMMAND_START of the ring's next command, admitted and
not stalled: while its WAIT is not over, while other commands hold it back, or while a prepared or committed launch holds its
CID, or while the path to its wait object is interrupted, nothing changes; a path cut off fails it with E_LINK, and an
uncorrectable wait object fails it with E_MEM_UE; a malformed body fails it with E_FORMAT; a command of an opcode without
parameters whose start condition fails ends with that status, and one whose condition holds enters stage started, with its start
time and its own STRICT setting. The clauses that rest on log entries 1, 59 are the model's choice. (spec/13_commands.md R267,
spec/13_commands.md R269, spec/13_commands.md R436, spec/13_commands.md R273, spec/02_number_formats.md R38,
spec/18_reliability.md R362, spec/14_isobar_fabric.md R310, spec/15_package_links.md R323) -/
def Obligations.SubmittedCommandsAreFetchedAndStart : Prop :=
  (
  (∀ (s u : State) (r : RingId) (bs : List Byte), s.phase = .up → s.ringStarts r = true → (s.ring r).stall = none →
      (s.ring r).fetch ≠ (s.ring r).tail → (s.ring r).own = [] →
      s.dispRead r (s.ring r).fetch (s.ring r).cid ((s.ring r).slotAddr (s.ring r).fetch) 64 = (u, .bytes bs) →
      u.ring r = s.ring r → slotSpan bs = 1 →
      ∃ t, exec (.descriptorFetch r) s = .next t ∧ (t.ring r).fetch = (s.ring r).fetch + 1 ∧
        (t.ring r).tail = (s.ring r).tail ∧ t.mem = u.mem ∧
        ∃ c, t.cmds = u.cmds ++ [c] ∧ c.ring = r.val ∧ c.seq = (s.ring r).fetch ∧ c.slots = [bs] ∧ c.stage = .fetched) ∧
  (∀ (s : State) (r : RingId) (before : List Cmd) (c : Cmd), s.phase = .up → s.nextCmd r = some (before, c) →
      c.stage = .fetched → s.ringStarts r = true → s.admits before c = true →
      (s.stage1 c = stOk → exec (.commandAdmit r) s = .next (s.setCmd { c with stage := .waiting })) ∧
      (s.stage1 c ≠ stOk → exec (.commandAdmit r) s = .next (s.setCmd { c with stage := .finished, status := s.stage1 c })))) ∧
  (
  ∀ (s : State) (r : RingId) (before : List Cmd) (c : Cmd), s.phase = .up → s.nextCmd r = some (before, c) →
    c.stage = .waiting → s.ringStarts r = true → c.stall = none →
    (s.jobHolds c.cid = true ∨ s.admits before c = false → exec (.commandStart r) s = .next s) ∧
    (s.jobHolds c.cid = false → s.admits before c = true → s.objectWay c c.waitObj c.wval = .stall → exec (.commandStart r) s = .next s) ∧
    (s.jobHolds c.cid = false → s.admits before c = true → s.objectWay c c.waitObj c.wval = .cut →
      exec (.commandStart r) s = .next (s.failCmd c stLink)) ∧
    (s.jobHolds c.cid = false → s.admits before c = true → s.objectWay c c.waitObj c.wval = .clear →
      (c.wval ≠ 0 → s.soBroken c.waitObj = true → exec (.commandStart r) s = .next (s.failCmd c stMemUe)) ∧
      (c.wval = 0 ∨ s.soBroken c.waitObj = false → s.waitOver c = false → exec (.commandStart r) s = .next s) ∧
      (c.wval = 0 ∨ s.soBroken c.waitObj = false → s.waitOver c = true → s.bodyOk c = false →
        exec (.commandStart r) s = .next (s.failCmd c stFormat)) ∧
      (c.wval = 0 ∨ s.soBroken c.waitObj = false → s.waitOver c = true → s.bodyOk c = true → c.opcode ≠ 1 → c.opcode ≠ 2 →
        let t := s.endErrand (.ring r c.seq)
        (t.startOk c = stOk → exec (.commandStart r) s = .next (t.begin c [])) ∧
        (t.startOk c ≠ stOk → exec (.commandStart r) s = .next ((t.sealDrops c).failCmd c (t.startOk c))))))

/-- For a started command of the opcode, not stalled, with no FATAL error in force: NOP finishes it with status OK; CELL, KERNEL and
COPY put it in stage running, from which dispatch hands out its items. Nothing else changes. For a started WRITE, no store of
which is made or has failed, whose destination lies in one block of 256 bytes, translates to a local address of memory, is
reached by open paths, is held by no transaction, passes its quota and holds no uncorrectable word in part: the command finishes
with OK, the bytes at that address become the bytes its extension slots give, and every other byte of memory reads as before.
(spec/13_commands.md R269, spec/13_commands.md R271, spec/05_cell.md R104, spec/09_thread_groups.md R160, spec/13_commands.md
R272, spec/12_memory_model.md R238) -/
def Obligations.StartedCommandsTakeEffect : Prop :=
  (
  ∀ (s : State) (r : RingId) (seq : Word) (c : Cmd), s.phase = .up → s.fatal = false → s.cmd r seq = some c →
    c.stage = .started → c.stall = none →
    (c.opcode = 0x00 → exec (.nop r seq) s = .next (s.setCmd { c with stage := .finished, status := stOk })) ∧
    (c.opcode = 0x01 → exec (.cell r seq) s = .next (s.setCmd { c with stage := .running })) ∧
    (c.opcode = 0x02 → exec (.kernel r seq) s = .next (s.setCmd { c with stage := .running })) ∧
    (c.opcode = 0x03 → exec (.copy r seq) s = .next (s.setCmd { c with stage := .running }))) ∧
  (
  ∀ (s v : State) (r : RingId) (seq : Word) (c : Cmd) (a : Nat) (nl : Bool), s.phase = .up → s.fatal = false →
    s.cmd r seq = some c → c.stage = .started → c.stall = none → c.opcode = 0x04 → c.moved = 0 → c.status = stOk →
    packetPieces (field c.slot 16 8) c.wlen = [(field c.slot 16 8, c.wlen)] → c.wlen ≤ (c.slots.drop 1).flatten.length →
    s.translate (dispatchReq r (some seq)) c.cid (field c.slot 16 8) c.wlen .dispatchWrite = (v, .at a nl) →
    isRemote a = false → isMemory a = true → v.ways (r.val / 256) a c.wlen = .clear → v.quiet a c.wlen true none = true →
    v.quotaOk c.cid a c.wlen = true → v.partlyBroken a c.wlen = false →
    ∃ t, exec (.write r seq) s = .next t ∧ (∃ d, t.cmd r seq = some d ∧ d.stage = .finished ∧ d.status = stOk) ∧
      ∀ b : Nat, t.readByte b =
        if a ≤ b ∧ b < a + c.wlen then ((c.slots.drop 1).flatten.take c.wlen).getD (b - a) 0 else s.readByte b)

/-- A started CTX_OPEN of a FREE context other than CID 0 makes it OPEN and ends OK; any other ends with E_STATE and changes no
context. CTX_THAW of a FROZEN context returns it to the state it held before the freeze. CTX_CLOSE of a closable context that
was never SEALED makes it FREE, ends OK, and returns each of its sync objects to CID 0 with value 0; of one that is not closable
it ends with E_STATE and changes no context. The clauses that rest on log entry 40 are the model's choice. (spec/13_commands.md
R280) -/
def Obligations.ContextsOpenThawClose : Prop :=
  ∀ (s : State) (r : RingId) (seq : Word) (c : Cmd), s.phase = .up → s.fatal = false → s.cmd r seq = some c →
    c.stage = .started → c.stall = none →
    (c.opcode = 0x20 →
      ((s.ctx c.tcid).state = .free → c.tcid ≠ 0 →
        exec (.ctxOpen r seq) s = .next ((s.setCtx c.tcid { s.ctx c.tcid with state := .opened }).endCmd c stOk)) ∧
      (((s.ctx c.tcid).state ≠ .free ∨ c.tcid = 0) → exec (.ctxOpen r seq) s = .next (s.endCmd c stState))) ∧
    (c.opcode = 0x22 →
      ((s.ctx c.tcid).state = .frozen →
        exec (.ctxThaw r seq) s = .next ((s.setCtx c.tcid { s.ctx c.tcid with state := (s.ctx c.tcid).before }).endCmd c stOk)) ∧
      ((s.ctx c.tcid).state ≠ .frozen → exec (.ctxThaw r seq) s = .next (s.endCmd c stState))) ∧
    (c.opcode = 0x23 →
      (s.closable c.tcid = false → exec (.ctxClose r seq) s = .next (s.endCmd c stState)) ∧
      (s.closable c.tcid = true → (s.ctx c.tcid).everSealed = false → (∀ q : RingId, (s.ring q).cid ≠ c.tcid) →
        ∃ t, exec (.ctxClose r seq) s = .next t ∧ (t.ctx c.tcid).state = .free ∧ t.mem = s.mem ∧
          (∃ d, t.cmd r seq = some d ∧ d.stage = .finished ∧ d.status = stOk) ∧
          (∀ d : Cid, d ≠ c.tcid → t.ctx d = s.ctx d) ∧
          (∀ o : Nat, (o, c.tcid) ∈ s.soOwn → t.so o = 0 ∧ t.soOwner o = 0) ∧
          (∀ o : Nat, (o, c.tcid) ∉ s.soOwn → t.so o = s.so o ∧ t.soOwner o = s.soOwner o)))

/-- A command that is stalled or has an access outstanding waits. For a finished command that does not: once its counts and reports
are stored, with nothing outstanding after them, it waits while the path to the signal object is interrupted; otherwise, once no
record of it is due any more, the command leaves the list of commands in progress, and its NTF raises the ring's vector. The
step before the records adds SVAL to the signal object when the status is OK and SVAL is not 0; where the object's die is cut
off the status is E_LINK, where the object is uncorrectable E_MEM_UE, and it adds nothing when the status is not OK. The
record's first 8 bytes are its sequence, its status and its layer, and byte 31 is its phase. The clauses that rest on log entry
44 are the model's choice. (spec/13_commands.md R275, spec/13_commands.md R276, spec/13_commands.md R281,
spec/15_package_links.md R319, spec/15_package_links.md R323, spec/18_reliability.md R362) -/
def Obligations.CompletionRetiresCommand : Prop :=
  (∀ (s : State) (r : RingId) (seq : Word) (c : Cmd), s.phase = .up → s.cmd r seq = some c →
      (c.stall ≠ none ∨ s.cmdOwed r seq = true → exec (.commandComplete r seq) s = .next s) ∧
      (∀ (w : State) (e : Cmd), c.stage = .finished → c.stall = none → s.cmdOwed r seq = false → s.observe c = (w, e, true) →
        e.final = stOk → w.objectWay e e.signalObj e.sval = .stall → exec (.commandComplete r seq) s = .next w) ∧
      (∀ (w u : State) (e d : Cmd), c.stage = .finished → c.stall = none → s.cmdOwed r seq = false → s.observe c = (w, e, true) →
        w.cmdOwed r seq = false → (e.final ≠ stOk ∨ w.objectWay e e.signalObj e.sval ≠ .stall) → (w.conclude e).1.putRecords (w.conclude e).2 (w.conclude e).2.due = u → e.ring = r.val → e.seq = seq →
        u.cmd r seq = some d → d.due = [] →
        ∃ t, exec (.commandComplete r seq) s = .next t ∧ t.cmd r seq = none ∧
          (d.ntf = true → (r.val / 256, r.val % 256) ∈ t.irqs))) ∧
  (∀ (s : State) (c : Cmd), c.final = stOk → c.sval ≠ 0 →
      (s.objectWay c c.signalObj c.sval = .cut → (s.conclude c).2.final = stLink ∧ ∀ o, (s.conclude c).1.so o = s.so o) ∧
      (s.objectWay c c.signalObj c.sval ≠ .cut → s.soBroken c.signalObj = true →
        (s.conclude c).2.final = stMemUe ∧ ∀ o, (s.conclude c).1.so o = s.so o)) ∧
  (∀ (s : State) (c : Cmd), c.final = stOk → c.sval ≠ 0 → s.objectWay c c.signalObj c.sval ≠ .cut → s.soBroken c.signalObj = false →
      (s.conclude c).1.so c.signalObj = s.so c.signalObj + c.sval ∧ (s.conclude c).2.status = c.status ∧
      (s.conclude c).2.stage = .recording ∧ (s.conclude c).2.due = c.recordSlots) ∧
  (∀ (s : State) (c : Cmd), c.final ≠ stOk → ∀ o, (s.conclude c).1.so o = s.so o) ∧
  (∀ (c : Cmd) (q : Word) (ext replay : Bool) (n : Nat),
      (c.record q ext replay n).length = 32 ∧
      (c.record q ext replay n).take 8 = leBytes 4 q.toNat ++ leBytes 2 c.final.toNat ++ leBytes 2 c.layer.toNat ∧
      (c.record q ext replay n).getD 31 0 = if phaseBit q.toNat n then 0x80 else 0)

/-- For a READ, WRITE or ATOMIC in class REQ that arrives at an up port: illegal fields, another station or a tag that fails drop it
and count it at the port, an older epoch counts it stale and a newer one early. With the epoch right and the tag good, at a rank
served here: a length that does not fit is answered FORMAT, unmapped memory NOT_MAPPED, an ownership failure ACCESS, a PRIV rank
neither served nor forwarded WRONG_RANK, none of them changing memory; otherwise memory and the answer are those of the access
performed at home, and one response OK is sent. A FWD packet with an access of its own is served alike. A transit packet with a
clear way leaves by the port of its hop; an illegal one is dropped, and so is a MGMT packet at its last hop that is another
station's or fails its tag; one that does not changes nothing by itself. The clauses that rest on log entries 26, 49 are the
model's choice. (spec/14_isobar_fabric.md R297, spec/14_isobar_fabric.md R299, spec/14_isobar_fabric.md R300,
spec/14_isobar_fabric.md R302, spec/14_isobar_fabric.md R298) -/
def Obligations.FabricRequestsAreServed : Prop :=
  (∀ (s : State) (p : PortId) (k : Packet) (n : Nat) (fn : AtomicFn) (d : Bool) (x y : DWord), s.phase = .up → s.portUp p.val = true →
    ∀ r ∈ [(Instr.fabricRead p k n, (1 : BitVec 6), (0 : BitVec 2), IoAccess.read n), (.fabricWrite p k, 2, 0, .write k.data),
           (.fabricAtomic p k fn d x y, 3, 0, .atomic fn d x y)],
      k.op = r.2.1 → k.cls.toNat = r.2.2.1.toNat →
      (packetLegal k = false → exec r.1 s = .next (s.setPort p.val { s.port p.val with drops := (s.port p.val).drops + 1 })) ∧
      (packetLegal k = true → packetLast k = true →
        (k.dst ≠ s.pins.stn → exec r.1 s = .next (s.setPort p.val { s.port p.val with drops := (s.port p.val).drops + 1 })) ∧
        (k.dst = s.pins.stn → k.epoch ≠ s.epoch → s.fab.state ≠ .committed → ∃ t, exec r.1 s = .next t ∧ t.mem = s.mem ∧
          t.fab.responses = s.fab.responses ∧
          t.port p.val = if reached32 (if s.epoch = 0 then s.fab.lastEpoch else s.epoch) k.epoch then { s.port p.val with stale := (s.port p.val).stale + 1 }
                         else { s.port p.val with early := (s.port p.val).early + 1 }) ∧
        (k.dst = s.pins.stn → k.epoch = s.epoch → s.tagGood k = false → ∃ t, exec r.1 s = .next t ∧
          t.port p.val = { s.port p.val with drops := (s.port p.val).drops + 1 }) ∧
        (k.dst = s.pins.stn → k.epoch = s.epoch → s.tagGood k = true →
          (k.priv = true → s.serves k.dstRank.toNat = false → s.aliasOf k.dstRank.toNat 2 = none →
            ∃ t, exec r.1 s = .next t ∧ t.mem = s.mem ∧ t.fab.responses = s.fab.responses ++ [s.response (p.val / 10) k .wrongRank []]) ∧
          ((k.priv = false ∨ s.serves k.dstRank.toNat = true) →
            (ioFits k r.2.2.2 = false → ∃ t, exec r.1 s = .next t ∧ t.mem = s.mem ∧
              t.fab.responses = s.fab.responses ++ [s.response (p.val / 10) k .format []]) ∧
            (ioFits k r.2.2.2 = true → s.fabMapped k.addr.toNat (accBytes r.2.2.2) = false → ∃ t, exec r.1 s = .next t ∧
              t.mem = s.mem ∧ t.fab.responses = s.fab.responses ++ [s.response (p.val / 10) k .notMapped []]) ∧
            (ioFits k r.2.2.2 = true → s.fabMapped k.addr.toNat (accBytes r.2.2.2) = true →
              s.fabAllowed k.addr.toNat (accBytes r.2.2.2) (accWrites r.2.2.2) = false → ∃ t, exec r.1 s = .next t ∧
              t.mem = s.mem ∧ t.fab.responses = s.fab.responses ++ [s.response (p.val / 10) k .access []]) ∧
            (ioFits k r.2.2.2 = true → s.fabMapped k.addr.toNat (accBytes r.2.2.2) = true →
              s.fabAllowed k.addr.toNat (accBytes r.2.2.2) (accWrites r.2.2.2) = true →
              s.ways (4 + p.val / 10) k.addr.toNat (accBytes r.2.2.2) = .clear → s.behind k.addr.toNat (accBytes r.2.2.2) = false →
              s.homeTakes s.jobCid k.addr.toNat r.2.2.2 = true → s.meetsBroken k.addr.toNat r.2.2.2 = false →
              ∃ t, exec r.1 s = .next t ∧ t.mem = (s.homeAccess s.jobCid k.addr.toNat false r.2.2.2).1.mem ∧
                t.fab.responses = (s.homeAccess s.jobCid k.addr.toNat false r.2.2.2).1.fab.responses ++
                  [(s.homeAccess s.jobCid k.addr.toNat false r.2.2.2).1.response (p.val / 10) k .ok
                    (s.homeAccess s.jobCid k.addr.toNat false r.2.2.2).2]))))) ∧
  (∀ (s : State) (p : PortId) (k : Packet) (acc : IoAccess), s.phase = .up → s.portUp p.val = true → k.cls = 1 →
    packetAccess k = some acc → packetLegal k = true → packetLast k = true → k.dst = s.pins.stn → k.epoch = s.epoch → s.tagGood k = true →
    (k.priv = false ∨ s.serves k.dstRank.toNat = true) → ioFits k acc = true → s.fabMapped k.addr.toNat (accBytes acc) = true →
    s.fabAllowed k.addr.toNat (accBytes acc) (accWrites acc) = true → s.ways (4 + p.val / 10) k.addr.toNat (accBytes acc) = .clear →
    s.behind k.addr.toNat (accBytes acc) = false → s.homeTakes s.jobCid k.addr.toNat acc = true → s.meetsBroken k.addr.toNat acc = false →
    ∃ t, exec (.fabricForward p k) s = .next t ∧ t.mem = (s.homeAccess s.jobCid k.addr.toNat false acc).1.mem ∧
      t.fab.responses = (s.homeAccess s.jobCid k.addr.toNat false acc).1.fab.responses ++
        [(s.homeAccess s.jobCid k.addr.toNat false acc).1.response (p.val / 10) k .ok
          (s.homeAccess s.jobCid k.addr.toNat false acc).2]) ∧
  (∀ (s : State) (p : PortId) (k : Packet), s.phase = .up → s.portUp p.val = true →
    (packetLegal k = false → exec (.packetTransit p k) s =
      .next (s.setPort p.val { s.port p.val with drops := (s.port p.val).drops + 1 })) ∧
    (packetLegal k = true → packetLast k = false →
      s.spanWay (4 + p.val / 10) (4 + hopPort k.route.toNat k.hop.toNat / 10 % 2) k.addr.toNat (max 1 (32 * k.len32.toNat)) = .clear →
      s.portUp (hopPort k.route.toNat k.hop.toNat) = true → k.vl.toNat + (bitOf k.gmask.toNat k.hop.toNat).toNat ≤ 2 →
      ∃ t, exec (.packetTransit p k) s = .next t ∧ t.mem = s.mem ∧ t.fab.reqs = s.fab.reqs ∧ t.fab.ports = s.fab.ports ∧
        t.fab.outbox = s.fab.outbox ++ [(hopPort k.route.toNat k.hop.toNat,
          { k with hop := k.hop + 1, vl := BitVec.ofNat 2 (k.vl.toNat + (bitOf k.gmask.toNat k.hop.toNat).toNat) })]) ∧
    (packetLegal k = true → packetLast k = true → k.cls = 3 →
      (k.dst ≠ s.pins.stn →
        exec (.packetTransit p k) s = .next (s.setPort p.val { s.port p.val with drops := (s.port p.val).drops + 1 })) ∧
      (k.dst = s.pins.stn → s.tagGood k = false → ∃ t, exec (.packetTransit p k) s = .next t ∧
        t.port p.val = { s.port p.val with drops := (s.port p.val).drops + 1 }) ∧
      (k.dst = s.pins.stn → s.tagGood k = true → exec (.packetTransit p k) s = .next s)))

/-- An accepted response whose ADDR gives another status changes nothing; one to no outstanding request is dropped and counted;
WRONG_RANK marks a PRIV request for resending; OK to a host load ends the request and loads the data; OK to a posted request
only ends it. A time limit sends a PRIV request that had no response once to its standby, over a route chosen anew, and fails
any other request. A marked request is resent over its route and the mark goes. A route change holds the die's requests toward
the station, until ROUTE_RESUME finds none left on an old route. A lane failure that keeps the width changes nothing, one that
narrows the port sets its width; a port that trained has the width it had at most before, or, with fewer lanes, theirs, as a
degrade event that asks for service. The clauses that rest on log entries 1, 49 are the model's choice.
(spec/14_isobar_fabric.md R301, spec/14_isobar_fabric.md R302, spec/14_isobar_fabric.md R296, spec/14_isobar_fabric.md R289,
spec/14_isobar_fabric.md R290, spec/14_isobar_fabric.md R298, spec/18_reliability.md R371) -/
def Obligations.RequestsEndAtTheirSender : Prop :=
  (∀ (s : State) (p : PortId) (k : Packet) (st : FabStatus), s.phase = .up → s.portUp p.val = true → k.cls = 2 →
    packetLegal k = true → packetLast k = true → k.dst = s.pins.stn → k.epoch = s.epoch → s.tagGood k = true → (k.op = 0x20 ∨ k.op = 0x21) →
    (k.addr.toNat ≠ st.code → exec (.fabricResponse p k st) s = .next s) ∧
    (k.addr.toNat = st.code →
    (s.request? k.tid = none → exec (.fabricResponse p k st) s =
      .next (s.setPort p.val { s.port p.val with drops := (s.port p.val).drops + 1 })) ∧
    (∀ r, s.request? k.tid = some r →
      (st = .wrongRank → r.priv = true → exec (.fabricResponse p k st) s = .next (s.setReq { r with wrong := true, heard := true })) ∧
      (r.who = .posted → st = .ok → ∃ t, exec (.fabricResponse p k st) s = .next t ∧ t.mem = s.mem ∧ t.hosts = s.hosts ∧
        t.fab.reqs = s.fab.reqs.filter fun q => q.tid != r.tid) ∧
      (∀ c, r.who = .host c true → st = .ok → s.released = true → ∃ t, exec (.fabricResponse p k st) s = .next t ∧ t.mem = s.mem ∧
        t.host c = { s.host c with loaded := BitVec.ofNat 64 (leNat k.data) } ∧ (∀ d : Nat, d ≠ c → t.host d = s.host d) ∧
        t.fab.reqs = s.fab.reqs.filter fun q => q.tid != r.tid)))) ∧
  (∀ (s : State) (tid : BitVec 16), s.phase = .up →
    (s.request? tid = none → exec (.fabricRequestTimeout tid) s = .next s ∧ exec (.wrongRankResend tid) s = .next s) ∧
    (∀ r, s.request? tid = some r →
      (r.wrong = false → exec (.wrongRankResend tid) s = .next s) ∧
      (r.wrong = true → ∃ t, exec (.wrongRankResend tid) s = .next t ∧ t.mem = s.mem ∧
        t.fab.reqs = s.fab.reqs.map fun q => if q.tid == r.tid then { r with wrong := false } else q) ∧
      ((r.priv = false ∨ r.resent = true ∨ r.heard = true) → r.who = .posted → ∃ t, exec (.fabricRequestTimeout tid) s = .next t ∧ t.mem = s.mem ∧
        t.fab.reqs = s.fab.reqs.filter fun q => q.tid != r.tid) ∧
      (∀ e route, r.priv = true → r.resent = false → r.heard = false → s.edge r.rank.toNat = some e →
        s.chooseRoute (bitsOf e 79 64) (bitsOf e 59 40) r.addr = some route →
        ∃ t, exec (.fabricRequestTimeout tid) s = .next t ∧ t.mem = s.mem ∧ t.fab.reqs = s.fab.reqs.map fun q =>
          if q.tid == r.tid then { r with resent := true, wrong := false, station := BitVec.ofNat 20 (bitsOf e 59 40), route := route } else q))) ∧
  (∀ (s : State) (u : UmberId) (st : BitVec 20), s.phase = .up →
    (∃ t, exec (.routeChoiceChange u st) s = .next t ∧ (u.val, st) ∈ t.fab.heldTo ∧ t.fab.reqs = s.fab.reqs ∧ t.mem = s.mem) ∧
    ((∃ r ∈ s.fab.reqs, s.onOldRoute u.val st r = true) → exec (.routeResume u st) s = .next s) ∧
    ((∀ r ∈ s.fab.reqs, s.onOldRoute u.val st r = false) → ∃ t, exec (.routeResume u st) s = .next t ∧
      (u.val, st) ∉ t.fab.heldTo ∧ (∀ w, w ≠ (u.val, st) → (w ∈ t.fab.heldTo ↔ w ∈ s.fab.heldTo)) ∧ t.fab.reqs = s.fab.reqs)) ∧
  (∀ (s : State) (p : PortId) (n : Nat), s.phase = .up →
    ((s.port p.val).width ≤ widthOf n → exec (.isobarLaneFailure p n) s = .next s) ∧
    (widthOf n < (s.port p.val).width → ∃ t, exec (.isobarLaneFailure p n) s = .next t ∧ (t.port p.val).width = widthOf n ∧
      ∀ q : Nat, q ≠ p.val → t.port q = s.port q) ∧
    ((s.port p.val).training = false → exec (.isobarPortTrained p n) s = .next s) ∧
    ((s.port p.val).training = true → (s.port p.val).most ≤ widthOf n → exec (.isobarPortTrained p n) s = .next
      (s.setPort p.val { s.port p.val with training := false, width := (s.port p.val).most, degraded := (s.port p.val).most = 1 })) ∧
    ((s.port p.val).training = true → widthOf n < (s.port p.val).most → ∃ t, exec (.isobarPortTrained p n) s = .next t ∧
      (t.port p.val).training = false ∧ (t.port p.val).width = widthOf n ∧ (t.port p.val).most = widthOf n ∧
      (t.svc.getLsbD 22 = true) ∧ ∀ q : Nat, q ≠ p.val → t.port q = s.port q))

/-- PREPARE stores the launch (beside the one that stands, when the package is not IDLE), makes the package PREPARED exactly when
its staged tables have the digest, its epoch is 0 and it is IDLE, acknowledges to the parent and sends its children the edge
updates it has had and PREPARE; a standby has none. PREP_ACK and PREP_DONE are noted for their child alone; the last PREP_DONE
of a rank that is not the root sends the aggregate up, and none goes up while another child has not reported. A child that did
not acknowledge in time is missing and is reported. At the root, a missing rank with a standby is an EDGE_UPDATE, one without
reverts the launch; elsewhere it changes nothing. EDGE_UPDATE, in a launch or not, writes the 16 bytes of the rank's staged
entry and no other byte, and takes the digest; the package keeps it for a launch that comes later. A SCRUBBING child is prepared
again by the root. The clauses that rest on log entries 1, 28 are the model's choice. (spec/14_isobar_fabric.md R310,
spec/14_isobar_fabric.md R312, spec/14_isobar_fabric.md R315) -/
def Obligations.LaunchPreparesTheTree : Prop :=
  (∀ (s : State) (e : Word) (n : Nat) (root sender : BitVec 20) (d : Digest) (sb : Bool), s.phase = .up →
    ∃ t, exec (.prepare e n root ⟨sender, sb⟩ d) s = .next t ∧ t.mem = s.mem ∧
      t.fab.state = (if s.fab.launch.staged = some d ∧ s.epoch = 0 ∧ s.fab.state = .idle then .prepared else s.fab.state) ∧
      (s.fab.state = .idle → t.fab.launch.epoch = e ∧ t.fab.launch.parent = sender ∧ t.fab.launch.digest = d ∧
        t.fab.launch.own = some (s.ownStatus d) ∧
        t.fab.launch.children = (if sb then [] else treeChildren s.launchRank n).map Child.fresh) ∧
      (s.fab.state ≠ .idle → t.fab.launch.children = s.fab.launch.children ∧ t.fab.launch.epoch = s.fab.launch.epoch ∧
        t.fab.launch.held = s.fab.launch.held ∧ t.fab.second.epoch = e ∧ t.fab.second.parent = sender ∧
        t.fab.second.own = some (s.ownStatus d) ∧
        t.fab.second.children = (if sb then [] else treeChildren s.launchRank n).map Child.fresh) ∧
      ((if s.fab.state = .idle then s.fab.second.due else s.fab.launch.due) = none →
        t.fab.mgmt = s.fab.mgmt ++ (if s.launchRank = 0 then [] else [.prepAck sender]) ++
          (if sb then [] else treeChildren s.launchRank n).flatMap (fun r =>
            s.fab.launch.edges.map fun x => .edgeUpdate (BitVec.ofNat 20 r) x.1 x.2.1 x.2.2) ++
          (if sb then [] else treeChildren s.launchRank n).map (fun r =>
            .prepare (BitVec.ofNat 20 r) e (BitVec.ofNat 32 n) root (BitVec.ofNat 20 s.launchRank) d false) ++
          (if (sb = true ∨ treeChildren s.launchRank n = []) ∧ s.launchRank ≠ 0 then [.prepDone sender (s.ownStatus d)] else []))) ∧
  (∀ (s : State) (child : BitVec 20), s.phase = .up →
    ((∃ c ∈ s.fab.second.children, c.rank = child ∧ c.done = none) →
      (∃ t, exec (.prepAck child) s = .next t ∧ t.fab.launch = s.fab.launch ∧
        t.fab.second.children = s.fab.second.children.map fun c => if c.rank == child then { c with ack := true } else c) ∧
      ∀ st : PrepStatus, ∃ t, exec (.prepDone child st) s = .next t ∧ t.fab.launch.children = s.fab.launch.children ∧
        t.fab.second.children = s.fab.second.children.map fun c => if c.rank == child then { c with done := some st } else c) ∧
    (∀ c, (s.fab.second.children.find? fun c => c.rank == child && c.done.isNone) = some c → c.missing = false → c.ack = false →
      ∃ t, exec (.prepAckTimeout child) s = .next t ∧ t.fab.launch = s.fab.launch ∧ t.fab.mgmt = s.fab.mgmt ++ [.missing child] ∧
        t.fab.second.children = s.fab.second.children.map fun c => if c.rank == child then { c with missing := true } else c) ∧
    ((∀ c ∈ s.fab.second.children, c.rank = child → c.done ≠ none) →
      (∃ t, exec (.prepAck child) s = .next t ∧ t.child child = (s.child child).map (fun c => { c with ack := true }) ∧
        ∀ r : BitVec 20, r ≠ child → t.child r = s.child r) ∧
      (∀ st : PrepStatus, ∃ t, exec (.prepDone child st) s = .next t ∧
        t.child child = (s.child child).map (fun c => { c with done := some st }) ∧ (∀ r : BitVec 20, r ≠ child → t.child r = s.child r) ∧
        (s.launchRank ≠ 0 → s.fab.launch.sent = false → s.fab.launch.own = some .ready → s.fab.second.due = none →
          ((∀ c ∈ s.fab.launch.children, c.rank ≠ child → c.done = some .ready) →
            (∃ c ∈ s.fab.launch.children, c.rank = child) →
            t.fab.mgmt = s.fab.mgmt ++ [.prepDone s.fab.launch.parent st] ∧ t.fab.launch.sent = true) ∧
          ((∃ c ∈ s.fab.launch.children, c.rank ≠ child ∧ c.done = none) → t.fab.mgmt = s.fab.mgmt)))) ∧
    (∀ c, s.child child = some c → c.missing = false →
      (c.ack = true → exec (.prepAckTimeout child) s = .next s) ∧
      (c.ack = false → ∃ t, exec (.prepAckTimeout child) s = .next t ∧ t.child child = some { c with missing := true } ∧
        (∀ r : BitVec 20, r ≠ child → t.child r = s.child r) ∧ t.fab.mgmt = s.fab.mgmt ++ [.missing child])) ∧
    (∀ c, s.child child = some c → s.launchRank = 0 → c.done = some .scrubbing → ∃ t, exec (.scrubbingReprepare child) s = .next t ∧
      t.child child = some { c with ack := false, done := none } ∧
      t.fab.mgmt = s.fab.mgmt ++ [.prepare child s.fab.launch.epoch s.fab.launch.n s.fab.launch.root 0 s.fab.launch.digest c.standby]) ∧
    ((∀ c, s.child child = some c → c.done ≠ some .scrubbing) → exec (.scrubbingReprepare child) s = .next s)) ∧
  (∀ (s : State) (rank : BitVec 20) (entry : EdgeEntry) (d : Digest), s.phase = .up →
    (s.spanMapped (s.stagedEdgeBase + 16 * rank.toNat) 16 = true →
      s.ownOk 0 true (s.stagedEdgeBase + 16 * rank.toNat) 16 = true →
      ∃ t, exec (.edgeUpdate rank entry d) s = .next t ∧ t.fab.launch.staged = some d ∧ t.fab.state = s.fab.state ∧
        t.fab.launch.edges = s.fab.launch.edges ++ [(rank, entry, d)] ∧
        ∀ a : Nat, t.readByte a =
          if s.stagedEdgeBase + 16 * rank.toNat ≤ a ∧ a < s.stagedEdgeBase + 16 * rank.toNat + 16
          then (leBytes 16 entry.toNat).getD (a - (s.stagedEdgeBase + 16 * rank.toNat)) 0 else s.readByte a) ∧
    ((s.launchRank ≠ 0 ∨ (s.launching = false ∧ s.fab.second.own = none)) → ∀ st, exec (.missing rank st d) s = .next s) ∧
    (s.launchRank = 0 → s.launching = true → exec (.missing rank none d) s = exec .revert s ∧
      (rank ≠ 0 → exec (.missing rank (some entry) d) s = exec (.edgeUpdate rank entry d) s)))

/-- COMMIT of a PREPARED package with its launch's epoch, when the package may commit, makes it COMMITTED and tells its children;
the apply of the staged state at the tick of T_apply is checked first, or pending with an earlier result, or, that time having
passed, LATE and given up. Any other COMMIT changes nothing. A child's COMMIT_ACK and TEARDOWN_DONE are noted; one that did not
acknowledge is passed over to its children. REVERT, and PREPARED_TIMEOUT of a PREPARED package, return it to IDLE with the
launch's staged words as in force; of a launch kept beside a job, REVERT discards that one and leaves FAB_STATE. TEARDOWN of an
ACTIVE, PREPARED or COMMITTED package begins, else nothing; it ends once the job context has closed. In a job TIME_SYNC sets
DEVTIME's rate, within 200 ppm, and no step; outside one DEVTIME_STEP moves DEVTIME on and never back, and at a package tick it
reaches with nothing waiting, a teardown goes on to SCRUBBING and a new management key is in force. The clauses that rest on log
entries 1, 2 (what a tick does) and 28 are the model's choice. (spec/14_isobar_fabric.md R311, spec/14_isobar_fabric.md R313,
spec/14_isobar_fabric.md R314, spec/14_isobar_fabric.md R303, spec/14_isobar_fabric.md R305, spec/17_security.md R359,
spec/19_startup.md R380, spec/19_startup.md R383, spec/19_startup.md R384) -/
def Obligations.LaunchCommitsAndEnds : Prop :=
  (∀ (s : State) (e : Word) (at_ : DWord), s.phase = .up →
    ((s.fab.state ≠ .prepared ∨ e ≠ s.fab.launch.epoch ∨ s.mayCommit = false) → exec (.commit e at_) s = .next s) ∧
    (s.fab.state = .prepared → e = s.fab.launch.epoch → s.mayCommit = true →
      ∃ t, exec (.commit e at_) s = .next t ∧ t.fab.state = .committed ∧ t.fab.launch.applyAt = some at_ ∧ t.regs = s.regs ∧
        (s.front.clean = false → t.front.state = .checking true ∧ t.front.applyAt = tickAt at_ ∧ t.front.snapshot = s.shadow ∧
          t.front.main.words = s.shadow ∧ t.mem = s.mem) ∧
        (s.front.clean = true → s.time.toNat ≤ (tickAt at_).toNat → t.front.state = .pending ∧ t.front.reused = true ∧
          t.front.applyAt = tickAt at_ ∧ t.front.snapshot = s.shadow ∧ t.mem = s.mem) ∧
        (s.front.clean = true → (tickAt at_).toNat < s.time.toNat → t.front.state = .idle ∧ t.front.late = true ∧ t.front.snapshot = []) ∧
        t.fab.mgmt = s.fab.mgmt ++ (if s.launchRank = 0 then [] else [.commitAck s.fab.launch.parent]) ++
          (s.fab.launch.children.filter fun c => !c.missing).map fun c => .commit c.rank e at_)) ∧
  (∀ (s : State) (child : BitVec 20), s.phase = .up →
    (∃ t, exec (.commitAck child) s = .next t ∧ t.child child = (s.child child).map (fun c => { c with commitAck := true }) ∧
      ∀ r : BitVec 20, r ≠ child → t.child r = s.child r) ∧
    (∃ t, exec (.teardownDone child) s = .next t ∧ t.child child = (s.child child).map (fun c => { c with torn := true }) ∧
      ∀ r : BitVec 20, r ≠ child → t.child r = s.child r) ∧
    (∀ c at_, s.child child = some c → s.fab.launch.applyAt = some at_ →
      (c.commitAck = true → exec (.commitAckTimeout child) s = .next s) ∧
      (c.commitAck = false → c.standby = false → s.fab.state = .committed → ∃ t, exec (.commitAckTimeout child) s = .next t ∧ t.mem = s.mem ∧
        t.fab.launch = s.fab.launch ∧ t.fab.mgmt = s.fab.mgmt ++
          (treeChildren child.toNat s.fab.launch.n.toNat).map fun r => .commit (BitVec.ofNat 20 r) s.fab.launch.epoch at_))) ∧
  (∀ s : State, s.phase = .up →
    (s.launching = false → s.fab.second.own = none → exec .revert s = .next s) ∧
    (s.launching = false → s.fab.second.own ≠ none → ∃ t, exec .revert s = .next t ∧ t.fab.state = s.fab.state ∧
      t.fab.launch = { s.fab.launch with edges := [] } ∧ t.fab.second = Launch.reset ∧ t.regs = s.regs ∧ (∀ a ∈ launchWords, t.shadowOf a = s.reg a) ∧
      t.fab.mgmt = s.fab.mgmt ++ s.fab.second.children.map fun c => .revert c.rank) ∧
    (s.launching = true → ∃ t, exec .revert s = .next t ∧ t.fab.state = .idle ∧ t.fab.launch = Launch.reset ∧ t.regs = s.regs ∧
      (∀ a ∈ launchWords, t.shadowOf a = s.reg a) ∧ (∀ a, a ∉ launchWords → t.shadowOf a = s.shadowOf a) ∧
      t.fab.mgmt = s.fab.mgmt ++ s.fab.launch.children.map fun c => .revert c.rank) ∧
    (s.fab.state ≠ .prepared → exec .preparedTimeout s = .next s) ∧
    (s.fab.state = .prepared → ∃ t, exec .preparedTimeout s = .next t ∧ t.fab.state = .idle ∧ t.fab.launch = Launch.reset ∧
      (∀ a ∈ launchWords, t.shadowOf a = s.reg a) ∧ t.regs = s.regs) ∧
    (s.fab.state ≠ .active → s.fab.state ≠ .prepared → s.fab.state ≠ .committed → exec .teardown s = .next s) ∧
    ((s.fab.state = .active ∨ s.fab.state = .prepared ∨ s.fab.state = .committed) → ∃ t, exec .teardown s = .next t ∧ t.fab.state = .teardown ∧ t.fab.leaving = s.jobNow ∧
      t.regs = s.regs) ∧
    ((s.fab.state ≠ .scrubbing ∨ (s.ctx s.fab.leaving.1).closing = true) → exec .teardownScrubDone s = .next s) ∧
    (s.fab.state = .scrubbing → (s.ctx s.fab.leaving.1).closing = false → ∃ t, exec .teardownScrubDone s = .next t ∧ t.fab.state = .idle ∧ t.mem = s.mem ∧
      t.fab.mgmt = s.fab.mgmt ++ if s.fab.leaving.2 = 0 then [] else [.teardownDone s.fab.launch.parent])) ∧
  (∀ s : State, s.phase = .up →
    (∀ x : Int, (s.epoch = 0 → exec (.timeSync x) s = .next s) ∧
      (s.epoch ≠ 0 → ∃ t, exec (.timeSync x) s = .next t ∧ t.time = s.time ∧ -200 ≤ t.rate ∧ t.rate ≤ 200 ∧
        (-200 ≤ x → x ≤ 200 → t.rate = x) ∧ t = { s with rate := t.rate })) ∧
    (∀ v : DWord, (s.epoch ≠ 0 → exec (.devtimeStep v) s = .next s) ∧ (v.toNat ≤ s.time.toNat → exec (.devtimeStep v) s = .next s) ∧
      (s.epoch = 0 → s.time.toNat < v.toNat → ∃ t, exec (.devtimeStep v) s = .next t ∧
        (s.time.toNat / 1000 = v.toNat / 1000 → t = { s with time := v }) ∧
        (s.time.toNat / 1000 ≠ v.toNat / 1000 → s.nothingWaits →
          t.time = v ∧ t.sec.mgmtNew = none ∧ t.fab.state = if s.fab.state = .teardown then .scrubbing else s.fab.state))))

/-- A started COLLECTIVE whose group and tag another uses ends with E_STATE. One with its payload in line, or in one granule of
local memory, some member yet unknown, is kept with its own data and the members that announced themselves before. An
announcement of a member before the start is kept once; one after it adds the member while another is missing; one of no member
changes nothing. Data whose packets pass their checks adds the member and its bytes; data of the own member, of no member or of
no collective changes nothing; data that is lost, or a packet of which fails its tag, ends the started command with E_LINK and
PARTIAL. A timeout changes nothing once every member has announced itself, and otherwise ends the command with E_TIMEOUT. A
BARRIER whose members are all there ends with OK. With every member announced and the data that it needs, a command whose DST
lies in one block of 256 bytes of local memory that is reachable, within quota, held by no transaction and not uncorrectable
stores the result of its KIND there and nothing else, and ends with OK: ALLGATHER all members' data in order, BROADCAST the
root's, a sum the gsum of each element's members in order, of LONG the exact sum with LONG_OVF, of a scatter the member's own
share, MAX and MIN the selection. gsum of one member is it, NaN made canonical, and of more than 2^m and at most 2^(m + 1) the
rounded sum of the gsums of the first 2^m and of the rest. The clauses that rest on log entries 1, 50 are the model's choice.
(spec/14_isobar_fabric.md R306, spec/14_isobar_fabric.md R307, spec/14_isobar_fabric.md R308, spec/14_isobar_fabric.md R309,
spec/14_isobar_fabric.md R299, spec/13_commands.md R277) -/
def Obligations.CollectivesGatherMembers : Prop :=
  (∀ (s : State) (r : RingId) (seq : Word) (c : Cmd), s.phase = .up → s.fatal = false → s.cmd r seq = some c → c.stage = .started →
    c.stall = none → c.opcode = 0x08 → s.coll r seq = none →
    ((∃ x ∈ s.fab.colls, x.group = c.group ∧ x.tag = c.tag) →
      exec (.collective r seq) s = .next (s.setCmd { c with stage := .finished, status := stState })) ∧
    ((∀ x ∈ s.fab.colls, ¬ (x.group = c.group ∧ x.tag = c.tag)) → c.inl = true → c.ring = r.val → c.seq = seq →
      (∃ i : Nat, i < c.collSize ∧ i ≠ s.myMember c ∧ ((if c.ring < 512 then 0 else 1), c.group, c.tag, i) ∉ s.fab.annc) →
      ∃ t x, exec (.collective r seq) s = .next t ∧ t.mem = s.mem ∧ t.cmds = s.cmds ∧ t.fab.colls = s.fab.colls ++ [x] ∧ x.ring = r.val ∧
        x.seq = seq ∧ x.group = c.group ∧ x.tag = c.tag ∧ s.myMember c ∈ x.here ∧
        tabFind x.data (s.myMember c) = some ((c.slots.drop 1).flatten.take (c.collGives (s.myMember c)))) ∧
    (∀ (v : State) (a : Nat) (nl : Bool), (∀ x ∈ s.fab.colls, ¬ (x.group = c.group ∧ x.tag = c.tag)) → c.inl = false →
      (∃ i : Nat, i < c.collSize ∧ i ≠ s.myMember c ∧ ((if c.ring < 512 then 0 else 1), c.group, c.tag, i) ∉ s.fab.annc) →
      let n := c.collGives (s.myMember c)
      granulePieces (field c.slot 16 8) n = [(field c.slot 16 8, n)] →
      s.translate (dispatchReq r.val (some seq)) c.cid (field c.slot 16 8) n .dispatchRead = (v, .at a nl) →
      isRemote a = false → isMemory a = true → v.ways (r.val / 256) a n = .clear → v.quiet a n false none = true →
      v.quotaOk c.cid a n = true → v.brokenIn a n = false →
      ∃ t x bs, exec (.collective r seq) s = .next t ∧ t.mem = s.mem ∧ t.fab.colls = s.fab.colls ++ [x] ∧ x.ring = r.val ∧
        x.seq = seq ∧ x.group = c.group ∧ x.tag = c.tag ∧ s.myMember c ∈ x.here ∧ tabFind x.data (s.myMember c) = some bs ∧
        bs.length = n ∧ ∀ k : Nat, k < n → bs.getD k 0 = s.readByte (a + k))) ∧
  (∀ (s : State) (u : UmberId) (g : DWord) (tag : Word) (i : Nat), s.phase = .up →
    (grpSize g ≤ i → exec (.collectiveAnnounce u g tag i) s = .next s) ∧
    (i < grpSize g → s.collOf u.val g tag = none → ∃ t, exec (.collectiveAnnounce u g tag i) s = .next t ∧ t.mem = s.mem ∧
      t.fab.annc = if (u.val, g, tag, i) ∈ s.fab.annc then s.fab.annc else s.fab.annc ++ [(u.val, g, tag, i)])) ∧
  (∀ (s : State) (u : UmberId) (g : DWord) (tag : Word) (x : Coll) (c : Cmd), s.phase = .up → s.collOf u.val g tag = some x →
    s.cmd x.ring x.seq = some c → c.group = g →
    (∀ i : Nat, i < grpSize g → i ∉ x.here → (∃ j : Nat, j < grpSize g ∧ j ≠ i ∧ j ∉ x.here) →
      exec (.collectiveAnnounce u g tag i) s = .next (s.setColl { x with here := x.here ++ [i] }) ∧
      (i ≠ s.myMember c → ∀ ps : List (PortId × Packet), (∀ q ∈ ps, s.collGood q.1.val q.2 = true) →
        (ps.flatMap fun q => q.2.data).length = c.collGives i →
        exec (.collectiveData u g tag i ps false) s =
          .next (s.setColl { x with here := x.here ++ [i], data := tabPut x.data i (ps.flatMap fun q => q.2.data) }))) ∧
    (∀ (i : Nat) (ps : List (PortId × Packet)) (lost : Bool), (∀ q ∈ ps, s.collGood q.1.val q.2 = true) →
      (grpSize g ≤ i ∨ i = s.myMember c) → exec (.collectiveData u g tag i ps lost) s = .next s) ∧
    (∀ (i : Nat) (ps : List (PortId × Packet)), (∀ q ∈ ps, s.collGood q.1.val q.2 = true) → i < grpSize g → i ≠ s.myMember c →
      c.hasStarted = true → ∃ t d, exec (.collectiveData u g tag i ps true) s = .next t ∧
        t.coll x.ring x.seq = none ∧ t.cmd x.ring x.seq = some d ∧ d.stage = .finished ∧ d.status = stLink ∧ d.partWrites = true) ∧
    (∀ (i : Nat) (p : PortId) (k : Packet), i < grpSize g → i ≠ s.myMember c → s.portUp p.val = true → packetLegal k = true →
      packetLast k = true → k.cls = 0 → k.dst = s.pins.stn → k.epoch = s.epoch → s.tagGood k = false →
      c.hasStarted = true → ∃ t d, exec (.collectiveData u g tag i [(p, k)] false) s = .next t ∧
        t.coll x.ring x.seq = none ∧ t.cmd x.ring x.seq = some d ∧ d.stage = .finished ∧ d.status = stLink ∧ d.partWrites = true) ∧
    ((∀ i : Nat, i < grpSize g → i ∈ x.here) → exec (.collectiveTimeout u g tag) s = .next s) ∧
    ((∃ i : Nat, i < grpSize g ∧ i ∉ x.here) → c.hasStarted = true → ∃ t d, exec (.collectiveTimeout u g tag) s = .next t ∧
      t.coll x.ring x.seq = none ∧ t.cmd x.ring x.seq = some d ∧ d.stage = .finished ∧ d.status = stTimeout ∧ d.partWrites = true) ∧
    (c.collKind = 5 → c.stall = none → s.fatal = false → c.stage = .started → c.opcode = 0x08 → c.ring = x.ring → c.seq = x.seq →
      (∀ i : Nat, i < grpSize g → i ∈ x.here) → ∀ r : RingId, r.val = x.ring → s.coll x.ring x.seq = some x →
      ∃ t, exec (.collective r x.seq) s = .next t ∧ t.mem = s.mem ∧ t.coll x.ring x.seq = none ∧
        t.cmd x.ring x.seq = some { c with stage := .finished, status := stOk }) ∧
    (∀ (v : State) (a : Nat) (nl : Bool) (bs : List Byte) (ovf : Bool) (r : RingId), c.stall = none → s.fatal = false → c.stage = .started →
      c.opcode = 0x08 → c.status = stOk → c.moved = 0 → r.val = x.ring → s.coll x.ring x.seq = some x →
      (∀ i : Nat, i < grpSize g → i ∈ x.here ∧ (c.collNeeds (s.myMember c) i = true → i = s.myMember c ∨ tabFind x.data i ≠ none)) →
      c.collResult (s.myMember c) ((List.range (grpSize g)).map fun i => (tabFind x.data i).getD []) = some (bs, ovf) →
      packetPieces (field c.slot 24 8) bs.length = [(field c.slot 24 8, bs.length)] →
      s.translate (dispatchReq x.ring (some x.seq)) c.cid (field c.slot 24 8) bs.length .dispatchWrite = (v, .at a nl) →
      isRemote a = false → isMemory a = true → v.ways (x.ring / 256) a bs.length = .clear → v.quiet a bs.length true none = true →
      v.quotaOk c.cid a bs.length = true → v.partlyBroken a bs.length = false →
      ∃ t d, exec (.collective r x.seq) s = .next t ∧ t.coll x.ring x.seq = none ∧ t.cmd x.ring x.seq = some d ∧
        d.stage = .finished ∧ d.status = stOk ∧ d.longOvf = (c.longOvf || ovf) ∧
        ∀ b : Nat, t.readByte b = if a ≤ b ∧ b < a + bs.length then bs.getD (b - a) 0 else s.readByte b)) ∧
  (∀ (c : Cmd) (me : Nat) (data : List (List Byte)),
    let part := fun (lo n : Nat) (f : List Nat → Nat) =>
      packRow c.collF ((List.range n).map fun k => f (data.map fun bs => (unpackRow c.collF c.collCount bs).getD (lo + k) 0))
    let share := c.collCount / c.collSize
    (c.collKind = 3 → c.collResult me data = some (data.flatten, false)) ∧
    (c.collKind = 4 → c.collResult me data = some (data.getD c.collRoot [], false)) ∧
    (c.collF ≠ .long → (c.collKind = 0 ∨ (c.collKind = 1 ∧ me = c.collRoot)) →
      c.collResult me data = some (part 0 c.collCount (gsum c.collF 21), false)) ∧
    (c.collF ≠ .long → c.collKind = 2 → c.collResult me data = some (part (me * share) share (gsum c.collF 21), false)) ∧
    (c.collKind = 6 → c.collResult me data = some (part 0 c.collCount (gpick c.collF Num.maxOf), false)) ∧
    (c.collKind = 7 → c.collResult me data = some (part 0 c.collCount (gpick c.collF Num.minOf), false)) ∧
    (∀ sums : Nat → Nat × Bool, c.collF = .long → (c.collKind = 0 ∨ (c.collKind = 1 ∧ me = c.collRoot)) →
      (∀ k : Nat, k < c.collCount → longSum (data.map fun bs => (unpackRow .long c.collCount bs).getD k 0) = some (sums k)) →
      c.collResult me data = some (packRow .long ((List.range c.collCount).map fun k => (sums k).1), (List.range c.collCount).any fun k => (sums k).2))) ∧
  (∀ (f : Fmt) (xs : List Nat), (xs.length = 1 → gsum f 21 xs = f.clean (xs.headD 0)) ∧
    (∀ m : Nat, m < 20 → 2 ^ m < xs.length → xs.length ≤ 2 ^ (m + 1) → gsum f 21 xs = (f.round .ieee
      ((f.value (gsum f 21 (xs.take (2 ^ m)))).add (f.value (gsum f 21 (xs.drop (2 ^ m)))))).code)) ∧
  (∀ (s : State) (u : UmberId) (g : DWord) (tag : Word) (i : Nat) (ps : List (PortId × Packet)) (lost : Bool), s.phase = .up →
    s.collOf u.val g tag = none → ((∀ q ∈ ps, s.collGood q.1.val q.2 = true) → exec (.collectiveData u g tag i ps lost) s = .next s) ∧
      exec (.collectiveTimeout u g tag) s = .next s)

/-- A doorbell whose tail lies within the queue of its head and of the old tail moves the tail alone; another sets DB_ERR and faults
a RUNNING queue pair; one of a foreign CID only sets DB_ERR. RUN = 1 starts a STOPPED queue pair unless its context is sealed,
and sets CFG_ERR on a FAULTED one; RUN = 0 stops one with nothing in progress and no completion due. A READ element whose bytes
have been read is in progress with its message sent; SEND and WRITE send their local bytes as well; an element of another row
changes nothing. An acknowledgement completes the oldest element, a NAK faults the queue pair with its syndrome, exhausted
retries complete the oldest without OK. A key-table entry takes a word unless it makes it valid for a sealed context; the reads
and writes of a queue pair reach no sealed context. While the port is not up in ETHERNET mode, or the queue pair not RUNNING,
incoming messages change nothing. An incoming RDMA that its key-table entry does not allow changes only the answers: it is
refused with a NAK. An allowed READ answers the bytes read under the entry's CID, an allowed WRITE writes its bytes under it and
answers an acknowledgement. A SEND that finds no receive element is refused; one whose element is well formed and large enough
writes its bytes there, moves the receive head on by one and is acknowledged. The clauses that rest on log entries 1, 21, 29, 54
are the model's choice. (spec/14_isobar_fabric.md R292, spec/21_registers.md R415, spec/21_registers.md R416,
spec/13_commands.md R266, spec/14_isobar_fabric.md R291, spec/17_security.md R344) -/
def Obligations.QueuePairsSendCompleteAndServe : Prop :=
  (
  (∀ (s : State) (p : PortId) (n : Fin 256) (cid : Cid) (recv : Bool) (tail : Word), s.phase = .up →
    (cid ≠ 0 → cid ≠ s.qpCid p.val n.val →
      exec (.qpDoorbell p n cid recv tail) s = .next (s.setQp p.val n.val { s.qp p.val n.val with dbErr := true })) ∧
    ((cid = 0 ∨ cid = s.qpCid p.val n.val) →
      ((tail - (if recv then (s.qp p.val n.val).rqHead else (s.qp p.val n.val).sqHead)).toNat ≤ 2 ^ s.qpLog2 p.val n.val →
       (tail - (if recv then (s.qp p.val n.val).rqTail else (s.qp p.val n.val).sqTail)).toNat ≤ 2 ^ s.qpLog2 p.val n.val →
        exec (.qpDoorbell p n cid recv tail) s = .next (s.setQp p.val n.val
          (if recv then { s.qp p.val n.val with rqTail := tail } else { s.qp p.val n.val with sqTail := tail }))) ∧
      (2 ^ s.qpLog2 p.val n.val < (tail - (if recv then (s.qp p.val n.val).rqHead else (s.qp p.val n.val).sqHead)).toNat →
        exec (.qpDoorbell p n cid recv tail) s = .next (s.setQp p.val n.val { s.qp p.val n.val with
          dbErr := true, state := if (s.qp p.val n.val).state = .running then .faulted else (s.qp p.val n.val).state })))) ∧
  (∀ (s : State) (p : PortId) (n : Fin 256), s.phase = .up →
    ((s.qp p.val n.val).state = .stopped → s.sealedCid (s.qpCid p.val n.val) = false → ∃ t, exec (.qpRun p n true) s = .next t ∧
      (t.qp p.val n.val).state = .running ∧ (t.qp p.val n.val).sqNext = (s.qp p.val n.val).sqHead ∧ (t.qp p.val n.val).syndrome = 0) ∧
    (((s.qp p.val n.val).state = .faulted ∨
        ((s.qp p.val n.val).state = .stopped ∧ s.sealedCid (s.qpCid p.val n.val) = true)) →
      exec (.qpRun p n true) s = .next (s.setQp p.val n.val { s.qp p.val n.val with run := true, cfgErr := true })) ∧
    ((s.qp p.val n.val).state ≠ .stopped → (s.qp p.val n.val).flying = [] → (s.qp p.val n.val).due = [] → exec (.qpRun p n false) s =
      .next (s.setQp p.val n.val { s.qp p.val n.val with run := false, state := .stopped, stopping := false })) ∧
    ((s.qp p.val n.val).flying = [] → ∀ data nak, exec (.roceAcknowledgement p n data nak) s = .next s ∧
      exec (.transportRetriesExhausted p n) s = .next s) ∧
    ((s.qp p.val n.val).flying ≠ [] → ∀ data y, exec (.roceAcknowledgement p n data (some y)) s = .next ((s.endErrand (.qpBack p.val n.val)).setQp p.val n.val
      { s.qp p.val n.val with state := .faulted, syndrome := y, stopping := false, flying := [] })) ∧
    (∀ q e rest, (s.qp p.val n.val).flying = (q, e) :: rest →
      (elemOp e ≠ 2 → byteAt e 1 % 2 = 0 → ∀ data, ∃ t, exec (.roceAcknowledgement p n data none) s = .next t ∧
        t.mem = s.mem ∧ (t.qp p.val n.val).flying = rest ∧ (t.qp p.val n.val).cqSeq = (s.qp p.val n.val).cqSeq) ∧
      (∃ t, exec (.transportRetriesExhausted p n) s = .next t ∧ (t.qp p.val n.val).flying = rest ∧
        (t.qp p.val n.val).cqSeq = (s.qp p.val n.val).cqSeq + 1))) ∧
  (∀ (s t : State) (p : PortId) (n : Fin 256) (e : List Byte), s.phase = .up → s.ethUp p.val = true →
    (s.qp p.val n.val).state = .running → (s.qp p.val n.val).stopping = false → (s.qp p.val n.val).sqNext ≠ (s.qp p.val n.val).sqTail →
    s.qpRead (.qpOut p.val n.val) p.val (s.qpCid p.val n.val)
      (s.qpBase p.val n.val 0x00 + 64 * ((s.qp p.val n.val).sqNext.toNat % 2 ^ s.qpLog2 p.val n.val)) 64 = (t, .bytes e) →
    elemOk e = true →
    (elemOp e ≠ 0 → exec (.send p n) s = .next s) ∧ (elemOp e ≠ 1 → exec (.rdmaWrite p n) s = .next s) ∧
    (elemOp e ≠ 2 → exec (.rdmaRead p n) s = .next s) ∧
    (elemOp e = 2 → ∃ u, exec (.rdmaRead p n) s = .next u ∧ u.mem = t.mem ∧
      (u.qp p.val n.val).sqNext = (s.qp p.val n.val).sqNext + 1 ∧
      (u.qp p.val n.val).flying = (t.qp p.val n.val).flying ++ [((s.qp p.val n.val).sqNext, e)] ∧
      (u.qp p.val n.val).wire = (t.qp p.val n.val).wire ++ [wireRead e]) ∧
    (∀ v bs, t.qpRead (.qpOut p.val n.val) p.val (s.qpCid p.val n.val) (elemLaddr e) (elemLen e) = (v, .bytes bs) →
      (elemOp e = 0 → ∃ u, exec (.send p n) s = .next u ∧ u.mem = v.mem ∧ (u.qp p.val n.val).sqNext = (s.qp p.val n.val).sqNext + 1 ∧
        (u.qp p.val n.val).flying = (v.qp p.val n.val).flying ++ [((s.qp p.val n.val).sqNext, e)] ∧
        (u.qp p.val n.val).wire = (v.qp p.val n.val).wire ++ [wireSend bs]) ∧
      (elemOp e = 1 → ∃ u, exec (.rdmaWrite p n) s = .next u ∧ u.mem = v.mem ∧
        (u.qp p.val n.val).sqNext = (s.qp p.val n.val).sqNext + 1 ∧
        (u.qp p.val n.val).flying = (v.qp p.val n.val).flying ++ [((s.qp p.val n.val).sqNext, e)] ∧
        (u.qp p.val n.val).wire = (v.qp p.val n.val).wire ++ [wireWrite e bs]))) ∧
  (∀ (s : State) (p : PortId) (e : Fin 4096) (v : Word), s.phase = .up →
    (bitOf v.toNat 16 = true → s.sealedCid (v.setWidth 16) = true → exec (.keyEntryWrite p e v) s = .next s) ∧
    ((bitOf v.toNat 16 = false ∨ s.sealedCid (v.setWidth 16) = false) →
      exec (.keyEntryWrite p e v) s = .next (s.setReg (keyBlock p.val e.val + 16) (v &&& 0x0007FFFF)))) ∧
  (∀ (s : State) (k : ErrandKey) (p : Nat) (cid : Cid) (va : Nat), s.sealedCid cid = true →
    (∀ n : Nat, 0 < n → s.qpRead k p cid va n = (s, .bad stAccess)) ∧ ∀ bs : List Byte, bs ≠ [] → s.qpWrite k p cid va bs = (s, .bad stAccess))) ∧
  (
  (∀ (s : State) (p : PortId) (n : Fin 256) (rkey : Word) (va : DWord) (a : IoAccess) (data : List Byte), s.phase = .up →
    (s.ethUp p.val = false ∨ (s.qp p.val n.val).state ≠ .running) →
    exec (.incomingRdma p n rkey va a) s = .next s ∧ exec (.incomingSend p n data) s = .next s) ∧
  (∀ (s : State) (p : PortId) (n : Fin 256) (rkey : Word) (va : DWord) (a : IoAccess), s.phase = .up → s.ethUp p.val = true →
    (s.qp p.val n.val).state = .running →
    (s.keyOk p.val rkey va.toNat a = false → exec (.incomingRdma p n rkey va a) s = .next
      (s.setQp p.val n.val { s.qp p.val n.val with wire := (s.qp p.val n.val).wire ++ [wireNak nakAccess] })) ∧
    (∀ k t bs, a = .read k → s.keyOk p.val rkey va.toNat a = true →
      s.qpRead (.qpIn p.val n.val) p.val (BitVec.ofNat 16 (s.keyWord p.val (rkey.toNat % 4096))) va.toNat k = (t, .bytes bs) →
      ∃ u, exec (.incomingRdma p n rkey va a) s = .next u ∧ u.mem = t.mem ∧
        (u.qp p.val n.val).wire = (t.qp p.val n.val).wire ++ [wireData bs]) ∧
    (∀ bs t, a = .write bs → s.keyOk p.val rkey va.toNat a = true →
      s.qpWrite (.qpIn p.val n.val) p.val (BitVec.ofNat 16 (s.keyWord p.val (rkey.toNat % 4096))) va.toNat bs = (t, .done) →
      ∃ u, exec (.incomingRdma p n rkey va a) s = .next u ∧ u.mem = t.mem ∧
        (u.qp p.val n.val).wire = (t.qp p.val n.val).wire ++ [wireAck])) ∧
  (∀ (s : State) (p : PortId) (n : Fin 256) (data : List Byte), s.phase = .up → s.ethUp p.val = true → (s.qp p.val n.val).state = .running →
    ((s.qp p.val n.val).rqHead = (s.qp p.val n.val).rqTail → exec (.incomingSend p n data) s = .next
      (s.setQp p.val n.val { s.qp p.val n.val with wire := (s.qp p.val n.val).wire ++ [wireNak nakRequest] })) ∧
    (∀ t v e, (s.qp p.val n.val).rqHead ≠ (s.qp p.val n.val).rqTail →
      s.qpRead (.qpIn p.val n.val) p.val (s.qpCid p.val n.val)
        (s.qpBase p.val n.val 0x08 + 64 * ((s.qp p.val n.val).rqHead.toNat % 2 ^ s.qpLog2 p.val n.val)) 64 = (t, .bytes e) →
      elemOk e = true → elemOp e = 0 → data.length ≤ elemLen e → byteAt e 1 % 2 = 0 →
      t.qpWrite (.qpIn p.val n.val) p.val (s.qpCid p.val n.val) (elemLaddr e) data = (v, .done) →
      ∃ u, exec (.incomingSend p n data) s = .next u ∧ u.mem = v.mem ∧ (u.qp p.val n.val).rqHead = (s.qp p.val n.val).rqHead + 1 ∧
        (u.qp p.val n.val).wire = (v.qp p.val n.val).wire ++ [wireAck])))

/-- On an UP link a flit of 256 bytes whose CRC passes and whose SEQ is the expected one is delivered: the receiver's sequence moves
on by one, the failures in a row go, and its ACK frees the other direction's replay buffer; one of another SEQ is not delivered.
One that fails counts a failure in that direction and has the expected flit named in a NAK, anew when it was resent, while those
behind it that come before the resend count nothing; the 16th in a row starts a retraining. A NAK, in a header or by itself,
names the flit to resend from and counts one replay. A retraining starts on an UP link, by itself or by PLINK_CTL, and carries
nothing meanwhile. When it ends, a link whose groups all pass is UP as before; one that keeps at least its least width is UP
with the groups that pass; one that keeps fewer is DOWN with none; a time limit sends it DOWN. No other link changes.
PATH_RESUME lifts the hold of its pair of dies and of no other. The clauses that rest on log entries 1, 55, 67 are the model's
choice. (spec/15_package_links.md R318, spec/15_package_links.md R319, spec/15_package_links.md R320, spec/15_package_links.md
R321, spec/15_package_links.md R322, spec/15_package_links.md R326) -/
def Obligations.PackageLinksRetrainAndRecover : Prop :=
  (∀ (s : State) (l : LinkId) (hi corr : Bool) (flit : List Byte), s.phase = .up →
    ((s.link l.val).state ≠ .up ∨ flit.length ≠ 256 → exec (.flitReceive l hi corr flit) s = .next s) ∧
    ((s.link l.val).state ≠ .up → (∀ q, exec (.nak l hi q) s = .next s) ∧
      exec (.linkRetrain l) s = .next s ∧ exec (.retrain l) s = .next s) ∧
    ((s.link l.val).state = .up → flit.length = 256 → flitCrcOk flit = true → ∃ t, exec (.flitReceive l hi corr flit) s = .next t ∧
      (∀ k : Nat, k ≠ l.val → t.link k = s.link k) ∧ (t.link l.val).state = .up ∧ (t.link l.val).groups = (s.link l.val).groups ∧
      (t.link l.val).fecCorr = (if corr = true ∧ (s.link l.val).fecCorr ≠ 0xFFFF then (s.link l.val).fecCorr + 1
        else (s.link l.val).fecCorr) ∧
      (flitSeq flit = ((s.link l.val).dir hi).exp →
        (((s.link l.val).dir hi).exp - ((s.link l.val).dir hi).acked).toNat < 1024 →
        (t.link l.val).dir hi = { (s.link l.val).dir hi with crc := 0, exp := ((s.link l.val).dir hi).exp + 1, nak := none, resend := none, group := nextGroup (s.link l.val).groups ((s.link l.val).dir hi).group }) ∧
      (flitSeq flit ≠ ((s.link l.val).dir hi).exp →
        (t.link l.val).dir hi = { (s.link l.val).dir hi with group := nextGroup (s.link l.val).groups ((s.link l.val).dir hi).group }) ∧
      ((t.link l.val).dir (!hi)).exp = ((s.link l.val).dir (!hi)).exp ∧
      ((t.link l.val).dir (!hi)).acked = (if (flitAck flit - ((s.link l.val).dir (!hi)).acked).toNat ≤
          (((s.link l.val).dir (!hi)).exp - ((s.link l.val).dir (!hi)).acked).toNat then flitAck flit
        else ((s.link l.val).dir (!hi)).acked) ∧
      (flitNak flit = false → ((t.link l.val).dir (!hi)).resend = ((s.link l.val).dir (!hi)).resend ∧
        (t.link l.val).replays = (s.link l.val).replays) ∧
      (flitNak flit = true → ((s.link l.val).dir (!hi)).nak = some (flitAck flit) →
        ((s.link l.val).dir (!hi)).resend ≠ some (flitAck flit) → (s.link l.val).replays ≠ 0xFFFF →
        ((t.link l.val).dir (!hi)).resend = some (flitAck flit) ∧ (t.link l.val).replays = (s.link l.val).replays + 1)) ∧
    ((s.link l.val).state = .up → flit.length = 256 → flitCrcOk flit = false →
      (((s.link l.val).dir hi).nak ≠ none → ((s.link l.val).dir hi).resend = none → ((s.link l.val).dir hi).crc < 16 →
        exec (.flitReceive l hi false flit) s = .next (s.setLink l.val
          ((s.link l.val).setDir hi { (s.link l.val).dir hi with group := nextGroup (s.link l.val).groups ((s.link l.val).dir hi).group }))) ∧
      ((((s.link l.val).dir hi).nak = none ∨ ((s.link l.val).dir hi).resend ≠ none) → ((s.link l.val).dir hi).crc < 15 →
        exec (.flitReceive l hi false flit) s = .next (s.setLink l.val
        ((s.link l.val).setDir hi { (s.link l.val).dir hi with crc := ((s.link l.val).dir hi).crc + 1, nak := some ((s.link l.val).dir hi).exp, resend := none, group := nextGroup (s.link l.val).groups ((s.link l.val).dir hi).group }))) ∧
      ((((s.link l.val).dir hi).nak = none ∨ ((s.link l.val).dir hi).resend ≠ none) → 15 ≤ ((s.link l.val).dir hi).crc → ∃ t, exec (.flitReceive l hi corr flit) s = .next t ∧ (t.link l.val).state = .retraining ∧
        (t.link l.val).hi.crc = 0 ∧ (t.link l.val).lo.crc = 0 ∧ ((t.link l.val).dir hi).nak = some ((s.link l.val).dir hi).exp ∧
        ((t.link l.val).dir hi).exp = ((s.link l.val).dir hi).exp ∧ ∀ k : Nat, k ≠ l.val → t.link k = s.link k))) ∧
  (∀ (s : State) (l : LinkId) (hi : Bool), s.phase = .up → (s.link l.val).state = .up →
    (∀ q, (s.link l.val).replays ≠ 0xFFFF → ((s.link l.val).dir hi).nak = some q → ((s.link l.val).dir hi).resend ≠ some q →
      exec (.nak l hi q) s = .next (s.setLink l.val
        { (s.link l.val).setDir hi { (s.link l.val).dir hi with resend := some q } with replays := (s.link l.val).replays + 1 })) ∧
    (∀ q, ((s.link l.val).dir hi).nak ≠ some q → exec (.nak l hi q) s = .next (s.setLink l.val (s.link l.val))) ∧
    (∀ c ∈ [Instr.linkRetrain l, .retrain l], ∃ t, exec c s = .next t ∧ (t.link l.val).state = .retraining ∧
      (t.link l.val).hi = { (s.link l.val).hi with crc := 0 } ∧ (t.link l.val).lo = { (s.link l.val).lo with crc := 0 } ∧
      (t.link l.val).groups = (s.link l.val).groups ∧ (∀ k : Nat, k ≠ l.val → t.link k = s.link k) ∧ t.mem = s.mem)) ∧
  (∀ (s : State) (l : LinkId) (pass : BitVec 12), s.phase = .up →
    ((s.link l.val).state ≠ .retraining → exec (.retrainComplete l pass) s = .next s ∧ exec (.retrainTimeout l) s = .next s) ∧
    ((s.link l.val).state = .retraining →
      ((s.link l.val).groups &&& pass = (s.link l.val).groups →
        exec (.retrainComplete l pass) s = .next (s.setLink l.val { s.link l.val with state := .up })) ∧
      ((s.link l.val).groups &&& pass ≠ (s.link l.val).groups →
        leastGroups l.val ≤ popcount 12 ((s.link l.val).groups &&& pass).toNat → ∃ t, exec (.retrainComplete l pass) s = .next t ∧
          t.link l.val = { (s.link l.val).keep ((s.link l.val).groups &&& pass) with state := .up } ∧
          (t.link l.val).groups = (s.link l.val).groups &&& pass ∧
          ∀ k : Nat, k ≠ l.val → t.link k = s.link k) ∧
      ((s.link l.val).groups &&& pass ≠ (s.link l.val).groups →
        popcount 12 ((s.link l.val).groups &&& pass).toNat < leastGroups l.val → ∃ t, exec (.retrainComplete l pass) s = .next t ∧
          (t.link l.val).state = .down ∧ (t.link l.val).groups = 0 ∧ ∀ k : Nat, k ≠ l.val → t.link k = s.link k) ∧
      (∃ t, exec (.retrainTimeout l) s = .next t ∧ (t.link l.val).state = .down ∧ (t.link l.val).groups = 0 ∧
        ∀ k : Nat, k ≠ l.val → t.link k = s.link k))) ∧
  (∀ (s : State) (src dst : Fin 6), s.phase = .up → ∃ t, exec (.pathResume src dst) s = .next t ∧ t.links.tab = s.links.tab ∧ t.mem = s.mem ∧
    ∀ p, p ∈ t.links.held ↔ p ∈ s.links.held ∧ p ≠ (src.val, dst.val))

/-- A die's activity rises toward its demand by at most the slope; above its demand it holds while a hold time is set and has not
ended, and otherwise falls by at most the slope, ballast making up the difference. The hold's end lets it fall. An Ochre die's
islands are gated when it is IDLE with no demand and lowered in phase 1 or 2 within the envelope; a return to nominal voltage
takes fewer than 300 or 50 steps of 100 ns, during which the activity does not rise, or stays within the envelope. PREWARM adds
the target of the forecast phase to the levels that the die of the ring holds, when a command there waits only on its WAIT, and
a die in service rises at least toward each level, a gated one returning to service for it; the time limit removes the oldest.
PWR_ALERT stretches its rail and no other, and its release ends that stretch. DROOP stretches its island and counts one event of
its die unless FREEZE stops its counters, and its recovery ends that stretch alone. The clauses that rest on log entries 1, 11
are the model's choice. (spec/16_power.md R329, spec/16_power.md R330, spec/16_power.md R331, spec/16_power.md R333,
spec/16_power.md R334, spec/16_power.md R339, spec/16_power.md R340, spec/20_observability.md R388) -/
def Obligations.ActivityAndStretches : Prop :=
  (∀ (s : State) (die : Fin 6) (n : Nat), s.phase = .up → n ≤ 1024 → ∃ t, exec (.activityEstimate die n) s = .next t ∧ t.mem = s.mem ∧
    (∀ d : Nat, d ≠ die.val → t.gust d = s.gust d) ∧ (t.gust die.val).demand = n * 1024 ∧
    (t.gust die.val).ballast = (t.gust die.val).activity - n * 1024 ∧
    (4 ≤ die.val ∨ ((s.gust die.val).volt = .nominal ∧ (s.gust die.val).rising = none) →
    ((s.gust die.val).warming = [] → (s.gust die.val).activity ≤ n * 1024 →
      (t.gust die.val).activity = min (n * 1024) ((s.gust die.val).activity + s.gustSlope)) ∧
    ((s.gust die.val).warming = [] → n * 1024 < (s.gust die.val).activity → s.gustHold ≠ 0 → (s.gust die.val).falling = false →
      (t.gust die.val).activity = (s.gust die.val).activity ∧ (t.gust die.val).holding = true) ∧
    ((s.gust die.val).warming = [] → n * 1024 < (s.gust die.val).activity → (s.gustHold = 0 ∨ (s.gust die.val).falling = true) →
      (t.gust die.val).activity = max (n * 1024) ((s.gust die.val).activity - s.gustSlope))) ∧
    (die.val < 4 → (s.gust die.val).rising = none →
      ((s.gust die.val).volt = .nominal → (s.gust die.val).warming = [] → (s.gust die.val).phase = 3 → s.inProgress die.val = [] → n = 0 →
        (t.gust die.val).volt = .gated) ∧
      ((s.gust die.val).volt = .nominal → (s.gust die.val).warming = [] → ((s.gust die.val).phase = 1 ∨ (s.gust die.val).phase = 2) →
        n ≤ envelope (s.gust die.val).phase.toNat → (t.gust die.val).volt = .lowered) ∧
      ((s.gust die.val).volt = .gated → (0 < n ∨ ∃ w ∈ (s.gust die.val).warming, 0 < w.2) → (t.gust die.val).volt = .gated ∧
        (∃ k, (t.gust die.val).rising = some k ∧ k < 300) ∧ (t.gust die.val).activity ≤ (s.gust die.val).activity) ∧
      ((s.gust die.val).volt = .lowered → envelope (s.gust die.val).phase.toNat < n →
        (∃ k, (t.gust die.val).rising = some k ∧ k < 50) ∧
        (t.gust die.val).activity ≤ max (s.gust die.val).activity (1024 * envelope (s.gust die.val).phase.toNat))) ∧
    (die.val < 4 → (s.gust die.val).volt = .nominal → (s.gust die.val).rising = none → ∀ w ∈ (s.gust die.val).warming,
      min (1024 * w.2) ((s.gust die.val).activity + s.gustSlope) ≤ (t.gust die.val).activity) ∧
    (die.val < 4 → (s.gust die.val).rising = some 0 → (t.gust die.val).volt = .nominal ∧ (t.gust die.val).rising = none)) ∧
  (∀ (s : State) (die : Fin 6), s.phase = .up →
    ((s.gust die.val).holding = false → exec (.ballastHoldEnd die) s = .next s) ∧
    ((s.gust die.val).holding = true →
      exec (.ballastHoldEnd die) s = .next (s.setGust die.val { s.gust die.val with holding := false, falling := true }))) ∧
  (∀ (s : State) (d : DieId) (r : RingId), s.phase = .up →
    (s.waitsOnly r.val = none → exec (.prewarm d r) s = .next s) ∧
    (∀ c k, s.waitsOnly r.val = some c → s.prewarms = true → r.val / 256 = d.val → prewarmTarget c.phase = some k →
      exec (.prewarm d r) s = .next (s.setGust d.val { s.gust d.val with
        warming := ((s.gust d.val).warming.filter fun w => w.1 != r.val) ++ [(r.val, k)] })) ∧
    exec (.prewarmTimeout d) s = .next (s.setGust d.val { s.gust d.val with warming := (s.gust d.val).warming.drop 1 })) ∧
  (∀ (s : State) (rail : Fin 6), s.phase = .up →
    (∃ t, exec (.pwrAlert rail) s = .next t ∧ t.power.fast.getLsbD rail.val = true ∧ t.pins.pwrAlert.getLsbD rail.val = true ∧
      ∀ k : Nat, k ≠ rail.val → t.power.fast.getLsbD k = s.power.fast.getLsbD k) ∧
    (∃ t, exec (.stretchRelease rail) s = .next t ∧ t.power.fast.getLsbD rail.val = false ∧ t.pins.pwrAlert.getLsbD rail.val = false ∧
      (s.trcOn 4 4 = false → s.trcOn 4 5 = false → t.mem = s.mem) ∧
      ∀ k : Nat, k ≠ rail.val → t.power.fast.getLsbD k = s.power.fast.getLsbD k)) ∧
  (∀ (s : State) (die : Fin 6) (i : Nat), s.phase = .up →
    (∃ t, exec (.droop die i) s = .next t ∧ (t.log die.val).droop =
        (if bitOf (s.reg (dieBar die.val + 0x3100)).toNat 0 then (s.log die.val).droop else (s.log die.val).droop + 1) ∧
      ∀ p, p ∈ t.power.droops ↔ p ∈ s.power.droops ∨ p = (die.val, i)) ∧
    (∃ t, exec (.droopRecovery die i) s = .next t ∧ t.mem = s.mem ∧ t.logs = s.logs ∧
      ∀ p, p ∈ t.power.droops ↔ p ∈ s.power.droops ∧ p ≠ (die.val, i)))

/-- Outside a job the exchange messages change nothing. In one, OP_SET is kept and passed to the children; OP_APPLY takes the point
set for its boundary, and with none sets EXCH_MISS and keeps the point; the timeout of a boundary whose minimum has not left
sends it to the parent of a package that is not the root. A package without children sends its own request at the boundary. A
child's request lowers the minimum of its boundary. A window whose reported power, with 68 W for the rails that report none, is
above CAP takes one cap step; the tenth in a row at 5 % or more below it takes one back. After a window or a poll the request is
the least of OP_MAX, the cap's and the thermal point. A poll reports the highest temperature, throttles dies at 100 C or above
and marks 110 C, after which THERMTRIP is driven, and not otherwise. The clauses that rest on log entries 1, 30 are the model's
choice. (spec/16_power.md R335, spec/16_power.md R336, spec/16_power.md R338, spec/16_power.md R342, spec/16_power.md R343,
spec/22_electrical.md R417, spec/22_electrical.md R421) -/
def Obligations.OperatingPointsAreAgreed : Prop :=
  (∀ (s : State) (child : BitVec 20) (k : Nat) (op : Fin 8), s.phase = .up → s.epoch = 0 →
    ∀ i ∈ [Instr.opReq child k op, .opReqTimeout k, .opSet k op, .opApply k, .opExchangeBoundary k], exec i s = .next s) ∧
  (∀ (s : State) (k : Nat), s.phase = .up → s.epoch ≠ 0 →
    (∀ op : Fin 8, ∃ t, exec (.opSet k op) s = .next t ∧ t.power.exSet = some (k, op.val) ∧ t.mem = s.mem ∧
      t.fab.mgmt = s.fab.mgmt ++ s.fab.launch.children.map fun c => .opSet c.rank k op.val) ∧
    (∀ op : Nat, s.power.exSet = some (k, op) → ∃ t, exec (.opApply k) s = .next t ∧ t.power.curOp = BitVec.ofNat 3 op ∧
      t.power.jobOp = BitVec.ofNat 3 op ∧ t.power.exchMiss = s.power.exchMiss ∧
      (s.trcOn 4 4 = false → s.trcOn 4 5 = false → t.mem = s.mem)) ∧
    ((∀ op : Nat, s.power.exSet ≠ some (k, op)) → ∃ t, exec (.opApply k) s = .next t ∧ t.power.curOp = s.power.curOp ∧
      t.power.jobOp = s.power.jobOp ∧ t.power.exchMiss = true) ∧
    (s.power.exK = k → s.power.exSent = false → s.rank ≠ 0 → BitVec.ofNat 20 s.rank ∈ s.power.exHeard →
      ∃ t, exec (.opReqTimeout k) s = .next t ∧ t.power.exSent = true ∧
        t.fab.mgmt = s.fab.mgmt ++ [.opReq s.fab.launch.parent k s.power.exMin]) ∧
    (s.power.exK ≠ k → s.rank ≠ 0 → s.fab.launch.children = [] → ∃ t, exec (.opExchangeBoundary k) s = .next t ∧ t.power.exSent = true ∧
      t.fab.mgmt = s.fab.mgmt ++ [.opReq s.fab.launch.parent k (min 7 s.power.reqOp.toNat)]) ∧
    (∀ (c : Child) (op : Fin 8), s.child c.rank = some c → s.power.exK = k → s.power.exSent = false →
      ∃ t, exec (.opReq c.rank k op) s = .next t ∧ t.power.exMin = min s.power.exMin op.val ∧ c.rank ∈ t.power.exHeard)) ∧
  (∀ (s : State) (w : Nat), s.phase = .up → ∃ t, exec (.powerCapWindow w) s = .next t ∧
    (s.trcOn 4 4 = false → s.trcOn 4 5 = false → t.mem = s.mem) ∧
    t.power.reqOp = BitVec.ofNat 3 (min s.opMax (min t.power.capOp.toNat t.power.thermOp.toNat)) ∧
    (s.capWatts < w + 68 → s.power.capOp ≠ 0 → t.power.capOp = s.power.capOp - 1 ∧ t.power.under = 0) ∧
    (s.capWatts < w + 68 → s.power.capOp = 0 → s.power.hostSteps < 6 → t.power.hostSteps = s.power.hostSteps + 1 ∧ t.power.capOp = 0) ∧
    (w + 68 ≤ s.capWatts → 100 * (w + 68) ≤ 95 * s.capWatts → s.power.under < 9 →
      t.power.under = s.power.under + 1 ∧ t.power.capOp = s.power.capOp ∧ t.power.hostSteps = s.power.hostSteps) ∧
    (w + 68 ≤ s.capWatts → 100 * (w + 68) ≤ 95 * s.capWatts → 9 ≤ s.power.under → s.power.memSteps = 0 → s.power.hostSteps = 0 → s.power.capOp ≠ 7 →
      t.power.capOp = s.power.capOp + 1 ∧ t.power.under = 0)) ∧
  (∀ (s : State) (tj hbm : List Nat), s.phase = .up → tj.length = 18 → hbm.length = 12 →
    ∃ t, exec (.thermalPoll tj hbm) s = .next t ∧
      t.power.tjMax = BitVec.ofNat 8 (min (tj.foldl max 0) 255) ∧ (t.power.trip = true ↔ 110 ≤ tj.foldl max 0) ∧
      t.power.reqOp = BitVec.ofNat 3 (min s.opMax (min t.power.capOp.toNat t.power.thermOp.toNat)) ∧
      (∀ i : Nat, i < 18 → (t.power.throttle.getLsbD i = true ↔ 100 ≤ tj.getD i 0)) ∧
      ∀ i : Nat, i < 12 → (t.power.refresh2.getLsbD i = true ↔ 85 < hbm.getD i 0)) ∧
  (∀ s : State, s.phase = .up →
    (s.power.trip = true → exec .thermtrip s = .next { s with pins := { s.pins with thermtrip := true } }) ∧
    (s.power.trip = false → exec .thermtrip s = .next s))

/-- GO does nothing while the mailbox is BUSY, ends REFUSED when the header does not lie in CID 0 memory, and otherwise loads header
and body and leaves memory alone. For a request being served: KEY_NEW puts a key into its slot and leaves every other slot;
EXTEND extends MR6 and no other register; a GRANULE_SET gives the granules of its span that keep OWNER and KSLOT their entry at
once, and no other granule; where it changes OWNER or KSLOT of some it waits until their zeroing ends; one of a context with
secrets or SEAL_PREP pending, or of a slot that is empty or not the owner's to have, is REFUSED and changes nothing;
DEBUG_CHALLENGE issues a nonce with the time, beside the earlier ones. REPORT ends with OK when its body and the response's room
are right, and with FORMAT when not. When the zeroing of one granule ends, its bytes read as zero, every other byte as before,
and its entry is the new one. The clauses that rest on log entries 1, 4 (fresh keys and nonces), 12 (key pairs named by numbers)
and 31 are the model's choice. (spec/17_security.md R351, spec/17_security.md R352, spec/17_security.md R439,
spec/17_security.md R348, spec/17_security.md R357, spec/17_security.md R360, spec/11_translation.md R235) -/
def Obligations.MailboxServesRequests : Prop :=
  (∀ s : State, s.phase = .up →
    (s.sec.mboxState = 1 → exec .go s = .next s) ∧
    (s.sec.mboxState ≠ 1 → s.spOk s.mboxAddr 64 = false → ∃ t, exec .go s = .next t ∧ t.sec.mboxState = 2 ∧
      t.sec.mboxResult = mbRefused ∧ t.sec.doneEvt = true ∧ t.mem = s.mem) ∧
    (s.sec.mboxState ≠ 1 → s.spOk s.mboxAddr 64 = true → mboxHeaderOk (s.readBytes s.mboxAddr 64) = true →
      s.spOk (s.mboxAddr + 64) (field (s.readBytes s.mboxAddr 64) 4 4) = true →
      s.spOk (field (s.readBytes s.mboxAddr 64) 8 8) (field (s.readBytes s.mboxAddr 64) 16 4) = true →
      ∃ t, exec .go s = .next t ∧ t.sec.mboxState = 1 ∧ t.mem = s.mem ∧ t.own = s.own ∧ t.ctxs = s.ctxs ∧
        t.sec.header = s.readBytes s.mboxAddr 64 ∧
        t.sec.body = s.readBytes (s.mboxAddr + 64) (field (s.readBytes s.mboxAddr 64) 4 4))) ∧
  (∀ (s : State) (k : Nat), s.phase = .up → s.boxServes 2 → s.sec.body.length = 8 → zeroSpan s.sec.body 2 6 = true →
    field s.sec.body 0 2 = k → 1 ≤ k → k ≤ 4095 →
    ((∀ p ∈ s.own, p.2.kslot.toNat ≠ k) → ∃ t, exec .keyNew s = .next t ∧ t.boxDone mbOk ∧ (tabFind t.sec.keys k).isSome = true ∧
      ∀ j : Nat, j ≠ k → tabFind t.sec.keys j = tabFind s.sec.keys j) ∧
    ((∃ p ∈ s.own, p.2.kslot.toNat = k) → ∃ t, exec .keyNew s = .next t ∧ t.boxDone mbRefused ∧ t.sec.keys = s.sec.keys)) ∧
  (∀ s : State, s.phase = .up → s.boxServes 9 → s.sec.body.length = 32 → s.sec.mr.length = 7 →
    ∃ t, exec .extend s = .next t ∧ t.boxDone mbOk ∧
      t.sec.mr.getD 6 0 = mrExtend (s.sec.mr.getD 6 0) (BitVec.ofNat 256 (leNat s.sec.body)) ∧
      ∀ i : Nat, i < 6 → t.sec.mr.getD i 0 = s.sec.mr.getD i 0) ∧
  (∀ (s : State) (new : Own), s.phase = .up → s.boxServes 1 → s.granuleFormat s.sec.body = true →
    new.owner.toNat = field s.sec.body 12 2 → new.kslot.toNat = field s.sec.body 14 2 → new.mode.toNat = byteAt s.sec.body 16 →
    s.hasKey new.kslot.toNat = true → (new.kslot ≠ 0 ∨ new.owner = 0) →
    let first := field s.sec.body 0 8 / 2 ^ 21
    let n := field s.sec.body 8 4
    let stays := fun g : Nat => (s.owner g).owner = new.owner ∧ (s.owner g).kslot = new.kslot
    (∀ g : Nat, first ≤ g → g < first + n → (s.ctx (s.owner g).owner).guarded = false) →
    ((∀ g : Nat, first ≤ g → g < first + n → stays g) →
      ∃ t, exec .granuleSet s = .next t ∧ t.boxDone mbOk ∧ t.sec.zeroing = s.sec.zeroing ∧
        ∀ g : Nat, t.owner g = if first ≤ g ∧ g < first + n then new else s.owner g) ∧
    ((∃ g : Nat, first ≤ g ∧ g < first + n ∧ ¬ stays g) →
      ∃ t, exec .granuleSet s = .next t ∧ t.sec.mboxState = 1 ∧ t.mem = s.mem ∧ t.sec.setting = true ∧
        (∀ g : Nat, t.owner g = if first ≤ g ∧ g < first + n ∧ stays g then new else s.owner g) ∧
        t.sec.zeroing = s.sec.zeroing ++
          (((List.range n).map (first + ·)).filter fun g => !((s.owner g).owner == new.owner && (s.owner g).kslot == new.kslot)).map
            fun g => ⟨g, new⟩)) ∧
  (∀ (s : State) (new : Own), s.phase = .up → s.boxServes 1 → s.granuleFormat s.sec.body = true →
    new.owner.toNat = field s.sec.body 12 2 → new.kslot.toNat = field s.sec.body 14 2 →
    ((∃ g : Nat, field s.sec.body 0 8 / 2 ^ 21 ≤ g ∧ g < field s.sec.body 0 8 / 2 ^ 21 + field s.sec.body 8 4 ∧
        (s.ctx (s.owner g).owner).guarded = true) ∨ s.hasKey new.kslot.toNat = false ∨ (new.kslot = 0 ∧ new.owner ≠ 0)) →
    ∃ t, exec .granuleSet s = .next t ∧ t.boxDone mbRefused ∧ t.own = s.own ∧ t.sec.zeroing = s.sec.zeroing) ∧
  (∀ (s : State) (z : Zeroing), s.phase = .up → s.sec.zeroing = [z] → s.sec.setting = false → s.sec.unlocking = none →
    (∀ p ∈ s.ctxs, p.2.closing = false) →
    ∃ t, exec .granuleZeroingDone s = .next t ∧ t.sec.zeroing = [] ∧
      (∀ a : Nat, t.readByte a = if a / 2 ^ 21 = z.granule then 0 else s.readByte a) ∧
      ∀ g : Nat, t.owner g = if g = z.granule then z.entry else s.owner g) ∧
  (∀ s : State, s.phase = .up → s.boxServes 7 → s.sec.body.length = 4 → leNat s.sec.body < 16 → s.boxFits 32 = true →
    ∃ t, exec .debugChallenge s = .next t ∧ t.boxDone mbOk ∧ ∃ v, t.sec.dbgNonces = s.sec.dbgNonces ++ [(v, s.time)]) ∧
  (∀ s : State, s.phase = .up → s.boxServes 3 → s.sec.body.length = 40 → byteAt s.sec.body 2 < 2 → zeroSpan s.sec.body 3 5 = true →
    (s.boxFits reportLength = true → ∃ t, exec .report s = .next t ∧ t.boxDone mbOk ∧
      (byteAt s.sec.body 2 = 1 → t.sec.ek = some (BitVec.ofNat 256 (field s.sec.body 8 32), s.fresh))) ∧
    (s.boxFits reportLength = false → ∃ t, exec .report s = .next t ∧ t.boxDone mbFormat ∧ t.sec.ek = s.sec.ek))

/-- TENANT of a context that is not SEALED ends with STATE, one whose counter is not above the last accepted with REFUSED, one whose
tag fails with AUTH; one whose plaintext names no legal operation, or whose response has no room, ends with FORMAT and stores
nothing; an accepted one stores the counter and waits for its operation. Then SET_RT takes its word; EPOCH_KEY stages the key,
its epoch and the CID; PASID_GRANT takes effect for a free identity and is REFUSED for one already mapped; IMPORT writes the
context's memory or is REFUSED, EXPORT reads it, and both answer sealed under the session key. With no request waiting, or
another than its own, none of them changes anything. The clauses that rest on log entries 1, 12, 31 are the model's choice.
(spec/17_security.md R358, spec/17_security.md R356, spec/17_security.md R355, spec/11_translation.md R215) -/
def Obligations.TenantRequestsAreServed : Prop :=
  (∀ (s : State) (t : Cid) (n : DWord), s.phase = .up → s.boxServes 5 → 28 ≤ s.sec.body.length → zeroSpan s.sec.body 2 2 = true →
    t.toNat = field s.sec.body 0 2 → n.toNat = field s.sec.body 4 8 →
    ((s.ctx t).state ≠ .sealed → ∃ u, exec .tenant s = .next u ∧ u.boxDone mbState ∧ u.ctxs = s.ctxs) ∧
    ((s.ctx t).state = .sealed →
      (∀ c, (s.ctx t).counter = some c → n.toNat ≤ c.toNat → ∃ u, exec .tenant s = .next u ∧ u.boxDone mbRefused ∧ u.ctxs = s.ctxs) ∧
      ((∀ c, (s.ctx t).counter = some c → c.toNat < n.toNat) →
        (Config.gcmOpen (s.ctx t).ks (tenantIv false n) [] (s.sec.body.drop 12) = none →
          ∃ u, exec .tenant s = .next u ∧ u.boxDone mbAuth ∧ u.ctxs = s.ctxs) ∧
        (∀ bs, Config.gcmOpen (s.ctx t).ks (tenantIv false n) [] (s.sec.body.drop 12) = some bs →
          (tenantOpOf bs = none → ∃ u, exec .tenant s = .next u ∧ u.boxDone mbFormat ∧ u.ctxs = s.ctxs) ∧
          (∀ op, tenantOpOf bs = some op →
            (s.boxFits op.answers = false → ∃ u, exec .tenant s = .next u ∧ u.boxDone mbFormat ∧ u.ctxs = s.ctxs) ∧
            (s.boxFits op.answers = true → ∃ u, exec .tenant s = .next u ∧ u.sec.tenant = some (t, n, op) ∧ u.sec.mboxState = 1 ∧
              u.mem = s.mem ∧ u.ctx t = { s.ctx t with counter := some n } ∧ ∀ c : Cid, c ≠ t → u.ctx c = s.ctx c)))))) ∧
  (∀ (s : State) (t : Cid) (n : DWord), s.phase = .up → s.sec.mboxState = 1 →
    (∀ w : DWord, s.sec.tenant = some (t, n, .setRt w) → ∃ u, exec (.setRt w) s = .next u ∧ u.boxDone mbOk ∧
      u.ctx t = { s.ctx t with word0 := w }) ∧
    (∀ (epoch : Word) (key : BitVec 256), s.sec.tenant = some (t, n, .epochKey epoch key) → ∃ u, exec (.epochKey epoch key) s = .next u ∧
      u.boxDone mbOk ∧ u.sec.stagedKey = some (epoch, key, some t) ∧ u.sec.epochKey = s.sec.epochKey) ∧
    (∀ (p : RootId) (rid : BitVec 16) (pasid : BitVec 20), s.sec.tenant = some (t, n, .pasidGrant p.val rid pasid) →
      (s.granted p.val rid pasid = true → ∃ u, exec (.pasidGrant p rid pasid) s = .next u ∧ u.boxDone mbRefused ∧ u.regs = s.regs) ∧
      (∀ v, s.install? p.val rid pasid t = some v → ∃ u, exec (.pasidGrant p rid pasid) s = .next u ∧ u.boxDone mbOk ∧ u.regs = v.regs)) ∧
    (∀ (va : DWord) (data : List Byte), s.sec.tenant = some (t, n, .import_ va data) →
      (∀ v, s.writeUnder (fun s => s.tenantXlate t true) .tenant (qpHome 0) t va.toNat data (granulePieces va.toNat data.length) = (v, .done) →
        ∃ u, exec (.importTenant va data) s = .next u ∧ u.boxDone mbOk ∧ u = s.keepInputs ((v.endErrand .tenant).tenantDone t n [])) ∧
      (∀ v st, s.writeUnder (fun s => s.tenantXlate t true) .tenant (qpHome 0) t va.toNat data (granulePieces va.toNat data.length) =
          (v, .bad st) →
        ∃ u, exec (.importTenant va data) s = .next u ∧ u.boxDone mbRefused)) ∧
    (∀ (va : DWord) (k : Nat), s.sec.tenant = some (t, n, .export_ va k) →
      ∀ v bs, s.readUnder (fun s => s.tenantXlate t false) .tenant (qpHome 0) t [] (granulePieces va.toNat k) = (v, .bytes bs) →
        ∃ u, exec (.exportTenant va k) s = .next u ∧ u.boxDone mbOk ∧ u = s.keepInputs ((v.endErrand .tenant).tenantDone t n bs)) ∧
    (∀ nonce : BitVec 256, s.sec.tenant = some (t, n, .report nonce) → ∃ u, exec (.tenantReport nonce) s = .next u ∧ u.boxDone mbOk) ∧
    (∀ (o : TenantOp) (va w : DWord) (data : List Byte) (k : Nat) (p : RootId) (rid : BitVec 16) (pasid : BitVec 20) (e : Word)
        (key nonce : BitVec 256), s.sec.tenant = some (t, n, o) →
      ∀ i ∈ [(Instr.importTenant va data, TenantOp.import_ va data), (.exportTenant va k, .export_ va k), (.setRt w, .setRt w),
             (.pasidGrant p rid pasid, .pasidGrant p.val rid pasid), (.epochKey e key, .epochKey e key), (.tenantReport nonce, .report nonce)],
        o ≠ i.2 → exec i.1 s = .next s)) ∧
  (∀ (s : State) (va w : DWord) (data : List Byte) (k : Nat) (p : RootId) (rid : BitVec 16) (pasid : BitVec 20) (e : Word)
      (key nonce : BitVec 256), s.phase = .up → s.sec.tenant = none →
    ∀ i ∈ [Instr.importTenant va data, .exportTenant va k, .setRt w, .pasidGrant p rid pasid, .epochKey e key, .tenantReport nonce],
      exec i s = .next s)

/-- SEAL_PREP of a context that is not ready ends with STATE; so does one that cannot be measured; one that is ready, owns its table
and can be measured pends with its word 0 and measurement. CTX_SEAL without SEAL_PREP, or of a context that is not ready, ends
with E_STATE; with a tag that fails it ends with E_ACCESS; in each case SEAL_PREP no longer pends; without policy records an
authentic one makes the context SEALED with the prepared word 0 and measurement. OPERATOR of a malformed body ends with FORMAT;
one whose signature, nonce or delivered key is not good ends with AUTH; a good one stages the epoch key, or the management key,
and uses up the nonce; the old management key goes at the end of its grace. A CTX_SEAL whose block its home does not take yet
waits. DEBUG_UNLOCK with a token not accepted ends with AUTH; the nonce that the token carries is gone, and no other; one
accepted leaves no context SEALED and no epoch key that a tenant imported. The clauses that rest on log entries 12, 31, 32 are
the model's choice. (spec/17_security.md R354, spec/17_security.md R355, spec/17_security.md R359, spec/17_security.md R360,
spec/17_security.md R361) -/
def Obligations.SealsAndUnlocks : Prop :=
  (∀ (s : State) (t : Cid) (w : Nat), s.phase = .up → s.boxServes 4 → 56 ≤ s.sec.body.length → s.sec.body.length % 16 = 8 →
    (measureList (s.sec.body.drop 40)).length ≤ 4096 → zeroSpan s.sec.body 2 6 = true →
    (∀ e ∈ measureList (s.sec.body.drop 40), e.2 % 2 ^ 16 = 0) → s.boxFits reportLength = true → t.toNat = field s.sec.body 0 2 →
    ∀ v, v = s.setCtx t { s.ctx t with prep := none } → v.contextWord t = .ok w →
    ((v.sealReady t = false ∨ v.tableOwned t w = false) → ∃ u, exec .sealPrep s = .next u ∧ u.boxDone mbState ∧ u.ctxs = v.ctxs) ∧
    (∀ x, v.sealReady t = true → v.tableOwned t w = true → v.ctxMeas t w (measureList (s.sec.body.drop 40)) = (x, none) →
      ∃ u, exec .sealPrep s = .next u ∧ u.boxDone mbState ∧ u.ctxs = v.ctxs) ∧
    (∀ x meas, v.sealReady t = true → v.tableOwned t w = true → v.ctxMeas t w (measureList (s.sec.body.drop 40)) = (x, some meas) →
      ∃ u, exec .sealPrep s = .next u ∧ u.boxDone mbOk ∧
        ∃ n, u.ctx t = { s.ctx t with prep := some ⟨BitVec.ofNat 64 w, meas, n⟩ })) ∧
  (∀ (s : State) (r : RingId) (seq : Word) (c : Cmd), s.phase = .up → s.fatal = false → s.cmd r seq = some c → c.stage = .started →
    c.stall = none → c.opcode = 0x21 →
    (s.spanMapped (field c.slot 24 8) 1104 = true → s.spOk (field c.slot 24 8) 1104 = true →
      s.homeTakes 0 (field c.slot 24 8) (.read 1104) = false → exec (.ctxSeal r seq) s = .next s) ∧
    ((s.spanMapped (field c.slot 24 8) 1104 = false ∨ s.spOk (field c.slot 24 8) 1104 = false ∨
        s.homeTakes 0 (field c.slot 24 8) (.read 1104) = true) →
      (s.ctx c.tcid).prep = none ∨ s.sealable c.tcid = false → ∃ u, exec (.ctxSeal r seq) s = .next u ∧
      u.ctx c.tcid = { s.ctx c.tcid with prep := none } ∧ u.mem = s.mem ∧
      u.cmds = (s.setCmd { c with stage := .finished, status := stState }).cmds) ∧
    (∀ prep, (s.ctx c.tcid).prep = some prep → s.sealable c.tcid = true → s.spanMapped (field c.slot 24 8) 1104 = true →
      s.spOk (field c.slot 24 8) 1104 = true → s.homeTakes 0 (field c.slot 24 8) (.read 1104) = true →
      s.brokenIn (field c.slot 24 8) 1104 = false → c.slots.length = 1 →
      (Config.gcmOpen (sessionKey (Config.mlKemDecaps prep.key ((s.readBytes (field c.slot 24 8) 1104).take 1088)) prep.meas) 0
          (leBytes 2 c.tcid.toNat ++ leBytes 32 prep.meas.toNat) ((s.readBytes (field c.slot 24 8) 1104).drop 1088) = none →
        ∃ u, exec (.ctxSeal r seq) s = .next u ∧ u.ctx c.tcid = { s.ctx c.tcid with prep := none } ∧ u.mem = s.mem ∧
          ∃ d, u.cmd r seq = some d ∧ d.stage = .finished ∧ d.status = stAccess ∧ d.sealBad = true) ∧
      (∀ bs, Config.gcmOpen (sessionKey (Config.mlKemDecaps prep.key ((s.readBytes (field c.slot 24 8) 1104).take 1088)) prep.meas) 0
          (leBytes 2 c.tcid.toNat ++ leBytes 32 prep.meas.toNat) ((s.readBytes (field c.slot 24 8) 1104).drop 1088) = some bs →
        ∃ u, exec (.ctxSeal r seq) s = .next u ∧ (u.ctx c.tcid).state = .sealed ∧ (u.ctx c.tcid).word0 = prep.word0 ∧
          (u.ctx c.tcid).meas = prep.meas ∧ (u.ctx c.tcid).policy = 0 ∧ (u.ctx c.tcid).counter = none ∧ u.mem = s.mem ∧
          ∃ d, u.cmd r seq = some d ∧ d.stage = .finished ∧ d.status = stOk))) ∧
  (∀ (s : State) (m : Bool) (e : Word) (key nonce : BitVec 256), s.phase = .up → s.boxServes 6 →
    (operatorBody s.sec.body = false → ∃ t, exec (.operatorReq m e key nonce) s = .next t ∧ t.boxDone mbFormat ∧ t.sec.ek = s.sec.ek) ∧
    (operatorBody s.sec.body = true →
      ((byteAt s.sec.body 0 ≠ m.toNat ∨ field s.sec.body 4 4 ≠ e.toNat ∨ field s.sec.body 8 32 ≠ nonce.toNat) →
        exec (.operatorReq m e key nonce) s = .next s) ∧
      (byteAt s.sec.body 0 = m.toNat → field s.sec.body 4 4 = e.toNat → field s.sec.body 8 32 = nonce.toNat →
        (s.operatorKey s.sec.body ≠ some key → ∃ t, exec (.operatorReq m e key nonce) s = .next t ∧ t.boxDone mbAuth ∧
          t.sec.ek = s.sec.ek ∧ t.sec.stagedKey = s.sec.stagedKey ∧ t.sec.mgmtNew = s.sec.mgmtNew) ∧
        (s.operatorKey s.sec.body = some key → ∃ t, exec (.operatorReq m e key nonce) s = .next t ∧ t.boxDone mbOk ∧ t.sec.ek = none ∧
          t.sec.mgmtNew = (if m then some key else s.sec.mgmtNew) ∧
          t.sec.stagedKey = (if m then s.sec.stagedKey else some (e, key, none)))))) ∧
  (∀ s : State, s.phase = .up → exec .mgmtKeyGraceEnd s = .next { s with sec := { s.sec with mgmtOld := none } }) ∧
  (∀ s : State, s.phase = .up → s.boxServes 8 → s.sec.body.length = 2500 → field s.sec.body 0 4 = 1 → tokenScope s.sec.body < 16 →
    (s.tokenOk s.sec.body = false → ∃ t, exec .debugUnlock s = .next t ∧ t.boxDone mbAuth ∧ (∀ n, n ∈ t.sec.dbgNonces ↔ n ∈ s.sec.dbgNonces ∧ field s.sec.body 40 32 ≠ n.1.toNat) ∧
      t.sec.unlock = s.sec.unlock ∧ t.ctxs = s.ctxs) ∧
    (s.tokenOk s.sec.body = true → ∃ t, exec .debugUnlock s = .next t ∧
      (∀ n, n ∈ t.sec.dbgNonces ↔ n ∈ s.sec.dbgNonces ∧ field s.sec.body 40 32 ≠ n.1.toNat) ∧
      (∀ p ∈ t.ctxs, p.1 < 65536 → p.2.state ≠ .sealed ∧ p.2.prep = none) ∧
      (∀ e, (t.sec.epochKey = some e ∨ t.sec.stagedKey = some e) → e.2.2 = none) ∧
      (t.sec.zeroing = [] → t.boxDone mbOk ∧ t.sec.debugged = true ∧ t.sec.unlock = some (BitVec.ofNat 32 (tokenScope s.sec.body)))))

/-- A FATAL error, and a contained one of tags, directory or platform memory, stops dispatch, takes every running host core to a
machine check, at once or after its waiting stores, and has its record held for the management controller. A corrected error
merges into the open record of its structure and page, or opens one. The third corrected error of an HBM row within 24 h makes
its soft repair due, fewer do not. An event of a die whose log is disabled is held. A contained error of a clean line or of a
translation entry invalidates it and counts as corrected; another of memory leaves its word uncorrectable, one of a sync object
breaks that object, one of an accumulator ends the cell's item with E_MEM_UE. A consumer of uncorrectable data ends: a host core
with a machine check, a running work item and a started command with E_MEM_UE, a fabric request with an answer UE. An open or
held record is written once the log is enabled, has room and can be reached, and raises the die's error vector. A cell that is
lost leaves CELL_EN and no other bit does, GEN moves on by two and the repair list keeps the cell; a lost channel is RETIRING.
The clauses that rest on log entries 1, 35, 48, 71 are the model's choice. (spec/18_reliability.md R362, spec/18_reliability.md
R363, spec/18_reliability.md R365, spec/18_reliability.md R366, spec/18_reliability.md R368, spec/18_reliability.md R369,
spec/18_reliability.md R372, spec/12_memory_model.md R249) -/
def Obligations.ErrorsAreRecordedAndContained : Prop :=
  (∀ (s : State) (die : Nat) (e : ErrorEvent), s.phase = .up →
    (e.sev = .fatal → ∃ t, exec (.errorDetected die e) s = .next t ∧ t.fatal = true ∧
      t.fatalRecs = s.fatalRecs ++ [⟨e, die, 1, s.time, s.time⟩] ∧
      ∀ c : Nat, c < 96 → s.hostRuns c = true →
        ((s.host c).buffer = [] → (s.host c).invStore = none → (t.host c).trap = some .machineCheck) ∧
        (((s.host c).buffer ≠ [] ∨ (s.host c).invStore ≠ none) → (t.host c).due = some .machineCheck)) ∧
    (e.sev = .contained → alwaysFatal e.typ.toNat = true → ∃ t, exec (.errorDetected die e) s = .next t ∧ t.fatal = true) ∧
    (e.sev = .corrected → e.typ ≠ 0x01 → (∃ o ∈ (s.log (logOfDie die)).opened, o.merges e = true) → exec (.errorDetected die e) s = .next
      (s.setLog (logOfDie die) { s.log (logOfDie die) with
        opened := (s.log (logOfDie die)).opened.map fun o => if o.merges e then { o with count := o.count + 1, last := s.time } else o })) ∧
    (e.sev = .corrected → e.typ ≠ 0x01 → (∀ o ∈ (s.log (logOfDie die)).opened, o.merges e = false) →
      (s.log (logOfDie die)).opened.length < 16 →
      exec (.errorDetected die e) s = .next (s.setLog (logOfDie die)
        { s.log (logOfDie die) with opened := (s.log (logOfDie die)).opened ++ [⟨e, die, 1, s.time, s.time⟩] })) ∧
    (e.sev = .corrected → e.typ = 0x01 → inHbm e.addr.toNat = true → s.mapped e.addr.toNat = true →
      let p := s.hbmPlace e.addr.toNat
      let row := Config.hbmRow p.2.2
      let mine := s.hbm.rowErrs.filter fun x => (s.time - x.2.2.2).toNat < dayNs && x.1 = p.1 && x.2.1 = p.2.1 && x.2.2.1 = row
      ∃ t, exec (.errorDetected die e) s = .next t ∧
        (2 ≤ mine.length → (p.1, p.2.1, row) ∈ t.hbm.rowDue ∧ ∀ w, w ≠ (p.1, p.2.1, row) → (w ∈ t.hbm.rowDue ↔ w ∈ s.hbm.rowDue)) ∧
        (mine.length < 2 → t.hbm.rowDue = s.hbm.rowDue ∧ (p.1, p.2.1, row, s.time) ∈ t.hbm.rowErrs)) ∧
    (e.sev = .event → s.errEn (logOfDie die) = false → (s.log (logOfDie die)).held.length < 64 →
      exec (.errorDetected die e) s = .next (s.setLog (logOfDie die)
        { s.log (logOfDie die) with held := (s.log (logOfDie die)).held ++ [⟨e, die, 1, s.time, s.time⟩] })) ∧
    (∀ v, e.sev = .contained → s.refetch die e = some v →
      exec (.errorDetected die e) s = .next (s.keepInputs (v.logError die { e with sev := .corrected }))) ∧
    (∀ j : Job, e.sev = .contained → e.typ = 0x06 → e.inst.toNat < 256 → (s.cell e.inst.toNat).job = some j → j.ended = none →
      ∃ t, exec (.errorDetected die e) s = .next t ∧ (t.cell e.inst.toNat).job = some { j with ended := some stMemUe } ∧
        tabFind t.cellErr e.inst.toNat = some s.time) ∧
    (e.sev = .contained → s.refetch die e = none → ofMemory e.typ.toNat = true → hasOwner e.addr.toNat = true → s.mapped e.addr.toNat = true →
      ∃ t, exec (.errorDetected die e) s = .next t ∧ e.addr.toNat / 32 ∈ t.hbm.broken) ∧
    (e.sev = .contained → e.typ = 0x0C → e.inst.toNat < 65536 →
      ∃ t, exec (.errorDetected die e) s = .next t ∧ t.soBroken e.inst.toNat = true)) ∧
  (∀ (s : State) (pa : DWord), s.phase = .up →
    (∀ c : HostId, ∃ t, exec (.ueConsumed (.hostCore c) pa) s = .next t ∧
      ((s.host c.val).buffer = [] → (s.host c.val).invStore = none → (t.host c.val).trap = some .machineCheck) ∧
      (((s.host c.val).buffer ≠ [] ∨ (s.host c.val).invStore ≠ none) → (t.host c.val).due = some .machineCheck) ∧
      ∀ d : Nat, d ≠ c.val → t.host d = s.host d) ∧
    (∀ (g : CellId) (j : Job), (s.cell g.val).job = some j → j.ended = none →
      ∃ t, exec (.ueConsumed (.cell g) pa) s = .next t ∧ (t.cell g.val).job = some { j with ended := some stMemUe } ∧
        ∀ h : Nat, h ≠ g.val → t.cell h = s.cell h) ∧
    (∀ (r : RingId) (q : Word) (c : Cmd), s.cmd r.val q = some c → c.hasStarted = true → c.stage ≠ .recording →
      ∃ t, exec (.ueConsumed (.command r q) pa) s = .next t ∧ t.cmd r.val q = some { c with stage := .finished, status := stMemUe }) ∧
    (∀ (tid : BitVec 16) (src : BitVec 20), ∃ t, exec (.ueConsumed (.fabric tid src) pa) s = .next t ∧
      ∃ r, t.fab.responses = s.fab.responses ++ [r] ∧ r.cls = 2 ∧ r.op = 0x21 ∧ r.dst = src ∧ r.tid = tid ∧ r.data = [] ∧
        r.addr.toNat = FabStatus.ue.code) ∧
    (∃ t, exec (.ueConsumed .background pa) s = .next t ∧ t.cells = s.cells ∧ t.cmds = s.cmds ∧ t.hosts = s.hosts)) ∧
  (∀ (s : State) (die : Fin 6), s.phase = .up →
    (∀ i : Nat, (s.log die.val).opened[i]? = none → exec (.openRecordFlush die i) s = .next s) ∧
    (∀ (i : Nat) (r : ErrRec), (s.log die.val).opened[i]? = some r → s.errEn die.val = true → s.errFull die.val = false →
      s.errReady die.val = true → (s.log die.val).held = [] → ∃ t, exec (.openRecordFlush die i) s = .next t ∧
        (t.log die.val).opened = (s.log die.val).opened.eraseIdx i ∧ (t.log die.val).errTail = (s.log die.val).errTail + 1 ∧
        t.irqs = s.irqs ++ [(die.val, if die.val < 4 then 257 else 1)]) ∧
    (((s.log die.val).held = [] ∨ s.errEn die.val = false ∨ s.errFull die.val = true ∨ s.errReady die.val = false) → exec (.heldRecordWrite die) s = .next s) ∧
    (∀ (r : ErrRec) (rs : List ErrRec), (s.log die.val).held = r :: rs → s.errEn die.val = true → s.errFull die.val = false →
      s.errReady die.val = true →
      ∃ t, exec (.heldRecordWrite die) s = .next t ∧ (t.log die.val).held = rs ∧
        (t.log die.val).errTail = (s.log die.val).errTail + 1 ∧ t.irqs = s.irqs ++ [(die.val, if die.val < 4 then 257 else 1)])) ∧
  (∀ (s : State) (g : CellId), s.phase = .up →
    ((s.ochre (g.val / 64)).cellEn.getLsbD (g.val % 64) = false → exec (.degradeEvent (.cell g)) s = .next s) ∧
    ((s.ochre (g.val / 64)).cellEn.getLsbD (g.val % 64) = true → ∃ t, exec (.degradeEvent (.cell g)) s = .next t ∧
      t.degradeGen = s.degradeGen + 2 ∧ g.val ∈ t.flash.cells ∧
      ∀ d k : Nat, k < 64 → (t.ochre d).cellEn.getLsbD k = ((s.ochre d).cellEn.getLsbD k && !(64 * d + k == g.val)))) ∧
  (∀ (s : State) (c : ChanId), s.phase = .up →
    ((s.chan c.val).state ≠ .inService → exec (.degradeEvent (.channel c)) s = .next s) ∧
    ((s.chan c.val).state = .inService → ∃ t, exec (.degradeEvent (.channel c)) s = .next t ∧ (t.chan c.val).state = .retiring ∧
      t.degradeGen = s.degradeGen + 2 ∧ ∀ k : Nat, k ≠ c.val → t.chan k = s.chan k))

/-- A rise of PWR_GOOD without power begins the start-up, held while PKG_RST_N is low; with power it changes nothing. A fall of
PWR_GOOD, and PKG_RST_N held low while powered, lose memory, contexts, rings and cells and keep the flash; without power
PACKAGE_RESET only drives its pin. A rise of PKG_RST_N releases a held start-up and otherwise only drives its pin. The straps'
sampling, while start-up runs, ends it with host core 0 running, but not in production test, and no other until firmware starts
it, the boot measured and a key in slot 0; host firmware that does not verify is not measured, leaves the host cores in reset
and asks for REPLACE while the rest runs; if the manifest or an image does not verify or a seed cannot be reconstructed, no host
core is released and REPLACE is requested. At any other time it changes nothing. The flash, the waiting commands and the strap
inputs stay throughout. The clauses that rest on log entries 1, 33 are the model's choice. (spec/19_startup.md R375,
spec/19_startup.md R376, spec/19_startup.md R377, spec/17_security.md R347, spec/22_electrical.md R419, spec/22_electrical.md
R424) -/
def Obligations.PowerAndResetPinsStartTheMachine : Prop :=
  (∀ s : State,
    (s.phase ≠ .off → exec .pwrGoodRise s = .next s) ∧
    (s.phase = .off → ∃ t, exec .pwrGoodRise s = .next t ∧ t.phase = (if s.pins.pkgRstN then .starting else .held) ∧
      t.pins.pwrGood = true ∧ t.pins.thermtrip = false ∧ t.flash = s.flash ∧ t.pending = s.pending ∧ t.released = false ∧ t.mem = []) ∧
    (∃ t, exec .pwrGoodFall s = .next t ∧ t.phase = .off ∧ t.pins.pwrGood = false ∧ t.pins.thermtrip = s.pins.thermtrip ∧
      t.flash = s.flash ∧ t.pending = s.pending ∧ t.mem = [] ∧ t.ctxs = [] ∧ t.rings = [] ∧ t.cells = [] ∧ t.regs = [] ∧ t.released = false) ∧
    (s.phase = .off → exec .packageReset s = .next { s with pins := { s.pins with pkgRstN := false } }) ∧
    (s.phase ≠ .off → ∃ t, exec .packageReset s = .next t ∧ t.phase = .held ∧ t.pins.pkgRstN = false ∧ t.pins.pwrGood = s.pins.pwrGood ∧
      t.flash = s.flash ∧ t.pending = s.pending ∧ t.mem = [] ∧ t.ctxs = [] ∧ t.rings = [] ∧ t.cells = [] ∧ t.regs = [] ∧ t.released = false) ∧
    (s.phase = .held → exec .pkgRstNRise s = .next { s with pins := { s.pins with pkgRstN := true }, phase := .starting }) ∧
    (s.phase ≠ .held → exec .pkgRstNRise s = .next { s with pins := { s.pins with pkgRstN := true } }) ∧
    (s.phase ≠ .starting → exec .strapSample s = .next s) ∧
    (s.phase = .starting → s.boots = true → s.flash.hostGood = false → ∃ t, exec .strapSample s = .next t ∧ t.phase = .up ∧
      t.released = false ∧ t.everReleased = false ∧ t.sec.mr = (s.flash.measured s.pins).set 3 0 ∧ t.svc.getLsbD 25 = true ∧
      t.svc.getLsbD 1 = true ∧ t.pending = s.pending) ∧
    (s.phase = .starting → s.boots = true → s.flash.hostGood = true → ∃ t, exec .strapSample s = .next t ∧ t.phase = .up ∧
      t.released = !s.pins.prodTest ∧ t.everReleased = !s.pins.prodTest ∧ t.hostsOn = 0 ∧ (∀ c : Nat, 0 < c → t.hostRuns c = false) ∧
      t.pending = s.pending ∧ t.sec.mr = s.flash.measured s.pins ∧ t.cmds = [] ∧ t.ctxs = [] ∧ t.rings = [] ∧ t.fatal = false ∧
      (tabFind t.sec.keys 0).isSome = true) ∧
    (s.phase = .starting → s.boots = false → ∃ t, exec .strapSample s = .next t ∧ t.phase = .starting ∧ t.released = false ∧
      t.pending = s.pending ∧ t.flash = s.flash ∧ t.svc.getLsbD 25 = true ∧ t.svc.getLsbD 1 = true))

/-- FC_CHECK takes the shadow and starts a check of it when IDLE, a check beside the apply when one is pending, and sets REJ while
one runs. The end of a check reports PASS and code 0, or FAIL and the first failing rule, of the words that it took, and changes
no register; the end of one beside an apply leaves that apply, or whatever state has followed it, as it is. FC_APPLY when IDLE
takes the shadow as its snapshot: clean, it is pending for the next tick without a check, otherwise it is checked first; when
not IDLE it sets REJ. CANCEL before the tick returns a pending apply to IDLE and discards its snapshot. At its tick an apply
whose check still holds, or whose rules pass again, gives every STG field its snapshot value, sets APPLIED and counts; one whose
rules fail changes no register and reports FAIL with the code. A read of a span that is unmapped or belongs to a SEALED context
is refused: REFUSED is set and every byte reads 1. A readable span without uncorrectable words returns its bytes. A write
outside memory owned by CID 0 is refused and changes no byte; one inside, covering no uncorrectable word in part, puts its bytes
at the window's base plus the offset and leaves every other byte. The clauses that rest on log entries 1, 34, 35, 72 are the
model's choice. (spec/19_startup.md R381, spec/19_startup.md R382, spec/19_startup.md R383, spec/19_startup.md R384,
spec/00_scope.md R8, spec/19_startup.md R385, spec/18_reliability.md R363) -/
def Obligations.FrontAppliesAndManagementWindow : Prop :=
  (
  (∀ s : State, s.phase = .up →
    (s.front.state = .idle → exec .fcCheck s =
      .next { s with front := { s.front with state := .checking false, main := { words := s.shadow, dirtied := false } } }) ∧
    (s.front.state = .pending → exec .fcCheck s =
      .next { s with front := { s.front with sides := s.front.sides ++ [{ words := s.shadow, dirtied := false }] } }) ∧
    (∀ b, s.front.state = .checking b → exec .fcCheck s = .next { s with front := { s.front with rej := true } }) ∧
    (s.front.sides = [] → s.front.state = .idle ∨ s.front.state = .pending → exec .fcCheckDone s = .next s) ∧
    (∀ x rest, s.front.sides = x :: rest → ∃ t, exec .fcCheckDone s = .next t ∧ t.front.sides = rest ∧ t.front.state = s.front.state ∧
      t.front.failCode = s.failCode x.words ∧ t.front.result = (if s.failCode x.words = 0 then 1 else 2) ∧
      t.front.snapshot = s.front.snapshot ∧ t.front.applyAt = s.front.applyAt ∧ t.front.applyGen = s.front.applyGen ∧
      t.front.applyPlan = s.front.applyPlan) ∧
    (s.front.sides = [] →
      (s.front.state = .checking false → ∃ t, exec .fcCheckDone s = .next t ∧ t.front.state = .idle ∧
        t.front.failCode = s.failCode s.front.main.words ∧ t.front.result = (if s.failCode s.front.main.words = 0 then 1 else 2) ∧
        t.front.clean = (s.failCode s.front.main.words = 0 && !s.front.main.dirtied) ∧
        ((∀ p ∈ s.tableSpans s.front.main.words, s.brokenIn p.1 p.2 = false) → t.regs = s.regs ∧ t.shadow = s.shadow ∧ t.mem = s.mem)) ∧
      (s.front.state = .checking true → s.failCode s.front.main.words ≠ 0 → ∃ t, exec .fcCheckDone s = .next t ∧ t.front.state = .idle ∧
        t.front.result = 2 ∧ t.front.failCode = s.failCode s.front.main.words ∧ t.front.snapshot = []) ∧
      (s.front.state = .checking true → s.failCode s.front.main.words = 0 → s.front.sched = false → ∃ t, exec .fcCheckDone s = .next t ∧
        t.front.state = .pending ∧ t.front.result = 1 ∧ t.front.applyAt = nextTick s.time ∧ t.front.snapshot = s.front.snapshot ∧
        t.front.applyGen = s.degradeGen))) ∧
  (∀ (s : State) (sched : Bool), s.phase = .up →
    (s.front.state ≠ .idle → exec (.fcApply sched) s = .next { s with front := { s.front with rej := true } }) ∧
    (s.front.state = .idle → s.front.clean = true → ∃ t, exec (.fcApply false) s = .next t ∧ t.front.state = .pending ∧
      t.front.snapshot = s.shadow ∧ t.front.reused = true ∧ t.front.applyAt = nextTick s.time ∧ t.front.applyGen = s.front.gen ∧
      t.front.applyPlan = s.front.plan ∧ t.regs = s.regs ∧ t.mem = s.mem) ∧
    (s.front.state = .idle → s.front.clean = false → ∃ t, exec (.fcApply sched) s = .next t ∧ t.front.state = .checking true ∧
      t.front.snapshot = s.shadow ∧ t.front.main.words = s.shadow ∧ t.front.reused = false ∧ t.regs = s.regs ∧ t.mem = s.mem) ∧
    (s.front.state = .pending → s.time.toNat < s.front.applyAt.toNat → exec .cancel s =
      .next { s with front := { s.front with state := .idle, snapshot := [] } }) ∧
    (s.front.state ≠ .pending → exec .cancel s = .next s)) ∧
  (∀ s : State, s.phase = .up →
    (s.front.state ≠ .pending → exec .frontApply s = .next s) ∧
    (s.front.state = .pending → s.front.applyAt.toNat ≤ s.time.toNat →
      (s.planHolds s.front.snapshot = false → s.failCode s.front.snapshot ≠ 0 → ∃ t, exec .frontApply s = .next t ∧ t.front.state = .idle ∧ t.front.result = 2 ∧
        t.front.failCode = s.failCode s.front.snapshot ∧ t.front.applied = s.front.applied ∧ t.regs = s.regs ∧ t.mem = s.mem) ∧
      ((s.planHolds s.front.snapshot = true ∨ s.failCode s.front.snapshot = 0) → s.fab.state ≠ .committed →
        s.hbm.quotaHeld = [] → s.fab.waiting = [] → ∃ t, exec .frontApply s = .next t ∧ t.front.state = .idle ∧
        t.front.applied = true ∧ t.front.count = s.front.count + 1 ∧ t.front.lastTime = s.front.applyAt ∧ t.front.snapshot = [] ∧
        ∀ a ∈ stgWords, t.reg a = merge (s.reg a) (stgMask a) (tabGet regDflt s.front.snapshot a))))) ∧
  (
  ∀ (s : State) (off : Nat), s.phase = .up →
    (∀ n : Nat, 0 < n →
      (s.winReadable (s.mc.base.toNat + off) n = false → exec (.mcWinRead off n) s =
        .next { s with mc := { s.mc with refused := true, data := List.replicate n (0xFF : Byte) } }) ∧
      (s.winReadable (s.mc.base.toNat + off) n = true → s.brokenIn (s.mc.base.toNat + off) n = false →
        ∃ t, exec (.mcWinRead off n) s = .next t ∧ t.mem = s.mem ∧ t.mc.refused = s.mc.refused ∧
          t.mc.data = s.readBytes (s.mc.base.toNat + off) n)) ∧
    (∀ data : List Byte, data ≠ [] →
      (s.tableOk (s.mc.base.toNat + off) data.length = false →
        exec (.mcWinWrite off data) s = .next { s with mc := { s.mc with refused := true } }) ∧
      (s.tableOk (s.mc.base.toNat + off) data.length = true → s.partlyBroken (s.mc.base.toNat + off) data.length = false →
        ∃ t, exec (.mcWinWrite off data) s = .next t ∧ t.mc = s.mc ∧
          ∀ a : Nat, t.readByte a = if s.mc.base.toNat + off ≤ a ∧ a < s.mc.base.toNat + off + data.length
            then data.getD (a - (s.mc.base.toNat + off)) 0 else s.readByte a)))

/-- For ring 256d + i, the page at BAR2 offset 4,096 x i of die d: a 32-bit write at offset 0x000 is the doorbell of that ring under
the writer's CID; offset 0x004 reads RING_HEAD and offset 0x008 RING_STATUS; every other aligned offset reads 0, and a 32-bit
write at any offset but 0x000 changes nothing. (R264) -/
def Obligations.DoorbellPagesOfTheRings : Prop :=
  ∀ (s : State) (d : DieId) (i : Fin 256) (r : RingId), s.phase = .up → r.val = 256 * d.val + i.val →
    (∀ (cid : Cid) (v : Word) (a : DWord), a.toNat = bellBar d.val + 4096 * i.val →
      exec (.registerWrite cid a (leBytes 4 v.toNat)) s = exec (.doorbell r cid v) s) ∧
    s.readReg (bellBar d.val + 4096 * i.val + 0x004) = (s.ring r).head ∧
    s.readReg (bellBar d.val + 4096 * i.val + 0x008) = BitVec.ofNat 32 (s.ring r).status ∧
    (∀ off : Nat, off < 4096 → off % 4 = 0 → off ≠ 0x004 → off ≠ 0x008 → s.readReg (bellBar d.val + 4096 * i.val + off) = 0) ∧
    (∀ (off : Nat) (cid : Cid) (v : Word) (a : DWord), off < 4096 → off % 4 = 0 → off ≠ 0x000 →
      a.toNat = bellBar d.val + 4096 * i.val + off → exec (.registerWrite cid a (leBytes 4 v.toNat)) s = .next s)

/-- The U0 platform function and every Ochre endpoint read the same 32-bit GEN in every state, so every copy changes at once; it is
0 at reset; and a register write to any copy leaves it as it was. (R409) -/
def Obligations.DegradeGenReadsTheSameEverywhere : Prop :=
  (∀ s : State, s.readReg (umberBar 0 + 0x48) = s.degradeGen ∧ ∀ d : DieId, s.readReg (ochreBar d.val + 0x10) = s.degradeGen) ∧
  State.reset.readReg (umberBar 0 + 0x48) = 0 ∧
  (∀ (s : State) (cid : Cid) (a : DWord) (v : Word), s.phase = .up →
    (a.toNat = umberBar 0 + 0x48 ∨ ∃ d : DieId, a.toNat = ochreBar d.val + 0x10) →
    ∃ t, exec (.registerWrite cid a (leBytes 4 v.toNat)) s = .next t ∧ t.degradeGen = s.degradeGen)

/-- A register write narrower than 4 bytes, or one not aligned to its size, changes nothing, as does one of a CID other than 0 to a
BAR0 that is not its own. A 32-bit write of CID 0 to a word of RW fields gives those fields their new value and changes no other
register. A 32-bit write to a word of STG fields changes those fields of the shadow, marks the shadow unchecked and changes no
value in force. A read of a low half latches the high half as it stands. A write to the low half of FC_APPLY_TIME is held and
changes nothing in force; the write of its high half makes both take effect and holds nothing. The clauses that rest on log
entry 1 are the model's choice. (spec/00_scope.md R6, spec/00_scope.md R7, spec/21_registers.md R402, spec/21_registers.md R403,
spec/21_registers.md R404, spec/19_startup.md R382) -/
def Obligations.RegisterAccessRules : Prop :=
  (∀ (s : State) (cid : Cid) (a : DWord) (data : List Byte), s.phase = .up → a.toNat < mgmtBar →
    ((data.length < 4 ∨ a.toNat % data.length ≠ 0) → exec (.registerWrite cid a data) s = .next s) ∧
    (bar0Ok cid a.toNat = false → exec (.registerWrite cid a data) s = .next s ∧ exec (.stagedWrite cid a data) s = .next s ∧
      (∀ n, exec (.lowHalfReadLatch cid a n) s = .next s) ∧
      ∀ v, exec (.lowHalfWriteHold cid a v) s = .next s ∧ exec (.highHalfWrite cid a v) s = .next s)) ∧
  (∀ (d : DieId) (off : Nat) (cid : Cid), cid ≠ 0 → off < 0x1000000 → bar0Ok cid (ochreBar d.val + off) = false) ∧
  (∀ (u : UmberId) (off : Nat) (cid : Cid), cid ≠ 0 → off < 0x600000 → bar0Ok cid (umberBar u.val + off) = false) ∧
  (∀ (s : State) (a : DWord) (v : Word), s.phase = .up → a.toNat % 4 = 0 → rwMask a.toNat ≠ 0 → stgMask a.toNat = 0 →
    w1cMask a.toNat = 0 → heldWide a.toNat = false → heldWide (a.toNat - 4) = false → (∀ d : Fin 6, a.toNat ≠ dieBar d.val + 0x3100) →
    (∀ d : DieId, a.toNat ≠ ochreBar d.val + 0x28) →
    ∃ t, exec (.registerWrite 0 a (leBytes 4 v.toNat)) s = .next t ∧ t.reg a.toNat = merge (s.reg a.toNat) (rwMask a.toNat) v ∧
      (∀ b : Nat, b ≠ a.toNat → t.reg b = s.reg b) ∧ t.mem = s.mem ∧ t.shadow = s.shadow) ∧
  (∀ (s : State) (a : DWord) (v : Word), s.phase = .up → a.toNat % 4 = 0 → stgMask a.toNat ≠ 0 → heldWide a.toNat = false →
    heldWide (a.toNat - 4) = false → ∃ t, exec (.stagedWrite 0 a (leBytes 4 v.toNat)) s = .next t ∧ t.regs = s.regs ∧ t.mem = s.mem ∧
      t.front.clean = false ∧ t.shadowOf a.toNat = ((s.shadowOf a.toNat &&& ~~~(stgMask a.toNat)) ||| (v &&& stgMask a.toNat)) ∧
      ∀ b : Nat, b ≠ a.toNat → t.shadowOf b = s.shadowOf b) ∧
  (∀ (s : State) (a : DWord), s.phase = .up → a.toNat % 4 = 0 → isLow a.toNat = true → bar0Ok 0 a.toNat = true →
    ∃ t, exec (.lowHalfReadLatch 0 a 4) s = .next t ∧ t.regs = s.regs ∧ tabFind t.latch a.toNat = some (s.readReg (a.toNat + 4))) ∧
  (∀ (s : State) (a b : DWord) (lo hi : Word), s.phase = .up → a.toNat = umberBar 0 + 0x1008 → b.toNat = umberBar 0 + 0x100C →
    ∃ t, exec (.lowHalfWriteHold 0 a lo) s = .next t ∧ t.regs = s.regs ∧ tabFind t.held a.toNat = some lo ∧
      ∃ u, exec (.highHalfWrite 0 b hi) t = .next u ∧ u.reg64 a.toNat = hi ++ lo ∧ tabFind u.held a.toNat = none)

/-- FREEZE sets or clears its bit alone, and a frozen die counts nothing; CLEAR zeroes the die's counters alone. A sample with every
period 0 changes nothing; one that falls in a die's period, where its log can be reached, adds one record for each enabled
counter. With the trace budget spent a lost record waits; with room and nothing held, the discards are told in one record and
forgotten. A write to SO_VAL adds to an object that is not broken, a 32-bit one zero-extended; a write to SO_OWN sets the owners
of two objects that no SEALED context owns. Without a debug unlock of scope bit 0 buses and instruments change nothing; with
one, a bus takes its source, and a state-changing instrument changes only the disabled cell it runs on, or the granule of memory
that another part is. The clauses that rest on log entries 1, 4, 47 are the model's choice. (spec/20_observability.md R388,
spec/20_observability.md R392, spec/20_observability.md R394, spec/20_observability.md R399, spec/20_observability.md R400,
spec/20_observability.md R401, spec/21_registers.md R412, spec/18_reliability.md R362) -/
def Obligations.CountersTraceSyncAndTest : Prop :=
  (∀ (s : State) (die : Fin 6) (on : Bool), s.phase = .up → ∃ t, exec (.freeze die on) s = .next t ∧
    (t.reg (dieBar die.val + 0x3100)).getLsbD 0 = on ∧
    (∀ i : Nat, 0 < i → (t.reg (dieBar die.val + 0x3100)).getLsbD i = (s.reg (dieBar die.val + 0x3100)).getLsbD i) ∧
    (∀ a : Nat, a ≠ dieBar die.val + 0x3100 → t.reg a = s.reg a) ∧
    (on = true → ∀ event cid n, t.count die.val event cid n = t)) ∧
  (∀ (s : State) (die : Fin 6), s.phase = .up →
    exec (.pmcClear die) s = .next (s.setLog die.val { s.log die.val with pmc := [] }) ∧
    ((∀ d : Nat, d < 6 → (s.reg (dieBar d + 0x3100)).toNat / 16 % 2 ^ 16 = 0) → exec .counterSample s = .next s) ∧
    ((s.reg (dieBar die.val + 0x3100)).toNat / 16 % 2 ^ 16 ≠ 0 → s.time.toNat % 1000 = 0 →
      s.time.toNat / 1000 % ((s.reg (dieBar die.val + 0x3100)).toNat / 16 % 2 ^ 16) = 0 → s.trcOn die.val 6 = true →
      s.traceWaits die.val = false → (∀ k : Nat, s.recordWay die.val (s.trcBase die.val + 32 * k) 32 = true) →
      ∃ t, exec .counterSample s = .next t ∧ (t.log die.val).trcSeq = (s.log die.val).trcSeq +
        BitVec.ofNat 32 ((List.range 16).filter fun n => bitOf (s.reg (dieBar die.val + 0x3000 + 4 * n)).toNat 8).length) ∧
    (s.traceSpent = true → exec (.traceLostRecord die) s = .next s) ∧
    (s.traceSpent = false → (s.log die.val).trcHeld = [] → (s.log die.val).trcLost ≠ 0 → (s.log die.val).ctxLost = [] →
      s.trcOn die.val 7 = true →
      ∃ t, exec (.traceLostRecord die) s = .next t ∧ (t.log die.val).trcLost = 0 ∧ (t.log die.val).trcHeld = [] ∧
        (t.log die.val).trcSeq = (s.log die.val).trcSeq + 1)) ∧
  (∀ (s : State) (o : BitVec 16) (v : DWord), s.phase = .up →
    (s.soBroken o.toNat = true → ∀ wide, exec (.soValWrite o wide v) s = .next s) ∧
    (s.soBroken o.toNat = false → exec (.soValWrite o true v) s = .next (s.setSo o.toNat (s.so o.toNat + v)) ∧
      exec (.soValWrite o false v) s = .next (s.setSo o.toNat (s.so o.toNat + (v.setWidth 32).setWidth 64)))) ∧
  (∀ (s : State) (u : UmberId) (j : Fin 16384) (v : Word) (o : Nat), s.phase = .up → o = 32768 * u.val + 2 * j.val →
    s.sealedCid (s.soOwner o) = false → s.sealedCid (s.soOwner (o + 1)) = false →
    ∃ t, exec (.soOwnWrite u j v) s = .next t ∧ t.soOwner o = v.setWidth 16 ∧ t.soOwner (o + 1) = (v >>> 16).setWidth 16 ∧
      t.soVal = s.soVal ∧ ∀ k : Nat, k ≠ o → k ≠ o + 1 → t.soOwner k = s.soOwner k) ∧
  (∀ (s : State) (die : Fin 6) (bus : Bool) (src : AtbSource) (i : Instrument) (p : TestPart), s.phase = .up →
    (s.unlocked 0 = false → exec (.atbSelect die bus src) s = .next s ∧ exec (.testInstrumentRequest i p) s = .next s) ∧
    (s.unlocked 0 = true → src.code ≠ 0 → src.code ≤ 6 → ∃ t, exec (.atbSelect die bus src) s = .next t ∧ t.mem = s.mem ∧
      tabGet (fun _ => (⟨0, 0⟩ : AtbSource)) t.pins.atb (2 * die.val + bus.toNat) = src) ∧
    (instrumentChanges i = false → exec (.testInstrumentRequest i p) s = .next s) ∧
    (∀ g : CellId, p = .cell g → s.pins.prodTest = false → (s.ochre (g.val / 64)).cellEn.getLsbD (g.val % 64) = true →
      exec (.testInstrumentRequest i p) s = .next s) ∧
    (∀ g : CellId, p = .cell g → ∃ t, exec (.testInstrumentRequest i p) s = .next t ∧ t.mem = s.mem ∧ t.ctxs = s.ctxs ∧
      ∀ h : Nat, h ≠ g.val → t.cell h = s.cell h) ∧
    (∀ d n : Nat, p = .other d n → ∃ t, exec (.testInstrumentRequest i p) s = .next t ∧ t.cells = s.cells ∧ t.ctxs = s.ctxs ∧
      ∀ a : Nat, a / 2 ^ 21 ≠ n → t.readByte a = s.readByte a))

/-- State.reset has its phase and pins in agreement, its memory in canonical form, no command waiting, host cores released, CID 0
OPEN and every other context FREE; and the registers named here read the reset values that their tables give: PWR_OP_CTL,
PWR_CAP, GUST_CTL, SSC_CTL, HOST_CLK, FAB_TMO, LAKE_CTL, RP_ATS_TMO, QP_CTL, the log and trace sizes, and the identification of
the U0 function. That reset is the moment at which start-up has ended is the model's choice (log 3). The clauses that rest on
log entries 3, 6 are the model's choice. (spec/19_startup.md R375, spec/19_startup.md R376, spec/19_startup.md R377,
spec/16_power.md R343, spec/14_isobar_fabric.md R305, spec/21_registers.md R413, spec/21_registers.md R411, spec/21_registers.md
R415, spec/21_registers.md R405, spec/18_reliability.md R368, spec/20_observability.md R394) -/
def Obligations.ResetIsTheRunningMachine : Prop :=
  State.reset.powerWf ∧ Memory.wf State.reset.mem = true ∧ State.reset.pending = [] ∧ State.reset.released = true ∧
  (State.reset.ctx 0).state = .opened ∧ (∀ c : Cid, c ≠ 0 → (State.reset.ctx c).state = .free) ∧
  (∀ r : Nat, (State.reset.ring r).state = .stopped) ∧
  State.reset.readReg (umberBar 0 + 0x5000) = 7 ∧ State.reset.readReg (umberBar 0 + 0x5008) = 3600 + 10 * 4096 ∧
  State.reset.readReg (umberBar 0 + 0x500C) = 32 + 262144 ∧ State.reset.readReg (umberBar 0 + 0x5014) = 1 ∧
  (∀ k : Fin 12, State.reset.readReg (umberBar 0 + 0x5040 + 4 * k.val) = 24) ∧
  State.reset.readReg (umberBar 0 + 0x8028) = 1000 + 1000 * 65536 ∧ State.reset.readReg (umberBar 0 + 0xA008) = 4 ∧
  State.reset.readReg (umberBar 0 + 0x30004) = 10 ∧ State.reset.readReg (umberBar 1 + 0x200018) = 2 ∧
  State.reset.readReg (ochreBar 0 + 0x2004) = 6 * 4096 ∧ State.reset.readReg (ochreBar 3 + 0x4004) = 10 * 4096 ∧
  State.reset.readReg (umberBar 0) = 0x02020F20

/-- From every state whose phase agrees with the levels at PWR_GOOD and PKG_RST_N (off exactly without PWR_GOOD, held only with
PKG_RST_N low, starting and up only with it high), every step that answers a next state answers one that agrees too, whatever
the command; and a command other than a pin event changes neither the phase nor those levels. The clauses that rest on log
entries 2, 33 are the model's choice. (spec/19_startup.md R375, spec/19_startup.md R377, spec/22_electrical.md R419,
spec/22_electrical.md R421, spec/22_electrical.md R424) -/
def Obligations.EveryStepKeepsPhaseAndPins : Prop :=
  (∀ s t : State, s.powerWf → step s = .next t → t.powerWf) ∧
  (∀ (s t : State) (c : Instr) (rest : List Instr), s.pending = c :: rest →
    c ∉ [Instr.pwrGoodRise, .strapSample, .pwrGoodFall, .packageReset, .pkgRstNRise] → step s = .next t →
    t.phase = s.phase ∧ t.pins.pwrGood = s.pins.pwrGood ∧ t.pins.pkgRstN = s.pins.pkgRstN ∧ t.pending = rest)

/-- From every state whose memory lists its addresses in strictly rising order and no byte that is zero, every step that answers a
next state, whatever command is at the front of the queue, and the package tick of an empty queue, answers a state whose memory
has that form too; the memory of State.reset has it. The form is the model's own (log 5), and the rules cited are those of
commands that write memory. The clauses that rest on log entry 5 are the model's choice. (spec/12_memory_model.md R240,
spec/10_memory_system.md R196, spec/11_translation.md R235, spec/13_commands.md R272, spec/14_isobar_fabric.md R300,
spec/18_reliability.md R368, spec/19_startup.md R376, spec/19_startup.md R385) -/
def Obligations.WritesKeepMemoryCanonical : Prop :=
  (∀ s t : State, Memory.wf s.mem = true → step s = .next t → Memory.wf t.mem = true) ∧ Memory.wf State.reset.mem = true

/-- Whatever the state, a command of this list (settings of rings and queue pairs, launch and operating-point messages without an
apply, link and route events, power estimates, mailbox requests without a response, Front requests, counter controls, sync-
object writes, read latches) that answers a next state leaves every byte of memory, the ownership table, every cell and the
flash as they were; operating-point changes do so while no trace of them is taken; a port that trains to the width it had does
so; tenant requests that answer with an empty response leave the ownership table, every cell and the flash. (spec/13_commands.md
R263, spec/14_isobar_fabric.md R310, spec/14_isobar_fabric.md R292, spec/15_package_links.md R318, spec/16_power.md R336,
spec/17_security.md R358, spec/19_startup.md R381, spec/20_observability.md R388, spec/21_registers.md R412,
spec/21_registers.md R404) -/
def Obligations.CommandsThatStoreNothingKeepMemory : Prop :=
  (∀ (s t : State) (r : RingId) (off : Nat) (v w : Word) (n4 : BitVec 4) (b : Bool) (c : BitVec 20) (st : PrepStatus) (p : PortId) (q : Fin 256)
      (e : Fin 4096) (cid : Cid) (l : LinkId) (sq : BitVec 12) (src dst : Fin 6) (u : UmberId) (n k : Nat) (op : Fin 8) (d : DieId)
      (x : DWord) (key : BitVec 256) (o : BitVec 16) (j : Fin 16384) (bus : AtbSource)
      (flit : List Byte) (nonce : BitVec 256) (i : Instr),
    i ∈ [Instr.ringConfigWrite r off v, .ringCtlSetting r n4 b, .clear r, .prepAck c, .prepDone c st, .commitAck c, .teardownDone c,
         .commitAckTimeout c, .scrubbingReprepare c, .qpDoorbell p q cid b v, .qpRun p q b, .keyEntryWrite p e v,
         .routeChoiceChange u c, .routeResume u c, .flitReceive l b (bitOf k 0) flit, .nak l b sq, .linkRetrain l,
         .retrain l, .pathResume src dst, .activityEstimate src n, .ballastHoldEnd src, .prewarm d r, .prewarmTimeout d, .opReq c k op,
         .opReqTimeout k, .opSet k op, .opExchangeBoundary k, .droopRecovery src n,
         .thermtrip, .go, .mgmtKeyGraceEnd, .extend, .keyNew, .operatorReq b v key nonce,
         .fcCheck, .cancel, .freeze src b, .pmcClear src, .soValWrite o b x, .soOwnWrite u j w, .atbSelect src b bus,
         .lowHalfReadLatch cid x n] →
    exec i s = .next t → t.mem = s.mem ∧ t.own = s.own ∧ t.cells = s.cells ∧ t.flash = s.flash) ∧
  (∀ (s t : State) (p : PortId) (lanes : Nat), (s.port p.val).most ≤ widthOf lanes → exec (.isobarPortTrained p lanes) s = .next t →
    t.mem = s.mem ∧ t.own = s.own ∧ t.cells = s.cells ∧ t.flash = s.flash) ∧
  (∀ (s t : State) (k n : Nat) (rail : Fin 6) (i : Instr), s.trcOn 4 4 = false → s.trcOn 4 5 = false →
    i ∈ [Instr.opApply k, .powerCapWindow n, .stretchRelease rail] →
    exec i s = .next t → t.mem = s.mem ∧ t.own = s.own ∧ t.cells = s.cells ∧ t.flash = s.flash) ∧
  (∀ (s t : State) (v : Word) (x : DWord) (key : BitVec 256) (rid : BitVec 16) (pasid : BitVec 20) (rp : RootId) (i : Instr),
    i ∈ [Instr.setRt x, .pasidGrant rp rid pasid, .epochKey v key] →
    exec i s = .next t → t.own = s.own ∧ t.cells = s.cells ∧ t.flash = s.flash)
end

