-- ==== Sys2Proof/Laws/Ops.lean ====
section
/-! SUPPORT. What the shared operations over tables and memory do. -/

namespace Sys2Proof.Machine

/-- A key that a table lists nowhere reads as its default. -/
theorem tabGet_absent {α : Type} (d : Nat → α) (t : Tab α) (k : Nat) (h : ∀ p ∈ t, p.1 ≠ k) : tabGet d t k = d k := by
  induction t with
  | nil => rfl
  | cons p r ih =>
    obtain ⟨j, v⟩ := p
    have hj : j ≠ k := h (j, v) (by simp)
    simp only [tabGet, if_neg hj]
    exact ih fun q hq => h q (by simp [hq])

theorem tabGet_erase_self {α : Type} (d : Nat → α) (t : Tab α) (k : Nat) : tabGet d (tabErase t k) k = d k := by
  apply tabGet_absent
  intro p hp
  simpa [tabErase] using (List.mem_filter.mp hp).2

theorem tabGet_erase_ne {α : Type} (d : Nat → α) (t : Tab α) (k j : Nat) (h : j ≠ k) :
    tabGet d (tabErase t k) j = tabGet d t j := by
  induction t with
  | nil => rfl
  | cons p r ih =>
    obtain ⟨i, v⟩ := p
    by_cases hi : i = k
    · subst hi
      have : ¬ i = j := fun e => h e.symm
      simpa [tabErase, tabGet, this] using ih
    · by_cases hj : i = j
      · subst hj; simp [tabErase, tabGet, hi]
      · simpa [tabErase, tabGet, hi, hj] using ih

theorem tabGet_insert {α : Type} (d : Nat → α) (t : Tab α) (k j : Nat) (v : α) (h : ∀ p ∈ t, p.1 ≠ k) :
    tabGet d (tabInsert k v t) j = if j = k then v else tabGet d t j := by
  induction t with
  | nil =>
    by_cases hj : j = k
    · simp [tabInsert, tabGet, hj]
    · simp [tabInsert, tabGet, hj, Ne.symm hj]
  | cons p r ih =>
    obtain ⟨i, w⟩ := p
    have hi : i ≠ k := h (i, w) (by simp)
    have hr : ∀ q ∈ r, q.1 ≠ k := fun q hq => h q (by simp [hq])
    by_cases hk : k < i
    · by_cases hj : j = k
      · subst hj; simp [tabInsert, tabGet, hk]
      · have hkj : ¬ k = j := fun e => hj e.symm
        simp [tabInsert, tabGet, hk, hj, hkj]
    · by_cases hij : i = j
      · subst hij; simp [tabInsert, tabGet, hk, hi]
      · simp [tabInsert, tabGet, hk, hij, ih hr]

theorem tabErase_absent {α : Type} (t : Tab α) (k : Nat) : ∀ p ∈ tabErase t k, p.1 ≠ k := by
  intro p hp
  simpa [tabErase] using (List.mem_filter.mp hp).2

/-- Setting a key changes what that key reads as, and nothing else. -/
theorem tabGet_set {α : Type} [DecidableEq α] (d : Nat → α) (t : Tab α) (k j : Nat) (v : α) :
    tabGet d (tabSet d t k v) j = if j = k then v else tabGet d t j := by
  unfold tabSet
  by_cases hv : v = d k
  · by_cases hj : j = k
    · subst hj; simp [hv, tabGet_erase_self]
    · simp [hv, hj, tabGet_erase_ne d t k j hj]
  · rw [if_neg hv, tabGet_insert d _ k j v (tabErase_absent t k)]
    by_cases hj : j = k
    · simp [hj]
    · simp [hj, tabGet_erase_ne d t k j hj]

@[simp] theorem tabGet_set_self {α : Type} [DecidableEq α] (d : Nat → α) (t : Tab α) (k : Nat) (v : α) :
    tabGet d (tabSet d t k v) k = v := by simp [tabGet_set]

theorem tabGet_set_ne {α : Type} [DecidableEq α] (d : Nat → α) (t : Tab α) (k j : Nat) (v : α) (h : j ≠ k) :
    tabGet d (tabSet d t k v) j = tabGet d t j := by simp [tabGet_set, h]

/-! ### The canonical form -/

theorem tabWf_cons {α : Type} [DecidableEq α] (d : Nat → α) (j : Nat) (v : α) (r : Tab α) :
    tabWf d ((j, v) :: r) = true ↔ v ≠ d j ∧ (∀ p ∈ r, j < p.1) ∧ tabWf d r = true := by
  simp [tabWf, List.all_eq_true, and_assoc]

/-- A filtered table keeps the canonical form. -/
theorem tabWf_filter {α : Type} [DecidableEq α] (d : Nat → α) (t : Tab α) (f : Nat × α → Bool) (h : tabWf d t = true) :
    tabWf d (t.filter f) = true := by
  induction t with
  | nil => rfl
  | cons p r ih =>
    obtain ⟨j, v⟩ := p
    obtain ⟨hv, hr, hw⟩ := (tabWf_cons d j v r).mp h
    by_cases hf : f (j, v)
    · rw [List.filter_cons_of_pos hf, tabWf_cons]
      exact ⟨hv, fun p hp => hr p (List.mem_filter.mp hp).1, ih hw⟩
    · rw [List.filter_cons_of_neg hf]
      exact ih hw

theorem mem_tabInsert {α : Type} (k : Nat) (v : α) (t : Tab α) (p : Nat × α) (hp : p ∈ tabInsert k v t) :
    p = (k, v) ∨ p ∈ t := by
  induction t with
  | nil => simpa [tabInsert] using hp
  | cons q r ih =>
    obtain ⟨j, w⟩ := q
    by_cases hk : k < j
    · simpa [tabInsert, hk] using hp
    · rw [tabInsert, if_neg hk, List.mem_cons] at hp
      rcases hp with hp | hp
      · right; simp [hp]
      · rcases ih hp with h | h
        · exact .inl h
        · right; simp [h]

theorem tabWf_insert {α : Type} [DecidableEq α] (d : Nat → α) (k : Nat) (v : α) (t : Tab α) (hv : v ≠ d k)
    (hk : ∀ p ∈ t, p.1 ≠ k) (h : tabWf d t = true) : tabWf d (tabInsert k v t) = true := by
  induction t with
  | nil => simp [tabInsert, tabWf, hv]
  | cons q r ih =>
    obtain ⟨j, w⟩ := q
    obtain ⟨hw, hr, hwf⟩ := (tabWf_cons d j w r).mp h
    have hjk : j ≠ k := hk (j, w) (by simp)
    by_cases hlt : k < j
    · rw [tabInsert, if_pos hlt, tabWf_cons]
      refine ⟨hv, fun p hp => ?_, h⟩
      rcases List.mem_cons.mp hp with hp | hp
      · simpa [hp] using hlt
      · exact Nat.lt_trans hlt (hr p hp)
    · rw [tabInsert, if_neg hlt, tabWf_cons]
      refine ⟨hw, fun p hp => ?_, ih (fun p hp => hk p (by simp [hp])) hwf⟩
      rcases mem_tabInsert k v r p hp with hp | hp
      · subst hp; simp; omega
      · exact hr p hp

/-- Setting a key keeps the canonical form. -/
theorem tabWf_set {α : Type} [DecidableEq α] (d : Nat → α) (t : Tab α) (k : Nat) (v : α) (h : tabWf d t = true) :
    tabWf d (tabSet d t k v) = true := by
  unfold tabSet
  have he : tabWf d (tabErase t k) = true := tabWf_filter d t _ h
  by_cases hv : v = d k
  · simpa [hv] using he
  · rw [if_neg hv]
    exact tabWf_insert d k v _ hv (tabErase_absent t k) he

theorem tabWf_setMany {α : Type} [DecidableEq α] (d : Nat → α) (t : Tab α) (k : Nat) (vs : List α) (h : tabWf d t = true) :
    tabWf d (tabSetMany d t k vs) = true := by
  induction vs generalizing t k with
  | nil => exact h
  | cons v r ih => exact ih _ _ (tabWf_set d t k v h)

/-- Setting consecutive keys changes what they read as, and nothing else. -/
theorem tabGet_setMany {α : Type} [DecidableEq α] (d : Nat → α) (t : Tab α) (k j : Nat) (vs : List α) :
    tabGet d (tabSetMany d t k vs) j = if k ≤ j ∧ j < k + vs.length then vs.getD (j - k) (d j) else tabGet d t j := by
  induction vs generalizing t k with
  | nil =>
    rw [if_neg (by intro h; have := h.2; simp only [List.length_nil] at this; omega)]
    rfl
  | cons v r ih =>
    rw [tabSetMany, ih, tabGet_set]
    by_cases h1 : j = k
    · subst h1
      rw [if_neg (by omega), if_pos rfl, if_pos (by simp only [List.length_cons]; omega), Nat.sub_self, List.getD_cons_zero]
    · by_cases h2 : k + 1 ≤ j ∧ j < k + 1 + r.length
      · have h3 : k ≤ j ∧ j < k + (v :: r).length := by simp; omega
        have h4 : j - k = (j - (k + 1)) + 1 := by omega
        rw [if_pos h2, if_pos h3, h4, List.getD_cons_succ]
      · have h3 : ¬ (k ≤ j ∧ j < k + (v :: r).length) := by simp; omega
        rw [if_neg h2, if_neg h3, if_neg h1]

/-! ### Memory -/

/-- A write changes the bytes it writes. -/
theorem readByte_writeBytes (s : State) (a b : Nat) (bs : List Byte) :
    (s.writeBytes a bs).readByte b = if a ≤ b ∧ b < a + bs.length then bs.getD (b - a) 0 else s.readByte b := by
  simp [State.readByte, State.writeBytes, tabGet_setMany, zeroByte]

/-- A write keeps the canonical form. -/
theorem writeBytes_wf (s : State) (a : Nat) (bs : List Byte) (h : Memory.wf s.mem = true) :
    Memory.wf (s.writeBytes a bs).mem = true := tabWf_setMany _ _ _ _ h

theorem writeNat_wf (s : State) (a n v : Nat) (h : Memory.wf s.mem = true) : Memory.wf (s.writeNat a n v).mem = true :=
  writeBytes_wf s a _ h

/-- Erasing part of memory keeps the canonical form. -/
theorem erase_wf (m : List Host.Cell) (f : Host.Cell → Bool) (h : Memory.wf m = true) : Memory.wf (m.filter f) = true :=
  tabWf_filter _ _ _ h

/-- Reset memory has the canonical form. -/
theorem reset_mem_wf : Memory.wf State.reset.mem = true := rfl

end Sys2Proof.Machine
end

