-- ==== Sys2Proof/Laws/State.lean ====
section
/-! SUPPORT. What each update of a part of the state leaves: one lemma for the fields and one for the parts read through accessors,
true by unfolding, and for each keyed update what the accessor then reads. -/

namespace Sys2Proof.Machine

@[simp] theorem State.setHost_fields (s : State) (c : Nat) (x : HostCore) :
   (s.setHost c x).pending = s.pending ∧ (s.setHost c x).phase = s.phase ∧ (s.setHost c x).pins = s.pins ∧
    (s.setHost c x).flash = s.flash ∧ (s.setHost c x).bring = s.bring ∧ (s.setHost c x).time = s.time ∧ (s.setHost c x).fresh = s.fresh ∧
    (s.setHost c x).mem = s.mem ∧ (s.setHost c x).older = s.older ∧ (s.setHost c x).own = s.own ∧ (s.setHost c x).regs = s.regs ∧
    (s.setHost c x).shadow = s.shadow ∧ (s.setHost c x).latch = s.latch ∧ (s.setHost c x).held = s.held ∧
    (s.setHost c x).tierB0 = s.tierB0 ∧ (s.setHost c x).tierB1 = s.tierB1 ∧ (s.setHost c x).degradeGen = s.degradeGen ∧
    (s.setHost c x).svc = s.svc ∧ (s.setHost c x).fatal = s.fatal ∧ (s.setHost c x).released = s.released ∧
    (s.setHost c x).hostsOn = s.hostsOn ∧ (s.setHost c x).everReleased = s.everReleased ∧ (s.setHost c x).rate = s.rate ∧
    (s.setHost c x).cells = s.cells ∧ (s.setHost c x).ochres = s.ochres ∧ (s.setHost c x).logs = s.logs ∧
    (s.setHost c x).rings = s.rings ∧ (s.setHost c x).cmds = s.cmds ∧ (s.setHost c x).ctxs = s.ctxs ∧ (s.setHost c x).soVal = s.soVal ∧
    (s.setHost c x).soOwn = s.soOwn ∧ (s.setHost c x).soBad = s.soBad ∧ (s.setHost c x).cellErr = s.cellErr ∧
    (s.setHost c x).fatalRecs = s.fatalRecs ∧ (s.setHost c x).hbm = s.hbm ∧ (s.setHost c x).coh = s.coh ∧
    (s.setHost c x).links = s.links ∧ (s.setHost c x).fab = s.fab ∧ (s.setHost c x).roots = s.roots ∧ (s.setHost c x).qps = s.qps ∧
    (s.setHost c x).front = s.front ∧ (s.setHost c x).power = s.power ∧ (s.setHost c x).sec = s.sec ∧ (s.setHost c x).warm = s.warm ∧
    (s.setHost c x).xlt = s.xlt ∧ (s.setHost c x).mc = s.mc ∧ (s.setHost c x).irqs = s.irqs :=
  ⟨rfl, rfl, rfl, rfl, rfl, rfl, rfl, rfl, rfl, rfl, rfl, rfl, rfl, rfl, rfl, rfl, rfl, rfl, rfl, rfl, rfl, rfl, rfl, rfl, rfl, rfl, rfl, rfl, rfl, rfl, rfl, rfl, rfl, rfl, rfl, rfl, rfl, rfl, rfl, rfl, rfl, rfl, rfl, rfl, rfl, rfl, rfl⟩

@[simp] theorem State.setHost_parts (s : State) (c : Nat) (x : HostCore) :
   (∀ i, (s.setHost c x).cell i = s.cell i) ∧ (∀ i, (s.setHost c x).ochre i = s.ochre i) ∧ (∀ i, (s.setHost c x).log i = s.log i) ∧
    (∀ i, (s.setHost c x).ring i = s.ring i) ∧ (∀ cid, (s.setHost c x).ctx cid = s.ctx cid) ∧ (∀ i, (s.setHost c x).root i = s.root i) ∧
    (∀ i j, (s.setHost c x).qp i j = s.qp i j) ∧ (∀ i, (s.setHost c x).link i = s.link i) ∧ (∀ i, (s.setHost c x).port i = s.port i) ∧
    (∀ i, (s.setHost c x).gust i = s.gust i) ∧ (∀ i, (s.setHost c x).reg i = s.reg i) ∧ (∀ i, (s.setHost c x).shadowOf i = s.shadowOf i) ∧
    (∀ i q, (s.setHost c x).cmd i q = s.cmd i q) ∧ (∀ i, (s.setHost c x).so i = s.so i) ∧ (∀ i, (s.setHost c x).soOwner i = s.soOwner i) ∧
    (∀ i, (s.setHost c x).soBroken i = s.soBroken i) ∧ (∀ i, (s.setHost c x).owner i = s.owner i) ∧
    (∀ i, (s.setHost c x).chan i = s.chan i) ∧ (∀ i j, (s.setHost c x).band i j = s.band i j) ∧
    (∀ i, (s.setHost c x).readByte i = s.readByte i) ∧ (∀ i, (s.setHost c x).dirEntry i = s.dirEntry i) :=
  ⟨fun _ => rfl, fun _ => rfl, fun _ => rfl, fun _ => rfl, fun _ => rfl, fun _ => rfl, fun _ _ => rfl, fun _ => rfl, fun _ => rfl, fun _ => rfl, fun _ => rfl, fun _ => rfl, fun _ _ => rfl, fun _ => rfl, fun _ => rfl, fun _ => rfl, fun _ => rfl, fun _ => rfl, fun _ _ => rfl, fun _ => rfl, fun _ => rfl⟩

@[simp] theorem State.setCell_fields (s : State) (g : Nat) (x : Cell) :
   (s.setCell g x).pending = s.pending ∧ (s.setCell g x).phase = s.phase ∧ (s.setCell g x).pins = s.pins ∧
    (s.setCell g x).flash = s.flash ∧ (s.setCell g x).bring = s.bring ∧ (s.setCell g x).time = s.time ∧ (s.setCell g x).fresh = s.fresh ∧
    (s.setCell g x).mem = s.mem ∧ (s.setCell g x).older = s.older ∧ (s.setCell g x).own = s.own ∧ (s.setCell g x).regs = s.regs ∧
    (s.setCell g x).shadow = s.shadow ∧ (s.setCell g x).latch = s.latch ∧ (s.setCell g x).held = s.held ∧
    (s.setCell g x).tierB0 = s.tierB0 ∧ (s.setCell g x).tierB1 = s.tierB1 ∧ (s.setCell g x).degradeGen = s.degradeGen ∧
    (s.setCell g x).svc = s.svc ∧ (s.setCell g x).fatal = s.fatal ∧ (s.setCell g x).released = s.released ∧
    (s.setCell g x).hostsOn = s.hostsOn ∧ (s.setCell g x).everReleased = s.everReleased ∧ (s.setCell g x).rate = s.rate ∧
    (s.setCell g x).hosts = s.hosts ∧ (s.setCell g x).ochres = s.ochres ∧ (s.setCell g x).logs = s.logs ∧
    (s.setCell g x).rings = s.rings ∧ (s.setCell g x).cmds = s.cmds ∧ (s.setCell g x).ctxs = s.ctxs ∧ (s.setCell g x).soVal = s.soVal ∧
    (s.setCell g x).soOwn = s.soOwn ∧ (s.setCell g x).soBad = s.soBad ∧ (s.setCell g x).cellErr = s.cellErr ∧
    (s.setCell g x).fatalRecs = s.fatalRecs ∧ (s.setCell g x).hbm = s.hbm ∧ (s.setCell g x).coh = s.coh ∧
    (s.setCell g x).links = s.links ∧ (s.setCell g x).fab = s.fab ∧ (s.setCell g x).roots = s.roots ∧ (s.setCell g x).qps = s.qps ∧
    (s.setCell g x).front = s.front ∧ (s.setCell g x).power = s.power ∧ (s.setCell g x).sec = s.sec ∧ (s.setCell g x).warm = s.warm ∧
    (s.setCell g x).xlt = s.xlt ∧ (s.setCell g x).mc = s.mc ∧ (s.setCell g x).irqs = s.irqs :=
  ⟨rfl, rfl, rfl, rfl, rfl, rfl, rfl, rfl, rfl, rfl, rfl, rfl, rfl, rfl, rfl, rfl, rfl, rfl, rfl, rfl, rfl, rfl, rfl, rfl, rfl, rfl, rfl, rfl, rfl, rfl, rfl, rfl, rfl, rfl, rfl, rfl, rfl, rfl, rfl, rfl, rfl, rfl, rfl, rfl, rfl, rfl, rfl⟩

@[simp] theorem State.setCell_parts (s : State) (g : Nat) (x : Cell) :
   (∀ i, (s.setCell g x).host i = s.host i) ∧ (∀ i, (s.setCell g x).ochre i = s.ochre i) ∧ (∀ i, (s.setCell g x).log i = s.log i) ∧
    (∀ i, (s.setCell g x).ring i = s.ring i) ∧ (∀ cid, (s.setCell g x).ctx cid = s.ctx cid) ∧ (∀ i, (s.setCell g x).root i = s.root i) ∧
    (∀ i j, (s.setCell g x).qp i j = s.qp i j) ∧ (∀ i, (s.setCell g x).link i = s.link i) ∧ (∀ i, (s.setCell g x).port i = s.port i) ∧
    (∀ i, (s.setCell g x).gust i = s.gust i) ∧ (∀ i, (s.setCell g x).reg i = s.reg i) ∧ (∀ i, (s.setCell g x).shadowOf i = s.shadowOf i) ∧
    (∀ i q, (s.setCell g x).cmd i q = s.cmd i q) ∧ (∀ i, (s.setCell g x).so i = s.so i) ∧ (∀ i, (s.setCell g x).soOwner i = s.soOwner i) ∧
    (∀ i, (s.setCell g x).soBroken i = s.soBroken i) ∧ (∀ i, (s.setCell g x).owner i = s.owner i) ∧
    (∀ i, (s.setCell g x).chan i = s.chan i) ∧ (∀ i j, (s.setCell g x).band i j = s.band i j) ∧
    (∀ i, (s.setCell g x).readByte i = s.readByte i) ∧ (∀ i, (s.setCell g x).dirEntry i = s.dirEntry i) :=
  ⟨fun _ => rfl, fun _ => rfl, fun _ => rfl, fun _ => rfl, fun _ => rfl, fun _ => rfl, fun _ _ => rfl, fun _ => rfl, fun _ => rfl, fun _ => rfl, fun _ => rfl, fun _ => rfl, fun _ _ => rfl, fun _ => rfl, fun _ => rfl, fun _ => rfl, fun _ => rfl, fun _ => rfl, fun _ _ => rfl, fun _ => rfl, fun _ => rfl⟩

@[simp] theorem State.setOchre_fields (s : State) (d : Nat) (x : Ochre) :
   (s.setOchre d x).pending = s.pending ∧ (s.setOchre d x).phase = s.phase ∧ (s.setOchre d x).pins = s.pins ∧
    (s.setOchre d x).flash = s.flash ∧ (s.setOchre d x).bring = s.bring ∧ (s.setOchre d x).time = s.time ∧
    (s.setOchre d x).fresh = s.fresh ∧ (s.setOchre d x).mem = s.mem ∧ (s.setOchre d x).older = s.older ∧ (s.setOchre d x).own = s.own ∧
    (s.setOchre d x).regs = s.regs ∧ (s.setOchre d x).shadow = s.shadow ∧ (s.setOchre d x).latch = s.latch ∧
    (s.setOchre d x).held = s.held ∧ (s.setOchre d x).tierB0 = s.tierB0 ∧ (s.setOchre d x).tierB1 = s.tierB1 ∧
    (s.setOchre d x).degradeGen = s.degradeGen ∧ (s.setOchre d x).svc = s.svc ∧ (s.setOchre d x).fatal = s.fatal ∧
    (s.setOchre d x).released = s.released ∧ (s.setOchre d x).hostsOn = s.hostsOn ∧ (s.setOchre d x).everReleased = s.everReleased ∧
    (s.setOchre d x).rate = s.rate ∧ (s.setOchre d x).hosts = s.hosts ∧ (s.setOchre d x).cells = s.cells ∧
    (s.setOchre d x).logs = s.logs ∧ (s.setOchre d x).rings = s.rings ∧ (s.setOchre d x).cmds = s.cmds ∧ (s.setOchre d x).ctxs = s.ctxs ∧
    (s.setOchre d x).soVal = s.soVal ∧ (s.setOchre d x).soOwn = s.soOwn ∧ (s.setOchre d x).soBad = s.soBad ∧
    (s.setOchre d x).cellErr = s.cellErr ∧ (s.setOchre d x).fatalRecs = s.fatalRecs ∧ (s.setOchre d x).hbm = s.hbm ∧
    (s.setOchre d x).coh = s.coh ∧ (s.setOchre d x).links = s.links ∧ (s.setOchre d x).fab = s.fab ∧ (s.setOchre d x).roots = s.roots ∧
    (s.setOchre d x).qps = s.qps ∧ (s.setOchre d x).front = s.front ∧ (s.setOchre d x).power = s.power ∧ (s.setOchre d x).sec = s.sec ∧
    (s.setOchre d x).warm = s.warm ∧ (s.setOchre d x).xlt = s.xlt ∧ (s.setOchre d x).mc = s.mc ∧ (s.setOchre d x).irqs = s.irqs :=
  ⟨rfl, rfl, rfl, rfl, rfl, rfl, rfl, rfl, rfl, rfl, rfl, rfl, rfl, rfl, rfl, rfl, rfl, rfl, rfl, rfl, rfl, rfl, rfl, rfl, rfl, rfl, rfl, rfl, rfl, rfl, rfl, rfl, rfl, rfl, rfl, rfl, rfl, rfl, rfl, rfl, rfl, rfl, rfl, rfl, rfl, rfl, rfl⟩

@[simp] theorem State.setOchre_parts (s : State) (d : Nat) (x : Ochre) :
   (∀ i, (s.setOchre d x).host i = s.host i) ∧ (∀ i, (s.setOchre d x).cell i = s.cell i) ∧ (∀ i, (s.setOchre d x).log i = s.log i) ∧
    (∀ i, (s.setOchre d x).ring i = s.ring i) ∧ (∀ cid, (s.setOchre d x).ctx cid = s.ctx cid) ∧
    (∀ i, (s.setOchre d x).root i = s.root i) ∧ (∀ i j, (s.setOchre d x).qp i j = s.qp i j) ∧ (∀ i, (s.setOchre d x).link i = s.link i) ∧
    (∀ i, (s.setOchre d x).port i = s.port i) ∧ (∀ i, (s.setOchre d x).gust i = s.gust i) ∧ (∀ i, (s.setOchre d x).reg i = s.reg i) ∧
    (∀ i, (s.setOchre d x).shadowOf i = s.shadowOf i) ∧ (∀ i q, (s.setOchre d x).cmd i q = s.cmd i q) ∧
    (∀ i, (s.setOchre d x).so i = s.so i) ∧ (∀ i, (s.setOchre d x).soOwner i = s.soOwner i) ∧
    (∀ i, (s.setOchre d x).soBroken i = s.soBroken i) ∧ (∀ i, (s.setOchre d x).owner i = s.owner i) ∧
    (∀ i, (s.setOchre d x).chan i = s.chan i) ∧ (∀ i j, (s.setOchre d x).band i j = s.band i j) ∧
    (∀ i, (s.setOchre d x).readByte i = s.readByte i) ∧ (∀ i, (s.setOchre d x).dirEntry i = s.dirEntry i) :=
  ⟨fun _ => rfl, fun _ => rfl, fun _ => rfl, fun _ => rfl, fun _ => rfl, fun _ => rfl, fun _ _ => rfl, fun _ => rfl, fun _ => rfl, fun _ => rfl, fun _ => rfl, fun _ => rfl, fun _ _ => rfl, fun _ => rfl, fun _ => rfl, fun _ => rfl, fun _ => rfl, fun _ => rfl, fun _ _ => rfl, fun _ => rfl, fun _ => rfl⟩

@[simp] theorem State.setLog_fields (s : State) (d : Nat) (x : DieLog) :
   (s.setLog d x).pending = s.pending ∧ (s.setLog d x).phase = s.phase ∧ (s.setLog d x).pins = s.pins ∧ (s.setLog d x).flash = s.flash ∧
    (s.setLog d x).bring = s.bring ∧ (s.setLog d x).time = s.time ∧ (s.setLog d x).fresh = s.fresh ∧ (s.setLog d x).mem = s.mem ∧
    (s.setLog d x).older = s.older ∧ (s.setLog d x).own = s.own ∧ (s.setLog d x).regs = s.regs ∧ (s.setLog d x).shadow = s.shadow ∧
    (s.setLog d x).latch = s.latch ∧ (s.setLog d x).held = s.held ∧ (s.setLog d x).tierB0 = s.tierB0 ∧ (s.setLog d x).tierB1 = s.tierB1 ∧
    (s.setLog d x).degradeGen = s.degradeGen ∧ (s.setLog d x).svc = s.svc ∧ (s.setLog d x).fatal = s.fatal ∧
    (s.setLog d x).released = s.released ∧ (s.setLog d x).hostsOn = s.hostsOn ∧ (s.setLog d x).everReleased = s.everReleased ∧
    (s.setLog d x).rate = s.rate ∧ (s.setLog d x).hosts = s.hosts ∧ (s.setLog d x).cells = s.cells ∧ (s.setLog d x).ochres = s.ochres ∧
    (s.setLog d x).rings = s.rings ∧ (s.setLog d x).cmds = s.cmds ∧ (s.setLog d x).ctxs = s.ctxs ∧ (s.setLog d x).soVal = s.soVal ∧
    (s.setLog d x).soOwn = s.soOwn ∧ (s.setLog d x).soBad = s.soBad ∧ (s.setLog d x).cellErr = s.cellErr ∧
    (s.setLog d x).fatalRecs = s.fatalRecs ∧ (s.setLog d x).hbm = s.hbm ∧ (s.setLog d x).coh = s.coh ∧ (s.setLog d x).links = s.links ∧
    (s.setLog d x).fab = s.fab ∧ (s.setLog d x).roots = s.roots ∧ (s.setLog d x).qps = s.qps ∧ (s.setLog d x).front = s.front ∧
    (s.setLog d x).power = s.power ∧ (s.setLog d x).sec = s.sec ∧ (s.setLog d x).warm = s.warm ∧ (s.setLog d x).xlt = s.xlt ∧
    (s.setLog d x).mc = s.mc ∧ (s.setLog d x).irqs = s.irqs :=
  ⟨rfl, rfl, rfl, rfl, rfl, rfl, rfl, rfl, rfl, rfl, rfl, rfl, rfl, rfl, rfl, rfl, rfl, rfl, rfl, rfl, rfl, rfl, rfl, rfl, rfl, rfl, rfl, rfl, rfl, rfl, rfl, rfl, rfl, rfl, rfl, rfl, rfl, rfl, rfl, rfl, rfl, rfl, rfl, rfl, rfl, rfl, rfl⟩

@[simp] theorem State.setLog_parts (s : State) (d : Nat) (x : DieLog) :
   (∀ i, (s.setLog d x).host i = s.host i) ∧ (∀ i, (s.setLog d x).cell i = s.cell i) ∧ (∀ i, (s.setLog d x).ochre i = s.ochre i) ∧
    (∀ i, (s.setLog d x).ring i = s.ring i) ∧ (∀ cid, (s.setLog d x).ctx cid = s.ctx cid) ∧ (∀ i, (s.setLog d x).root i = s.root i) ∧
    (∀ i j, (s.setLog d x).qp i j = s.qp i j) ∧ (∀ i, (s.setLog d x).link i = s.link i) ∧ (∀ i, (s.setLog d x).port i = s.port i) ∧
    (∀ i, (s.setLog d x).gust i = s.gust i) ∧ (∀ i, (s.setLog d x).reg i = s.reg i) ∧ (∀ i, (s.setLog d x).shadowOf i = s.shadowOf i) ∧
    (∀ i q, (s.setLog d x).cmd i q = s.cmd i q) ∧ (∀ i, (s.setLog d x).so i = s.so i) ∧ (∀ i, (s.setLog d x).soOwner i = s.soOwner i) ∧
    (∀ i, (s.setLog d x).soBroken i = s.soBroken i) ∧ (∀ i, (s.setLog d x).owner i = s.owner i) ∧
    (∀ i, (s.setLog d x).chan i = s.chan i) ∧ (∀ i j, (s.setLog d x).band i j = s.band i j) ∧
    (∀ i, (s.setLog d x).readByte i = s.readByte i) ∧ (∀ i, (s.setLog d x).dirEntry i = s.dirEntry i) :=
  ⟨fun _ => rfl, fun _ => rfl, fun _ => rfl, fun _ => rfl, fun _ => rfl, fun _ => rfl, fun _ _ => rfl, fun _ => rfl, fun _ => rfl, fun _ => rfl, fun _ => rfl, fun _ => rfl, fun _ _ => rfl, fun _ => rfl, fun _ => rfl, fun _ => rfl, fun _ => rfl, fun _ => rfl, fun _ _ => rfl, fun _ => rfl, fun _ => rfl⟩

@[simp] theorem State.setRing_fields (s : State) (r : Nat) (x : Ring) :
   (s.setRing r x).pending = s.pending ∧ (s.setRing r x).phase = s.phase ∧ (s.setRing r x).pins = s.pins ∧
    (s.setRing r x).flash = s.flash ∧ (s.setRing r x).bring = s.bring ∧ (s.setRing r x).time = s.time ∧ (s.setRing r x).fresh = s.fresh ∧
    (s.setRing r x).mem = s.mem ∧ (s.setRing r x).older = s.older ∧ (s.setRing r x).own = s.own ∧ (s.setRing r x).regs = s.regs ∧
    (s.setRing r x).shadow = s.shadow ∧ (s.setRing r x).latch = s.latch ∧ (s.setRing r x).held = s.held ∧
    (s.setRing r x).tierB0 = s.tierB0 ∧ (s.setRing r x).tierB1 = s.tierB1 ∧ (s.setRing r x).degradeGen = s.degradeGen ∧
    (s.setRing r x).svc = s.svc ∧ (s.setRing r x).fatal = s.fatal ∧ (s.setRing r x).released = s.released ∧
    (s.setRing r x).hostsOn = s.hostsOn ∧ (s.setRing r x).everReleased = s.everReleased ∧ (s.setRing r x).rate = s.rate ∧
    (s.setRing r x).hosts = s.hosts ∧ (s.setRing r x).cells = s.cells ∧ (s.setRing r x).ochres = s.ochres ∧
    (s.setRing r x).logs = s.logs ∧ (s.setRing r x).cmds = s.cmds ∧ (s.setRing r x).ctxs = s.ctxs ∧ (s.setRing r x).soVal = s.soVal ∧
    (s.setRing r x).soOwn = s.soOwn ∧ (s.setRing r x).soBad = s.soBad ∧ (s.setRing r x).cellErr = s.cellErr ∧
    (s.setRing r x).fatalRecs = s.fatalRecs ∧ (s.setRing r x).hbm = s.hbm ∧ (s.setRing r x).coh = s.coh ∧
    (s.setRing r x).links = s.links ∧ (s.setRing r x).fab = s.fab ∧ (s.setRing r x).roots = s.roots ∧ (s.setRing r x).qps = s.qps ∧
    (s.setRing r x).front = s.front ∧ (s.setRing r x).power = s.power ∧ (s.setRing r x).sec = s.sec ∧ (s.setRing r x).warm = s.warm ∧
    (s.setRing r x).xlt = s.xlt ∧ (s.setRing r x).mc = s.mc ∧ (s.setRing r x).irqs = s.irqs :=
  ⟨rfl, rfl, rfl, rfl, rfl, rfl, rfl, rfl, rfl, rfl, rfl, rfl, rfl, rfl, rfl, rfl, rfl, rfl, rfl, rfl, rfl, rfl, rfl, rfl, rfl, rfl, rfl, rfl, rfl, rfl, rfl, rfl, rfl, rfl, rfl, rfl, rfl, rfl, rfl, rfl, rfl, rfl, rfl, rfl, rfl, rfl, rfl⟩

@[simp] theorem State.setRing_parts (s : State) (r : Nat) (x : Ring) :
   (∀ i, (s.setRing r x).host i = s.host i) ∧ (∀ i, (s.setRing r x).cell i = s.cell i) ∧ (∀ i, (s.setRing r x).ochre i = s.ochre i) ∧
    (∀ i, (s.setRing r x).log i = s.log i) ∧ (∀ cid, (s.setRing r x).ctx cid = s.ctx cid) ∧ (∀ i, (s.setRing r x).root i = s.root i) ∧
    (∀ i j, (s.setRing r x).qp i j = s.qp i j) ∧ (∀ i, (s.setRing r x).link i = s.link i) ∧ (∀ i, (s.setRing r x).port i = s.port i) ∧
    (∀ i, (s.setRing r x).gust i = s.gust i) ∧ (∀ i, (s.setRing r x).reg i = s.reg i) ∧ (∀ i, (s.setRing r x).shadowOf i = s.shadowOf i) ∧
    (∀ i q, (s.setRing r x).cmd i q = s.cmd i q) ∧ (∀ i, (s.setRing r x).so i = s.so i) ∧ (∀ i, (s.setRing r x).soOwner i = s.soOwner i) ∧
    (∀ i, (s.setRing r x).soBroken i = s.soBroken i) ∧ (∀ i, (s.setRing r x).owner i = s.owner i) ∧
    (∀ i, (s.setRing r x).chan i = s.chan i) ∧ (∀ i j, (s.setRing r x).band i j = s.band i j) ∧
    (∀ i, (s.setRing r x).readByte i = s.readByte i) ∧ (∀ i, (s.setRing r x).dirEntry i = s.dirEntry i) :=
  ⟨fun _ => rfl, fun _ => rfl, fun _ => rfl, fun _ => rfl, fun _ => rfl, fun _ => rfl, fun _ _ => rfl, fun _ => rfl, fun _ => rfl, fun _ => rfl, fun _ => rfl, fun _ => rfl, fun _ _ => rfl, fun _ => rfl, fun _ => rfl, fun _ => rfl, fun _ => rfl, fun _ => rfl, fun _ _ => rfl, fun _ => rfl, fun _ => rfl⟩

@[simp] theorem State.setCtx_fields (s : State) (c : Cid) (x : Ctx) :
   (s.setCtx c x).pending = s.pending ∧ (s.setCtx c x).phase = s.phase ∧ (s.setCtx c x).pins = s.pins ∧ (s.setCtx c x).flash = s.flash ∧
    (s.setCtx c x).bring = s.bring ∧ (s.setCtx c x).time = s.time ∧ (s.setCtx c x).fresh = s.fresh ∧ (s.setCtx c x).mem = s.mem ∧
    (s.setCtx c x).older = s.older ∧ (s.setCtx c x).own = s.own ∧ (s.setCtx c x).regs = s.regs ∧ (s.setCtx c x).shadow = s.shadow ∧
    (s.setCtx c x).latch = s.latch ∧ (s.setCtx c x).held = s.held ∧ (s.setCtx c x).tierB0 = s.tierB0 ∧ (s.setCtx c x).tierB1 = s.tierB1 ∧
    (s.setCtx c x).degradeGen = s.degradeGen ∧ (s.setCtx c x).svc = s.svc ∧ (s.setCtx c x).fatal = s.fatal ∧
    (s.setCtx c x).released = s.released ∧ (s.setCtx c x).hostsOn = s.hostsOn ∧ (s.setCtx c x).everReleased = s.everReleased ∧
    (s.setCtx c x).rate = s.rate ∧ (s.setCtx c x).hosts = s.hosts ∧ (s.setCtx c x).cells = s.cells ∧ (s.setCtx c x).ochres = s.ochres ∧
    (s.setCtx c x).logs = s.logs ∧ (s.setCtx c x).rings = s.rings ∧ (s.setCtx c x).cmds = s.cmds ∧ (s.setCtx c x).soVal = s.soVal ∧
    (s.setCtx c x).soOwn = s.soOwn ∧ (s.setCtx c x).soBad = s.soBad ∧ (s.setCtx c x).cellErr = s.cellErr ∧
    (s.setCtx c x).fatalRecs = s.fatalRecs ∧ (s.setCtx c x).hbm = s.hbm ∧ (s.setCtx c x).coh = s.coh ∧ (s.setCtx c x).links = s.links ∧
    (s.setCtx c x).fab = s.fab ∧ (s.setCtx c x).roots = s.roots ∧ (s.setCtx c x).qps = s.qps ∧ (s.setCtx c x).front = s.front ∧
    (s.setCtx c x).power = s.power ∧ (s.setCtx c x).sec = s.sec ∧ (s.setCtx c x).warm = s.warm ∧ (s.setCtx c x).xlt = s.xlt ∧
    (s.setCtx c x).mc = s.mc ∧ (s.setCtx c x).irqs = s.irqs :=
  ⟨rfl, rfl, rfl, rfl, rfl, rfl, rfl, rfl, rfl, rfl, rfl, rfl, rfl, rfl, rfl, rfl, rfl, rfl, rfl, rfl, rfl, rfl, rfl, rfl, rfl, rfl, rfl, rfl, rfl, rfl, rfl, rfl, rfl, rfl, rfl, rfl, rfl, rfl, rfl, rfl, rfl, rfl, rfl, rfl, rfl, rfl, rfl⟩

@[simp] theorem State.setCtx_parts (s : State) (c : Cid) (x : Ctx) :
   (∀ i, (s.setCtx c x).host i = s.host i) ∧ (∀ i, (s.setCtx c x).cell i = s.cell i) ∧ (∀ i, (s.setCtx c x).ochre i = s.ochre i) ∧
    (∀ i, (s.setCtx c x).log i = s.log i) ∧ (∀ i, (s.setCtx c x).ring i = s.ring i) ∧ (∀ i, (s.setCtx c x).root i = s.root i) ∧
    (∀ i j, (s.setCtx c x).qp i j = s.qp i j) ∧ (∀ i, (s.setCtx c x).link i = s.link i) ∧ (∀ i, (s.setCtx c x).port i = s.port i) ∧
    (∀ i, (s.setCtx c x).gust i = s.gust i) ∧ (∀ i, (s.setCtx c x).reg i = s.reg i) ∧ (∀ i, (s.setCtx c x).shadowOf i = s.shadowOf i) ∧
    (∀ i q, (s.setCtx c x).cmd i q = s.cmd i q) ∧ (∀ i, (s.setCtx c x).so i = s.so i) ∧ (∀ i, (s.setCtx c x).soOwner i = s.soOwner i) ∧
    (∀ i, (s.setCtx c x).soBroken i = s.soBroken i) ∧ (∀ i, (s.setCtx c x).owner i = s.owner i) ∧
    (∀ i, (s.setCtx c x).chan i = s.chan i) ∧ (∀ i j, (s.setCtx c x).band i j = s.band i j) ∧
    (∀ i, (s.setCtx c x).readByte i = s.readByte i) ∧ (∀ i, (s.setCtx c x).dirEntry i = s.dirEntry i) :=
  ⟨fun _ => rfl, fun _ => rfl, fun _ => rfl, fun _ => rfl, fun _ => rfl, fun _ => rfl, fun _ _ => rfl, fun _ => rfl, fun _ => rfl, fun _ => rfl, fun _ => rfl, fun _ => rfl, fun _ _ => rfl, fun _ => rfl, fun _ => rfl, fun _ => rfl, fun _ => rfl, fun _ => rfl, fun _ _ => rfl, fun _ => rfl, fun _ => rfl⟩

@[simp] theorem State.setRoot_fields (s : State) (p : Nat) (x : RootPort) :
   (s.setRoot p x).pending = s.pending ∧ (s.setRoot p x).phase = s.phase ∧ (s.setRoot p x).pins = s.pins ∧
    (s.setRoot p x).flash = s.flash ∧ (s.setRoot p x).bring = s.bring ∧ (s.setRoot p x).time = s.time ∧ (s.setRoot p x).fresh = s.fresh ∧
    (s.setRoot p x).mem = s.mem ∧ (s.setRoot p x).older = s.older ∧ (s.setRoot p x).own = s.own ∧ (s.setRoot p x).regs = s.regs ∧
    (s.setRoot p x).shadow = s.shadow ∧ (s.setRoot p x).latch = s.latch ∧ (s.setRoot p x).held = s.held ∧
    (s.setRoot p x).tierB0 = s.tierB0 ∧ (s.setRoot p x).tierB1 = s.tierB1 ∧ (s.setRoot p x).degradeGen = s.degradeGen ∧
    (s.setRoot p x).svc = s.svc ∧ (s.setRoot p x).fatal = s.fatal ∧ (s.setRoot p x).released = s.released ∧
    (s.setRoot p x).hostsOn = s.hostsOn ∧ (s.setRoot p x).everReleased = s.everReleased ∧ (s.setRoot p x).rate = s.rate ∧
    (s.setRoot p x).hosts = s.hosts ∧ (s.setRoot p x).cells = s.cells ∧ (s.setRoot p x).ochres = s.ochres ∧
    (s.setRoot p x).logs = s.logs ∧ (s.setRoot p x).rings = s.rings ∧ (s.setRoot p x).cmds = s.cmds ∧ (s.setRoot p x).ctxs = s.ctxs ∧
    (s.setRoot p x).soVal = s.soVal ∧ (s.setRoot p x).soOwn = s.soOwn ∧ (s.setRoot p x).soBad = s.soBad ∧
    (s.setRoot p x).cellErr = s.cellErr ∧ (s.setRoot p x).fatalRecs = s.fatalRecs ∧ (s.setRoot p x).hbm = s.hbm ∧
    (s.setRoot p x).coh = s.coh ∧ (s.setRoot p x).links = s.links ∧ (s.setRoot p x).fab = s.fab ∧ (s.setRoot p x).qps = s.qps ∧
    (s.setRoot p x).front = s.front ∧ (s.setRoot p x).power = s.power ∧ (s.setRoot p x).sec = s.sec ∧ (s.setRoot p x).warm = s.warm ∧
    (s.setRoot p x).xlt = s.xlt ∧ (s.setRoot p x).mc = s.mc ∧ (s.setRoot p x).irqs = s.irqs :=
  ⟨rfl, rfl, rfl, rfl, rfl, rfl, rfl, rfl, rfl, rfl, rfl, rfl, rfl, rfl, rfl, rfl, rfl, rfl, rfl, rfl, rfl, rfl, rfl, rfl, rfl, rfl, rfl, rfl, rfl, rfl, rfl, rfl, rfl, rfl, rfl, rfl, rfl, rfl, rfl, rfl, rfl, rfl, rfl, rfl, rfl, rfl, rfl⟩

@[simp] theorem State.setRoot_parts (s : State) (p : Nat) (x : RootPort) :
   (∀ i, (s.setRoot p x).host i = s.host i) ∧ (∀ i, (s.setRoot p x).cell i = s.cell i) ∧ (∀ i, (s.setRoot p x).ochre i = s.ochre i) ∧
    (∀ i, (s.setRoot p x).log i = s.log i) ∧ (∀ i, (s.setRoot p x).ring i = s.ring i) ∧ (∀ cid, (s.setRoot p x).ctx cid = s.ctx cid) ∧
    (∀ i j, (s.setRoot p x).qp i j = s.qp i j) ∧ (∀ i, (s.setRoot p x).link i = s.link i) ∧ (∀ i, (s.setRoot p x).port i = s.port i) ∧
    (∀ i, (s.setRoot p x).gust i = s.gust i) ∧ (∀ i, (s.setRoot p x).reg i = s.reg i) ∧ (∀ i, (s.setRoot p x).shadowOf i = s.shadowOf i) ∧
    (∀ i q, (s.setRoot p x).cmd i q = s.cmd i q) ∧ (∀ i, (s.setRoot p x).so i = s.so i) ∧ (∀ i, (s.setRoot p x).soOwner i = s.soOwner i) ∧
    (∀ i, (s.setRoot p x).soBroken i = s.soBroken i) ∧ (∀ i, (s.setRoot p x).owner i = s.owner i) ∧
    (∀ i, (s.setRoot p x).chan i = s.chan i) ∧ (∀ i j, (s.setRoot p x).band i j = s.band i j) ∧
    (∀ i, (s.setRoot p x).readByte i = s.readByte i) ∧ (∀ i, (s.setRoot p x).dirEntry i = s.dirEntry i) :=
  ⟨fun _ => rfl, fun _ => rfl, fun _ => rfl, fun _ => rfl, fun _ => rfl, fun _ => rfl, fun _ _ => rfl, fun _ => rfl, fun _ => rfl, fun _ => rfl, fun _ => rfl, fun _ => rfl, fun _ _ => rfl, fun _ => rfl, fun _ => rfl, fun _ => rfl, fun _ => rfl, fun _ => rfl, fun _ _ => rfl, fun _ => rfl, fun _ => rfl⟩

@[simp] theorem State.setQp_fields (s : State) (p n : Nat) (x : Qp) :
   (s.setQp p n x).pending = s.pending ∧ (s.setQp p n x).phase = s.phase ∧ (s.setQp p n x).pins = s.pins ∧
    (s.setQp p n x).flash = s.flash ∧ (s.setQp p n x).bring = s.bring ∧ (s.setQp p n x).time = s.time ∧ (s.setQp p n x).fresh = s.fresh ∧
    (s.setQp p n x).mem = s.mem ∧ (s.setQp p n x).older = s.older ∧ (s.setQp p n x).own = s.own ∧ (s.setQp p n x).regs = s.regs ∧
    (s.setQp p n x).shadow = s.shadow ∧ (s.setQp p n x).latch = s.latch ∧ (s.setQp p n x).held = s.held ∧
    (s.setQp p n x).tierB0 = s.tierB0 ∧ (s.setQp p n x).tierB1 = s.tierB1 ∧ (s.setQp p n x).degradeGen = s.degradeGen ∧
    (s.setQp p n x).svc = s.svc ∧ (s.setQp p n x).fatal = s.fatal ∧ (s.setQp p n x).released = s.released ∧
    (s.setQp p n x).hostsOn = s.hostsOn ∧ (s.setQp p n x).everReleased = s.everReleased ∧ (s.setQp p n x).rate = s.rate ∧
    (s.setQp p n x).hosts = s.hosts ∧ (s.setQp p n x).cells = s.cells ∧ (s.setQp p n x).ochres = s.ochres ∧
    (s.setQp p n x).logs = s.logs ∧ (s.setQp p n x).rings = s.rings ∧ (s.setQp p n x).cmds = s.cmds ∧ (s.setQp p n x).ctxs = s.ctxs ∧
    (s.setQp p n x).soVal = s.soVal ∧ (s.setQp p n x).soOwn = s.soOwn ∧ (s.setQp p n x).soBad = s.soBad ∧
    (s.setQp p n x).cellErr = s.cellErr ∧ (s.setQp p n x).fatalRecs = s.fatalRecs ∧ (s.setQp p n x).hbm = s.hbm ∧
    (s.setQp p n x).coh = s.coh ∧ (s.setQp p n x).links = s.links ∧ (s.setQp p n x).fab = s.fab ∧ (s.setQp p n x).roots = s.roots ∧
    (s.setQp p n x).front = s.front ∧ (s.setQp p n x).power = s.power ∧ (s.setQp p n x).sec = s.sec ∧ (s.setQp p n x).warm = s.warm ∧
    (s.setQp p n x).xlt = s.xlt ∧ (s.setQp p n x).mc = s.mc ∧ (s.setQp p n x).irqs = s.irqs :=
  ⟨rfl, rfl, rfl, rfl, rfl, rfl, rfl, rfl, rfl, rfl, rfl, rfl, rfl, rfl, rfl, rfl, rfl, rfl, rfl, rfl, rfl, rfl, rfl, rfl, rfl, rfl, rfl, rfl, rfl, rfl, rfl, rfl, rfl, rfl, rfl, rfl, rfl, rfl, rfl, rfl, rfl, rfl, rfl, rfl, rfl, rfl, rfl⟩

@[simp] theorem State.setQp_parts (s : State) (p n : Nat) (x : Qp) :
   (∀ i, (s.setQp p n x).host i = s.host i) ∧ (∀ i, (s.setQp p n x).cell i = s.cell i) ∧ (∀ i, (s.setQp p n x).ochre i = s.ochre i) ∧
    (∀ i, (s.setQp p n x).log i = s.log i) ∧ (∀ i, (s.setQp p n x).ring i = s.ring i) ∧ (∀ cid, (s.setQp p n x).ctx cid = s.ctx cid) ∧
    (∀ i, (s.setQp p n x).root i = s.root i) ∧ (∀ i, (s.setQp p n x).link i = s.link i) ∧ (∀ i, (s.setQp p n x).port i = s.port i) ∧
    (∀ i, (s.setQp p n x).gust i = s.gust i) ∧ (∀ i, (s.setQp p n x).reg i = s.reg i) ∧ (∀ i, (s.setQp p n x).shadowOf i = s.shadowOf i) ∧
    (∀ i q, (s.setQp p n x).cmd i q = s.cmd i q) ∧ (∀ i, (s.setQp p n x).so i = s.so i) ∧ (∀ i, (s.setQp p n x).soOwner i = s.soOwner i) ∧
    (∀ i, (s.setQp p n x).soBroken i = s.soBroken i) ∧ (∀ i, (s.setQp p n x).owner i = s.owner i) ∧
    (∀ i, (s.setQp p n x).chan i = s.chan i) ∧ (∀ i j, (s.setQp p n x).band i j = s.band i j) ∧
    (∀ i, (s.setQp p n x).readByte i = s.readByte i) ∧ (∀ i, (s.setQp p n x).dirEntry i = s.dirEntry i) :=
  ⟨fun _ => rfl, fun _ => rfl, fun _ => rfl, fun _ => rfl, fun _ => rfl, fun _ => rfl, fun _ => rfl, fun _ => rfl, fun _ => rfl, fun _ => rfl, fun _ => rfl, fun _ => rfl, fun _ _ => rfl, fun _ => rfl, fun _ => rfl, fun _ => rfl, fun _ => rfl, fun _ => rfl, fun _ _ => rfl, fun _ => rfl, fun _ => rfl⟩

@[simp] theorem State.setLink_fields (s : State) (l : Nat) (x : PLink) :
   (s.setLink l x).pending = s.pending ∧ (s.setLink l x).phase = s.phase ∧ (s.setLink l x).pins = s.pins ∧
    (s.setLink l x).flash = s.flash ∧ (s.setLink l x).bring = s.bring ∧ (s.setLink l x).time = s.time ∧ (s.setLink l x).fresh = s.fresh ∧
    (s.setLink l x).mem = s.mem ∧ (s.setLink l x).older = s.older ∧ (s.setLink l x).own = s.own ∧ (s.setLink l x).regs = s.regs ∧
    (s.setLink l x).shadow = s.shadow ∧ (s.setLink l x).latch = s.latch ∧ (s.setLink l x).held = s.held ∧
    (s.setLink l x).tierB0 = s.tierB0 ∧ (s.setLink l x).tierB1 = s.tierB1 ∧ (s.setLink l x).degradeGen = s.degradeGen ∧
    (s.setLink l x).svc = s.svc ∧ (s.setLink l x).fatal = s.fatal ∧ (s.setLink l x).released = s.released ∧
    (s.setLink l x).hostsOn = s.hostsOn ∧ (s.setLink l x).everReleased = s.everReleased ∧ (s.setLink l x).rate = s.rate ∧
    (s.setLink l x).hosts = s.hosts ∧ (s.setLink l x).cells = s.cells ∧ (s.setLink l x).ochres = s.ochres ∧
    (s.setLink l x).logs = s.logs ∧ (s.setLink l x).rings = s.rings ∧ (s.setLink l x).cmds = s.cmds ∧ (s.setLink l x).ctxs = s.ctxs ∧
    (s.setLink l x).soVal = s.soVal ∧ (s.setLink l x).soOwn = s.soOwn ∧ (s.setLink l x).soBad = s.soBad ∧
    (s.setLink l x).cellErr = s.cellErr ∧ (s.setLink l x).fatalRecs = s.fatalRecs ∧ (s.setLink l x).hbm = s.hbm ∧
    (s.setLink l x).coh = s.coh ∧ (s.setLink l x).fab = s.fab ∧ (s.setLink l x).roots = s.roots ∧ (s.setLink l x).qps = s.qps ∧
    (s.setLink l x).front = s.front ∧ (s.setLink l x).power = s.power ∧ (s.setLink l x).sec = s.sec ∧ (s.setLink l x).warm = s.warm ∧
    (s.setLink l x).xlt = s.xlt ∧ (s.setLink l x).mc = s.mc ∧ (s.setLink l x).irqs = s.irqs :=
  ⟨rfl, rfl, rfl, rfl, rfl, rfl, rfl, rfl, rfl, rfl, rfl, rfl, rfl, rfl, rfl, rfl, rfl, rfl, rfl, rfl, rfl, rfl, rfl, rfl, rfl, rfl, rfl, rfl, rfl, rfl, rfl, rfl, rfl, rfl, rfl, rfl, rfl, rfl, rfl, rfl, rfl, rfl, rfl, rfl, rfl, rfl, rfl⟩

@[simp] theorem State.setLink_parts (s : State) (l : Nat) (x : PLink) :
   (∀ i, (s.setLink l x).host i = s.host i) ∧ (∀ i, (s.setLink l x).cell i = s.cell i) ∧ (∀ i, (s.setLink l x).ochre i = s.ochre i) ∧
    (∀ i, (s.setLink l x).log i = s.log i) ∧ (∀ i, (s.setLink l x).ring i = s.ring i) ∧ (∀ cid, (s.setLink l x).ctx cid = s.ctx cid) ∧
    (∀ i, (s.setLink l x).root i = s.root i) ∧ (∀ i j, (s.setLink l x).qp i j = s.qp i j) ∧ (∀ i, (s.setLink l x).port i = s.port i) ∧
    (∀ i, (s.setLink l x).gust i = s.gust i) ∧ (∀ i, (s.setLink l x).reg i = s.reg i) ∧ (∀ i, (s.setLink l x).shadowOf i = s.shadowOf i) ∧
    (∀ i q, (s.setLink l x).cmd i q = s.cmd i q) ∧ (∀ i, (s.setLink l x).so i = s.so i) ∧ (∀ i, (s.setLink l x).soOwner i = s.soOwner i) ∧
    (∀ i, (s.setLink l x).soBroken i = s.soBroken i) ∧ (∀ i, (s.setLink l x).owner i = s.owner i) ∧
    (∀ i, (s.setLink l x).chan i = s.chan i) ∧ (∀ i j, (s.setLink l x).band i j = s.band i j) ∧
    (∀ i, (s.setLink l x).readByte i = s.readByte i) ∧ (∀ i, (s.setLink l x).dirEntry i = s.dirEntry i) :=
  ⟨fun _ => rfl, fun _ => rfl, fun _ => rfl, fun _ => rfl, fun _ => rfl, fun _ => rfl, fun _ => rfl, fun _ _ => rfl, fun _ => rfl, fun _ => rfl, fun _ => rfl, fun _ => rfl, fun _ _ => rfl, fun _ => rfl, fun _ => rfl, fun _ => rfl, fun _ => rfl, fun _ => rfl, fun _ _ => rfl, fun _ => rfl, fun _ => rfl⟩

@[simp] theorem State.setPort_fields (s : State) (p : Nat) (x : IsoPort) :
   (s.setPort p x).pending = s.pending ∧ (s.setPort p x).phase = s.phase ∧ (s.setPort p x).pins = s.pins ∧
    (s.setPort p x).flash = s.flash ∧ (s.setPort p x).bring = s.bring ∧ (s.setPort p x).time = s.time ∧ (s.setPort p x).fresh = s.fresh ∧
    (s.setPort p x).mem = s.mem ∧ (s.setPort p x).older = s.older ∧ (s.setPort p x).own = s.own ∧ (s.setPort p x).regs = s.regs ∧
    (s.setPort p x).shadow = s.shadow ∧ (s.setPort p x).latch = s.latch ∧ (s.setPort p x).held = s.held ∧
    (s.setPort p x).tierB0 = s.tierB0 ∧ (s.setPort p x).tierB1 = s.tierB1 ∧ (s.setPort p x).degradeGen = s.degradeGen ∧
    (s.setPort p x).svc = s.svc ∧ (s.setPort p x).fatal = s.fatal ∧ (s.setPort p x).released = s.released ∧
    (s.setPort p x).hostsOn = s.hostsOn ∧ (s.setPort p x).everReleased = s.everReleased ∧ (s.setPort p x).rate = s.rate ∧
    (s.setPort p x).hosts = s.hosts ∧ (s.setPort p x).cells = s.cells ∧ (s.setPort p x).ochres = s.ochres ∧
    (s.setPort p x).logs = s.logs ∧ (s.setPort p x).rings = s.rings ∧ (s.setPort p x).cmds = s.cmds ∧ (s.setPort p x).ctxs = s.ctxs ∧
    (s.setPort p x).soVal = s.soVal ∧ (s.setPort p x).soOwn = s.soOwn ∧ (s.setPort p x).soBad = s.soBad ∧
    (s.setPort p x).cellErr = s.cellErr ∧ (s.setPort p x).fatalRecs = s.fatalRecs ∧ (s.setPort p x).hbm = s.hbm ∧
    (s.setPort p x).coh = s.coh ∧ (s.setPort p x).links = s.links ∧ (s.setPort p x).roots = s.roots ∧ (s.setPort p x).qps = s.qps ∧
    (s.setPort p x).front = s.front ∧ (s.setPort p x).power = s.power ∧ (s.setPort p x).sec = s.sec ∧ (s.setPort p x).warm = s.warm ∧
    (s.setPort p x).xlt = s.xlt ∧ (s.setPort p x).mc = s.mc ∧ (s.setPort p x).irqs = s.irqs :=
  ⟨rfl, rfl, rfl, rfl, rfl, rfl, rfl, rfl, rfl, rfl, rfl, rfl, rfl, rfl, rfl, rfl, rfl, rfl, rfl, rfl, rfl, rfl, rfl, rfl, rfl, rfl, rfl, rfl, rfl, rfl, rfl, rfl, rfl, rfl, rfl, rfl, rfl, rfl, rfl, rfl, rfl, rfl, rfl, rfl, rfl, rfl, rfl⟩

@[simp] theorem State.setPort_parts (s : State) (p : Nat) (x : IsoPort) :
   (∀ i, (s.setPort p x).host i = s.host i) ∧ (∀ i, (s.setPort p x).cell i = s.cell i) ∧ (∀ i, (s.setPort p x).ochre i = s.ochre i) ∧
    (∀ i, (s.setPort p x).log i = s.log i) ∧ (∀ i, (s.setPort p x).ring i = s.ring i) ∧ (∀ cid, (s.setPort p x).ctx cid = s.ctx cid) ∧
    (∀ i, (s.setPort p x).root i = s.root i) ∧ (∀ i j, (s.setPort p x).qp i j = s.qp i j) ∧ (∀ i, (s.setPort p x).link i = s.link i) ∧
    (∀ i, (s.setPort p x).gust i = s.gust i) ∧ (∀ i, (s.setPort p x).reg i = s.reg i) ∧ (∀ i, (s.setPort p x).shadowOf i = s.shadowOf i) ∧
    (∀ i q, (s.setPort p x).cmd i q = s.cmd i q) ∧ (∀ i, (s.setPort p x).so i = s.so i) ∧ (∀ i, (s.setPort p x).soOwner i = s.soOwner i) ∧
    (∀ i, (s.setPort p x).soBroken i = s.soBroken i) ∧ (∀ i, (s.setPort p x).owner i = s.owner i) ∧
    (∀ i, (s.setPort p x).chan i = s.chan i) ∧ (∀ i j, (s.setPort p x).band i j = s.band i j) ∧
    (∀ i, (s.setPort p x).readByte i = s.readByte i) ∧ (∀ i, (s.setPort p x).dirEntry i = s.dirEntry i) :=
  ⟨fun _ => rfl, fun _ => rfl, fun _ => rfl, fun _ => rfl, fun _ => rfl, fun _ => rfl, fun _ => rfl, fun _ _ => rfl, fun _ => rfl, fun _ => rfl, fun _ => rfl, fun _ => rfl, fun _ _ => rfl, fun _ => rfl, fun _ => rfl, fun _ => rfl, fun _ => rfl, fun _ => rfl, fun _ _ => rfl, fun _ => rfl, fun _ => rfl⟩

@[simp] theorem State.setGust_fields (s : State) (d : Nat) (x : Gust) :
   (s.setGust d x).pending = s.pending ∧ (s.setGust d x).phase = s.phase ∧ (s.setGust d x).pins = s.pins ∧
    (s.setGust d x).flash = s.flash ∧ (s.setGust d x).bring = s.bring ∧ (s.setGust d x).time = s.time ∧ (s.setGust d x).fresh = s.fresh ∧
    (s.setGust d x).mem = s.mem ∧ (s.setGust d x).older = s.older ∧ (s.setGust d x).own = s.own ∧ (s.setGust d x).regs = s.regs ∧
    (s.setGust d x).shadow = s.shadow ∧ (s.setGust d x).latch = s.latch ∧ (s.setGust d x).held = s.held ∧
    (s.setGust d x).tierB0 = s.tierB0 ∧ (s.setGust d x).tierB1 = s.tierB1 ∧ (s.setGust d x).degradeGen = s.degradeGen ∧
    (s.setGust d x).svc = s.svc ∧ (s.setGust d x).fatal = s.fatal ∧ (s.setGust d x).released = s.released ∧
    (s.setGust d x).hostsOn = s.hostsOn ∧ (s.setGust d x).everReleased = s.everReleased ∧ (s.setGust d x).rate = s.rate ∧
    (s.setGust d x).hosts = s.hosts ∧ (s.setGust d x).cells = s.cells ∧ (s.setGust d x).ochres = s.ochres ∧
    (s.setGust d x).logs = s.logs ∧ (s.setGust d x).rings = s.rings ∧ (s.setGust d x).cmds = s.cmds ∧ (s.setGust d x).ctxs = s.ctxs ∧
    (s.setGust d x).soVal = s.soVal ∧ (s.setGust d x).soOwn = s.soOwn ∧ (s.setGust d x).soBad = s.soBad ∧
    (s.setGust d x).cellErr = s.cellErr ∧ (s.setGust d x).fatalRecs = s.fatalRecs ∧ (s.setGust d x).hbm = s.hbm ∧
    (s.setGust d x).coh = s.coh ∧ (s.setGust d x).links = s.links ∧ (s.setGust d x).fab = s.fab ∧ (s.setGust d x).roots = s.roots ∧
    (s.setGust d x).qps = s.qps ∧ (s.setGust d x).front = s.front ∧ (s.setGust d x).sec = s.sec ∧ (s.setGust d x).warm = s.warm ∧
    (s.setGust d x).xlt = s.xlt ∧ (s.setGust d x).mc = s.mc ∧ (s.setGust d x).irqs = s.irqs :=
  ⟨rfl, rfl, rfl, rfl, rfl, rfl, rfl, rfl, rfl, rfl, rfl, rfl, rfl, rfl, rfl, rfl, rfl, rfl, rfl, rfl, rfl, rfl, rfl, rfl, rfl, rfl, rfl, rfl, rfl, rfl, rfl, rfl, rfl, rfl, rfl, rfl, rfl, rfl, rfl, rfl, rfl, rfl, rfl, rfl, rfl, rfl, rfl⟩

@[simp] theorem State.setGust_parts (s : State) (d : Nat) (x : Gust) :
   (∀ i, (s.setGust d x).host i = s.host i) ∧ (∀ i, (s.setGust d x).cell i = s.cell i) ∧ (∀ i, (s.setGust d x).ochre i = s.ochre i) ∧
    (∀ i, (s.setGust d x).log i = s.log i) ∧ (∀ i, (s.setGust d x).ring i = s.ring i) ∧ (∀ cid, (s.setGust d x).ctx cid = s.ctx cid) ∧
    (∀ i, (s.setGust d x).root i = s.root i) ∧ (∀ i j, (s.setGust d x).qp i j = s.qp i j) ∧ (∀ i, (s.setGust d x).link i = s.link i) ∧
    (∀ i, (s.setGust d x).port i = s.port i) ∧ (∀ i, (s.setGust d x).reg i = s.reg i) ∧ (∀ i, (s.setGust d x).shadowOf i = s.shadowOf i) ∧
    (∀ i q, (s.setGust d x).cmd i q = s.cmd i q) ∧ (∀ i, (s.setGust d x).so i = s.so i) ∧ (∀ i, (s.setGust d x).soOwner i = s.soOwner i) ∧
    (∀ i, (s.setGust d x).soBroken i = s.soBroken i) ∧ (∀ i, (s.setGust d x).owner i = s.owner i) ∧
    (∀ i, (s.setGust d x).chan i = s.chan i) ∧ (∀ i j, (s.setGust d x).band i j = s.band i j) ∧
    (∀ i, (s.setGust d x).readByte i = s.readByte i) ∧ (∀ i, (s.setGust d x).dirEntry i = s.dirEntry i) :=
  ⟨fun _ => rfl, fun _ => rfl, fun _ => rfl, fun _ => rfl, fun _ => rfl, fun _ => rfl, fun _ => rfl, fun _ _ => rfl, fun _ => rfl, fun _ => rfl, fun _ => rfl, fun _ => rfl, fun _ _ => rfl, fun _ => rfl, fun _ => rfl, fun _ => rfl, fun _ => rfl, fun _ => rfl, fun _ _ => rfl, fun _ => rfl, fun _ => rfl⟩

@[simp] theorem State.setCmd_fields (s : State) (c : Cmd) :
   (s.setCmd c).pending = s.pending ∧ (s.setCmd c).phase = s.phase ∧ (s.setCmd c).pins = s.pins ∧ (s.setCmd c).flash = s.flash ∧
    (s.setCmd c).bring = s.bring ∧ (s.setCmd c).time = s.time ∧ (s.setCmd c).fresh = s.fresh ∧ (s.setCmd c).mem = s.mem ∧
    (s.setCmd c).older = s.older ∧ (s.setCmd c).own = s.own ∧ (s.setCmd c).regs = s.regs ∧ (s.setCmd c).shadow = s.shadow ∧
    (s.setCmd c).latch = s.latch ∧ (s.setCmd c).held = s.held ∧ (s.setCmd c).tierB0 = s.tierB0 ∧ (s.setCmd c).tierB1 = s.tierB1 ∧
    (s.setCmd c).degradeGen = s.degradeGen ∧ (s.setCmd c).svc = s.svc ∧ (s.setCmd c).fatal = s.fatal ∧
    (s.setCmd c).released = s.released ∧ (s.setCmd c).hostsOn = s.hostsOn ∧ (s.setCmd c).everReleased = s.everReleased ∧
    (s.setCmd c).rate = s.rate ∧ (s.setCmd c).hosts = s.hosts ∧ (s.setCmd c).cells = s.cells ∧ (s.setCmd c).ochres = s.ochres ∧
    (s.setCmd c).logs = s.logs ∧ (s.setCmd c).rings = s.rings ∧ (s.setCmd c).ctxs = s.ctxs ∧ (s.setCmd c).soVal = s.soVal ∧
    (s.setCmd c).soOwn = s.soOwn ∧ (s.setCmd c).soBad = s.soBad ∧ (s.setCmd c).cellErr = s.cellErr ∧
    (s.setCmd c).fatalRecs = s.fatalRecs ∧ (s.setCmd c).hbm = s.hbm ∧ (s.setCmd c).coh = s.coh ∧ (s.setCmd c).links = s.links ∧
    (s.setCmd c).fab = s.fab ∧ (s.setCmd c).roots = s.roots ∧ (s.setCmd c).qps = s.qps ∧ (s.setCmd c).front = s.front ∧
    (s.setCmd c).power = s.power ∧ (s.setCmd c).sec = s.sec ∧ (s.setCmd c).warm = s.warm ∧ (s.setCmd c).xlt = s.xlt ∧
    (s.setCmd c).mc = s.mc ∧ (s.setCmd c).irqs = s.irqs :=
  ⟨rfl, rfl, rfl, rfl, rfl, rfl, rfl, rfl, rfl, rfl, rfl, rfl, rfl, rfl, rfl, rfl, rfl, rfl, rfl, rfl, rfl, rfl, rfl, rfl, rfl, rfl, rfl, rfl, rfl, rfl, rfl, rfl, rfl, rfl, rfl, rfl, rfl, rfl, rfl, rfl, rfl, rfl, rfl, rfl, rfl, rfl, rfl⟩

@[simp] theorem State.setCmd_parts (s : State) (c : Cmd) :
   (∀ i, (s.setCmd c).host i = s.host i) ∧ (∀ i, (s.setCmd c).cell i = s.cell i) ∧ (∀ i, (s.setCmd c).ochre i = s.ochre i) ∧
    (∀ i, (s.setCmd c).log i = s.log i) ∧ (∀ i, (s.setCmd c).ring i = s.ring i) ∧ (∀ cid, (s.setCmd c).ctx cid = s.ctx cid) ∧
    (∀ i, (s.setCmd c).root i = s.root i) ∧ (∀ i j, (s.setCmd c).qp i j = s.qp i j) ∧ (∀ i, (s.setCmd c).link i = s.link i) ∧
    (∀ i, (s.setCmd c).port i = s.port i) ∧ (∀ i, (s.setCmd c).gust i = s.gust i) ∧ (∀ i, (s.setCmd c).reg i = s.reg i) ∧
    (∀ i, (s.setCmd c).shadowOf i = s.shadowOf i) ∧ (∀ i, (s.setCmd c).so i = s.so i) ∧ (∀ i, (s.setCmd c).soOwner i = s.soOwner i) ∧
    (∀ i, (s.setCmd c).soBroken i = s.soBroken i) ∧ (∀ i, (s.setCmd c).owner i = s.owner i) ∧ (∀ i, (s.setCmd c).chan i = s.chan i) ∧
    (∀ i j, (s.setCmd c).band i j = s.band i j) ∧ (∀ i, (s.setCmd c).readByte i = s.readByte i) ∧
    (∀ i, (s.setCmd c).dirEntry i = s.dirEntry i) :=
  ⟨fun _ => rfl, fun _ => rfl, fun _ => rfl, fun _ => rfl, fun _ => rfl, fun _ => rfl, fun _ => rfl, fun _ _ => rfl, fun _ => rfl, fun _ => rfl, fun _ => rfl, fun _ => rfl, fun _ => rfl, fun _ => rfl, fun _ => rfl, fun _ => rfl, fun _ => rfl, fun _ => rfl, fun _ _ => rfl, fun _ => rfl, fun _ => rfl⟩

@[simp] theorem State.setReg_fields (s : State) (a : Nat) (v : Word) :
   (s.setReg a v).pending = s.pending ∧ (s.setReg a v).phase = s.phase ∧ (s.setReg a v).pins = s.pins ∧ (s.setReg a v).flash = s.flash ∧
    (s.setReg a v).bring = s.bring ∧ (s.setReg a v).time = s.time ∧ (s.setReg a v).fresh = s.fresh ∧ (s.setReg a v).mem = s.mem ∧
    (s.setReg a v).older = s.older ∧ (s.setReg a v).own = s.own ∧ (s.setReg a v).shadow = s.shadow ∧ (s.setReg a v).latch = s.latch ∧
    (s.setReg a v).held = s.held ∧ (s.setReg a v).tierB0 = s.tierB0 ∧ (s.setReg a v).tierB1 = s.tierB1 ∧
    (s.setReg a v).degradeGen = s.degradeGen ∧ (s.setReg a v).svc = s.svc ∧ (s.setReg a v).fatal = s.fatal ∧
    (s.setReg a v).released = s.released ∧ (s.setReg a v).hostsOn = s.hostsOn ∧ (s.setReg a v).everReleased = s.everReleased ∧
    (s.setReg a v).rate = s.rate ∧ (s.setReg a v).hosts = s.hosts ∧ (s.setReg a v).cells = s.cells ∧ (s.setReg a v).ochres = s.ochres ∧
    (s.setReg a v).logs = s.logs ∧ (s.setReg a v).rings = s.rings ∧ (s.setReg a v).cmds = s.cmds ∧ (s.setReg a v).ctxs = s.ctxs ∧
    (s.setReg a v).soVal = s.soVal ∧ (s.setReg a v).soOwn = s.soOwn ∧ (s.setReg a v).soBad = s.soBad ∧
    (s.setReg a v).cellErr = s.cellErr ∧ (s.setReg a v).fatalRecs = s.fatalRecs ∧ (s.setReg a v).hbm = s.hbm ∧
    (s.setReg a v).coh = s.coh ∧ (s.setReg a v).links = s.links ∧ (s.setReg a v).fab = s.fab ∧ (s.setReg a v).roots = s.roots ∧
    (s.setReg a v).qps = s.qps ∧ (s.setReg a v).front = s.front ∧ (s.setReg a v).power = s.power ∧ (s.setReg a v).sec = s.sec ∧
    (s.setReg a v).warm = s.warm ∧ (s.setReg a v).xlt = s.xlt ∧ (s.setReg a v).mc = s.mc ∧ (s.setReg a v).irqs = s.irqs :=
  ⟨rfl, rfl, rfl, rfl, rfl, rfl, rfl, rfl, rfl, rfl, rfl, rfl, rfl, rfl, rfl, rfl, rfl, rfl, rfl, rfl, rfl, rfl, rfl, rfl, rfl, rfl, rfl, rfl, rfl, rfl, rfl, rfl, rfl, rfl, rfl, rfl, rfl, rfl, rfl, rfl, rfl, rfl, rfl, rfl, rfl, rfl, rfl⟩

@[simp] theorem State.setReg_parts (s : State) (a : Nat) (v : Word) :
   (∀ i, (s.setReg a v).host i = s.host i) ∧ (∀ i, (s.setReg a v).cell i = s.cell i) ∧ (∀ i, (s.setReg a v).ochre i = s.ochre i) ∧
    (∀ i, (s.setReg a v).log i = s.log i) ∧ (∀ i, (s.setReg a v).ring i = s.ring i) ∧ (∀ cid, (s.setReg a v).ctx cid = s.ctx cid) ∧
    (∀ i, (s.setReg a v).root i = s.root i) ∧ (∀ i j, (s.setReg a v).qp i j = s.qp i j) ∧ (∀ i, (s.setReg a v).link i = s.link i) ∧
    (∀ i, (s.setReg a v).port i = s.port i) ∧ (∀ i, (s.setReg a v).gust i = s.gust i) ∧ (∀ i, (s.setReg a v).shadowOf i = s.shadowOf i) ∧
    (∀ i q, (s.setReg a v).cmd i q = s.cmd i q) ∧ (∀ i, (s.setReg a v).so i = s.so i) ∧ (∀ i, (s.setReg a v).soOwner i = s.soOwner i) ∧
    (∀ i, (s.setReg a v).soBroken i = s.soBroken i) ∧ (∀ i, (s.setReg a v).owner i = s.owner i) ∧
    (∀ i, (s.setReg a v).chan i = s.chan i) ∧ (∀ i j, (s.setReg a v).band i j = s.band i j) ∧
    (∀ i, (s.setReg a v).readByte i = s.readByte i) ∧ (∀ i, (s.setReg a v).dirEntry i = s.dirEntry i) :=
  ⟨fun _ => rfl, fun _ => rfl, fun _ => rfl, fun _ => rfl, fun _ => rfl, fun _ => rfl, fun _ => rfl, fun _ _ => rfl, fun _ => rfl, fun _ => rfl, fun _ => rfl, fun _ => rfl, fun _ _ => rfl, fun _ => rfl, fun _ => rfl, fun _ => rfl, fun _ => rfl, fun _ => rfl, fun _ _ => rfl, fun _ => rfl, fun _ => rfl⟩

@[simp] theorem State.setShadow_fields (s : State) (a : Nat) (v : Word) :
   (s.setShadow a v).pending = s.pending ∧ (s.setShadow a v).phase = s.phase ∧ (s.setShadow a v).pins = s.pins ∧
    (s.setShadow a v).flash = s.flash ∧ (s.setShadow a v).bring = s.bring ∧ (s.setShadow a v).time = s.time ∧
    (s.setShadow a v).fresh = s.fresh ∧ (s.setShadow a v).mem = s.mem ∧ (s.setShadow a v).older = s.older ∧
    (s.setShadow a v).own = s.own ∧ (s.setShadow a v).regs = s.regs ∧ (s.setShadow a v).latch = s.latch ∧
    (s.setShadow a v).held = s.held ∧ (s.setShadow a v).tierB0 = s.tierB0 ∧ (s.setShadow a v).tierB1 = s.tierB1 ∧
    (s.setShadow a v).degradeGen = s.degradeGen ∧ (s.setShadow a v).svc = s.svc ∧ (s.setShadow a v).fatal = s.fatal ∧
    (s.setShadow a v).released = s.released ∧ (s.setShadow a v).hostsOn = s.hostsOn ∧ (s.setShadow a v).everReleased = s.everReleased ∧
    (s.setShadow a v).rate = s.rate ∧ (s.setShadow a v).hosts = s.hosts ∧ (s.setShadow a v).cells = s.cells ∧
    (s.setShadow a v).ochres = s.ochres ∧ (s.setShadow a v).logs = s.logs ∧ (s.setShadow a v).rings = s.rings ∧
    (s.setShadow a v).cmds = s.cmds ∧ (s.setShadow a v).ctxs = s.ctxs ∧ (s.setShadow a v).soVal = s.soVal ∧
    (s.setShadow a v).soOwn = s.soOwn ∧ (s.setShadow a v).soBad = s.soBad ∧ (s.setShadow a v).cellErr = s.cellErr ∧
    (s.setShadow a v).fatalRecs = s.fatalRecs ∧ (s.setShadow a v).hbm = s.hbm ∧ (s.setShadow a v).coh = s.coh ∧
    (s.setShadow a v).links = s.links ∧ (s.setShadow a v).fab = s.fab ∧ (s.setShadow a v).roots = s.roots ∧
    (s.setShadow a v).qps = s.qps ∧ (s.setShadow a v).front = s.front ∧ (s.setShadow a v).power = s.power ∧
    (s.setShadow a v).sec = s.sec ∧ (s.setShadow a v).warm = s.warm ∧ (s.setShadow a v).xlt = s.xlt ∧ (s.setShadow a v).mc = s.mc ∧
    (s.setShadow a v).irqs = s.irqs :=
  ⟨rfl, rfl, rfl, rfl, rfl, rfl, rfl, rfl, rfl, rfl, rfl, rfl, rfl, rfl, rfl, rfl, rfl, rfl, rfl, rfl, rfl, rfl, rfl, rfl, rfl, rfl, rfl, rfl, rfl, rfl, rfl, rfl, rfl, rfl, rfl, rfl, rfl, rfl, rfl, rfl, rfl, rfl, rfl, rfl, rfl, rfl, rfl⟩

@[simp] theorem State.setShadow_parts (s : State) (a : Nat) (v : Word) :
   (∀ i, (s.setShadow a v).host i = s.host i) ∧ (∀ i, (s.setShadow a v).cell i = s.cell i) ∧
    (∀ i, (s.setShadow a v).ochre i = s.ochre i) ∧ (∀ i, (s.setShadow a v).log i = s.log i) ∧ (∀ i, (s.setShadow a v).ring i = s.ring i) ∧
    (∀ cid, (s.setShadow a v).ctx cid = s.ctx cid) ∧ (∀ i, (s.setShadow a v).root i = s.root i) ∧
    (∀ i j, (s.setShadow a v).qp i j = s.qp i j) ∧ (∀ i, (s.setShadow a v).link i = s.link i) ∧
    (∀ i, (s.setShadow a v).port i = s.port i) ∧ (∀ i, (s.setShadow a v).gust i = s.gust i) ∧ (∀ i, (s.setShadow a v).reg i = s.reg i) ∧
    (∀ i q, (s.setShadow a v).cmd i q = s.cmd i q) ∧ (∀ i, (s.setShadow a v).so i = s.so i) ∧
    (∀ i, (s.setShadow a v).soOwner i = s.soOwner i) ∧ (∀ i, (s.setShadow a v).soBroken i = s.soBroken i) ∧
    (∀ i, (s.setShadow a v).owner i = s.owner i) ∧ (∀ i, (s.setShadow a v).chan i = s.chan i) ∧
    (∀ i j, (s.setShadow a v).band i j = s.band i j) ∧ (∀ i, (s.setShadow a v).readByte i = s.readByte i) ∧
    (∀ i, (s.setShadow a v).dirEntry i = s.dirEntry i) :=
  ⟨fun _ => rfl, fun _ => rfl, fun _ => rfl, fun _ => rfl, fun _ => rfl, fun _ => rfl, fun _ => rfl, fun _ _ => rfl, fun _ => rfl, fun _ => rfl, fun _ => rfl, fun _ => rfl, fun _ _ => rfl, fun _ => rfl, fun _ => rfl, fun _ => rfl, fun _ => rfl, fun _ => rfl, fun _ _ => rfl, fun _ => rfl, fun _ => rfl⟩

@[simp] theorem State.setOwner_fields (s : State) (g : Nat) (o : Own) :
   (s.setOwner g o).pending = s.pending ∧ (s.setOwner g o).phase = s.phase ∧ (s.setOwner g o).pins = s.pins ∧
    (s.setOwner g o).flash = s.flash ∧ (s.setOwner g o).bring = s.bring ∧ (s.setOwner g o).time = s.time ∧
    (s.setOwner g o).fresh = s.fresh ∧ (s.setOwner g o).mem = s.mem ∧ (s.setOwner g o).older = s.older ∧ (s.setOwner g o).regs = s.regs ∧
    (s.setOwner g o).shadow = s.shadow ∧ (s.setOwner g o).latch = s.latch ∧ (s.setOwner g o).held = s.held ∧
    (s.setOwner g o).tierB0 = s.tierB0 ∧ (s.setOwner g o).tierB1 = s.tierB1 ∧ (s.setOwner g o).degradeGen = s.degradeGen ∧
    (s.setOwner g o).svc = s.svc ∧ (s.setOwner g o).fatal = s.fatal ∧ (s.setOwner g o).released = s.released ∧
    (s.setOwner g o).hostsOn = s.hostsOn ∧ (s.setOwner g o).everReleased = s.everReleased ∧ (s.setOwner g o).rate = s.rate ∧
    (s.setOwner g o).hosts = s.hosts ∧ (s.setOwner g o).cells = s.cells ∧ (s.setOwner g o).ochres = s.ochres ∧
    (s.setOwner g o).logs = s.logs ∧ (s.setOwner g o).rings = s.rings ∧ (s.setOwner g o).cmds = s.cmds ∧ (s.setOwner g o).ctxs = s.ctxs ∧
    (s.setOwner g o).soVal = s.soVal ∧ (s.setOwner g o).soOwn = s.soOwn ∧ (s.setOwner g o).soBad = s.soBad ∧
    (s.setOwner g o).cellErr = s.cellErr ∧ (s.setOwner g o).fatalRecs = s.fatalRecs ∧ (s.setOwner g o).hbm = s.hbm ∧
    (s.setOwner g o).coh = s.coh ∧ (s.setOwner g o).links = s.links ∧ (s.setOwner g o).fab = s.fab ∧ (s.setOwner g o).roots = s.roots ∧
    (s.setOwner g o).qps = s.qps ∧ (s.setOwner g o).front = s.front ∧ (s.setOwner g o).power = s.power ∧ (s.setOwner g o).sec = s.sec ∧
    (s.setOwner g o).warm = s.warm ∧ (s.setOwner g o).xlt = s.xlt ∧ (s.setOwner g o).mc = s.mc ∧ (s.setOwner g o).irqs = s.irqs :=
  ⟨rfl, rfl, rfl, rfl, rfl, rfl, rfl, rfl, rfl, rfl, rfl, rfl, rfl, rfl, rfl, rfl, rfl, rfl, rfl, rfl, rfl, rfl, rfl, rfl, rfl, rfl, rfl, rfl, rfl, rfl, rfl, rfl, rfl, rfl, rfl, rfl, rfl, rfl, rfl, rfl, rfl, rfl, rfl, rfl, rfl, rfl, rfl⟩

@[simp] theorem State.setOwner_parts (s : State) (g : Nat) (o : Own) :
   (∀ i, (s.setOwner g o).host i = s.host i) ∧ (∀ i, (s.setOwner g o).cell i = s.cell i) ∧ (∀ i, (s.setOwner g o).ochre i = s.ochre i) ∧
    (∀ i, (s.setOwner g o).log i = s.log i) ∧ (∀ i, (s.setOwner g o).ring i = s.ring i) ∧ (∀ cid, (s.setOwner g o).ctx cid = s.ctx cid) ∧
    (∀ i, (s.setOwner g o).root i = s.root i) ∧ (∀ i j, (s.setOwner g o).qp i j = s.qp i j) ∧ (∀ i, (s.setOwner g o).link i = s.link i) ∧
    (∀ i, (s.setOwner g o).port i = s.port i) ∧ (∀ i, (s.setOwner g o).gust i = s.gust i) ∧ (∀ i, (s.setOwner g o).reg i = s.reg i) ∧
    (∀ i, (s.setOwner g o).shadowOf i = s.shadowOf i) ∧ (∀ i q, (s.setOwner g o).cmd i q = s.cmd i q) ∧
    (∀ i, (s.setOwner g o).so i = s.so i) ∧ (∀ i, (s.setOwner g o).soOwner i = s.soOwner i) ∧
    (∀ i, (s.setOwner g o).soBroken i = s.soBroken i) ∧ (∀ i, (s.setOwner g o).chan i = s.chan i) ∧
    (∀ i j, (s.setOwner g o).band i j = s.band i j) ∧ (∀ i, (s.setOwner g o).readByte i = s.readByte i) ∧
    (∀ i, (s.setOwner g o).dirEntry i = s.dirEntry i) :=
  ⟨fun _ => rfl, fun _ => rfl, fun _ => rfl, fun _ => rfl, fun _ => rfl, fun _ => rfl, fun _ => rfl, fun _ _ => rfl, fun _ => rfl, fun _ => rfl, fun _ => rfl, fun _ => rfl, fun _ => rfl, fun _ _ => rfl, fun _ => rfl, fun _ => rfl, fun _ => rfl, fun _ => rfl, fun _ _ => rfl, fun _ => rfl, fun _ => rfl⟩

@[simp] theorem State.setSo_fields (s : State) (o : Nat) (v : DWord) :
   (s.setSo o v).pending = s.pending ∧ (s.setSo o v).phase = s.phase ∧ (s.setSo o v).pins = s.pins ∧ (s.setSo o v).flash = s.flash ∧
    (s.setSo o v).bring = s.bring ∧ (s.setSo o v).time = s.time ∧ (s.setSo o v).fresh = s.fresh ∧ (s.setSo o v).mem = s.mem ∧
    (s.setSo o v).older = s.older ∧ (s.setSo o v).own = s.own ∧ (s.setSo o v).regs = s.regs ∧ (s.setSo o v).shadow = s.shadow ∧
    (s.setSo o v).latch = s.latch ∧ (s.setSo o v).held = s.held ∧ (s.setSo o v).tierB0 = s.tierB0 ∧ (s.setSo o v).tierB1 = s.tierB1 ∧
    (s.setSo o v).degradeGen = s.degradeGen ∧ (s.setSo o v).svc = s.svc ∧ (s.setSo o v).fatal = s.fatal ∧
    (s.setSo o v).released = s.released ∧ (s.setSo o v).hostsOn = s.hostsOn ∧ (s.setSo o v).everReleased = s.everReleased ∧
    (s.setSo o v).rate = s.rate ∧ (s.setSo o v).hosts = s.hosts ∧ (s.setSo o v).cells = s.cells ∧ (s.setSo o v).ochres = s.ochres ∧
    (s.setSo o v).logs = s.logs ∧ (s.setSo o v).rings = s.rings ∧ (s.setSo o v).cmds = s.cmds ∧ (s.setSo o v).ctxs = s.ctxs ∧
    (s.setSo o v).soOwn = s.soOwn ∧ (s.setSo o v).soBad = s.soBad ∧ (s.setSo o v).cellErr = s.cellErr ∧
    (s.setSo o v).fatalRecs = s.fatalRecs ∧ (s.setSo o v).hbm = s.hbm ∧ (s.setSo o v).coh = s.coh ∧ (s.setSo o v).links = s.links ∧
    (s.setSo o v).fab = s.fab ∧ (s.setSo o v).roots = s.roots ∧ (s.setSo o v).qps = s.qps ∧ (s.setSo o v).front = s.front ∧
    (s.setSo o v).power = s.power ∧ (s.setSo o v).sec = s.sec ∧ (s.setSo o v).warm = s.warm ∧ (s.setSo o v).xlt = s.xlt ∧
    (s.setSo o v).mc = s.mc ∧ (s.setSo o v).irqs = s.irqs :=
  ⟨rfl, rfl, rfl, rfl, rfl, rfl, rfl, rfl, rfl, rfl, rfl, rfl, rfl, rfl, rfl, rfl, rfl, rfl, rfl, rfl, rfl, rfl, rfl, rfl, rfl, rfl, rfl, rfl, rfl, rfl, rfl, rfl, rfl, rfl, rfl, rfl, rfl, rfl, rfl, rfl, rfl, rfl, rfl, rfl, rfl, rfl, rfl⟩

@[simp] theorem State.setSo_parts (s : State) (o : Nat) (v : DWord) :
   (∀ i, (s.setSo o v).host i = s.host i) ∧ (∀ i, (s.setSo o v).cell i = s.cell i) ∧ (∀ i, (s.setSo o v).ochre i = s.ochre i) ∧
    (∀ i, (s.setSo o v).log i = s.log i) ∧ (∀ i, (s.setSo o v).ring i = s.ring i) ∧ (∀ cid, (s.setSo o v).ctx cid = s.ctx cid) ∧
    (∀ i, (s.setSo o v).root i = s.root i) ∧ (∀ i j, (s.setSo o v).qp i j = s.qp i j) ∧ (∀ i, (s.setSo o v).link i = s.link i) ∧
    (∀ i, (s.setSo o v).port i = s.port i) ∧ (∀ i, (s.setSo o v).gust i = s.gust i) ∧ (∀ i, (s.setSo o v).reg i = s.reg i) ∧
    (∀ i, (s.setSo o v).shadowOf i = s.shadowOf i) ∧ (∀ i q, (s.setSo o v).cmd i q = s.cmd i q) ∧
    (∀ i, (s.setSo o v).soOwner i = s.soOwner i) ∧ (∀ i, (s.setSo o v).soBroken i = s.soBroken i) ∧
    (∀ i, (s.setSo o v).owner i = s.owner i) ∧ (∀ i, (s.setSo o v).chan i = s.chan i) ∧ (∀ i j, (s.setSo o v).band i j = s.band i j) ∧
    (∀ i, (s.setSo o v).readByte i = s.readByte i) ∧ (∀ i, (s.setSo o v).dirEntry i = s.dirEntry i) :=
  ⟨fun _ => rfl, fun _ => rfl, fun _ => rfl, fun _ => rfl, fun _ => rfl, fun _ => rfl, fun _ => rfl, fun _ _ => rfl, fun _ => rfl, fun _ => rfl, fun _ => rfl, fun _ => rfl, fun _ => rfl, fun _ _ => rfl, fun _ => rfl, fun _ => rfl, fun _ => rfl, fun _ => rfl, fun _ _ => rfl, fun _ => rfl, fun _ => rfl⟩

@[simp] theorem State.setSoOwner_fields (s : State) (o : Nat) (c : Cid) :
   (s.setSoOwner o c).pending = s.pending ∧ (s.setSoOwner o c).phase = s.phase ∧ (s.setSoOwner o c).pins = s.pins ∧
    (s.setSoOwner o c).flash = s.flash ∧ (s.setSoOwner o c).bring = s.bring ∧ (s.setSoOwner o c).time = s.time ∧
    (s.setSoOwner o c).fresh = s.fresh ∧ (s.setSoOwner o c).mem = s.mem ∧ (s.setSoOwner o c).older = s.older ∧
    (s.setSoOwner o c).own = s.own ∧ (s.setSoOwner o c).regs = s.regs ∧ (s.setSoOwner o c).shadow = s.shadow ∧
    (s.setSoOwner o c).latch = s.latch ∧ (s.setSoOwner o c).held = s.held ∧ (s.setSoOwner o c).tierB0 = s.tierB0 ∧
    (s.setSoOwner o c).tierB1 = s.tierB1 ∧ (s.setSoOwner o c).degradeGen = s.degradeGen ∧ (s.setSoOwner o c).svc = s.svc ∧
    (s.setSoOwner o c).fatal = s.fatal ∧ (s.setSoOwner o c).released = s.released ∧ (s.setSoOwner o c).hostsOn = s.hostsOn ∧
    (s.setSoOwner o c).everReleased = s.everReleased ∧ (s.setSoOwner o c).rate = s.rate ∧ (s.setSoOwner o c).hosts = s.hosts ∧
    (s.setSoOwner o c).cells = s.cells ∧ (s.setSoOwner o c).ochres = s.ochres ∧ (s.setSoOwner o c).logs = s.logs ∧
    (s.setSoOwner o c).rings = s.rings ∧ (s.setSoOwner o c).cmds = s.cmds ∧ (s.setSoOwner o c).ctxs = s.ctxs ∧
    (s.setSoOwner o c).soVal = s.soVal ∧ (s.setSoOwner o c).soBad = s.soBad ∧ (s.setSoOwner o c).cellErr = s.cellErr ∧
    (s.setSoOwner o c).fatalRecs = s.fatalRecs ∧ (s.setSoOwner o c).hbm = s.hbm ∧ (s.setSoOwner o c).coh = s.coh ∧
    (s.setSoOwner o c).links = s.links ∧ (s.setSoOwner o c).fab = s.fab ∧ (s.setSoOwner o c).roots = s.roots ∧
    (s.setSoOwner o c).qps = s.qps ∧ (s.setSoOwner o c).front = s.front ∧ (s.setSoOwner o c).power = s.power ∧
    (s.setSoOwner o c).sec = s.sec ∧ (s.setSoOwner o c).warm = s.warm ∧ (s.setSoOwner o c).xlt = s.xlt ∧ (s.setSoOwner o c).mc = s.mc ∧
    (s.setSoOwner o c).irqs = s.irqs :=
  ⟨rfl, rfl, rfl, rfl, rfl, rfl, rfl, rfl, rfl, rfl, rfl, rfl, rfl, rfl, rfl, rfl, rfl, rfl, rfl, rfl, rfl, rfl, rfl, rfl, rfl, rfl, rfl, rfl, rfl, rfl, rfl, rfl, rfl, rfl, rfl, rfl, rfl, rfl, rfl, rfl, rfl, rfl, rfl, rfl, rfl, rfl, rfl⟩

@[simp] theorem State.setSoOwner_parts (s : State) (o : Nat) (c : Cid) :
   (∀ i, (s.setSoOwner o c).host i = s.host i) ∧ (∀ i, (s.setSoOwner o c).cell i = s.cell i) ∧
    (∀ i, (s.setSoOwner o c).ochre i = s.ochre i) ∧ (∀ i, (s.setSoOwner o c).log i = s.log i) ∧
    (∀ i, (s.setSoOwner o c).ring i = s.ring i) ∧ (∀ cid, (s.setSoOwner o c).ctx cid = s.ctx cid) ∧
    (∀ i, (s.setSoOwner o c).root i = s.root i) ∧ (∀ i j, (s.setSoOwner o c).qp i j = s.qp i j) ∧
    (∀ i, (s.setSoOwner o c).link i = s.link i) ∧ (∀ i, (s.setSoOwner o c).port i = s.port i) ∧
    (∀ i, (s.setSoOwner o c).gust i = s.gust i) ∧ (∀ i, (s.setSoOwner o c).reg i = s.reg i) ∧
    (∀ i, (s.setSoOwner o c).shadowOf i = s.shadowOf i) ∧ (∀ i q, (s.setSoOwner o c).cmd i q = s.cmd i q) ∧
    (∀ i, (s.setSoOwner o c).so i = s.so i) ∧ (∀ i, (s.setSoOwner o c).soBroken i = s.soBroken i) ∧
    (∀ i, (s.setSoOwner o c).owner i = s.owner i) ∧ (∀ i, (s.setSoOwner o c).chan i = s.chan i) ∧
    (∀ i j, (s.setSoOwner o c).band i j = s.band i j) ∧ (∀ i, (s.setSoOwner o c).readByte i = s.readByte i) ∧
    (∀ i, (s.setSoOwner o c).dirEntry i = s.dirEntry i) :=
  ⟨fun _ => rfl, fun _ => rfl, fun _ => rfl, fun _ => rfl, fun _ => rfl, fun _ => rfl, fun _ => rfl, fun _ _ => rfl, fun _ => rfl, fun _ => rfl, fun _ => rfl, fun _ => rfl, fun _ => rfl, fun _ _ => rfl, fun _ => rfl, fun _ => rfl, fun _ => rfl, fun _ => rfl, fun _ _ => rfl, fun _ => rfl, fun _ => rfl⟩

@[simp] theorem State.setRegion_fields (s : State) (r : Nat) (x : Region) :
   (s.setRegion r x).pending = s.pending ∧ (s.setRegion r x).phase = s.phase ∧ (s.setRegion r x).pins = s.pins ∧
    (s.setRegion r x).flash = s.flash ∧ (s.setRegion r x).bring = s.bring ∧ (s.setRegion r x).time = s.time ∧
    (s.setRegion r x).fresh = s.fresh ∧ (s.setRegion r x).mem = s.mem ∧ (s.setRegion r x).older = s.older ∧
    (s.setRegion r x).own = s.own ∧ (s.setRegion r x).regs = s.regs ∧ (s.setRegion r x).shadow = s.shadow ∧
    (s.setRegion r x).latch = s.latch ∧ (s.setRegion r x).held = s.held ∧ (s.setRegion r x).tierB0 = s.tierB0 ∧
    (s.setRegion r x).tierB1 = s.tierB1 ∧ (s.setRegion r x).degradeGen = s.degradeGen ∧ (s.setRegion r x).svc = s.svc ∧
    (s.setRegion r x).fatal = s.fatal ∧ (s.setRegion r x).released = s.released ∧ (s.setRegion r x).hostsOn = s.hostsOn ∧
    (s.setRegion r x).everReleased = s.everReleased ∧ (s.setRegion r x).rate = s.rate ∧ (s.setRegion r x).hosts = s.hosts ∧
    (s.setRegion r x).cells = s.cells ∧ (s.setRegion r x).ochres = s.ochres ∧ (s.setRegion r x).logs = s.logs ∧
    (s.setRegion r x).rings = s.rings ∧ (s.setRegion r x).cmds = s.cmds ∧ (s.setRegion r x).ctxs = s.ctxs ∧
    (s.setRegion r x).soVal = s.soVal ∧ (s.setRegion r x).soOwn = s.soOwn ∧ (s.setRegion r x).soBad = s.soBad ∧
    (s.setRegion r x).cellErr = s.cellErr ∧ (s.setRegion r x).fatalRecs = s.fatalRecs ∧ (s.setRegion r x).coh = s.coh ∧
    (s.setRegion r x).links = s.links ∧ (s.setRegion r x).fab = s.fab ∧ (s.setRegion r x).roots = s.roots ∧
    (s.setRegion r x).qps = s.qps ∧ (s.setRegion r x).front = s.front ∧ (s.setRegion r x).power = s.power ∧
    (s.setRegion r x).sec = s.sec ∧ (s.setRegion r x).warm = s.warm ∧ (s.setRegion r x).xlt = s.xlt ∧ (s.setRegion r x).mc = s.mc ∧
    (s.setRegion r x).irqs = s.irqs :=
  ⟨rfl, rfl, rfl, rfl, rfl, rfl, rfl, rfl, rfl, rfl, rfl, rfl, rfl, rfl, rfl, rfl, rfl, rfl, rfl, rfl, rfl, rfl, rfl, rfl, rfl, rfl, rfl, rfl, rfl, rfl, rfl, rfl, rfl, rfl, rfl, rfl, rfl, rfl, rfl, rfl, rfl, rfl, rfl, rfl, rfl, rfl, rfl⟩

@[simp] theorem State.setRegion_parts (s : State) (r : Nat) (x : Region) :
   (∀ i, (s.setRegion r x).host i = s.host i) ∧ (∀ i, (s.setRegion r x).cell i = s.cell i) ∧
    (∀ i, (s.setRegion r x).ochre i = s.ochre i) ∧ (∀ i, (s.setRegion r x).log i = s.log i) ∧ (∀ i, (s.setRegion r x).ring i = s.ring i) ∧
    (∀ cid, (s.setRegion r x).ctx cid = s.ctx cid) ∧ (∀ i, (s.setRegion r x).root i = s.root i) ∧
    (∀ i j, (s.setRegion r x).qp i j = s.qp i j) ∧ (∀ i, (s.setRegion r x).link i = s.link i) ∧
    (∀ i, (s.setRegion r x).port i = s.port i) ∧ (∀ i, (s.setRegion r x).gust i = s.gust i) ∧ (∀ i, (s.setRegion r x).reg i = s.reg i) ∧
    (∀ i, (s.setRegion r x).shadowOf i = s.shadowOf i) ∧ (∀ i q, (s.setRegion r x).cmd i q = s.cmd i q) ∧
    (∀ i, (s.setRegion r x).so i = s.so i) ∧ (∀ i, (s.setRegion r x).soOwner i = s.soOwner i) ∧
    (∀ i, (s.setRegion r x).soBroken i = s.soBroken i) ∧ (∀ i, (s.setRegion r x).owner i = s.owner i) ∧
    (∀ i, (s.setRegion r x).readByte i = s.readByte i) ∧ (∀ i, (s.setRegion r x).dirEntry i = s.dirEntry i) :=
  ⟨fun _ => rfl, fun _ => rfl, fun _ => rfl, fun _ => rfl, fun _ => rfl, fun _ => rfl, fun _ => rfl, fun _ _ => rfl, fun _ => rfl, fun _ => rfl, fun _ => rfl, fun _ => rfl, fun _ => rfl, fun _ _ => rfl, fun _ => rfl, fun _ => rfl, fun _ => rfl, fun _ => rfl, fun _ => rfl, fun _ => rfl⟩

@[simp] theorem State.setBand_fields (s : State) (c b : Nat) (x : BandState) :
   (s.setBand c b x).pending = s.pending ∧ (s.setBand c b x).phase = s.phase ∧ (s.setBand c b x).pins = s.pins ∧
    (s.setBand c b x).flash = s.flash ∧ (s.setBand c b x).bring = s.bring ∧ (s.setBand c b x).time = s.time ∧
    (s.setBand c b x).fresh = s.fresh ∧ (s.setBand c b x).mem = s.mem ∧ (s.setBand c b x).older = s.older ∧
    (s.setBand c b x).own = s.own ∧ (s.setBand c b x).regs = s.regs ∧ (s.setBand c b x).shadow = s.shadow ∧
    (s.setBand c b x).latch = s.latch ∧ (s.setBand c b x).held = s.held ∧ (s.setBand c b x).tierB0 = s.tierB0 ∧
    (s.setBand c b x).tierB1 = s.tierB1 ∧ (s.setBand c b x).degradeGen = s.degradeGen ∧ (s.setBand c b x).svc = s.svc ∧
    (s.setBand c b x).fatal = s.fatal ∧ (s.setBand c b x).released = s.released ∧ (s.setBand c b x).hostsOn = s.hostsOn ∧
    (s.setBand c b x).everReleased = s.everReleased ∧ (s.setBand c b x).rate = s.rate ∧ (s.setBand c b x).hosts = s.hosts ∧
    (s.setBand c b x).cells = s.cells ∧ (s.setBand c b x).ochres = s.ochres ∧ (s.setBand c b x).logs = s.logs ∧
    (s.setBand c b x).rings = s.rings ∧ (s.setBand c b x).cmds = s.cmds ∧ (s.setBand c b x).ctxs = s.ctxs ∧
    (s.setBand c b x).soVal = s.soVal ∧ (s.setBand c b x).soOwn = s.soOwn ∧ (s.setBand c b x).soBad = s.soBad ∧
    (s.setBand c b x).cellErr = s.cellErr ∧ (s.setBand c b x).fatalRecs = s.fatalRecs ∧ (s.setBand c b x).coh = s.coh ∧
    (s.setBand c b x).links = s.links ∧ (s.setBand c b x).fab = s.fab ∧ (s.setBand c b x).roots = s.roots ∧
    (s.setBand c b x).qps = s.qps ∧ (s.setBand c b x).front = s.front ∧ (s.setBand c b x).power = s.power ∧
    (s.setBand c b x).sec = s.sec ∧ (s.setBand c b x).warm = s.warm ∧ (s.setBand c b x).xlt = s.xlt ∧ (s.setBand c b x).mc = s.mc ∧
    (s.setBand c b x).irqs = s.irqs :=
  ⟨rfl, rfl, rfl, rfl, rfl, rfl, rfl, rfl, rfl, rfl, rfl, rfl, rfl, rfl, rfl, rfl, rfl, rfl, rfl, rfl, rfl, rfl, rfl, rfl, rfl, rfl, rfl, rfl, rfl, rfl, rfl, rfl, rfl, rfl, rfl, rfl, rfl, rfl, rfl, rfl, rfl, rfl, rfl, rfl, rfl, rfl, rfl⟩

@[simp] theorem State.setBand_parts (s : State) (c b : Nat) (x : BandState) :
   (∀ i, (s.setBand c b x).host i = s.host i) ∧ (∀ i, (s.setBand c b x).cell i = s.cell i) ∧
    (∀ i, (s.setBand c b x).ochre i = s.ochre i) ∧ (∀ i, (s.setBand c b x).log i = s.log i) ∧ (∀ i, (s.setBand c b x).ring i = s.ring i) ∧
    (∀ cid, (s.setBand c b x).ctx cid = s.ctx cid) ∧ (∀ i, (s.setBand c b x).root i = s.root i) ∧
    (∀ i j, (s.setBand c b x).qp i j = s.qp i j) ∧ (∀ i, (s.setBand c b x).link i = s.link i) ∧
    (∀ i, (s.setBand c b x).port i = s.port i) ∧ (∀ i, (s.setBand c b x).gust i = s.gust i) ∧ (∀ i, (s.setBand c b x).reg i = s.reg i) ∧
    (∀ i, (s.setBand c b x).shadowOf i = s.shadowOf i) ∧ (∀ i q, (s.setBand c b x).cmd i q = s.cmd i q) ∧
    (∀ i, (s.setBand c b x).so i = s.so i) ∧ (∀ i, (s.setBand c b x).soOwner i = s.soOwner i) ∧
    (∀ i, (s.setBand c b x).soBroken i = s.soBroken i) ∧ (∀ i, (s.setBand c b x).owner i = s.owner i) ∧
    (∀ i, (s.setBand c b x).readByte i = s.readByte i) ∧ (∀ i, (s.setBand c b x).dirEntry i = s.dirEntry i) :=
  ⟨fun _ => rfl, fun _ => rfl, fun _ => rfl, fun _ => rfl, fun _ => rfl, fun _ => rfl, fun _ => rfl, fun _ _ => rfl, fun _ => rfl, fun _ => rfl, fun _ => rfl, fun _ => rfl, fun _ => rfl, fun _ _ => rfl, fun _ => rfl, fun _ => rfl, fun _ => rfl, fun _ => rfl, fun _ => rfl, fun _ => rfl⟩

@[simp] theorem State.setChan_fields (s : State) (c : Nat) (x : Channel) :
   (s.setChan c x).pending = s.pending ∧ (s.setChan c x).phase = s.phase ∧ (s.setChan c x).pins = s.pins ∧
    (s.setChan c x).flash = s.flash ∧ (s.setChan c x).bring = s.bring ∧ (s.setChan c x).time = s.time ∧ (s.setChan c x).fresh = s.fresh ∧
    (s.setChan c x).mem = s.mem ∧ (s.setChan c x).older = s.older ∧ (s.setChan c x).own = s.own ∧ (s.setChan c x).regs = s.regs ∧
    (s.setChan c x).shadow = s.shadow ∧ (s.setChan c x).latch = s.latch ∧ (s.setChan c x).held = s.held ∧
    (s.setChan c x).tierB0 = s.tierB0 ∧ (s.setChan c x).tierB1 = s.tierB1 ∧ (s.setChan c x).degradeGen = s.degradeGen ∧
    (s.setChan c x).svc = s.svc ∧ (s.setChan c x).fatal = s.fatal ∧ (s.setChan c x).released = s.released ∧
    (s.setChan c x).hostsOn = s.hostsOn ∧ (s.setChan c x).everReleased = s.everReleased ∧ (s.setChan c x).rate = s.rate ∧
    (s.setChan c x).hosts = s.hosts ∧ (s.setChan c x).cells = s.cells ∧ (s.setChan c x).ochres = s.ochres ∧
    (s.setChan c x).logs = s.logs ∧ (s.setChan c x).rings = s.rings ∧ (s.setChan c x).cmds = s.cmds ∧ (s.setChan c x).ctxs = s.ctxs ∧
    (s.setChan c x).soVal = s.soVal ∧ (s.setChan c x).soOwn = s.soOwn ∧ (s.setChan c x).soBad = s.soBad ∧
    (s.setChan c x).cellErr = s.cellErr ∧ (s.setChan c x).fatalRecs = s.fatalRecs ∧ (s.setChan c x).coh = s.coh ∧
    (s.setChan c x).links = s.links ∧ (s.setChan c x).fab = s.fab ∧ (s.setChan c x).roots = s.roots ∧ (s.setChan c x).qps = s.qps ∧
    (s.setChan c x).front = s.front ∧ (s.setChan c x).power = s.power ∧ (s.setChan c x).sec = s.sec ∧ (s.setChan c x).warm = s.warm ∧
    (s.setChan c x).xlt = s.xlt ∧ (s.setChan c x).mc = s.mc ∧ (s.setChan c x).irqs = s.irqs :=
  ⟨rfl, rfl, rfl, rfl, rfl, rfl, rfl, rfl, rfl, rfl, rfl, rfl, rfl, rfl, rfl, rfl, rfl, rfl, rfl, rfl, rfl, rfl, rfl, rfl, rfl, rfl, rfl, rfl, rfl, rfl, rfl, rfl, rfl, rfl, rfl, rfl, rfl, rfl, rfl, rfl, rfl, rfl, rfl, rfl, rfl, rfl, rfl⟩

@[simp] theorem State.setChan_parts (s : State) (c : Nat) (x : Channel) :
   (∀ i, (s.setChan c x).host i = s.host i) ∧ (∀ i, (s.setChan c x).cell i = s.cell i) ∧ (∀ i, (s.setChan c x).ochre i = s.ochre i) ∧
    (∀ i, (s.setChan c x).log i = s.log i) ∧ (∀ i, (s.setChan c x).ring i = s.ring i) ∧ (∀ cid, (s.setChan c x).ctx cid = s.ctx cid) ∧
    (∀ i, (s.setChan c x).root i = s.root i) ∧ (∀ i j, (s.setChan c x).qp i j = s.qp i j) ∧ (∀ i, (s.setChan c x).link i = s.link i) ∧
    (∀ i, (s.setChan c x).port i = s.port i) ∧ (∀ i, (s.setChan c x).gust i = s.gust i) ∧ (∀ i, (s.setChan c x).reg i = s.reg i) ∧
    (∀ i, (s.setChan c x).shadowOf i = s.shadowOf i) ∧ (∀ i q, (s.setChan c x).cmd i q = s.cmd i q) ∧
    (∀ i, (s.setChan c x).so i = s.so i) ∧ (∀ i, (s.setChan c x).soOwner i = s.soOwner i) ∧
    (∀ i, (s.setChan c x).soBroken i = s.soBroken i) ∧ (∀ i, (s.setChan c x).owner i = s.owner i) ∧
    (∀ i, (s.setChan c x).readByte i = s.readByte i) ∧ (∀ i, (s.setChan c x).dirEntry i = s.dirEntry i) :=
  ⟨fun _ => rfl, fun _ => rfl, fun _ => rfl, fun _ => rfl, fun _ => rfl, fun _ => rfl, fun _ => rfl, fun _ _ => rfl, fun _ => rfl, fun _ => rfl, fun _ => rfl, fun _ => rfl, fun _ => rfl, fun _ _ => rfl, fun _ => rfl, fun _ => rfl, fun _ => rfl, fun _ => rfl, fun _ => rfl, fun _ => rfl⟩

@[simp] theorem State.setDir_fields (s : State) (line : Nat) (e : DirEntry) :
   (s.setDir line e).pending = s.pending ∧ (s.setDir line e).phase = s.phase ∧ (s.setDir line e).pins = s.pins ∧
    (s.setDir line e).flash = s.flash ∧ (s.setDir line e).bring = s.bring ∧ (s.setDir line e).time = s.time ∧
    (s.setDir line e).fresh = s.fresh ∧ (s.setDir line e).mem = s.mem ∧ (s.setDir line e).older = s.older ∧
    (s.setDir line e).own = s.own ∧ (s.setDir line e).regs = s.regs ∧ (s.setDir line e).shadow = s.shadow ∧
    (s.setDir line e).latch = s.latch ∧ (s.setDir line e).held = s.held ∧ (s.setDir line e).tierB0 = s.tierB0 ∧
    (s.setDir line e).tierB1 = s.tierB1 ∧ (s.setDir line e).degradeGen = s.degradeGen ∧ (s.setDir line e).svc = s.svc ∧
    (s.setDir line e).fatal = s.fatal ∧ (s.setDir line e).released = s.released ∧ (s.setDir line e).hostsOn = s.hostsOn ∧
    (s.setDir line e).everReleased = s.everReleased ∧ (s.setDir line e).rate = s.rate ∧ (s.setDir line e).hosts = s.hosts ∧
    (s.setDir line e).cells = s.cells ∧ (s.setDir line e).ochres = s.ochres ∧ (s.setDir line e).logs = s.logs ∧
    (s.setDir line e).rings = s.rings ∧ (s.setDir line e).cmds = s.cmds ∧ (s.setDir line e).ctxs = s.ctxs ∧
    (s.setDir line e).soVal = s.soVal ∧ (s.setDir line e).soOwn = s.soOwn ∧ (s.setDir line e).soBad = s.soBad ∧
    (s.setDir line e).cellErr = s.cellErr ∧ (s.setDir line e).fatalRecs = s.fatalRecs ∧ (s.setDir line e).hbm = s.hbm ∧
    (s.setDir line e).links = s.links ∧ (s.setDir line e).fab = s.fab ∧ (s.setDir line e).roots = s.roots ∧
    (s.setDir line e).qps = s.qps ∧ (s.setDir line e).front = s.front ∧ (s.setDir line e).power = s.power ∧
    (s.setDir line e).sec = s.sec ∧ (s.setDir line e).warm = s.warm ∧ (s.setDir line e).xlt = s.xlt ∧ (s.setDir line e).mc = s.mc ∧
    (s.setDir line e).irqs = s.irqs :=
  ⟨rfl, rfl, rfl, rfl, rfl, rfl, rfl, rfl, rfl, rfl, rfl, rfl, rfl, rfl, rfl, rfl, rfl, rfl, rfl, rfl, rfl, rfl, rfl, rfl, rfl, rfl, rfl, rfl, rfl, rfl, rfl, rfl, rfl, rfl, rfl, rfl, rfl, rfl, rfl, rfl, rfl, rfl, rfl, rfl, rfl, rfl, rfl⟩

@[simp] theorem State.setDir_parts (s : State) (line : Nat) (e : DirEntry) :
   (∀ i, (s.setDir line e).host i = s.host i) ∧ (∀ i, (s.setDir line e).cell i = s.cell i) ∧
    (∀ i, (s.setDir line e).ochre i = s.ochre i) ∧ (∀ i, (s.setDir line e).log i = s.log i) ∧ (∀ i, (s.setDir line e).ring i = s.ring i) ∧
    (∀ cid, (s.setDir line e).ctx cid = s.ctx cid) ∧ (∀ i, (s.setDir line e).root i = s.root i) ∧
    (∀ i j, (s.setDir line e).qp i j = s.qp i j) ∧ (∀ i, (s.setDir line e).link i = s.link i) ∧
    (∀ i, (s.setDir line e).port i = s.port i) ∧ (∀ i, (s.setDir line e).gust i = s.gust i) ∧ (∀ i, (s.setDir line e).reg i = s.reg i) ∧
    (∀ i, (s.setDir line e).shadowOf i = s.shadowOf i) ∧ (∀ i q, (s.setDir line e).cmd i q = s.cmd i q) ∧
    (∀ i, (s.setDir line e).so i = s.so i) ∧ (∀ i, (s.setDir line e).soOwner i = s.soOwner i) ∧
    (∀ i, (s.setDir line e).soBroken i = s.soBroken i) ∧ (∀ i, (s.setDir line e).owner i = s.owner i) ∧
    (∀ i, (s.setDir line e).chan i = s.chan i) ∧ (∀ i j, (s.setDir line e).band i j = s.band i j) ∧
    (∀ i, (s.setDir line e).readByte i = s.readByte i) :=
  ⟨fun _ => rfl, fun _ => rfl, fun _ => rfl, fun _ => rfl, fun _ => rfl, fun _ => rfl, fun _ => rfl, fun _ _ => rfl, fun _ => rfl, fun _ => rfl, fun _ => rfl, fun _ => rfl, fun _ => rfl, fun _ _ => rfl, fun _ => rfl, fun _ => rfl, fun _ => rfl, fun _ => rfl, fun _ => rfl, fun _ _ => rfl, fun _ => rfl⟩

@[simp] theorem State.onFab_fields (s : State) (f : Fabric → Fabric) :
   (s.onFab f).pending = s.pending ∧ (s.onFab f).phase = s.phase ∧ (s.onFab f).pins = s.pins ∧ (s.onFab f).flash = s.flash ∧
    (s.onFab f).bring = s.bring ∧ (s.onFab f).time = s.time ∧ (s.onFab f).fresh = s.fresh ∧ (s.onFab f).mem = s.mem ∧
    (s.onFab f).older = s.older ∧ (s.onFab f).own = s.own ∧ (s.onFab f).regs = s.regs ∧ (s.onFab f).shadow = s.shadow ∧
    (s.onFab f).latch = s.latch ∧ (s.onFab f).held = s.held ∧ (s.onFab f).tierB0 = s.tierB0 ∧ (s.onFab f).tierB1 = s.tierB1 ∧
    (s.onFab f).degradeGen = s.degradeGen ∧ (s.onFab f).svc = s.svc ∧ (s.onFab f).fatal = s.fatal ∧ (s.onFab f).released = s.released ∧
    (s.onFab f).hostsOn = s.hostsOn ∧ (s.onFab f).everReleased = s.everReleased ∧ (s.onFab f).rate = s.rate ∧
    (s.onFab f).hosts = s.hosts ∧ (s.onFab f).cells = s.cells ∧ (s.onFab f).ochres = s.ochres ∧ (s.onFab f).logs = s.logs ∧
    (s.onFab f).rings = s.rings ∧ (s.onFab f).cmds = s.cmds ∧ (s.onFab f).ctxs = s.ctxs ∧ (s.onFab f).soVal = s.soVal ∧
    (s.onFab f).soOwn = s.soOwn ∧ (s.onFab f).soBad = s.soBad ∧ (s.onFab f).cellErr = s.cellErr ∧ (s.onFab f).fatalRecs = s.fatalRecs ∧
    (s.onFab f).hbm = s.hbm ∧ (s.onFab f).coh = s.coh ∧ (s.onFab f).links = s.links ∧ (s.onFab f).roots = s.roots ∧
    (s.onFab f).qps = s.qps ∧ (s.onFab f).front = s.front ∧ (s.onFab f).power = s.power ∧ (s.onFab f).sec = s.sec ∧
    (s.onFab f).warm = s.warm ∧ (s.onFab f).xlt = s.xlt ∧ (s.onFab f).mc = s.mc ∧ (s.onFab f).irqs = s.irqs :=
  ⟨rfl, rfl, rfl, rfl, rfl, rfl, rfl, rfl, rfl, rfl, rfl, rfl, rfl, rfl, rfl, rfl, rfl, rfl, rfl, rfl, rfl, rfl, rfl, rfl, rfl, rfl, rfl, rfl, rfl, rfl, rfl, rfl, rfl, rfl, rfl, rfl, rfl, rfl, rfl, rfl, rfl, rfl, rfl, rfl, rfl, rfl, rfl⟩

@[simp] theorem State.onFab_parts (s : State) (f : Fabric → Fabric) :
   (∀ i, (s.onFab f).host i = s.host i) ∧ (∀ i, (s.onFab f).cell i = s.cell i) ∧ (∀ i, (s.onFab f).ochre i = s.ochre i) ∧
    (∀ i, (s.onFab f).log i = s.log i) ∧ (∀ i, (s.onFab f).ring i = s.ring i) ∧ (∀ cid, (s.onFab f).ctx cid = s.ctx cid) ∧
    (∀ i, (s.onFab f).root i = s.root i) ∧ (∀ i j, (s.onFab f).qp i j = s.qp i j) ∧ (∀ i, (s.onFab f).link i = s.link i) ∧
    (∀ i, (s.onFab f).gust i = s.gust i) ∧ (∀ i, (s.onFab f).reg i = s.reg i) ∧ (∀ i, (s.onFab f).shadowOf i = s.shadowOf i) ∧
    (∀ i q, (s.onFab f).cmd i q = s.cmd i q) ∧ (∀ i, (s.onFab f).so i = s.so i) ∧ (∀ i, (s.onFab f).soOwner i = s.soOwner i) ∧
    (∀ i, (s.onFab f).soBroken i = s.soBroken i) ∧ (∀ i, (s.onFab f).owner i = s.owner i) ∧ (∀ i, (s.onFab f).chan i = s.chan i) ∧
    (∀ i j, (s.onFab f).band i j = s.band i j) ∧ (∀ i, (s.onFab f).readByte i = s.readByte i) ∧
    (∀ i, (s.onFab f).dirEntry i = s.dirEntry i) :=
  ⟨fun _ => rfl, fun _ => rfl, fun _ => rfl, fun _ => rfl, fun _ => rfl, fun _ => rfl, fun _ => rfl, fun _ _ => rfl, fun _ => rfl, fun _ => rfl, fun _ => rfl, fun _ => rfl, fun _ _ => rfl, fun _ => rfl, fun _ => rfl, fun _ => rfl, fun _ => rfl, fun _ => rfl, fun _ _ => rfl, fun _ => rfl, fun _ => rfl⟩

@[simp] theorem State.onFront_fields (s : State) (f : Front → Front) :
   (s.onFront f).pending = s.pending ∧ (s.onFront f).phase = s.phase ∧ (s.onFront f).pins = s.pins ∧ (s.onFront f).flash = s.flash ∧
    (s.onFront f).bring = s.bring ∧ (s.onFront f).time = s.time ∧ (s.onFront f).fresh = s.fresh ∧ (s.onFront f).mem = s.mem ∧
    (s.onFront f).older = s.older ∧ (s.onFront f).own = s.own ∧ (s.onFront f).regs = s.regs ∧ (s.onFront f).shadow = s.shadow ∧
    (s.onFront f).latch = s.latch ∧ (s.onFront f).held = s.held ∧ (s.onFront f).tierB0 = s.tierB0 ∧ (s.onFront f).tierB1 = s.tierB1 ∧
    (s.onFront f).degradeGen = s.degradeGen ∧ (s.onFront f).svc = s.svc ∧ (s.onFront f).fatal = s.fatal ∧
    (s.onFront f).released = s.released ∧ (s.onFront f).hostsOn = s.hostsOn ∧ (s.onFront f).everReleased = s.everReleased ∧
    (s.onFront f).rate = s.rate ∧ (s.onFront f).hosts = s.hosts ∧ (s.onFront f).cells = s.cells ∧ (s.onFront f).ochres = s.ochres ∧
    (s.onFront f).logs = s.logs ∧ (s.onFront f).rings = s.rings ∧ (s.onFront f).cmds = s.cmds ∧ (s.onFront f).ctxs = s.ctxs ∧
    (s.onFront f).soVal = s.soVal ∧ (s.onFront f).soOwn = s.soOwn ∧ (s.onFront f).soBad = s.soBad ∧ (s.onFront f).cellErr = s.cellErr ∧
    (s.onFront f).fatalRecs = s.fatalRecs ∧ (s.onFront f).hbm = s.hbm ∧ (s.onFront f).coh = s.coh ∧ (s.onFront f).links = s.links ∧
    (s.onFront f).fab = s.fab ∧ (s.onFront f).roots = s.roots ∧ (s.onFront f).qps = s.qps ∧ (s.onFront f).power = s.power ∧
    (s.onFront f).sec = s.sec ∧ (s.onFront f).warm = s.warm ∧ (s.onFront f).xlt = s.xlt ∧ (s.onFront f).mc = s.mc ∧
    (s.onFront f).irqs = s.irqs :=
  ⟨rfl, rfl, rfl, rfl, rfl, rfl, rfl, rfl, rfl, rfl, rfl, rfl, rfl, rfl, rfl, rfl, rfl, rfl, rfl, rfl, rfl, rfl, rfl, rfl, rfl, rfl, rfl, rfl, rfl, rfl, rfl, rfl, rfl, rfl, rfl, rfl, rfl, rfl, rfl, rfl, rfl, rfl, rfl, rfl, rfl, rfl, rfl⟩

@[simp] theorem State.onFront_parts (s : State) (f : Front → Front) :
   (∀ i, (s.onFront f).host i = s.host i) ∧ (∀ i, (s.onFront f).cell i = s.cell i) ∧ (∀ i, (s.onFront f).ochre i = s.ochre i) ∧
    (∀ i, (s.onFront f).log i = s.log i) ∧ (∀ i, (s.onFront f).ring i = s.ring i) ∧ (∀ cid, (s.onFront f).ctx cid = s.ctx cid) ∧
    (∀ i, (s.onFront f).root i = s.root i) ∧ (∀ i j, (s.onFront f).qp i j = s.qp i j) ∧ (∀ i, (s.onFront f).link i = s.link i) ∧
    (∀ i, (s.onFront f).port i = s.port i) ∧ (∀ i, (s.onFront f).gust i = s.gust i) ∧ (∀ i, (s.onFront f).reg i = s.reg i) ∧
    (∀ i, (s.onFront f).shadowOf i = s.shadowOf i) ∧ (∀ i q, (s.onFront f).cmd i q = s.cmd i q) ∧ (∀ i, (s.onFront f).so i = s.so i) ∧
    (∀ i, (s.onFront f).soOwner i = s.soOwner i) ∧ (∀ i, (s.onFront f).soBroken i = s.soBroken i) ∧
    (∀ i, (s.onFront f).owner i = s.owner i) ∧ (∀ i, (s.onFront f).chan i = s.chan i) ∧ (∀ i j, (s.onFront f).band i j = s.band i j) ∧
    (∀ i, (s.onFront f).readByte i = s.readByte i) ∧ (∀ i, (s.onFront f).dirEntry i = s.dirEntry i) :=
  ⟨fun _ => rfl, fun _ => rfl, fun _ => rfl, fun _ => rfl, fun _ => rfl, fun _ => rfl, fun _ => rfl, fun _ _ => rfl, fun _ => rfl, fun _ => rfl, fun _ => rfl, fun _ => rfl, fun _ => rfl, fun _ _ => rfl, fun _ => rfl, fun _ => rfl, fun _ => rfl, fun _ => rfl, fun _ => rfl, fun _ _ => rfl, fun _ => rfl, fun _ => rfl⟩

@[simp] theorem State.onSec_fields (s : State) (f : Security → Security) :
   (s.onSec f).pending = s.pending ∧ (s.onSec f).phase = s.phase ∧ (s.onSec f).pins = s.pins ∧ (s.onSec f).flash = s.flash ∧
    (s.onSec f).bring = s.bring ∧ (s.onSec f).time = s.time ∧ (s.onSec f).fresh = s.fresh ∧ (s.onSec f).mem = s.mem ∧
    (s.onSec f).older = s.older ∧ (s.onSec f).own = s.own ∧ (s.onSec f).regs = s.regs ∧ (s.onSec f).shadow = s.shadow ∧
    (s.onSec f).latch = s.latch ∧ (s.onSec f).held = s.held ∧ (s.onSec f).tierB0 = s.tierB0 ∧ (s.onSec f).tierB1 = s.tierB1 ∧
    (s.onSec f).degradeGen = s.degradeGen ∧ (s.onSec f).svc = s.svc ∧ (s.onSec f).fatal = s.fatal ∧ (s.onSec f).released = s.released ∧
    (s.onSec f).hostsOn = s.hostsOn ∧ (s.onSec f).everReleased = s.everReleased ∧ (s.onSec f).rate = s.rate ∧
    (s.onSec f).hosts = s.hosts ∧ (s.onSec f).cells = s.cells ∧ (s.onSec f).ochres = s.ochres ∧ (s.onSec f).logs = s.logs ∧
    (s.onSec f).rings = s.rings ∧ (s.onSec f).cmds = s.cmds ∧ (s.onSec f).ctxs = s.ctxs ∧ (s.onSec f).soVal = s.soVal ∧
    (s.onSec f).soOwn = s.soOwn ∧ (s.onSec f).soBad = s.soBad ∧ (s.onSec f).cellErr = s.cellErr ∧ (s.onSec f).fatalRecs = s.fatalRecs ∧
    (s.onSec f).hbm = s.hbm ∧ (s.onSec f).coh = s.coh ∧ (s.onSec f).links = s.links ∧ (s.onSec f).fab = s.fab ∧
    (s.onSec f).roots = s.roots ∧ (s.onSec f).qps = s.qps ∧ (s.onSec f).front = s.front ∧ (s.onSec f).power = s.power ∧
    (s.onSec f).warm = s.warm ∧ (s.onSec f).xlt = s.xlt ∧ (s.onSec f).mc = s.mc ∧ (s.onSec f).irqs = s.irqs :=
  ⟨rfl, rfl, rfl, rfl, rfl, rfl, rfl, rfl, rfl, rfl, rfl, rfl, rfl, rfl, rfl, rfl, rfl, rfl, rfl, rfl, rfl, rfl, rfl, rfl, rfl, rfl, rfl, rfl, rfl, rfl, rfl, rfl, rfl, rfl, rfl, rfl, rfl, rfl, rfl, rfl, rfl, rfl, rfl, rfl, rfl, rfl, rfl⟩

@[simp] theorem State.onSec_parts (s : State) (f : Security → Security) :
   (∀ i, (s.onSec f).host i = s.host i) ∧ (∀ i, (s.onSec f).cell i = s.cell i) ∧ (∀ i, (s.onSec f).ochre i = s.ochre i) ∧
    (∀ i, (s.onSec f).log i = s.log i) ∧ (∀ i, (s.onSec f).ring i = s.ring i) ∧ (∀ cid, (s.onSec f).ctx cid = s.ctx cid) ∧
    (∀ i, (s.onSec f).root i = s.root i) ∧ (∀ i j, (s.onSec f).qp i j = s.qp i j) ∧ (∀ i, (s.onSec f).link i = s.link i) ∧
    (∀ i, (s.onSec f).port i = s.port i) ∧ (∀ i, (s.onSec f).gust i = s.gust i) ∧ (∀ i, (s.onSec f).reg i = s.reg i) ∧
    (∀ i, (s.onSec f).shadowOf i = s.shadowOf i) ∧ (∀ i q, (s.onSec f).cmd i q = s.cmd i q) ∧ (∀ i, (s.onSec f).so i = s.so i) ∧
    (∀ i, (s.onSec f).soOwner i = s.soOwner i) ∧ (∀ i, (s.onSec f).soBroken i = s.soBroken i) ∧ (∀ i, (s.onSec f).owner i = s.owner i) ∧
    (∀ i, (s.onSec f).chan i = s.chan i) ∧ (∀ i j, (s.onSec f).band i j = s.band i j) ∧ (∀ i, (s.onSec f).readByte i = s.readByte i) ∧
    (∀ i, (s.onSec f).dirEntry i = s.dirEntry i) :=
  ⟨fun _ => rfl, fun _ => rfl, fun _ => rfl, fun _ => rfl, fun _ => rfl, fun _ => rfl, fun _ => rfl, fun _ _ => rfl, fun _ => rfl, fun _ => rfl, fun _ => rfl, fun _ => rfl, fun _ => rfl, fun _ _ => rfl, fun _ => rfl, fun _ => rfl, fun _ => rfl, fun _ => rfl, fun _ => rfl, fun _ _ => rfl, fun _ => rfl, fun _ => rfl⟩

@[simp] theorem State.onPower_fields (s : State) (f : Power → Power) :
   (s.onPower f).pending = s.pending ∧ (s.onPower f).phase = s.phase ∧ (s.onPower f).pins = s.pins ∧ (s.onPower f).flash = s.flash ∧
    (s.onPower f).bring = s.bring ∧ (s.onPower f).time = s.time ∧ (s.onPower f).fresh = s.fresh ∧ (s.onPower f).mem = s.mem ∧
    (s.onPower f).older = s.older ∧ (s.onPower f).own = s.own ∧ (s.onPower f).regs = s.regs ∧ (s.onPower f).shadow = s.shadow ∧
    (s.onPower f).latch = s.latch ∧ (s.onPower f).held = s.held ∧ (s.onPower f).tierB0 = s.tierB0 ∧ (s.onPower f).tierB1 = s.tierB1 ∧
    (s.onPower f).degradeGen = s.degradeGen ∧ (s.onPower f).svc = s.svc ∧ (s.onPower f).fatal = s.fatal ∧
    (s.onPower f).released = s.released ∧ (s.onPower f).hostsOn = s.hostsOn ∧ (s.onPower f).everReleased = s.everReleased ∧
    (s.onPower f).rate = s.rate ∧ (s.onPower f).hosts = s.hosts ∧ (s.onPower f).cells = s.cells ∧ (s.onPower f).ochres = s.ochres ∧
    (s.onPower f).logs = s.logs ∧ (s.onPower f).rings = s.rings ∧ (s.onPower f).cmds = s.cmds ∧ (s.onPower f).ctxs = s.ctxs ∧
    (s.onPower f).soVal = s.soVal ∧ (s.onPower f).soOwn = s.soOwn ∧ (s.onPower f).soBad = s.soBad ∧ (s.onPower f).cellErr = s.cellErr ∧
    (s.onPower f).fatalRecs = s.fatalRecs ∧ (s.onPower f).hbm = s.hbm ∧ (s.onPower f).coh = s.coh ∧ (s.onPower f).links = s.links ∧
    (s.onPower f).fab = s.fab ∧ (s.onPower f).roots = s.roots ∧ (s.onPower f).qps = s.qps ∧ (s.onPower f).front = s.front ∧
    (s.onPower f).sec = s.sec ∧ (s.onPower f).warm = s.warm ∧ (s.onPower f).xlt = s.xlt ∧ (s.onPower f).mc = s.mc ∧
    (s.onPower f).irqs = s.irqs :=
  ⟨rfl, rfl, rfl, rfl, rfl, rfl, rfl, rfl, rfl, rfl, rfl, rfl, rfl, rfl, rfl, rfl, rfl, rfl, rfl, rfl, rfl, rfl, rfl, rfl, rfl, rfl, rfl, rfl, rfl, rfl, rfl, rfl, rfl, rfl, rfl, rfl, rfl, rfl, rfl, rfl, rfl, rfl, rfl, rfl, rfl, rfl, rfl⟩

@[simp] theorem State.onPower_parts (s : State) (f : Power → Power) :
   (∀ i, (s.onPower f).host i = s.host i) ∧ (∀ i, (s.onPower f).cell i = s.cell i) ∧ (∀ i, (s.onPower f).ochre i = s.ochre i) ∧
    (∀ i, (s.onPower f).log i = s.log i) ∧ (∀ i, (s.onPower f).ring i = s.ring i) ∧ (∀ cid, (s.onPower f).ctx cid = s.ctx cid) ∧
    (∀ i, (s.onPower f).root i = s.root i) ∧ (∀ i j, (s.onPower f).qp i j = s.qp i j) ∧ (∀ i, (s.onPower f).link i = s.link i) ∧
    (∀ i, (s.onPower f).port i = s.port i) ∧ (∀ i, (s.onPower f).reg i = s.reg i) ∧ (∀ i, (s.onPower f).shadowOf i = s.shadowOf i) ∧
    (∀ i q, (s.onPower f).cmd i q = s.cmd i q) ∧ (∀ i, (s.onPower f).so i = s.so i) ∧ (∀ i, (s.onPower f).soOwner i = s.soOwner i) ∧
    (∀ i, (s.onPower f).soBroken i = s.soBroken i) ∧ (∀ i, (s.onPower f).owner i = s.owner i) ∧ (∀ i, (s.onPower f).chan i = s.chan i) ∧
    (∀ i j, (s.onPower f).band i j = s.band i j) ∧ (∀ i, (s.onPower f).readByte i = s.readByte i) ∧
    (∀ i, (s.onPower f).dirEntry i = s.dirEntry i) :=
  ⟨fun _ => rfl, fun _ => rfl, fun _ => rfl, fun _ => rfl, fun _ => rfl, fun _ => rfl, fun _ => rfl, fun _ _ => rfl, fun _ => rfl, fun _ => rfl, fun _ => rfl, fun _ => rfl, fun _ _ => rfl, fun _ => rfl, fun _ => rfl, fun _ => rfl, fun _ => rfl, fun _ => rfl, fun _ _ => rfl, fun _ => rfl, fun _ => rfl⟩

@[simp] theorem State.onCoh_fields (s : State) (f : Coherence → Coherence) :
   (s.onCoh f).pending = s.pending ∧ (s.onCoh f).phase = s.phase ∧ (s.onCoh f).pins = s.pins ∧ (s.onCoh f).flash = s.flash ∧
    (s.onCoh f).bring = s.bring ∧ (s.onCoh f).time = s.time ∧ (s.onCoh f).fresh = s.fresh ∧ (s.onCoh f).mem = s.mem ∧
    (s.onCoh f).older = s.older ∧ (s.onCoh f).own = s.own ∧ (s.onCoh f).regs = s.regs ∧ (s.onCoh f).shadow = s.shadow ∧
    (s.onCoh f).latch = s.latch ∧ (s.onCoh f).held = s.held ∧ (s.onCoh f).tierB0 = s.tierB0 ∧ (s.onCoh f).tierB1 = s.tierB1 ∧
    (s.onCoh f).degradeGen = s.degradeGen ∧ (s.onCoh f).svc = s.svc ∧ (s.onCoh f).fatal = s.fatal ∧ (s.onCoh f).released = s.released ∧
    (s.onCoh f).hostsOn = s.hostsOn ∧ (s.onCoh f).everReleased = s.everReleased ∧ (s.onCoh f).rate = s.rate ∧
    (s.onCoh f).hosts = s.hosts ∧ (s.onCoh f).cells = s.cells ∧ (s.onCoh f).ochres = s.ochres ∧ (s.onCoh f).logs = s.logs ∧
    (s.onCoh f).rings = s.rings ∧ (s.onCoh f).cmds = s.cmds ∧ (s.onCoh f).ctxs = s.ctxs ∧ (s.onCoh f).soVal = s.soVal ∧
    (s.onCoh f).soOwn = s.soOwn ∧ (s.onCoh f).soBad = s.soBad ∧ (s.onCoh f).cellErr = s.cellErr ∧ (s.onCoh f).fatalRecs = s.fatalRecs ∧
    (s.onCoh f).hbm = s.hbm ∧ (s.onCoh f).links = s.links ∧ (s.onCoh f).fab = s.fab ∧ (s.onCoh f).roots = s.roots ∧
    (s.onCoh f).qps = s.qps ∧ (s.onCoh f).front = s.front ∧ (s.onCoh f).power = s.power ∧ (s.onCoh f).sec = s.sec ∧
    (s.onCoh f).warm = s.warm ∧ (s.onCoh f).xlt = s.xlt ∧ (s.onCoh f).mc = s.mc ∧ (s.onCoh f).irqs = s.irqs :=
  ⟨rfl, rfl, rfl, rfl, rfl, rfl, rfl, rfl, rfl, rfl, rfl, rfl, rfl, rfl, rfl, rfl, rfl, rfl, rfl, rfl, rfl, rfl, rfl, rfl, rfl, rfl, rfl, rfl, rfl, rfl, rfl, rfl, rfl, rfl, rfl, rfl, rfl, rfl, rfl, rfl, rfl, rfl, rfl, rfl, rfl, rfl, rfl⟩

@[simp] theorem State.onCoh_parts (s : State) (f : Coherence → Coherence) :
   (∀ i, (s.onCoh f).host i = s.host i) ∧ (∀ i, (s.onCoh f).cell i = s.cell i) ∧ (∀ i, (s.onCoh f).ochre i = s.ochre i) ∧
    (∀ i, (s.onCoh f).log i = s.log i) ∧ (∀ i, (s.onCoh f).ring i = s.ring i) ∧ (∀ cid, (s.onCoh f).ctx cid = s.ctx cid) ∧
    (∀ i, (s.onCoh f).root i = s.root i) ∧ (∀ i j, (s.onCoh f).qp i j = s.qp i j) ∧ (∀ i, (s.onCoh f).link i = s.link i) ∧
    (∀ i, (s.onCoh f).port i = s.port i) ∧ (∀ i, (s.onCoh f).gust i = s.gust i) ∧ (∀ i, (s.onCoh f).reg i = s.reg i) ∧
    (∀ i, (s.onCoh f).shadowOf i = s.shadowOf i) ∧ (∀ i q, (s.onCoh f).cmd i q = s.cmd i q) ∧ (∀ i, (s.onCoh f).so i = s.so i) ∧
    (∀ i, (s.onCoh f).soOwner i = s.soOwner i) ∧ (∀ i, (s.onCoh f).soBroken i = s.soBroken i) ∧ (∀ i, (s.onCoh f).owner i = s.owner i) ∧
    (∀ i, (s.onCoh f).chan i = s.chan i) ∧ (∀ i j, (s.onCoh f).band i j = s.band i j) ∧ (∀ i, (s.onCoh f).readByte i = s.readByte i) :=
  ⟨fun _ => rfl, fun _ => rfl, fun _ => rfl, fun _ => rfl, fun _ => rfl, fun _ => rfl, fun _ => rfl, fun _ _ => rfl, fun _ => rfl, fun _ => rfl, fun _ => rfl, fun _ => rfl, fun _ => rfl, fun _ _ => rfl, fun _ => rfl, fun _ => rfl, fun _ => rfl, fun _ => rfl, fun _ => rfl, fun _ _ => rfl, fun _ => rfl⟩

@[simp] theorem State.raise_fields (s : State) (die vector : Nat) :
   (s.raise die vector).pending = s.pending ∧ (s.raise die vector).phase = s.phase ∧ (s.raise die vector).pins = s.pins ∧
    (s.raise die vector).flash = s.flash ∧ (s.raise die vector).bring = s.bring ∧ (s.raise die vector).time = s.time ∧
    (s.raise die vector).fresh = s.fresh ∧ (s.raise die vector).mem = s.mem ∧ (s.raise die vector).older = s.older ∧
    (s.raise die vector).own = s.own ∧ (s.raise die vector).regs = s.regs ∧ (s.raise die vector).shadow = s.shadow ∧
    (s.raise die vector).latch = s.latch ∧ (s.raise die vector).held = s.held ∧ (s.raise die vector).tierB0 = s.tierB0 ∧
    (s.raise die vector).tierB1 = s.tierB1 ∧ (s.raise die vector).degradeGen = s.degradeGen ∧ (s.raise die vector).svc = s.svc ∧
    (s.raise die vector).fatal = s.fatal ∧ (s.raise die vector).released = s.released ∧ (s.raise die vector).hostsOn = s.hostsOn ∧
    (s.raise die vector).everReleased = s.everReleased ∧ (s.raise die vector).rate = s.rate ∧ (s.raise die vector).hosts = s.hosts ∧
    (s.raise die vector).cells = s.cells ∧ (s.raise die vector).ochres = s.ochres ∧ (s.raise die vector).logs = s.logs ∧
    (s.raise die vector).rings = s.rings ∧ (s.raise die vector).cmds = s.cmds ∧ (s.raise die vector).ctxs = s.ctxs ∧
    (s.raise die vector).soVal = s.soVal ∧ (s.raise die vector).soOwn = s.soOwn ∧ (s.raise die vector).soBad = s.soBad ∧
    (s.raise die vector).cellErr = s.cellErr ∧ (s.raise die vector).fatalRecs = s.fatalRecs ∧ (s.raise die vector).hbm = s.hbm ∧
    (s.raise die vector).coh = s.coh ∧ (s.raise die vector).links = s.links ∧ (s.raise die vector).fab = s.fab ∧
    (s.raise die vector).roots = s.roots ∧ (s.raise die vector).qps = s.qps ∧ (s.raise die vector).front = s.front ∧
    (s.raise die vector).power = s.power ∧ (s.raise die vector).sec = s.sec ∧ (s.raise die vector).warm = s.warm ∧
    (s.raise die vector).xlt = s.xlt ∧ (s.raise die vector).mc = s.mc :=
  ⟨rfl, rfl, rfl, rfl, rfl, rfl, rfl, rfl, rfl, rfl, rfl, rfl, rfl, rfl, rfl, rfl, rfl, rfl, rfl, rfl, rfl, rfl, rfl, rfl, rfl, rfl, rfl, rfl, rfl, rfl, rfl, rfl, rfl, rfl, rfl, rfl, rfl, rfl, rfl, rfl, rfl, rfl, rfl, rfl, rfl, rfl, rfl⟩

@[simp] theorem State.raise_parts (s : State) (die vector : Nat) :
   (∀ i, (s.raise die vector).host i = s.host i) ∧ (∀ i, (s.raise die vector).cell i = s.cell i) ∧
    (∀ i, (s.raise die vector).ochre i = s.ochre i) ∧ (∀ i, (s.raise die vector).log i = s.log i) ∧
    (∀ i, (s.raise die vector).ring i = s.ring i) ∧ (∀ cid, (s.raise die vector).ctx cid = s.ctx cid) ∧
    (∀ i, (s.raise die vector).root i = s.root i) ∧ (∀ i j, (s.raise die vector).qp i j = s.qp i j) ∧
    (∀ i, (s.raise die vector).link i = s.link i) ∧ (∀ i, (s.raise die vector).port i = s.port i) ∧
    (∀ i, (s.raise die vector).gust i = s.gust i) ∧ (∀ i, (s.raise die vector).reg i = s.reg i) ∧
    (∀ i, (s.raise die vector).shadowOf i = s.shadowOf i) ∧ (∀ i q, (s.raise die vector).cmd i q = s.cmd i q) ∧
    (∀ i, (s.raise die vector).so i = s.so i) ∧ (∀ i, (s.raise die vector).soOwner i = s.soOwner i) ∧
    (∀ i, (s.raise die vector).soBroken i = s.soBroken i) ∧ (∀ i, (s.raise die vector).owner i = s.owner i) ∧
    (∀ i, (s.raise die vector).chan i = s.chan i) ∧ (∀ i j, (s.raise die vector).band i j = s.band i j) ∧
    (∀ i, (s.raise die vector).readByte i = s.readByte i) ∧ (∀ i, (s.raise die vector).dirEntry i = s.dirEntry i) :=
  ⟨fun _ => rfl, fun _ => rfl, fun _ => rfl, fun _ => rfl, fun _ => rfl, fun _ => rfl, fun _ => rfl, fun _ _ => rfl, fun _ => rfl, fun _ => rfl, fun _ => rfl, fun _ => rfl, fun _ => rfl, fun _ _ => rfl, fun _ => rfl, fun _ => rfl, fun _ => rfl, fun _ => rfl, fun _ => rfl, fun _ _ => rfl, fun _ => rfl, fun _ => rfl⟩

@[simp] theorem State.unhold_fields (s : State) (a : Nat) :
   (s.unhold a).pending = s.pending ∧ (s.unhold a).phase = s.phase ∧ (s.unhold a).pins = s.pins ∧ (s.unhold a).flash = s.flash ∧
    (s.unhold a).bring = s.bring ∧ (s.unhold a).time = s.time ∧ (s.unhold a).fresh = s.fresh ∧ (s.unhold a).mem = s.mem ∧
    (s.unhold a).older = s.older ∧ (s.unhold a).own = s.own ∧ (s.unhold a).regs = s.regs ∧ (s.unhold a).shadow = s.shadow ∧
    (s.unhold a).latch = s.latch ∧ (s.unhold a).tierB0 = s.tierB0 ∧ (s.unhold a).tierB1 = s.tierB1 ∧
    (s.unhold a).degradeGen = s.degradeGen ∧ (s.unhold a).svc = s.svc ∧ (s.unhold a).fatal = s.fatal ∧
    (s.unhold a).released = s.released ∧ (s.unhold a).hostsOn = s.hostsOn ∧ (s.unhold a).everReleased = s.everReleased ∧
    (s.unhold a).rate = s.rate ∧ (s.unhold a).hosts = s.hosts ∧ (s.unhold a).cells = s.cells ∧ (s.unhold a).ochres = s.ochres ∧
    (s.unhold a).logs = s.logs ∧ (s.unhold a).rings = s.rings ∧ (s.unhold a).cmds = s.cmds ∧ (s.unhold a).ctxs = s.ctxs ∧
    (s.unhold a).soVal = s.soVal ∧ (s.unhold a).soOwn = s.soOwn ∧ (s.unhold a).soBad = s.soBad ∧ (s.unhold a).cellErr = s.cellErr ∧
    (s.unhold a).fatalRecs = s.fatalRecs ∧ (s.unhold a).hbm = s.hbm ∧ (s.unhold a).coh = s.coh ∧ (s.unhold a).links = s.links ∧
    (s.unhold a).fab = s.fab ∧ (s.unhold a).roots = s.roots ∧ (s.unhold a).qps = s.qps ∧ (s.unhold a).front = s.front ∧
    (s.unhold a).power = s.power ∧ (s.unhold a).sec = s.sec ∧ (s.unhold a).warm = s.warm ∧ (s.unhold a).xlt = s.xlt ∧
    (s.unhold a).mc = s.mc ∧ (s.unhold a).irqs = s.irqs :=
  ⟨rfl, rfl, rfl, rfl, rfl, rfl, rfl, rfl, rfl, rfl, rfl, rfl, rfl, rfl, rfl, rfl, rfl, rfl, rfl, rfl, rfl, rfl, rfl, rfl, rfl, rfl, rfl, rfl, rfl, rfl, rfl, rfl, rfl, rfl, rfl, rfl, rfl, rfl, rfl, rfl, rfl, rfl, rfl, rfl, rfl, rfl, rfl⟩

@[simp] theorem State.unhold_parts (s : State) (a : Nat) :
   (∀ i, (s.unhold a).host i = s.host i) ∧ (∀ i, (s.unhold a).cell i = s.cell i) ∧ (∀ i, (s.unhold a).ochre i = s.ochre i) ∧
    (∀ i, (s.unhold a).log i = s.log i) ∧ (∀ i, (s.unhold a).ring i = s.ring i) ∧ (∀ cid, (s.unhold a).ctx cid = s.ctx cid) ∧
    (∀ i, (s.unhold a).root i = s.root i) ∧ (∀ i j, (s.unhold a).qp i j = s.qp i j) ∧ (∀ i, (s.unhold a).link i = s.link i) ∧
    (∀ i, (s.unhold a).port i = s.port i) ∧ (∀ i, (s.unhold a).gust i = s.gust i) ∧ (∀ i, (s.unhold a).reg i = s.reg i) ∧
    (∀ i, (s.unhold a).shadowOf i = s.shadowOf i) ∧ (∀ i q, (s.unhold a).cmd i q = s.cmd i q) ∧ (∀ i, (s.unhold a).so i = s.so i) ∧
    (∀ i, (s.unhold a).soOwner i = s.soOwner i) ∧ (∀ i, (s.unhold a).soBroken i = s.soBroken i) ∧
    (∀ i, (s.unhold a).owner i = s.owner i) ∧ (∀ i, (s.unhold a).chan i = s.chan i) ∧ (∀ i j, (s.unhold a).band i j = s.band i j) ∧
    (∀ i, (s.unhold a).readByte i = s.readByte i) ∧ (∀ i, (s.unhold a).dirEntry i = s.dirEntry i) :=
  ⟨fun _ => rfl, fun _ => rfl, fun _ => rfl, fun _ => rfl, fun _ => rfl, fun _ => rfl, fun _ => rfl, fun _ _ => rfl, fun _ => rfl, fun _ => rfl, fun _ => rfl, fun _ => rfl, fun _ => rfl, fun _ _ => rfl, fun _ => rfl, fun _ => rfl, fun _ => rfl, fun _ => rfl, fun _ => rfl, fun _ _ => rfl, fun _ => rfl, fun _ => rfl⟩

@[simp] theorem State.writeBytes_fields (s : State) (a : Nat) (bs : List Byte) :
   (s.writeBytes a bs).pending = s.pending ∧ (s.writeBytes a bs).phase = s.phase ∧ (s.writeBytes a bs).pins = s.pins ∧
    (s.writeBytes a bs).flash = s.flash ∧ (s.writeBytes a bs).bring = s.bring ∧ (s.writeBytes a bs).time = s.time ∧
    (s.writeBytes a bs).fresh = s.fresh ∧ (s.writeBytes a bs).own = s.own ∧ (s.writeBytes a bs).regs = s.regs ∧
    (s.writeBytes a bs).shadow = s.shadow ∧ (s.writeBytes a bs).latch = s.latch ∧ (s.writeBytes a bs).held = s.held ∧
    (s.writeBytes a bs).tierB0 = s.tierB0 ∧ (s.writeBytes a bs).tierB1 = s.tierB1 ∧ (s.writeBytes a bs).degradeGen = s.degradeGen ∧
    (s.writeBytes a bs).svc = s.svc ∧ (s.writeBytes a bs).fatal = s.fatal ∧ (s.writeBytes a bs).released = s.released ∧
    (s.writeBytes a bs).hostsOn = s.hostsOn ∧ (s.writeBytes a bs).everReleased = s.everReleased ∧ (s.writeBytes a bs).rate = s.rate ∧
    (s.writeBytes a bs).hosts = s.hosts ∧ (s.writeBytes a bs).cells = s.cells ∧ (s.writeBytes a bs).ochres = s.ochres ∧
    (s.writeBytes a bs).logs = s.logs ∧ (s.writeBytes a bs).rings = s.rings ∧ (s.writeBytes a bs).cmds = s.cmds ∧
    (s.writeBytes a bs).ctxs = s.ctxs ∧ (s.writeBytes a bs).soVal = s.soVal ∧ (s.writeBytes a bs).soOwn = s.soOwn ∧
    (s.writeBytes a bs).soBad = s.soBad ∧ (s.writeBytes a bs).cellErr = s.cellErr ∧ (s.writeBytes a bs).fatalRecs = s.fatalRecs ∧
    (s.writeBytes a bs).hbm = s.hbm ∧ (s.writeBytes a bs).coh = s.coh ∧ (s.writeBytes a bs).links = s.links ∧
    (s.writeBytes a bs).fab = s.fab ∧ (s.writeBytes a bs).roots = s.roots ∧ (s.writeBytes a bs).qps = s.qps ∧
    (s.writeBytes a bs).front = s.front ∧ (s.writeBytes a bs).power = s.power ∧ (s.writeBytes a bs).sec = s.sec ∧
    (s.writeBytes a bs).warm = s.warm ∧ (s.writeBytes a bs).xlt = s.xlt ∧ (s.writeBytes a bs).mc = s.mc ∧
    (s.writeBytes a bs).irqs = s.irqs :=
  ⟨rfl, rfl, rfl, rfl, rfl, rfl, rfl, rfl, rfl, rfl, rfl, rfl, rfl, rfl, rfl, rfl, rfl, rfl, rfl, rfl, rfl, rfl, rfl, rfl, rfl, rfl, rfl, rfl, rfl, rfl, rfl, rfl, rfl, rfl, rfl, rfl, rfl, rfl, rfl, rfl, rfl, rfl, rfl, rfl, rfl, rfl⟩

@[simp] theorem State.writeBytes_parts (s : State) (a : Nat) (bs : List Byte) :
   (∀ i, (s.writeBytes a bs).host i = s.host i) ∧ (∀ i, (s.writeBytes a bs).cell i = s.cell i) ∧
    (∀ i, (s.writeBytes a bs).ochre i = s.ochre i) ∧ (∀ i, (s.writeBytes a bs).log i = s.log i) ∧
    (∀ i, (s.writeBytes a bs).ring i = s.ring i) ∧ (∀ cid, (s.writeBytes a bs).ctx cid = s.ctx cid) ∧
    (∀ i, (s.writeBytes a bs).root i = s.root i) ∧ (∀ i j, (s.writeBytes a bs).qp i j = s.qp i j) ∧
    (∀ i, (s.writeBytes a bs).link i = s.link i) ∧ (∀ i, (s.writeBytes a bs).port i = s.port i) ∧
    (∀ i, (s.writeBytes a bs).gust i = s.gust i) ∧ (∀ i, (s.writeBytes a bs).reg i = s.reg i) ∧
    (∀ i, (s.writeBytes a bs).shadowOf i = s.shadowOf i) ∧ (∀ i q, (s.writeBytes a bs).cmd i q = s.cmd i q) ∧
    (∀ i, (s.writeBytes a bs).so i = s.so i) ∧ (∀ i, (s.writeBytes a bs).soOwner i = s.soOwner i) ∧
    (∀ i, (s.writeBytes a bs).soBroken i = s.soBroken i) ∧ (∀ i, (s.writeBytes a bs).owner i = s.owner i) ∧
    (∀ i, (s.writeBytes a bs).chan i = s.chan i) ∧ (∀ i j, (s.writeBytes a bs).band i j = s.band i j) ∧
    (∀ i, (s.writeBytes a bs).dirEntry i = s.dirEntry i) :=
  ⟨fun _ => rfl, fun _ => rfl, fun _ => rfl, fun _ => rfl, fun _ => rfl, fun _ => rfl, fun _ => rfl, fun _ _ => rfl, fun _ => rfl, fun _ => rfl, fun _ => rfl, fun _ => rfl, fun _ => rfl, fun _ _ => rfl, fun _ => rfl, fun _ => rfl, fun _ => rfl, fun _ => rfl, fun _ => rfl, fun _ _ => rfl, fun _ => rfl⟩

/-! ### What a keyed update reads as -/

@[simp] theorem State.setHost_host (s : State) (c d : Nat) (x : HostCore) : (s.setHost c x).host d = if d = c then x else s.host d :=
  tabGet_set ..
@[simp] theorem State.setCell_cell (s : State) (g h : Nat) (x : Cell) : (s.setCell g x).cell h = if h = g then x else s.cell h :=
  tabGet_set ..
@[simp] theorem State.setOchre_ochre (s : State) (d e : Nat) (x : Ochre) : (s.setOchre d x).ochre e = if e = d then x else s.ochre e :=
  tabGet_set ..
@[simp] theorem State.setLog_log (s : State) (d e : Nat) (x : DieLog) : (s.setLog d x).log e = if e = d then x else s.log e :=
  tabGet_set ..
@[simp] theorem State.setRing_ring (s : State) (r q : Nat) (x : Ring) : (s.setRing r x).ring q = if q = r then x else s.ring q :=
  tabGet_set ..
@[simp] theorem State.setRoot_root (s : State) (p q : Nat) (x : RootPort) : (s.setRoot p x).root q = if q = p then x else s.root q :=
  tabGet_set ..
@[simp] theorem State.setLink_link (s : State) (l k : Nat) (x : PLink) : (s.setLink l x).link k = if k = l then x else s.link k :=
  tabGet_set ..
@[simp] theorem State.setPort_port (s : State) (p q : Nat) (x : IsoPort) : (s.setPort p x).port q = if q = p then x else s.port q :=
  tabGet_set ..
@[simp] theorem State.setGust_gust (s : State) (d e : Nat) (x : Gust) : (s.setGust d x).gust e = if e = d then x else s.gust e :=
  tabGet_set ..
@[simp] theorem State.setReg_reg (s : State) (a b : Nat) (x : Word) : (s.setReg a x).reg b = if b = a then x else s.reg b :=
  tabGet_set ..
@[simp] theorem State.setShadow_shadowOf (s : State) (a b : Nat) (x : Word) : (s.setShadow a x).shadowOf b = if b = a then x else s.shadowOf b :=
  tabGet_set ..
@[simp] theorem State.setOwner_owner (s : State) (g h : Nat) (x : Own) : (s.setOwner g x).owner h = if h = g then x else s.owner h :=
  tabGet_set ..
@[simp] theorem State.setSo_so (s : State) (o p : Nat) (x : DWord) : (s.setSo o x).so p = if p = o then x else s.so p :=
  tabGet_set ..
@[simp] theorem State.setSoOwner_soOwner (s : State) (o p : Nat) (x : Cid) : (s.setSoOwner o x).soOwner p = if p = o then x else s.soOwner p :=
  tabGet_set ..
@[simp] theorem State.setRegion_region (s : State) (r q : Nat) (x : Region) : (s.setRegion r x).region q = if q = r then x else s.region q :=
  tabGet_set ..
@[simp] theorem State.setChan_chan (s : State) (c d : Nat) (x : Channel) : (s.setChan c x).chan d = if d = c then x else s.chan d :=
  tabGet_set ..
@[simp] theorem State.setDir_dirEntry (s : State) (l m : Nat) (x : DirEntry) : (s.setDir l x).dirEntry m = if m = l then x else s.dirEntry m :=
  tabGet_set ..

@[simp] theorem State.setCtx_ctx (s : State) (c d : Cid) (x : Ctx) : (s.setCtx c x).ctx d = if d = c then x else s.ctx d := by
  unfold State.setCtx State.ctx
  simp only [tabGet_set]
  by_cases h : d = c
  · simp [h]
  · simp [h, show d.toNat ≠ c.toNat from fun e => h (BitVec.eq_of_toNat_eq e)]

@[simp] theorem State.setQp_qp (s : State) (p n m : Nat) (x : Qp) : (s.setQp p n x).qp p m = if m = n then x else s.qp p m := by
  unfold State.setQp State.qp
  simp only [tabGet_set]
  by_cases h : m = n
  · simp [h]
  · simp [h]

@[simp] theorem State.setBand_band (s : State) (c b d : Nat) (x : BandState) : (s.setBand c b x).band c d = if d = b then x else s.band c d := by
  unfold State.setBand State.band
  simp only [tabGet_set]
  by_cases h : d = b
  · simp [h]
  · simp [h]

/-- A write while no cell runs an item leaves nothing for an instruction cache to keep (05 R430). -/
theorem State.writeBytes_older (s : State) (a : Nat) (bs : List Byte) (h : s.coresRun = false) : (s.writeBytes a bs).older = s.older := by
  unfold State.writeBytes; rw [h]; rfl

end Sys2Proof.Machine
end

