-- ==== Sys2Proof/Laws/Exec.lean ====
section
/-! SUPPORT. What every command keeps: a live command's outcome is its effect with the queue, the phase and the input pins as they
were; and what a step does with the queue. -/

namespace Sys2Proof.Machine

@[simp] theorem keepInputs_fields (s t : State) :
   (s.keepInputs t).pending = s.pending ∧ (s.keepInputs t).phase = s.phase ∧ (s.keepInputs t).pins.pwrGood = s.pins.pwrGood ∧
    (s.keepInputs t).pins.pkgRstN = s.pins.pkgRstN ∧ (s.keepInputs t).pins.hostRstN = s.pins.hostRstN ∧
    (s.keepInputs t).pins.stn = s.pins.stn ∧ (s.keepInputs t).pins.prodTest = s.pins.prodTest ∧
    (s.keepInputs t).pins.pwrAlert = t.pins.pwrAlert ∧ (s.keepInputs t).pins.thermtrip = t.pins.thermtrip ∧
    (s.keepInputs t).pins.atb = t.pins.atb ∧ (s.keepInputs t).flash = t.flash ∧ (s.keepInputs t).bring = t.bring ∧
    (s.keepInputs t).time = t.time ∧ (s.keepInputs t).fresh = t.fresh ∧ (s.keepInputs t).mem = t.mem ∧ (s.keepInputs t).older = t.older ∧
    (s.keepInputs t).own = t.own ∧ (s.keepInputs t).regs = t.regs ∧ (s.keepInputs t).shadow = t.shadow ∧
    (s.keepInputs t).latch = t.latch ∧ (s.keepInputs t).held = t.held ∧ (s.keepInputs t).tierB0 = t.tierB0 ∧
    (s.keepInputs t).tierB1 = t.tierB1 ∧ (s.keepInputs t).degradeGen = t.degradeGen ∧ (s.keepInputs t).svc = t.svc ∧
    (s.keepInputs t).fatal = t.fatal ∧ (s.keepInputs t).released = t.released ∧ (s.keepInputs t).hostsOn = t.hostsOn ∧
    (s.keepInputs t).everReleased = t.everReleased ∧ (s.keepInputs t).rate = t.rate ∧ (s.keepInputs t).hosts = t.hosts ∧
    (s.keepInputs t).cells = t.cells ∧ (s.keepInputs t).ochres = t.ochres ∧ (s.keepInputs t).logs = t.logs ∧
    (s.keepInputs t).rings = t.rings ∧ (s.keepInputs t).cmds = t.cmds ∧ (s.keepInputs t).ctxs = t.ctxs ∧
    (s.keepInputs t).soVal = t.soVal ∧ (s.keepInputs t).soOwn = t.soOwn ∧ (s.keepInputs t).soBad = t.soBad ∧
    (s.keepInputs t).cellErr = t.cellErr ∧ (s.keepInputs t).fatalRecs = t.fatalRecs ∧ (s.keepInputs t).hbm = t.hbm ∧
    (s.keepInputs t).coh = t.coh ∧ (s.keepInputs t).links = t.links ∧ (s.keepInputs t).fab = t.fab ∧ (s.keepInputs t).roots = t.roots ∧
    (s.keepInputs t).qps = t.qps ∧ (s.keepInputs t).front = t.front ∧ (s.keepInputs t).power = t.power ∧ (s.keepInputs t).sec = t.sec ∧
    (s.keepInputs t).warm = t.warm ∧ (s.keepInputs t).xlt = t.xlt ∧ (s.keepInputs t).mc = t.mc ∧ (s.keepInputs t).irqs = t.irqs :=
  ⟨rfl, rfl, rfl, rfl, rfl, rfl, rfl, rfl, rfl, rfl, rfl, rfl, rfl, rfl, rfl, rfl, rfl, rfl, rfl, rfl, rfl, rfl, rfl, rfl, rfl, rfl, rfl, rfl, rfl, rfl, rfl, rfl, rfl, rfl, rfl, rfl, rfl, rfl, rfl, rfl, rfl, rfl, rfl, rfl, rfl, rfl, rfl, rfl, rfl, rfl, rfl, rfl, rfl, rfl, rfl⟩

@[simp] theorem keepInputs_parts (s t : State) :
   (∀ i, (s.keepInputs t).host i = t.host i) ∧ (∀ i, (s.keepInputs t).cell i = t.cell i) ∧ (∀ i, (s.keepInputs t).ochre i = t.ochre i) ∧
    (∀ i, (s.keepInputs t).log i = t.log i) ∧ (∀ i, (s.keepInputs t).ring i = t.ring i) ∧ (∀ i, (s.keepInputs t).ctx i = t.ctx i) ∧
    (∀ i, (s.keepInputs t).root i = t.root i) ∧ (∀ i j, (s.keepInputs t).qp i j = t.qp i j) ∧ (∀ i, (s.keepInputs t).link i = t.link i) ∧
    (∀ i, (s.keepInputs t).port i = t.port i) ∧ (∀ i, (s.keepInputs t).gust i = t.gust i) ∧ (∀ i, (s.keepInputs t).reg i = t.reg i) ∧
    (∀ i, (s.keepInputs t).reg64 i = t.reg64 i) ∧ (∀ i, (s.keepInputs t).shadowOf i = t.shadowOf i) ∧
    (∀ i j, (s.keepInputs t).cmd i j = t.cmd i j) ∧ (∀ i, (s.keepInputs t).so i = t.so i) ∧
    (∀ i, (s.keepInputs t).soOwner i = t.soOwner i) ∧ (∀ i, (s.keepInputs t).soBroken i = t.soBroken i) ∧
    (∀ i, (s.keepInputs t).owner i = t.owner i) ∧ (∀ i, (s.keepInputs t).chan i = t.chan i) ∧
    (∀ i j, (s.keepInputs t).band i j = t.band i j) ∧ (∀ i, (s.keepInputs t).readByte i = t.readByte i) ∧
    (∀ i, (s.keepInputs t).dirEntry i = t.dirEntry i) :=
  ⟨fun _ => rfl, fun _ => rfl, fun _ => rfl, fun _ => rfl, fun _ => rfl, fun _ => rfl, fun _ => rfl, fun _ _ => rfl, fun _ => rfl, fun _ => rfl, fun _ => rfl, fun _ => rfl, fun _ => rfl, fun _ => rfl, fun _ _ => rfl, fun _ => rfl, fun _ => rfl, fun _ => rfl, fun _ => rfl, fun _ => rfl, fun _ _ => rfl, fun _ => rfl, fun _ => rfl⟩

/-- An effect that leaves the queue, the phase and the pins alone is the outcome as it stands. -/
theorem keepInputs_eq (s t : State) (h1 : t.pending = s.pending) (h2 : t.phase = s.phase) (h3 : t.pins = s.pins) : s.keepInputs t = t := by
  cases t; simp only at h1 h2 h3; subst h1 h2 h3; rfl

/-- The outcome of an effect that branches. -/
theorem keepInputs_ite (s t u : State) (c : Prop) [Decidable c] :
    s.keepInputs (if c then t else u) = if c then s.keepInputs t else s.keepInputs u := by
  split <;> rfl

/-- Two next states are equal outcomes only if they are equal. -/
theorem next_inj (s t : State) : (Host.Outcome.next s : Host.Outcome State Fault Refusal) = .next t ↔ s = t :=
  ⟨fun h => by cases h; rfl, fun h => by rw [h]⟩

@[simp] theorem keepInputs_self (s : State) : s.keepInputs s = s := rfl

/-- A live command while the package runs. -/
theorem live_up (s : State) (f : State → State) (h : s.phase = .up) : s.live f = .next (s.keepInputs (f s)) := by
  unfold State.live; rw [h]

/-- A live command while it does not. -/
theorem live_down (s : State) (f : State → State) (h : s.phase ≠ .up) : s.live f = .next s := by
  unfold State.live; split <;> simp_all

/-- A live command whose effect leaves the queue, the phase and the pins alone. -/
theorem live_keeps (s : State) (f : State → State) (h : s.phase = .up) (h1 : (f s).pending = s.pending) (h2 : (f s).phase = s.phase)
    (h3 : (f s).pins = s.pins) : s.live f = .next (f s) := by
  rw [live_up s f h, keepInputs_eq s (f s) h1 h2 h3]

/-- A step on a waiting command is that command on the rest of the queue. -/
theorem step_cons (s : State) (c : Instr) (rest : List Instr) (h : s.pending = c :: rest) :
    step s = exec c { s with pending := rest } := by
  unfold step; rw [h]

/-- A step on an empty queue. -/
theorem step_nil (s : State) (h : s.pending = []) : step s = .next s.tick := by
  unfold step; rw [h]

end Sys2Proof.Machine
end

