-- ==== Sys2Proof/Laws/Cells.lean ====
section
/-! SUPPORT. What each shared operation of cells, engines, threads and commands can do: where it runs its continuation, which fields
it may change, and that every other field and part of the state stays. -/

namespace Sys2Proof.Machine

/-- What a property of the default and of every listed value says of every key. -/
theorem tabGet_of {α : Type} (P : α → Prop) (d : Nat → α) (t : Tab α) (k : Nat) (hd : P (d k)) (h : ∀ p ∈ t, P p.2) : P (tabGet d t k) := by
  induction t with
  | nil => exact hd
  | cons p r ih =>
    simp only [tabGet]
    split
    · exact h p List.mem_cons_self
    · exact ih fun q hq => h q (List.mem_cons_of_mem _ hq)

/-- Ports are idle when no listed port holds a device's request. -/
theorem State.portsIdle_of_listed (s : State) (h : ∀ p ∈ s.roots, p.2.posted = []) : s.portsIdle := fun p =>
  tabGet_of (fun r : RootPort => r.posted = []) rootDflt s.roots p rfl h

/-- What a fold keeps when each of its steps does. -/
theorem foldl_keeps {α β : Type} (P : β → Prop) (f : β → α → β) (l : List α) (b : β) (h : P b) (hf : ∀ b a, P b → P (f b a)) :
    P (l.foldl f b) := by
  induction l generalizing b with
  | nil => exact h
  | cons a l ih => exact ih _ (hf _ _ h)

/-- The running item of a cell. -/
theorem Cell.running_some (c : Cell) (j : Job) : c.running = some j ↔ c.job = some j ∧ j.ended = none := by
  unfold Cell.running
  cases h : c.job with
  | none => simp
  | some k => cases hk : k.ended <;> simp [Option.bind, hk] <;> intro e <;> subst e <;> simp [hk]

/-- Where a control-core instruction acts. -/
theorem State.onCore_runs (s : State) (g : Nat) (j : Job) (f : Cell → Job → State) (h : s.coreRuns g j) :
    s.onCore g f = f (s.cell g) j := by
  obtain ⟨h1, h2, h3, h4, h5⟩ := h
  unfold State.onCore
  rw [(Cell.running_some _ _).2 ⟨h1, h2⟩]
  simp [h3, h4, Nat.not_le.2 h5]

/-- Where an engine acts. -/
theorem State.onEngine_runs (s : State) (g : Nat) (j : Job) (f : Cell → Job → State) (h : s.engineRuns g j) :
    s.onEngine g f = f (s.cell g) j := by
  obtain ⟨h1, h2, h3⟩ := h
  unfold State.onEngine
  rw [(Cell.running_some _ _).2 ⟨h1, h2⟩]
  simp [h3]

/-- Where a vector operation acts. -/
theorem State.onVec_next (s : State) (g lo hi : Nat) (j : Job) (w : VWord) (f : Cell → Job → VWord → State) (h : s.vecNext g j w) :
    s.onVec g lo hi f = if lo ≤ w.op && w.op ≤ hi then f (s.cell g) j w else s := by
  obtain ⟨h1, q, h2, h3⟩ := h
  unfold State.onVec
  rw [State.onEngine_runs s g j _ h1]
  simp only [h2, h3]

/-- Where a thread's instruction acts. -/
theorem State.onThread_runs (s : State) (g b t : Nat) (x : Block) (y : Thread) (f : Block → Thread → State) (h : s.threadRuns g b t x y) :
    s.onThread g b t f = f x y := by
  obtain ⟨h1, h2, h3, h4, h5⟩ := h
  unfold State.onThread
  simp [h1, h2, h3, h4, h5]

/-- Where the effect of a started command begins. -/
theorem State.onStarted_runs (s : State) (r : Nat) (q : Word) (opcode : Nat) (c : Cmd) (f : Cmd → State) (h : s.cmd r q = some c)
    (h1 : c.stage = .started) (h2 : c.opcode = opcode) (h3 : c.stall = none) (h4 : s.fatal = false) :
    s.onStarted r q opcode f = f c := by
  unfold State.onStarted
  simp [h, h1, h2, h3, h4]

/-- An item that has not ended ends. -/
theorem State.endItem_runs (s : State) (g : Nat) (j : Job) (st : Status) (h : (s.cell g).job = some j) (h1 : j.ended = none) :
    s.endItem g st = (s.setCell g { (s.cell g).abandon with
      job := some { j with ended := some st }, core := { (s.cell g).core with wait := .running } }).clearHalt g := by
  unfold State.endItem
  simp [h, h1]

/-- A command that is in progress under a ring and sequence carries them. -/
theorem State.cmd_some (s : State) (r : Nat) (q : Word) (c : Cmd) (h : s.cmd r q = some c) : c.ring = r ∧ c.seq = q := by
  have h := List.find?_some h
  simpa using h

/-- What the command under a ring and sequence is after a change of it. -/
theorem State.setCmd_cmd (s : State) (r : Nat) (q : Word) (c x : Cmd) (h : s.cmd r q = some c) (h1 : x.ring = r) (h2 : x.seq = q) :
    (s.setCmd x).cmd r q = some x := by
  unfold State.cmd at h
  show List.find? _ (List.map _ _) = _
  generalize s.cmds = l at h
  induction l with
  | nil => simp at h
  | cons a l ih =>
    simp only [List.map_cons, List.find?_cons] at h ⊢
    by_cases e : a.ring = r ∧ a.seq = q
    · simp [e.1, e.2, h1, h2]
    · have e' : (a.ring == r && a.seq == q) = false := by simpa using e
      simp only [e'] at h
      simp only [h1, h2, e']
      simpa [h1, h2, e'] using ih h

/-- Every other command stays as it was. -/
theorem State.setCmd_cmd_ne (s : State) (r : Nat) (q : Word) (x : Cmd) (h : ¬(x.ring = r ∧ x.seq = q)) :
    (s.setCmd x).cmd r q = s.cmd r q := by
  show List.find? _ (List.map _ _) = List.find? _ _
  generalize s.cmds = l
  induction l with
  | nil => rfl
  | cons a l ih =>
    simp only [List.map_cons, List.find?_cons]
    by_cases e : a.ring = x.ring ∧ a.seq = x.seq
    · have e' : (a.ring == r && a.seq == q) = false := by
        rw [e.1, e.2]; simpa using h
      have e2 : (x.ring == r && x.seq == q) = false := by simpa using h
      simp only [e.1, e.2, BEq.rfl, Bool.and_self, if_true, e2]
      simpa [e.1, e.2] using ih
    · have e' : (a.ring == x.ring && a.seq == x.seq) = false := by simpa using e
      simp only [e']
      by_cases e3 : (a.ring == r && a.seq == q) = true
      · simp [e3]
      · simp only [Bool.not_eq_true] at e3
        simpa [e3] using ih

/-- What is in progress once a command is gone. -/
theorem State.dropCmd_cmd (s : State) (r : Nat) (q : Word) : (s.dropCmd r q).cmd r q = none := by
  show List.find? _ (List.filter _ _) = _
  simp only [List.find?_eq_none, List.mem_filter]
  rintro x ⟨-, hx⟩
  simpa [Classical.or_iff_not_imp_left] using hx

/-- What a register of a control core reads after a write of one. -/
theorem ControlCore.get_set (k : ControlCore) (r q : Nat) (v : DWord) :
    (k.set r v).get q = if q = r ∧ r ≠ 0 then v else k.get q := by
  unfold ControlCore.set ControlCore.get
  by_cases hr : r = 0
  · simp [hr]
  · by_cases hq : q = 0
    · simp [hr, hq]; intro e; exact absurd e.symm hr
    · simp [hr, hq, tabGet_set]

/-- What x0 reads. -/
@[simp] theorem ControlCore.get_zero (k : ControlCore) : k.get 0 = 0 := rfl

/-- What else a register write leaves. -/
@[simp] theorem ControlCore.set_fields (k : ControlCore) (r : Nat) (v : DWord) :
    (k.set r v).pc = k.pc ∧ (k.set r v).started = k.started ∧ (k.set r v).instret = k.instret ∧ (k.set r v).wait = k.wait ∧
    (k.set r v).fenced = k.fenced := by
  unfold ControlCore.set; split <;> exact ⟨rfl, rfl, rfl, rfl, rfl⟩

/-- What the registers read after an instruction retires. -/
theorem ControlCore.get_retire (k : ControlCore) (rd q n : Nat) (v : DWord) :
    (k.retire rd v n).get q = if q = rd ∧ rd ≠ 0 then v else k.get q := ControlCore.get_set k rd q v

@[simp] theorem ControlCore.retire_fields (k : ControlCore) (rd n : Nat) (v : DWord) :
    (k.retire rd v n).pc = k.pc + BitVec.ofNat 64 n ∧ (k.retire rd v n).instret = k.instret + 1 ∧ (k.retire rd v n).started = k.started ∧
    (k.retire rd v n).wait = k.wait ∧ (k.retire rd v n).fenced = k.fenced := by
  unfold ControlCore.retire; simp

/-- Where the item of a command may still be found after its engines drop their work. -/
@[simp] theorem Cell.abandon_fields (c : Cell) :
    c.abandon.job = c.job ∧ c.abandon.core = c.core ∧ c.abandon.mem = c.mem ∧ c.abandon.part = c.part ∧ c.abandon.lastCid = c.lastCid ∧
    c.abandon.blocks = c.blocks ∧ c.abandon.kernel = c.kernel ∧ c.abandon.dq = c.dq := ⟨rfl, rfl, rfl, rfl, rfl, rfl, rfl, rfl⟩

/-- What the other tables keep when a key becomes present. -/
theorem tabFind_put {α : Type} (t : Tab α) (k j : Nat) (v : α) : tabFind (tabPut t k v) j = if j = k then some v else tabFind t j := by
  unfold tabPut
  have key : ∀ l : Tab α, (∀ p ∈ l, p.1 ≠ k) → tabFind (tabInsert k v l) j = if j = k then some v else tabFind l j := by
    intro l
    induction l with
    | nil => intro _; simp only [tabInsert, tabFind]; by_cases h : k = j <;> simp [h, eq_comm]
    | cons p l ih =>
      intro h
      obtain ⟨a, b⟩ := p
      have h1 : a ≠ k := h _ (List.mem_cons_self ..)
      have h2 := ih fun q hq => h q (List.mem_cons_of_mem _ hq)
      simp only [tabInsert]
      split
      · simp only [tabFind]; by_cases e : k = j
        · simp [e]
        · simp [e, Ne.symm e]
      · simp only [tabFind]; rw [h2]
        by_cases e : a = j
        · subst e; simp [h1]
        · simp [e]
  rw [key _ (tabErase_absent t k)]
  by_cases e : j = k
  · simp [e]
  · simp only [e, if_false]
    unfold tabErase
    induction t with
    | nil => rfl
    | cons p t ih =>
      obtain ⟨a, b⟩ := p
      by_cases h : a = k
      · subst h; simpa [tabFind, Ne.symm e] using ih
      · simp only [ne_eq, h, not_false_eq_true, decide_true, List.filter_cons_of_pos, tabFind]; rw [ih]


theorem State.setRegBit_only (s : State) (a b : Nat) : ∃ x0, s.setRegBit a b = { s with regs := x0 } := ⟨_, rfl⟩

@[simp] theorem State.setRegBit_fields (s : State) (a b : Nat) :
   (s.setRegBit a b).pending = s.pending ∧ (s.setRegBit a b).phase = s.phase ∧ (s.setRegBit a b).pins = s.pins ∧
    (s.setRegBit a b).flash = s.flash ∧ (s.setRegBit a b).bring = s.bring ∧ (s.setRegBit a b).time = s.time ∧
    (s.setRegBit a b).fresh = s.fresh ∧ (s.setRegBit a b).mem = s.mem ∧ (s.setRegBit a b).own = s.own ∧
    (s.setRegBit a b).shadow = s.shadow ∧ (s.setRegBit a b).latch = s.latch ∧ (s.setRegBit a b).held = s.held ∧
    (s.setRegBit a b).tierB0 = s.tierB0 ∧ (s.setRegBit a b).tierB1 = s.tierB1 ∧ (s.setRegBit a b).degradeGen = s.degradeGen ∧
    (s.setRegBit a b).svc = s.svc ∧ (s.setRegBit a b).fatal = s.fatal ∧ (s.setRegBit a b).released = s.released ∧
    (s.setRegBit a b).hosts = s.hosts ∧ (s.setRegBit a b).cells = s.cells ∧ (s.setRegBit a b).ochres = s.ochres ∧
    (s.setRegBit a b).logs = s.logs ∧ (s.setRegBit a b).rings = s.rings ∧ (s.setRegBit a b).cmds = s.cmds ∧
    (s.setRegBit a b).ctxs = s.ctxs ∧ (s.setRegBit a b).soVal = s.soVal ∧ (s.setRegBit a b).soOwn = s.soOwn ∧
    (s.setRegBit a b).soBad = s.soBad ∧ (s.setRegBit a b).cellErr = s.cellErr ∧ (s.setRegBit a b).fatalRecs = s.fatalRecs ∧
    (s.setRegBit a b).hbm = s.hbm ∧ (s.setRegBit a b).coh = s.coh ∧ (s.setRegBit a b).links = s.links ∧ (s.setRegBit a b).fab = s.fab ∧
    (s.setRegBit a b).roots = s.roots ∧ (s.setRegBit a b).qps = s.qps ∧ (s.setRegBit a b).front = s.front ∧
    (s.setRegBit a b).power = s.power ∧ (s.setRegBit a b).sec = s.sec ∧ (s.setRegBit a b).warm = s.warm ∧ (s.setRegBit a b).xlt = s.xlt ∧
    (s.setRegBit a b).mc = s.mc ∧ (s.setRegBit a b).irqs = s.irqs := by
  obtain ⟨x0, h⟩ := State.setRegBit_only s a b
  rw [h]
  exact ⟨rfl, rfl, rfl, rfl, rfl, rfl, rfl, rfl, rfl, rfl, rfl, rfl, rfl, rfl, rfl, rfl, rfl, rfl, rfl, rfl, rfl, rfl, rfl, rfl, rfl, rfl, rfl, rfl, rfl, rfl, rfl, rfl, rfl, rfl, rfl, rfl, rfl, rfl, rfl, rfl, rfl, rfl, rfl⟩

@[simp] theorem State.setRegBit_parts (s : State) (a b : Nat) :
   (∀ i, (s.setRegBit a b).host i = s.host i) ∧ (∀ i, (s.setRegBit a b).cell i = s.cell i) ∧
    (∀ i, (s.setRegBit a b).ochre i = s.ochre i) ∧ (∀ i, (s.setRegBit a b).log i = s.log i) ∧ (∀ i, (s.setRegBit a b).ring i = s.ring i) ∧
    (∀ cid, (s.setRegBit a b).ctx cid = s.ctx cid) ∧ (∀ i, (s.setRegBit a b).root i = s.root i) ∧
    (∀ i j, (s.setRegBit a b).qp i j = s.qp i j) ∧ (∀ i, (s.setRegBit a b).link i = s.link i) ∧
    (∀ i, (s.setRegBit a b).port i = s.port i) ∧ (∀ i, (s.setRegBit a b).gust i = s.gust i) ∧
    (∀ i, (s.setRegBit a b).shadowOf i = s.shadowOf i) ∧ (∀ i q, (s.setRegBit a b).cmd i q = s.cmd i q) ∧
    (∀ i, (s.setRegBit a b).so i = s.so i) ∧ (∀ i, (s.setRegBit a b).soOwner i = s.soOwner i) ∧
    (∀ i, (s.setRegBit a b).soBroken i = s.soBroken i) ∧ (∀ i, (s.setRegBit a b).owner i = s.owner i) ∧
    (∀ i, (s.setRegBit a b).chan i = s.chan i) ∧ (∀ i j, (s.setRegBit a b).band i j = s.band i j) ∧
    (∀ i, (s.setRegBit a b).readByte i = s.readByte i) ∧ (∀ i, (s.setRegBit a b).dirEntry i = s.dirEntry i) := by
  obtain ⟨x0, h⟩ := State.setRegBit_only s a b
  rw [h]
  exact ⟨fun _ => rfl, fun _ => rfl, fun _ => rfl, fun _ => rfl, fun _ => rfl, fun _ => rfl, fun _ => rfl, fun _ _ => rfl, fun _ => rfl, fun _ => rfl, fun _ => rfl, fun _ => rfl, fun _ _ => rfl, fun _ => rfl, fun _ => rfl, fun _ => rfl, fun _ => rfl, fun _ => rfl, fun _ _ => rfl, fun _ => rfl, fun _ => rfl⟩

theorem State.setLongOvf_only (s : State) (d : Nat) : ∃ x0, s.setLongOvf d = { s with regs := x0 } := ⟨_, rfl⟩

@[simp] theorem State.setLongOvf_fields (s : State) (d : Nat) :
   (s.setLongOvf d).pending = s.pending ∧ (s.setLongOvf d).phase = s.phase ∧ (s.setLongOvf d).pins = s.pins ∧
    (s.setLongOvf d).flash = s.flash ∧ (s.setLongOvf d).bring = s.bring ∧ (s.setLongOvf d).time = s.time ∧
    (s.setLongOvf d).fresh = s.fresh ∧ (s.setLongOvf d).mem = s.mem ∧ (s.setLongOvf d).own = s.own ∧ (s.setLongOvf d).shadow = s.shadow ∧
    (s.setLongOvf d).latch = s.latch ∧ (s.setLongOvf d).held = s.held ∧ (s.setLongOvf d).tierB0 = s.tierB0 ∧
    (s.setLongOvf d).tierB1 = s.tierB1 ∧ (s.setLongOvf d).degradeGen = s.degradeGen ∧ (s.setLongOvf d).svc = s.svc ∧
    (s.setLongOvf d).fatal = s.fatal ∧ (s.setLongOvf d).released = s.released ∧ (s.setLongOvf d).hosts = s.hosts ∧
    (s.setLongOvf d).cells = s.cells ∧ (s.setLongOvf d).ochres = s.ochres ∧ (s.setLongOvf d).logs = s.logs ∧
    (s.setLongOvf d).rings = s.rings ∧ (s.setLongOvf d).cmds = s.cmds ∧ (s.setLongOvf d).ctxs = s.ctxs ∧
    (s.setLongOvf d).soVal = s.soVal ∧ (s.setLongOvf d).soOwn = s.soOwn ∧ (s.setLongOvf d).soBad = s.soBad ∧
    (s.setLongOvf d).cellErr = s.cellErr ∧ (s.setLongOvf d).fatalRecs = s.fatalRecs ∧ (s.setLongOvf d).hbm = s.hbm ∧
    (s.setLongOvf d).coh = s.coh ∧ (s.setLongOvf d).links = s.links ∧ (s.setLongOvf d).fab = s.fab ∧ (s.setLongOvf d).roots = s.roots ∧
    (s.setLongOvf d).qps = s.qps ∧ (s.setLongOvf d).front = s.front ∧ (s.setLongOvf d).power = s.power ∧ (s.setLongOvf d).sec = s.sec ∧
    (s.setLongOvf d).warm = s.warm ∧ (s.setLongOvf d).xlt = s.xlt ∧ (s.setLongOvf d).mc = s.mc ∧ (s.setLongOvf d).irqs = s.irqs := by
  obtain ⟨x0, h⟩ := State.setLongOvf_only s d
  rw [h]
  exact ⟨rfl, rfl, rfl, rfl, rfl, rfl, rfl, rfl, rfl, rfl, rfl, rfl, rfl, rfl, rfl, rfl, rfl, rfl, rfl, rfl, rfl, rfl, rfl, rfl, rfl, rfl, rfl, rfl, rfl, rfl, rfl, rfl, rfl, rfl, rfl, rfl, rfl, rfl, rfl, rfl, rfl, rfl, rfl⟩

@[simp] theorem State.setLongOvf_parts (s : State) (d : Nat) :
   (∀ i, (s.setLongOvf d).host i = s.host i) ∧ (∀ i, (s.setLongOvf d).cell i = s.cell i) ∧ (∀ i, (s.setLongOvf d).ochre i = s.ochre i) ∧
    (∀ i, (s.setLongOvf d).log i = s.log i) ∧ (∀ i, (s.setLongOvf d).ring i = s.ring i) ∧ (∀ cid, (s.setLongOvf d).ctx cid = s.ctx cid) ∧
    (∀ i, (s.setLongOvf d).root i = s.root i) ∧ (∀ i j, (s.setLongOvf d).qp i j = s.qp i j) ∧ (∀ i, (s.setLongOvf d).link i = s.link i) ∧
    (∀ i, (s.setLongOvf d).port i = s.port i) ∧ (∀ i, (s.setLongOvf d).gust i = s.gust i) ∧
    (∀ i, (s.setLongOvf d).shadowOf i = s.shadowOf i) ∧ (∀ i q, (s.setLongOvf d).cmd i q = s.cmd i q) ∧
    (∀ i, (s.setLongOvf d).so i = s.so i) ∧ (∀ i, (s.setLongOvf d).soOwner i = s.soOwner i) ∧
    (∀ i, (s.setLongOvf d).soBroken i = s.soBroken i) ∧ (∀ i, (s.setLongOvf d).owner i = s.owner i) ∧
    (∀ i, (s.setLongOvf d).chan i = s.chan i) ∧ (∀ i j, (s.setLongOvf d).band i j = s.band i j) ∧
    (∀ i, (s.setLongOvf d).readByte i = s.readByte i) ∧ (∀ i, (s.setLongOvf d).dirEntry i = s.dirEntry i) := by
  obtain ⟨x0, h⟩ := State.setLongOvf_only s d
  rw [h]
  exact ⟨fun _ => rfl, fun _ => rfl, fun _ => rfl, fun _ => rfl, fun _ => rfl, fun _ => rfl, fun _ => rfl, fun _ _ => rfl, fun _ => rfl, fun _ => rfl, fun _ => rfl, fun _ => rfl, fun _ _ => rfl, fun _ => rfl, fun _ => rfl, fun _ => rfl, fun _ => rfl, fun _ => rfl, fun _ _ => rfl, fun _ => rfl, fun _ => rfl⟩

theorem State.setSliceNf_only (s : State) (d : Nat) : ∃ x0, s.setSliceNf d = { s with regs := x0 } := ⟨_, rfl⟩

@[simp] theorem State.setSliceNf_fields (s : State) (d : Nat) :
   (s.setSliceNf d).pending = s.pending ∧ (s.setSliceNf d).phase = s.phase ∧ (s.setSliceNf d).pins = s.pins ∧
    (s.setSliceNf d).flash = s.flash ∧ (s.setSliceNf d).bring = s.bring ∧ (s.setSliceNf d).time = s.time ∧
    (s.setSliceNf d).fresh = s.fresh ∧ (s.setSliceNf d).mem = s.mem ∧ (s.setSliceNf d).own = s.own ∧ (s.setSliceNf d).shadow = s.shadow ∧
    (s.setSliceNf d).latch = s.latch ∧ (s.setSliceNf d).held = s.held ∧ (s.setSliceNf d).tierB0 = s.tierB0 ∧
    (s.setSliceNf d).tierB1 = s.tierB1 ∧ (s.setSliceNf d).degradeGen = s.degradeGen ∧ (s.setSliceNf d).svc = s.svc ∧
    (s.setSliceNf d).fatal = s.fatal ∧ (s.setSliceNf d).released = s.released ∧ (s.setSliceNf d).hosts = s.hosts ∧
    (s.setSliceNf d).cells = s.cells ∧ (s.setSliceNf d).ochres = s.ochres ∧ (s.setSliceNf d).logs = s.logs ∧
    (s.setSliceNf d).rings = s.rings ∧ (s.setSliceNf d).cmds = s.cmds ∧ (s.setSliceNf d).ctxs = s.ctxs ∧
    (s.setSliceNf d).soVal = s.soVal ∧ (s.setSliceNf d).soOwn = s.soOwn ∧ (s.setSliceNf d).soBad = s.soBad ∧
    (s.setSliceNf d).cellErr = s.cellErr ∧ (s.setSliceNf d).fatalRecs = s.fatalRecs ∧ (s.setSliceNf d).hbm = s.hbm ∧
    (s.setSliceNf d).coh = s.coh ∧ (s.setSliceNf d).links = s.links ∧ (s.setSliceNf d).fab = s.fab ∧ (s.setSliceNf d).roots = s.roots ∧
    (s.setSliceNf d).qps = s.qps ∧ (s.setSliceNf d).front = s.front ∧ (s.setSliceNf d).power = s.power ∧ (s.setSliceNf d).sec = s.sec ∧
    (s.setSliceNf d).warm = s.warm ∧ (s.setSliceNf d).xlt = s.xlt ∧ (s.setSliceNf d).mc = s.mc ∧ (s.setSliceNf d).irqs = s.irqs := by
  obtain ⟨x0, h⟩ := State.setSliceNf_only s d
  rw [h]
  exact ⟨rfl, rfl, rfl, rfl, rfl, rfl, rfl, rfl, rfl, rfl, rfl, rfl, rfl, rfl, rfl, rfl, rfl, rfl, rfl, rfl, rfl, rfl, rfl, rfl, rfl, rfl, rfl, rfl, rfl, rfl, rfl, rfl, rfl, rfl, rfl, rfl, rfl, rfl, rfl, rfl, rfl, rfl, rfl⟩

@[simp] theorem State.setSliceNf_parts (s : State) (d : Nat) :
   (∀ i, (s.setSliceNf d).host i = s.host i) ∧ (∀ i, (s.setSliceNf d).cell i = s.cell i) ∧ (∀ i, (s.setSliceNf d).ochre i = s.ochre i) ∧
    (∀ i, (s.setSliceNf d).log i = s.log i) ∧ (∀ i, (s.setSliceNf d).ring i = s.ring i) ∧ (∀ cid, (s.setSliceNf d).ctx cid = s.ctx cid) ∧
    (∀ i, (s.setSliceNf d).root i = s.root i) ∧ (∀ i j, (s.setSliceNf d).qp i j = s.qp i j) ∧ (∀ i, (s.setSliceNf d).link i = s.link i) ∧
    (∀ i, (s.setSliceNf d).port i = s.port i) ∧ (∀ i, (s.setSliceNf d).gust i = s.gust i) ∧
    (∀ i, (s.setSliceNf d).shadowOf i = s.shadowOf i) ∧ (∀ i q, (s.setSliceNf d).cmd i q = s.cmd i q) ∧
    (∀ i, (s.setSliceNf d).so i = s.so i) ∧ (∀ i, (s.setSliceNf d).soOwner i = s.soOwner i) ∧
    (∀ i, (s.setSliceNf d).soBroken i = s.soBroken i) ∧ (∀ i, (s.setSliceNf d).owner i = s.owner i) ∧
    (∀ i, (s.setSliceNf d).chan i = s.chan i) ∧ (∀ i j, (s.setSliceNf d).band i j = s.band i j) ∧
    (∀ i, (s.setSliceNf d).readByte i = s.readByte i) ∧ (∀ i, (s.setSliceNf d).dirEntry i = s.dirEntry i) := by
  obtain ⟨x0, h⟩ := State.setSliceNf_only s d
  rw [h]
  exact ⟨fun _ => rfl, fun _ => rfl, fun _ => rfl, fun _ => rfl, fun _ => rfl, fun _ => rfl, fun _ => rfl, fun _ _ => rfl, fun _ => rfl, fun _ => rfl, fun _ => rfl, fun _ => rfl, fun _ _ => rfl, fun _ => rfl, fun _ => rfl, fun _ => rfl, fun _ => rfl, fun _ => rfl, fun _ _ => rfl, fun _ => rfl, fun _ => rfl⟩

theorem State.setWrFail_only (s : State) (d : Nat) : ∃ x0, s.setWrFail d = { s with regs := x0 } := ⟨_, rfl⟩

@[simp] theorem State.setWrFail_fields (s : State) (d : Nat) :
   (s.setWrFail d).pending = s.pending ∧ (s.setWrFail d).phase = s.phase ∧ (s.setWrFail d).pins = s.pins ∧
    (s.setWrFail d).flash = s.flash ∧ (s.setWrFail d).bring = s.bring ∧ (s.setWrFail d).time = s.time ∧ (s.setWrFail d).fresh = s.fresh ∧
    (s.setWrFail d).mem = s.mem ∧ (s.setWrFail d).own = s.own ∧ (s.setWrFail d).shadow = s.shadow ∧ (s.setWrFail d).latch = s.latch ∧
    (s.setWrFail d).held = s.held ∧ (s.setWrFail d).tierB0 = s.tierB0 ∧ (s.setWrFail d).tierB1 = s.tierB1 ∧
    (s.setWrFail d).degradeGen = s.degradeGen ∧ (s.setWrFail d).svc = s.svc ∧ (s.setWrFail d).fatal = s.fatal ∧
    (s.setWrFail d).released = s.released ∧ (s.setWrFail d).hosts = s.hosts ∧ (s.setWrFail d).cells = s.cells ∧
    (s.setWrFail d).ochres = s.ochres ∧ (s.setWrFail d).logs = s.logs ∧ (s.setWrFail d).rings = s.rings ∧ (s.setWrFail d).cmds = s.cmds ∧
    (s.setWrFail d).ctxs = s.ctxs ∧ (s.setWrFail d).soVal = s.soVal ∧ (s.setWrFail d).soOwn = s.soOwn ∧ (s.setWrFail d).soBad = s.soBad ∧
    (s.setWrFail d).cellErr = s.cellErr ∧ (s.setWrFail d).fatalRecs = s.fatalRecs ∧ (s.setWrFail d).hbm = s.hbm ∧
    (s.setWrFail d).coh = s.coh ∧ (s.setWrFail d).links = s.links ∧ (s.setWrFail d).fab = s.fab ∧ (s.setWrFail d).roots = s.roots ∧
    (s.setWrFail d).qps = s.qps ∧ (s.setWrFail d).front = s.front ∧ (s.setWrFail d).power = s.power ∧ (s.setWrFail d).sec = s.sec ∧
    (s.setWrFail d).warm = s.warm ∧ (s.setWrFail d).xlt = s.xlt ∧ (s.setWrFail d).mc = s.mc ∧ (s.setWrFail d).irqs = s.irqs := by
  obtain ⟨x0, h⟩ := State.setWrFail_only s d
  rw [h]
  exact ⟨rfl, rfl, rfl, rfl, rfl, rfl, rfl, rfl, rfl, rfl, rfl, rfl, rfl, rfl, rfl, rfl, rfl, rfl, rfl, rfl, rfl, rfl, rfl, rfl, rfl, rfl, rfl, rfl, rfl, rfl, rfl, rfl, rfl, rfl, rfl, rfl, rfl, rfl, rfl, rfl, rfl, rfl, rfl⟩

@[simp] theorem State.setWrFail_parts (s : State) (d : Nat) :
   (∀ i, (s.setWrFail d).host i = s.host i) ∧ (∀ i, (s.setWrFail d).cell i = s.cell i) ∧ (∀ i, (s.setWrFail d).ochre i = s.ochre i) ∧
    (∀ i, (s.setWrFail d).log i = s.log i) ∧ (∀ i, (s.setWrFail d).ring i = s.ring i) ∧ (∀ cid, (s.setWrFail d).ctx cid = s.ctx cid) ∧
    (∀ i, (s.setWrFail d).root i = s.root i) ∧ (∀ i j, (s.setWrFail d).qp i j = s.qp i j) ∧ (∀ i, (s.setWrFail d).link i = s.link i) ∧
    (∀ i, (s.setWrFail d).port i = s.port i) ∧ (∀ i, (s.setWrFail d).gust i = s.gust i) ∧
    (∀ i, (s.setWrFail d).shadowOf i = s.shadowOf i) ∧ (∀ i q, (s.setWrFail d).cmd i q = s.cmd i q) ∧
    (∀ i, (s.setWrFail d).so i = s.so i) ∧ (∀ i, (s.setWrFail d).soOwner i = s.soOwner i) ∧
    (∀ i, (s.setWrFail d).soBroken i = s.soBroken i) ∧ (∀ i, (s.setWrFail d).owner i = s.owner i) ∧
    (∀ i, (s.setWrFail d).chan i = s.chan i) ∧ (∀ i j, (s.setWrFail d).band i j = s.band i j) ∧
    (∀ i, (s.setWrFail d).readByte i = s.readByte i) ∧ (∀ i, (s.setWrFail d).dirEntry i = s.dirEntry i) := by
  obtain ⟨x0, h⟩ := State.setWrFail_only s d
  rw [h]
  exact ⟨fun _ => rfl, fun _ => rfl, fun _ => rfl, fun _ => rfl, fun _ => rfl, fun _ => rfl, fun _ => rfl, fun _ _ => rfl, fun _ => rfl, fun _ => rfl, fun _ => rfl, fun _ => rfl, fun _ _ => rfl, fun _ => rfl, fun _ => rfl, fun _ => rfl, fun _ => rfl, fun _ => rfl, fun _ _ => rfl, fun _ => rfl, fun _ => rfl⟩

theorem State.setTwCollide_only (s : State) (d : Nat) : ∃ x0, s.setTwCollide d = { s with regs := x0 } := ⟨_, rfl⟩

@[simp] theorem State.setTwCollide_fields (s : State) (d : Nat) :
   (s.setTwCollide d).pending = s.pending ∧ (s.setTwCollide d).phase = s.phase ∧ (s.setTwCollide d).pins = s.pins ∧
    (s.setTwCollide d).flash = s.flash ∧ (s.setTwCollide d).bring = s.bring ∧ (s.setTwCollide d).time = s.time ∧
    (s.setTwCollide d).fresh = s.fresh ∧ (s.setTwCollide d).mem = s.mem ∧ (s.setTwCollide d).own = s.own ∧
    (s.setTwCollide d).shadow = s.shadow ∧ (s.setTwCollide d).latch = s.latch ∧ (s.setTwCollide d).held = s.held ∧
    (s.setTwCollide d).tierB0 = s.tierB0 ∧ (s.setTwCollide d).tierB1 = s.tierB1 ∧ (s.setTwCollide d).degradeGen = s.degradeGen ∧
    (s.setTwCollide d).svc = s.svc ∧ (s.setTwCollide d).fatal = s.fatal ∧ (s.setTwCollide d).released = s.released ∧
    (s.setTwCollide d).hosts = s.hosts ∧ (s.setTwCollide d).cells = s.cells ∧ (s.setTwCollide d).ochres = s.ochres ∧
    (s.setTwCollide d).logs = s.logs ∧ (s.setTwCollide d).rings = s.rings ∧ (s.setTwCollide d).cmds = s.cmds ∧
    (s.setTwCollide d).ctxs = s.ctxs ∧ (s.setTwCollide d).soVal = s.soVal ∧ (s.setTwCollide d).soOwn = s.soOwn ∧
    (s.setTwCollide d).soBad = s.soBad ∧ (s.setTwCollide d).cellErr = s.cellErr ∧ (s.setTwCollide d).fatalRecs = s.fatalRecs ∧
    (s.setTwCollide d).hbm = s.hbm ∧ (s.setTwCollide d).coh = s.coh ∧ (s.setTwCollide d).links = s.links ∧
    (s.setTwCollide d).fab = s.fab ∧ (s.setTwCollide d).roots = s.roots ∧ (s.setTwCollide d).qps = s.qps ∧
    (s.setTwCollide d).front = s.front ∧ (s.setTwCollide d).power = s.power ∧ (s.setTwCollide d).sec = s.sec ∧
    (s.setTwCollide d).warm = s.warm ∧ (s.setTwCollide d).xlt = s.xlt ∧ (s.setTwCollide d).mc = s.mc ∧ (s.setTwCollide d).irqs = s.irqs := by
  obtain ⟨x0, h⟩ := State.setTwCollide_only s d
  rw [h]
  exact ⟨rfl, rfl, rfl, rfl, rfl, rfl, rfl, rfl, rfl, rfl, rfl, rfl, rfl, rfl, rfl, rfl, rfl, rfl, rfl, rfl, rfl, rfl, rfl, rfl, rfl, rfl, rfl, rfl, rfl, rfl, rfl, rfl, rfl, rfl, rfl, rfl, rfl, rfl, rfl, rfl, rfl, rfl, rfl⟩

@[simp] theorem State.setTwCollide_parts (s : State) (d : Nat) :
   (∀ i, (s.setTwCollide d).host i = s.host i) ∧ (∀ i, (s.setTwCollide d).cell i = s.cell i) ∧
    (∀ i, (s.setTwCollide d).ochre i = s.ochre i) ∧ (∀ i, (s.setTwCollide d).log i = s.log i) ∧
    (∀ i, (s.setTwCollide d).ring i = s.ring i) ∧ (∀ cid, (s.setTwCollide d).ctx cid = s.ctx cid) ∧
    (∀ i, (s.setTwCollide d).root i = s.root i) ∧ (∀ i j, (s.setTwCollide d).qp i j = s.qp i j) ∧
    (∀ i, (s.setTwCollide d).link i = s.link i) ∧ (∀ i, (s.setTwCollide d).port i = s.port i) ∧
    (∀ i, (s.setTwCollide d).gust i = s.gust i) ∧ (∀ i, (s.setTwCollide d).shadowOf i = s.shadowOf i) ∧
    (∀ i q, (s.setTwCollide d).cmd i q = s.cmd i q) ∧ (∀ i, (s.setTwCollide d).so i = s.so i) ∧
    (∀ i, (s.setTwCollide d).soOwner i = s.soOwner i) ∧ (∀ i, (s.setTwCollide d).soBroken i = s.soBroken i) ∧
    (∀ i, (s.setTwCollide d).owner i = s.owner i) ∧ (∀ i, (s.setTwCollide d).chan i = s.chan i) ∧
    (∀ i j, (s.setTwCollide d).band i j = s.band i j) ∧ (∀ i, (s.setTwCollide d).readByte i = s.readByte i) ∧
    (∀ i, (s.setTwCollide d).dirEntry i = s.dirEntry i) := by
  obtain ⟨x0, h⟩ := State.setTwCollide_only s d
  rw [h]
  exact ⟨fun _ => rfl, fun _ => rfl, fun _ => rfl, fun _ => rfl, fun _ => rfl, fun _ => rfl, fun _ => rfl, fun _ _ => rfl, fun _ => rfl, fun _ => rfl, fun _ => rfl, fun _ => rfl, fun _ _ => rfl, fun _ => rfl, fun _ => rfl, fun _ => rfl, fun _ => rfl, fun _ => rfl, fun _ _ => rfl, fun _ => rfl, fun _ => rfl⟩

theorem State.clearHalt_only (s : State) (g : Nat) : ∃ x0, s.clearHalt g = { s with ochres := x0 } := ⟨_, rfl⟩

@[simp] theorem State.clearHalt_fields (s : State) (g : Nat) :
   (s.clearHalt g).pending = s.pending ∧ (s.clearHalt g).phase = s.phase ∧ (s.clearHalt g).pins = s.pins ∧
    (s.clearHalt g).flash = s.flash ∧ (s.clearHalt g).bring = s.bring ∧ (s.clearHalt g).time = s.time ∧ (s.clearHalt g).fresh = s.fresh ∧
    (s.clearHalt g).mem = s.mem ∧ (s.clearHalt g).own = s.own ∧ (s.clearHalt g).regs = s.regs ∧ (s.clearHalt g).shadow = s.shadow ∧
    (s.clearHalt g).latch = s.latch ∧ (s.clearHalt g).held = s.held ∧ (s.clearHalt g).tierB0 = s.tierB0 ∧
    (s.clearHalt g).tierB1 = s.tierB1 ∧ (s.clearHalt g).degradeGen = s.degradeGen ∧ (s.clearHalt g).svc = s.svc ∧
    (s.clearHalt g).fatal = s.fatal ∧ (s.clearHalt g).released = s.released ∧ (s.clearHalt g).hosts = s.hosts ∧
    (s.clearHalt g).cells = s.cells ∧ (s.clearHalt g).logs = s.logs ∧ (s.clearHalt g).rings = s.rings ∧ (s.clearHalt g).cmds = s.cmds ∧
    (s.clearHalt g).ctxs = s.ctxs ∧ (s.clearHalt g).soVal = s.soVal ∧ (s.clearHalt g).soOwn = s.soOwn ∧ (s.clearHalt g).soBad = s.soBad ∧
    (s.clearHalt g).cellErr = s.cellErr ∧ (s.clearHalt g).fatalRecs = s.fatalRecs ∧ (s.clearHalt g).hbm = s.hbm ∧
    (s.clearHalt g).coh = s.coh ∧ (s.clearHalt g).links = s.links ∧ (s.clearHalt g).fab = s.fab ∧ (s.clearHalt g).roots = s.roots ∧
    (s.clearHalt g).qps = s.qps ∧ (s.clearHalt g).front = s.front ∧ (s.clearHalt g).power = s.power ∧ (s.clearHalt g).sec = s.sec ∧
    (s.clearHalt g).warm = s.warm ∧ (s.clearHalt g).xlt = s.xlt ∧ (s.clearHalt g).mc = s.mc ∧ (s.clearHalt g).irqs = s.irqs := by
  obtain ⟨x0, h⟩ := State.clearHalt_only s g
  rw [h]
  exact ⟨rfl, rfl, rfl, rfl, rfl, rfl, rfl, rfl, rfl, rfl, rfl, rfl, rfl, rfl, rfl, rfl, rfl, rfl, rfl, rfl, rfl, rfl, rfl, rfl, rfl, rfl, rfl, rfl, rfl, rfl, rfl, rfl, rfl, rfl, rfl, rfl, rfl, rfl, rfl, rfl, rfl, rfl, rfl⟩

@[simp] theorem State.clearHalt_parts (s : State) (g : Nat) :
   (∀ i, (s.clearHalt g).host i = s.host i) ∧ (∀ i, (s.clearHalt g).cell i = s.cell i) ∧ (∀ i, (s.clearHalt g).log i = s.log i) ∧
    (∀ i, (s.clearHalt g).ring i = s.ring i) ∧ (∀ cid, (s.clearHalt g).ctx cid = s.ctx cid) ∧ (∀ i, (s.clearHalt g).root i = s.root i) ∧
    (∀ i j, (s.clearHalt g).qp i j = s.qp i j) ∧ (∀ i, (s.clearHalt g).link i = s.link i) ∧ (∀ i, (s.clearHalt g).port i = s.port i) ∧
    (∀ i, (s.clearHalt g).gust i = s.gust i) ∧ (∀ i, (s.clearHalt g).reg i = s.reg i) ∧ (∀ i, (s.clearHalt g).shadowOf i = s.shadowOf i) ∧
    (∀ i q, (s.clearHalt g).cmd i q = s.cmd i q) ∧ (∀ i, (s.clearHalt g).so i = s.so i) ∧ (∀ i, (s.clearHalt g).soOwner i = s.soOwner i) ∧
    (∀ i, (s.clearHalt g).soBroken i = s.soBroken i) ∧ (∀ i, (s.clearHalt g).owner i = s.owner i) ∧
    (∀ i, (s.clearHalt g).chan i = s.chan i) ∧ (∀ i j, (s.clearHalt g).band i j = s.band i j) ∧
    (∀ i, (s.clearHalt g).readByte i = s.readByte i) ∧ (∀ i, (s.clearHalt g).dirEntry i = s.dirEntry i) := by
  obtain ⟨x0, h⟩ := State.clearHalt_only s g
  rw [h]
  exact ⟨fun _ => rfl, fun _ => rfl, fun _ => rfl, fun _ => rfl, fun _ => rfl, fun _ => rfl, fun _ _ => rfl, fun _ => rfl, fun _ => rfl, fun _ => rfl, fun _ => rfl, fun _ => rfl, fun _ _ => rfl, fun _ => rfl, fun _ => rfl, fun _ => rfl, fun _ => rfl, fun _ => rfl, fun _ _ => rfl, fun _ => rfl, fun _ => rfl⟩

theorem State.endItem_only (s : State) (g : Nat) (st : Status) : ∃ x0 x1, s.endItem g st = { s with cells := x0, ochres := x1 } := by
  unfold State.endItem
  dsimp only
  split
  · exact ⟨_, _, rfl⟩
  · split <;> exact ⟨_, _, rfl⟩

@[simp] theorem State.endItem_fields (s : State) (g : Nat) (st : Status) :
   (s.endItem g st).pending = s.pending ∧ (s.endItem g st).phase = s.phase ∧ (s.endItem g st).pins = s.pins ∧
    (s.endItem g st).flash = s.flash ∧ (s.endItem g st).bring = s.bring ∧ (s.endItem g st).time = s.time ∧
    (s.endItem g st).fresh = s.fresh ∧ (s.endItem g st).mem = s.mem ∧ (s.endItem g st).own = s.own ∧ (s.endItem g st).regs = s.regs ∧
    (s.endItem g st).shadow = s.shadow ∧ (s.endItem g st).latch = s.latch ∧ (s.endItem g st).held = s.held ∧
    (s.endItem g st).tierB0 = s.tierB0 ∧ (s.endItem g st).tierB1 = s.tierB1 ∧ (s.endItem g st).degradeGen = s.degradeGen ∧
    (s.endItem g st).svc = s.svc ∧ (s.endItem g st).fatal = s.fatal ∧ (s.endItem g st).released = s.released ∧
    (s.endItem g st).hosts = s.hosts ∧ (s.endItem g st).logs = s.logs ∧ (s.endItem g st).rings = s.rings ∧
    (s.endItem g st).cmds = s.cmds ∧ (s.endItem g st).ctxs = s.ctxs ∧ (s.endItem g st).soVal = s.soVal ∧
    (s.endItem g st).soOwn = s.soOwn ∧ (s.endItem g st).soBad = s.soBad ∧ (s.endItem g st).cellErr = s.cellErr ∧
    (s.endItem g st).fatalRecs = s.fatalRecs ∧ (s.endItem g st).hbm = s.hbm ∧ (s.endItem g st).coh = s.coh ∧
    (s.endItem g st).links = s.links ∧ (s.endItem g st).fab = s.fab ∧ (s.endItem g st).roots = s.roots ∧ (s.endItem g st).qps = s.qps ∧
    (s.endItem g st).front = s.front ∧ (s.endItem g st).power = s.power ∧ (s.endItem g st).sec = s.sec ∧ (s.endItem g st).warm = s.warm ∧
    (s.endItem g st).xlt = s.xlt ∧ (s.endItem g st).mc = s.mc ∧ (s.endItem g st).irqs = s.irqs := by
  obtain ⟨x0, x1, h⟩ := State.endItem_only s g st
  rw [h]
  exact ⟨rfl, rfl, rfl, rfl, rfl, rfl, rfl, rfl, rfl, rfl, rfl, rfl, rfl, rfl, rfl, rfl, rfl, rfl, rfl, rfl, rfl, rfl, rfl, rfl, rfl, rfl, rfl, rfl, rfl, rfl, rfl, rfl, rfl, rfl, rfl, rfl, rfl, rfl, rfl, rfl, rfl, rfl⟩

@[simp] theorem State.endItem_parts (s : State) (g : Nat) (st : Status) :
   (∀ i, (s.endItem g st).host i = s.host i) ∧ (∀ i, (s.endItem g st).log i = s.log i) ∧ (∀ i, (s.endItem g st).ring i = s.ring i) ∧
    (∀ cid, (s.endItem g st).ctx cid = s.ctx cid) ∧ (∀ i, (s.endItem g st).root i = s.root i) ∧
    (∀ i j, (s.endItem g st).qp i j = s.qp i j) ∧ (∀ i, (s.endItem g st).link i = s.link i) ∧ (∀ i, (s.endItem g st).port i = s.port i) ∧
    (∀ i, (s.endItem g st).gust i = s.gust i) ∧ (∀ i, (s.endItem g st).reg i = s.reg i) ∧
    (∀ i, (s.endItem g st).shadowOf i = s.shadowOf i) ∧ (∀ i q, (s.endItem g st).cmd i q = s.cmd i q) ∧
    (∀ i, (s.endItem g st).so i = s.so i) ∧ (∀ i, (s.endItem g st).soOwner i = s.soOwner i) ∧
    (∀ i, (s.endItem g st).soBroken i = s.soBroken i) ∧ (∀ i, (s.endItem g st).owner i = s.owner i) ∧
    (∀ i, (s.endItem g st).chan i = s.chan i) ∧ (∀ i j, (s.endItem g st).band i j = s.band i j) ∧
    (∀ i, (s.endItem g st).readByte i = s.readByte i) ∧ (∀ i, (s.endItem g st).dirEntry i = s.dirEntry i) := by
  obtain ⟨x0, x1, h⟩ := State.endItem_only s g st
  rw [h]
  exact ⟨fun _ => rfl, fun _ => rfl, fun _ => rfl, fun _ => rfl, fun _ => rfl, fun _ _ => rfl, fun _ => rfl, fun _ => rfl, fun _ => rfl, fun _ => rfl, fun _ => rfl, fun _ _ => rfl, fun _ => rfl, fun _ => rfl, fun _ => rfl, fun _ => rfl, fun _ => rfl, fun _ _ => rfl, fun _ => rfl, fun _ => rfl⟩

theorem State.onBlock_only (s : State) (g b : Nat) (f : Block → Block) : ∃ x0, s.onBlock g b f = { s with cells := x0 } := ⟨_, rfl⟩

@[simp] theorem State.onBlock_fields (s : State) (g b : Nat) (f : Block → Block) :
   (s.onBlock g b f).pending = s.pending ∧ (s.onBlock g b f).phase = s.phase ∧ (s.onBlock g b f).pins = s.pins ∧
    (s.onBlock g b f).flash = s.flash ∧ (s.onBlock g b f).bring = s.bring ∧ (s.onBlock g b f).time = s.time ∧
    (s.onBlock g b f).fresh = s.fresh ∧ (s.onBlock g b f).mem = s.mem ∧ (s.onBlock g b f).own = s.own ∧ (s.onBlock g b f).regs = s.regs ∧
    (s.onBlock g b f).shadow = s.shadow ∧ (s.onBlock g b f).latch = s.latch ∧ (s.onBlock g b f).held = s.held ∧
    (s.onBlock g b f).tierB0 = s.tierB0 ∧ (s.onBlock g b f).tierB1 = s.tierB1 ∧ (s.onBlock g b f).degradeGen = s.degradeGen ∧
    (s.onBlock g b f).svc = s.svc ∧ (s.onBlock g b f).fatal = s.fatal ∧ (s.onBlock g b f).released = s.released ∧
    (s.onBlock g b f).hosts = s.hosts ∧ (s.onBlock g b f).ochres = s.ochres ∧ (s.onBlock g b f).logs = s.logs ∧
    (s.onBlock g b f).rings = s.rings ∧ (s.onBlock g b f).cmds = s.cmds ∧ (s.onBlock g b f).ctxs = s.ctxs ∧
    (s.onBlock g b f).soVal = s.soVal ∧ (s.onBlock g b f).soOwn = s.soOwn ∧ (s.onBlock g b f).soBad = s.soBad ∧
    (s.onBlock g b f).cellErr = s.cellErr ∧ (s.onBlock g b f).fatalRecs = s.fatalRecs ∧ (s.onBlock g b f).hbm = s.hbm ∧
    (s.onBlock g b f).coh = s.coh ∧ (s.onBlock g b f).links = s.links ∧ (s.onBlock g b f).fab = s.fab ∧
    (s.onBlock g b f).roots = s.roots ∧ (s.onBlock g b f).qps = s.qps ∧ (s.onBlock g b f).front = s.front ∧
    (s.onBlock g b f).power = s.power ∧ (s.onBlock g b f).sec = s.sec ∧ (s.onBlock g b f).warm = s.warm ∧ (s.onBlock g b f).xlt = s.xlt ∧
    (s.onBlock g b f).mc = s.mc ∧ (s.onBlock g b f).irqs = s.irqs := by
  obtain ⟨x0, h⟩ := State.onBlock_only s g b f
  rw [h]
  exact ⟨rfl, rfl, rfl, rfl, rfl, rfl, rfl, rfl, rfl, rfl, rfl, rfl, rfl, rfl, rfl, rfl, rfl, rfl, rfl, rfl, rfl, rfl, rfl, rfl, rfl, rfl, rfl, rfl, rfl, rfl, rfl, rfl, rfl, rfl, rfl, rfl, rfl, rfl, rfl, rfl, rfl, rfl, rfl⟩

@[simp] theorem State.onBlock_parts (s : State) (g b : Nat) (f : Block → Block) :
   (∀ i, (s.onBlock g b f).host i = s.host i) ∧ (∀ i, (s.onBlock g b f).ochre i = s.ochre i) ∧ (∀ i, (s.onBlock g b f).log i = s.log i) ∧
    (∀ i, (s.onBlock g b f).ring i = s.ring i) ∧ (∀ cid, (s.onBlock g b f).ctx cid = s.ctx cid) ∧
    (∀ i, (s.onBlock g b f).root i = s.root i) ∧ (∀ i j, (s.onBlock g b f).qp i j = s.qp i j) ∧
    (∀ i, (s.onBlock g b f).link i = s.link i) ∧ (∀ i, (s.onBlock g b f).port i = s.port i) ∧ (∀ i, (s.onBlock g b f).gust i = s.gust i) ∧
    (∀ i, (s.onBlock g b f).reg i = s.reg i) ∧ (∀ i, (s.onBlock g b f).shadowOf i = s.shadowOf i) ∧
    (∀ i q, (s.onBlock g b f).cmd i q = s.cmd i q) ∧ (∀ i, (s.onBlock g b f).so i = s.so i) ∧
    (∀ i, (s.onBlock g b f).soOwner i = s.soOwner i) ∧ (∀ i, (s.onBlock g b f).soBroken i = s.soBroken i) ∧
    (∀ i, (s.onBlock g b f).owner i = s.owner i) ∧ (∀ i, (s.onBlock g b f).chan i = s.chan i) ∧
    (∀ i j, (s.onBlock g b f).band i j = s.band i j) ∧ (∀ i, (s.onBlock g b f).readByte i = s.readByte i) ∧
    (∀ i, (s.onBlock g b f).dirEntry i = s.dirEntry i) := by
  obtain ⟨x0, h⟩ := State.onBlock_only s g b f
  rw [h]
  exact ⟨fun _ => rfl, fun _ => rfl, fun _ => rfl, fun _ => rfl, fun _ => rfl, fun _ => rfl, fun _ _ => rfl, fun _ => rfl, fun _ => rfl, fun _ => rfl, fun _ => rfl, fun _ => rfl, fun _ _ => rfl, fun _ => rfl, fun _ => rfl, fun _ => rfl, fun _ => rfl, fun _ => rfl, fun _ _ => rfl, fun _ => rfl, fun _ => rfl⟩

theorem State.endBlock_only (s : State) (g b : Nat) (st : Status) : ∃ x0, s.endBlock g b st = { s with cells := x0 } := ⟨_, rfl⟩

@[simp] theorem State.endBlock_fields (s : State) (g b : Nat) (st : Status) :
   (s.endBlock g b st).pending = s.pending ∧ (s.endBlock g b st).phase = s.phase ∧ (s.endBlock g b st).pins = s.pins ∧
    (s.endBlock g b st).flash = s.flash ∧ (s.endBlock g b st).bring = s.bring ∧ (s.endBlock g b st).time = s.time ∧
    (s.endBlock g b st).fresh = s.fresh ∧ (s.endBlock g b st).mem = s.mem ∧ (s.endBlock g b st).own = s.own ∧
    (s.endBlock g b st).regs = s.regs ∧ (s.endBlock g b st).shadow = s.shadow ∧ (s.endBlock g b st).latch = s.latch ∧
    (s.endBlock g b st).held = s.held ∧ (s.endBlock g b st).tierB0 = s.tierB0 ∧ (s.endBlock g b st).tierB1 = s.tierB1 ∧
    (s.endBlock g b st).degradeGen = s.degradeGen ∧ (s.endBlock g b st).svc = s.svc ∧ (s.endBlock g b st).fatal = s.fatal ∧
    (s.endBlock g b st).released = s.released ∧ (s.endBlock g b st).hosts = s.hosts ∧ (s.endBlock g b st).ochres = s.ochres ∧
    (s.endBlock g b st).logs = s.logs ∧ (s.endBlock g b st).rings = s.rings ∧ (s.endBlock g b st).cmds = s.cmds ∧
    (s.endBlock g b st).ctxs = s.ctxs ∧ (s.endBlock g b st).soVal = s.soVal ∧ (s.endBlock g b st).soOwn = s.soOwn ∧
    (s.endBlock g b st).soBad = s.soBad ∧ (s.endBlock g b st).cellErr = s.cellErr ∧ (s.endBlock g b st).fatalRecs = s.fatalRecs ∧
    (s.endBlock g b st).hbm = s.hbm ∧ (s.endBlock g b st).coh = s.coh ∧ (s.endBlock g b st).links = s.links ∧
    (s.endBlock g b st).fab = s.fab ∧ (s.endBlock g b st).roots = s.roots ∧ (s.endBlock g b st).qps = s.qps ∧
    (s.endBlock g b st).front = s.front ∧ (s.endBlock g b st).power = s.power ∧ (s.endBlock g b st).sec = s.sec ∧
    (s.endBlock g b st).warm = s.warm ∧ (s.endBlock g b st).xlt = s.xlt ∧ (s.endBlock g b st).mc = s.mc ∧
    (s.endBlock g b st).irqs = s.irqs := by
  obtain ⟨x0, h⟩ := State.endBlock_only s g b st
  rw [h]
  exact ⟨rfl, rfl, rfl, rfl, rfl, rfl, rfl, rfl, rfl, rfl, rfl, rfl, rfl, rfl, rfl, rfl, rfl, rfl, rfl, rfl, rfl, rfl, rfl, rfl, rfl, rfl, rfl, rfl, rfl, rfl, rfl, rfl, rfl, rfl, rfl, rfl, rfl, rfl, rfl, rfl, rfl, rfl, rfl⟩

@[simp] theorem State.endBlock_parts (s : State) (g b : Nat) (st : Status) :
   (∀ i, (s.endBlock g b st).host i = s.host i) ∧ (∀ i, (s.endBlock g b st).ochre i = s.ochre i) ∧
    (∀ i, (s.endBlock g b st).log i = s.log i) ∧ (∀ i, (s.endBlock g b st).ring i = s.ring i) ∧
    (∀ cid, (s.endBlock g b st).ctx cid = s.ctx cid) ∧ (∀ i, (s.endBlock g b st).root i = s.root i) ∧
    (∀ i j, (s.endBlock g b st).qp i j = s.qp i j) ∧ (∀ i, (s.endBlock g b st).link i = s.link i) ∧
    (∀ i, (s.endBlock g b st).port i = s.port i) ∧ (∀ i, (s.endBlock g b st).gust i = s.gust i) ∧
    (∀ i, (s.endBlock g b st).reg i = s.reg i) ∧ (∀ i, (s.endBlock g b st).shadowOf i = s.shadowOf i) ∧
    (∀ i q, (s.endBlock g b st).cmd i q = s.cmd i q) ∧ (∀ i, (s.endBlock g b st).so i = s.so i) ∧
    (∀ i, (s.endBlock g b st).soOwner i = s.soOwner i) ∧ (∀ i, (s.endBlock g b st).soBroken i = s.soBroken i) ∧
    (∀ i, (s.endBlock g b st).owner i = s.owner i) ∧ (∀ i, (s.endBlock g b st).chan i = s.chan i) ∧
    (∀ i j, (s.endBlock g b st).band i j = s.band i j) ∧ (∀ i, (s.endBlock g b st).readByte i = s.readByte i) ∧
    (∀ i, (s.endBlock g b st).dirEntry i = s.dirEntry i) := by
  obtain ⟨x0, h⟩ := State.endBlock_only s g b st
  rw [h]
  exact ⟨fun _ => rfl, fun _ => rfl, fun _ => rfl, fun _ => rfl, fun _ => rfl, fun _ => rfl, fun _ _ => rfl, fun _ => rfl, fun _ => rfl, fun _ => rfl, fun _ => rfl, fun _ => rfl, fun _ _ => rfl, fun _ => rfl, fun _ => rfl, fun _ => rfl, fun _ => rfl, fun _ => rfl, fun _ _ => rfl, fun _ => rfl, fun _ => rfl⟩

theorem State.onThreadAt_only (s : State) (g b t : Nat) (f : Thread → Thread) : ∃ x0, s.onThreadAt g b t f = { s with cells := x0 } := ⟨_, rfl⟩

@[simp] theorem State.onThreadAt_fields (s : State) (g b t : Nat) (f : Thread → Thread) :
   (s.onThreadAt g b t f).pending = s.pending ∧ (s.onThreadAt g b t f).phase = s.phase ∧ (s.onThreadAt g b t f).pins = s.pins ∧
    (s.onThreadAt g b t f).flash = s.flash ∧ (s.onThreadAt g b t f).bring = s.bring ∧ (s.onThreadAt g b t f).time = s.time ∧
    (s.onThreadAt g b t f).fresh = s.fresh ∧ (s.onThreadAt g b t f).mem = s.mem ∧ (s.onThreadAt g b t f).own = s.own ∧
    (s.onThreadAt g b t f).regs = s.regs ∧ (s.onThreadAt g b t f).shadow = s.shadow ∧ (s.onThreadAt g b t f).latch = s.latch ∧
    (s.onThreadAt g b t f).held = s.held ∧ (s.onThreadAt g b t f).tierB0 = s.tierB0 ∧ (s.onThreadAt g b t f).tierB1 = s.tierB1 ∧
    (s.onThreadAt g b t f).degradeGen = s.degradeGen ∧ (s.onThreadAt g b t f).svc = s.svc ∧ (s.onThreadAt g b t f).fatal = s.fatal ∧
    (s.onThreadAt g b t f).released = s.released ∧ (s.onThreadAt g b t f).hosts = s.hosts ∧ (s.onThreadAt g b t f).ochres = s.ochres ∧
    (s.onThreadAt g b t f).logs = s.logs ∧ (s.onThreadAt g b t f).rings = s.rings ∧ (s.onThreadAt g b t f).cmds = s.cmds ∧
    (s.onThreadAt g b t f).ctxs = s.ctxs ∧ (s.onThreadAt g b t f).soVal = s.soVal ∧ (s.onThreadAt g b t f).soOwn = s.soOwn ∧
    (s.onThreadAt g b t f).soBad = s.soBad ∧ (s.onThreadAt g b t f).cellErr = s.cellErr ∧ (s.onThreadAt g b t f).fatalRecs = s.fatalRecs ∧
    (s.onThreadAt g b t f).hbm = s.hbm ∧ (s.onThreadAt g b t f).coh = s.coh ∧ (s.onThreadAt g b t f).links = s.links ∧
    (s.onThreadAt g b t f).fab = s.fab ∧ (s.onThreadAt g b t f).roots = s.roots ∧ (s.onThreadAt g b t f).qps = s.qps ∧
    (s.onThreadAt g b t f).front = s.front ∧ (s.onThreadAt g b t f).power = s.power ∧ (s.onThreadAt g b t f).sec = s.sec ∧
    (s.onThreadAt g b t f).warm = s.warm ∧ (s.onThreadAt g b t f).xlt = s.xlt ∧ (s.onThreadAt g b t f).mc = s.mc ∧
    (s.onThreadAt g b t f).irqs = s.irqs := by
  obtain ⟨x0, h⟩ := State.onThreadAt_only s g b t f
  rw [h]
  exact ⟨rfl, rfl, rfl, rfl, rfl, rfl, rfl, rfl, rfl, rfl, rfl, rfl, rfl, rfl, rfl, rfl, rfl, rfl, rfl, rfl, rfl, rfl, rfl, rfl, rfl, rfl, rfl, rfl, rfl, rfl, rfl, rfl, rfl, rfl, rfl, rfl, rfl, rfl, rfl, rfl, rfl, rfl, rfl⟩

@[simp] theorem State.onThreadAt_parts (s : State) (g b t : Nat) (f : Thread → Thread) :
   (∀ i, (s.onThreadAt g b t f).host i = s.host i) ∧ (∀ i, (s.onThreadAt g b t f).ochre i = s.ochre i) ∧
    (∀ i, (s.onThreadAt g b t f).log i = s.log i) ∧ (∀ i, (s.onThreadAt g b t f).ring i = s.ring i) ∧
    (∀ cid, (s.onThreadAt g b t f).ctx cid = s.ctx cid) ∧ (∀ i, (s.onThreadAt g b t f).root i = s.root i) ∧
    (∀ i j, (s.onThreadAt g b t f).qp i j = s.qp i j) ∧ (∀ i, (s.onThreadAt g b t f).link i = s.link i) ∧
    (∀ i, (s.onThreadAt g b t f).port i = s.port i) ∧ (∀ i, (s.onThreadAt g b t f).gust i = s.gust i) ∧
    (∀ i, (s.onThreadAt g b t f).reg i = s.reg i) ∧ (∀ i, (s.onThreadAt g b t f).shadowOf i = s.shadowOf i) ∧
    (∀ i q, (s.onThreadAt g b t f).cmd i q = s.cmd i q) ∧ (∀ i, (s.onThreadAt g b t f).so i = s.so i) ∧
    (∀ i, (s.onThreadAt g b t f).soOwner i = s.soOwner i) ∧ (∀ i, (s.onThreadAt g b t f).soBroken i = s.soBroken i) ∧
    (∀ i, (s.onThreadAt g b t f).owner i = s.owner i) ∧ (∀ i, (s.onThreadAt g b t f).chan i = s.chan i) ∧
    (∀ i j, (s.onThreadAt g b t f).band i j = s.band i j) ∧ (∀ i, (s.onThreadAt g b t f).readByte i = s.readByte i) ∧
    (∀ i, (s.onThreadAt g b t f).dirEntry i = s.dirEntry i) := by
  obtain ⟨x0, h⟩ := State.onThreadAt_only s g b t f
  rw [h]
  exact ⟨fun _ => rfl, fun _ => rfl, fun _ => rfl, fun _ => rfl, fun _ => rfl, fun _ => rfl, fun _ _ => rfl, fun _ => rfl, fun _ => rfl, fun _ => rfl, fun _ => rfl, fun _ => rfl, fun _ _ => rfl, fun _ => rfl, fun _ => rfl, fun _ => rfl, fun _ => rfl, fun _ => rfl, fun _ _ => rfl, fun _ => rfl, fun _ => rfl⟩

theorem State.retire_only (s : State) (g rd : Nat) (v : DWord) : ∃ x0, s.retire g rd v = { s with cells := x0 } := ⟨_, rfl⟩

@[simp] theorem State.retire_fields (s : State) (g rd : Nat) (v : DWord) :
   (s.retire g rd v).pending = s.pending ∧ (s.retire g rd v).phase = s.phase ∧ (s.retire g rd v).pins = s.pins ∧
    (s.retire g rd v).flash = s.flash ∧ (s.retire g rd v).bring = s.bring ∧ (s.retire g rd v).time = s.time ∧
    (s.retire g rd v).fresh = s.fresh ∧ (s.retire g rd v).mem = s.mem ∧ (s.retire g rd v).own = s.own ∧ (s.retire g rd v).regs = s.regs ∧
    (s.retire g rd v).shadow = s.shadow ∧ (s.retire g rd v).latch = s.latch ∧ (s.retire g rd v).held = s.held ∧
    (s.retire g rd v).tierB0 = s.tierB0 ∧ (s.retire g rd v).tierB1 = s.tierB1 ∧ (s.retire g rd v).degradeGen = s.degradeGen ∧
    (s.retire g rd v).svc = s.svc ∧ (s.retire g rd v).fatal = s.fatal ∧ (s.retire g rd v).released = s.released ∧
    (s.retire g rd v).hosts = s.hosts ∧ (s.retire g rd v).ochres = s.ochres ∧ (s.retire g rd v).logs = s.logs ∧
    (s.retire g rd v).rings = s.rings ∧ (s.retire g rd v).cmds = s.cmds ∧ (s.retire g rd v).ctxs = s.ctxs ∧
    (s.retire g rd v).soVal = s.soVal ∧ (s.retire g rd v).soOwn = s.soOwn ∧ (s.retire g rd v).soBad = s.soBad ∧
    (s.retire g rd v).cellErr = s.cellErr ∧ (s.retire g rd v).fatalRecs = s.fatalRecs ∧ (s.retire g rd v).hbm = s.hbm ∧
    (s.retire g rd v).coh = s.coh ∧ (s.retire g rd v).links = s.links ∧ (s.retire g rd v).fab = s.fab ∧
    (s.retire g rd v).roots = s.roots ∧ (s.retire g rd v).qps = s.qps ∧ (s.retire g rd v).front = s.front ∧
    (s.retire g rd v).power = s.power ∧ (s.retire g rd v).sec = s.sec ∧ (s.retire g rd v).warm = s.warm ∧ (s.retire g rd v).xlt = s.xlt ∧
    (s.retire g rd v).mc = s.mc ∧ (s.retire g rd v).irqs = s.irqs := by
  obtain ⟨x0, h⟩ := State.retire_only s g rd v
  rw [h]
  exact ⟨rfl, rfl, rfl, rfl, rfl, rfl, rfl, rfl, rfl, rfl, rfl, rfl, rfl, rfl, rfl, rfl, rfl, rfl, rfl, rfl, rfl, rfl, rfl, rfl, rfl, rfl, rfl, rfl, rfl, rfl, rfl, rfl, rfl, rfl, rfl, rfl, rfl, rfl, rfl, rfl, rfl, rfl, rfl⟩

@[simp] theorem State.retire_parts (s : State) (g rd : Nat) (v : DWord) :
   (∀ i, (s.retire g rd v).host i = s.host i) ∧ (∀ i, (s.retire g rd v).ochre i = s.ochre i) ∧ (∀ i, (s.retire g rd v).log i = s.log i) ∧
    (∀ i, (s.retire g rd v).ring i = s.ring i) ∧ (∀ cid, (s.retire g rd v).ctx cid = s.ctx cid) ∧
    (∀ i, (s.retire g rd v).root i = s.root i) ∧ (∀ i j, (s.retire g rd v).qp i j = s.qp i j) ∧
    (∀ i, (s.retire g rd v).link i = s.link i) ∧ (∀ i, (s.retire g rd v).port i = s.port i) ∧ (∀ i, (s.retire g rd v).gust i = s.gust i) ∧
    (∀ i, (s.retire g rd v).reg i = s.reg i) ∧ (∀ i, (s.retire g rd v).shadowOf i = s.shadowOf i) ∧
    (∀ i q, (s.retire g rd v).cmd i q = s.cmd i q) ∧ (∀ i, (s.retire g rd v).so i = s.so i) ∧
    (∀ i, (s.retire g rd v).soOwner i = s.soOwner i) ∧ (∀ i, (s.retire g rd v).soBroken i = s.soBroken i) ∧
    (∀ i, (s.retire g rd v).owner i = s.owner i) ∧ (∀ i, (s.retire g rd v).chan i = s.chan i) ∧
    (∀ i j, (s.retire g rd v).band i j = s.band i j) ∧ (∀ i, (s.retire g rd v).readByte i = s.readByte i) ∧
    (∀ i, (s.retire g rd v).dirEntry i = s.dirEntry i) := by
  obtain ⟨x0, h⟩ := State.retire_only s g rd v
  rw [h]
  exact ⟨fun _ => rfl, fun _ => rfl, fun _ => rfl, fun _ => rfl, fun _ => rfl, fun _ => rfl, fun _ _ => rfl, fun _ => rfl, fun _ => rfl, fun _ => rfl, fun _ => rfl, fun _ => rfl, fun _ _ => rfl, fun _ => rfl, fun _ => rfl, fun _ => rfl, fun _ => rfl, fun _ => rfl, fun _ _ => rfl, fun _ => rfl, fun _ => rfl⟩

theorem State.repartition_only (s : State) (g : Nat) (p : Partition) : ∃ x0 x1, s.repartition g p = { s with cells := x0, fresh := x1 } := by
  unfold State.repartition
  dsimp only; split <;> exact ⟨_, _, rfl⟩

@[simp] theorem State.repartition_fields (s : State) (g : Nat) (p : Partition) :
   (s.repartition g p).pending = s.pending ∧ (s.repartition g p).phase = s.phase ∧ (s.repartition g p).pins = s.pins ∧
    (s.repartition g p).flash = s.flash ∧ (s.repartition g p).bring = s.bring ∧ (s.repartition g p).time = s.time ∧
    (s.repartition g p).mem = s.mem ∧ (s.repartition g p).own = s.own ∧ (s.repartition g p).regs = s.regs ∧
    (s.repartition g p).shadow = s.shadow ∧ (s.repartition g p).latch = s.latch ∧ (s.repartition g p).held = s.held ∧
    (s.repartition g p).tierB0 = s.tierB0 ∧ (s.repartition g p).tierB1 = s.tierB1 ∧ (s.repartition g p).degradeGen = s.degradeGen ∧
    (s.repartition g p).svc = s.svc ∧ (s.repartition g p).fatal = s.fatal ∧ (s.repartition g p).released = s.released ∧
    (s.repartition g p).hosts = s.hosts ∧ (s.repartition g p).ochres = s.ochres ∧ (s.repartition g p).logs = s.logs ∧
    (s.repartition g p).rings = s.rings ∧ (s.repartition g p).cmds = s.cmds ∧ (s.repartition g p).ctxs = s.ctxs ∧
    (s.repartition g p).soVal = s.soVal ∧ (s.repartition g p).soOwn = s.soOwn ∧ (s.repartition g p).soBad = s.soBad ∧
    (s.repartition g p).cellErr = s.cellErr ∧ (s.repartition g p).fatalRecs = s.fatalRecs ∧ (s.repartition g p).hbm = s.hbm ∧
    (s.repartition g p).coh = s.coh ∧ (s.repartition g p).links = s.links ∧ (s.repartition g p).fab = s.fab ∧
    (s.repartition g p).roots = s.roots ∧ (s.repartition g p).qps = s.qps ∧ (s.repartition g p).front = s.front ∧
    (s.repartition g p).power = s.power ∧ (s.repartition g p).sec = s.sec ∧ (s.repartition g p).warm = s.warm ∧
    (s.repartition g p).xlt = s.xlt ∧ (s.repartition g p).mc = s.mc ∧ (s.repartition g p).irqs = s.irqs := by
  obtain ⟨x0, x1, h⟩ := State.repartition_only s g p
  rw [h]
  exact ⟨rfl, rfl, rfl, rfl, rfl, rfl, rfl, rfl, rfl, rfl, rfl, rfl, rfl, rfl, rfl, rfl, rfl, rfl, rfl, rfl, rfl, rfl, rfl, rfl, rfl, rfl, rfl, rfl, rfl, rfl, rfl, rfl, rfl, rfl, rfl, rfl, rfl, rfl, rfl, rfl, rfl, rfl⟩

@[simp] theorem State.repartition_parts (s : State) (g : Nat) (p : Partition) :
   (∀ i, (s.repartition g p).host i = s.host i) ∧ (∀ i, (s.repartition g p).ochre i = s.ochre i) ∧
    (∀ i, (s.repartition g p).log i = s.log i) ∧ (∀ i, (s.repartition g p).ring i = s.ring i) ∧
    (∀ cid, (s.repartition g p).ctx cid = s.ctx cid) ∧ (∀ i, (s.repartition g p).root i = s.root i) ∧
    (∀ i j, (s.repartition g p).qp i j = s.qp i j) ∧ (∀ i, (s.repartition g p).link i = s.link i) ∧
    (∀ i, (s.repartition g p).port i = s.port i) ∧ (∀ i, (s.repartition g p).gust i = s.gust i) ∧
    (∀ i, (s.repartition g p).reg i = s.reg i) ∧ (∀ i, (s.repartition g p).shadowOf i = s.shadowOf i) ∧
    (∀ i q, (s.repartition g p).cmd i q = s.cmd i q) ∧ (∀ i, (s.repartition g p).so i = s.so i) ∧
    (∀ i, (s.repartition g p).soOwner i = s.soOwner i) ∧ (∀ i, (s.repartition g p).soBroken i = s.soBroken i) ∧
    (∀ i, (s.repartition g p).owner i = s.owner i) ∧ (∀ i, (s.repartition g p).chan i = s.chan i) ∧
    (∀ i j, (s.repartition g p).band i j = s.band i j) ∧ (∀ i, (s.repartition g p).readByte i = s.readByte i) ∧
    (∀ i, (s.repartition g p).dirEntry i = s.dirEntry i) := by
  obtain ⟨x0, x1, h⟩ := State.repartition_only s g p
  rw [h]
  exact ⟨fun _ => rfl, fun _ => rfl, fun _ => rfl, fun _ => rfl, fun _ => rfl, fun _ => rfl, fun _ _ => rfl, fun _ => rfl, fun _ => rfl, fun _ => rfl, fun _ => rfl, fun _ => rfl, fun _ _ => rfl, fun _ => rfl, fun _ => rfl, fun _ => rfl, fun _ => rfl, fun _ => rfl, fun _ _ => rfl, fun _ => rfl, fun _ => rfl⟩

theorem State.itemDone_only (s : State) (r : Nat) (w : Word) (k : Nat) (st : Status) : ∃ x0, s.itemDone r w k st = { s with cmds := x0 } := by
  unfold State.itemDone
  split <;> exact ⟨_, rfl⟩

@[simp] theorem State.itemDone_fields (s : State) (r : Nat) (w : Word) (k : Nat) (st : Status) :
   (s.itemDone r w k st).pending = s.pending ∧ (s.itemDone r w k st).phase = s.phase ∧ (s.itemDone r w k st).pins = s.pins ∧
    (s.itemDone r w k st).flash = s.flash ∧ (s.itemDone r w k st).bring = s.bring ∧ (s.itemDone r w k st).time = s.time ∧
    (s.itemDone r w k st).fresh = s.fresh ∧ (s.itemDone r w k st).mem = s.mem ∧ (s.itemDone r w k st).own = s.own ∧
    (s.itemDone r w k st).regs = s.regs ∧ (s.itemDone r w k st).shadow = s.shadow ∧ (s.itemDone r w k st).latch = s.latch ∧
    (s.itemDone r w k st).held = s.held ∧ (s.itemDone r w k st).tierB0 = s.tierB0 ∧ (s.itemDone r w k st).tierB1 = s.tierB1 ∧
    (s.itemDone r w k st).degradeGen = s.degradeGen ∧ (s.itemDone r w k st).svc = s.svc ∧ (s.itemDone r w k st).fatal = s.fatal ∧
    (s.itemDone r w k st).released = s.released ∧ (s.itemDone r w k st).hosts = s.hosts ∧ (s.itemDone r w k st).cells = s.cells ∧
    (s.itemDone r w k st).ochres = s.ochres ∧ (s.itemDone r w k st).logs = s.logs ∧ (s.itemDone r w k st).rings = s.rings ∧
    (s.itemDone r w k st).ctxs = s.ctxs ∧ (s.itemDone r w k st).soVal = s.soVal ∧ (s.itemDone r w k st).soOwn = s.soOwn ∧
    (s.itemDone r w k st).soBad = s.soBad ∧ (s.itemDone r w k st).cellErr = s.cellErr ∧ (s.itemDone r w k st).fatalRecs = s.fatalRecs ∧
    (s.itemDone r w k st).hbm = s.hbm ∧ (s.itemDone r w k st).coh = s.coh ∧ (s.itemDone r w k st).links = s.links ∧
    (s.itemDone r w k st).fab = s.fab ∧ (s.itemDone r w k st).roots = s.roots ∧ (s.itemDone r w k st).qps = s.qps ∧
    (s.itemDone r w k st).front = s.front ∧ (s.itemDone r w k st).power = s.power ∧ (s.itemDone r w k st).sec = s.sec ∧
    (s.itemDone r w k st).warm = s.warm ∧ (s.itemDone r w k st).xlt = s.xlt ∧ (s.itemDone r w k st).mc = s.mc ∧
    (s.itemDone r w k st).irqs = s.irqs := by
  obtain ⟨x0, h⟩ := State.itemDone_only s r w k st
  rw [h]
  exact ⟨rfl, rfl, rfl, rfl, rfl, rfl, rfl, rfl, rfl, rfl, rfl, rfl, rfl, rfl, rfl, rfl, rfl, rfl, rfl, rfl, rfl, rfl, rfl, rfl, rfl, rfl, rfl, rfl, rfl, rfl, rfl, rfl, rfl, rfl, rfl, rfl, rfl, rfl, rfl, rfl, rfl, rfl, rfl⟩

@[simp] theorem State.itemDone_parts (s : State) (r : Nat) (w : Word) (k : Nat) (st : Status) :
   (∀ i, (s.itemDone r w k st).host i = s.host i) ∧ (∀ i, (s.itemDone r w k st).cell i = s.cell i) ∧
    (∀ i, (s.itemDone r w k st).ochre i = s.ochre i) ∧ (∀ i, (s.itemDone r w k st).log i = s.log i) ∧
    (∀ i, (s.itemDone r w k st).ring i = s.ring i) ∧ (∀ cid, (s.itemDone r w k st).ctx cid = s.ctx cid) ∧
    (∀ i, (s.itemDone r w k st).root i = s.root i) ∧ (∀ i j, (s.itemDone r w k st).qp i j = s.qp i j) ∧
    (∀ i, (s.itemDone r w k st).link i = s.link i) ∧ (∀ i, (s.itemDone r w k st).port i = s.port i) ∧
    (∀ i, (s.itemDone r w k st).gust i = s.gust i) ∧ (∀ i, (s.itemDone r w k st).reg i = s.reg i) ∧
    (∀ i, (s.itemDone r w k st).shadowOf i = s.shadowOf i) ∧ (∀ i, (s.itemDone r w k st).so i = s.so i) ∧
    (∀ i, (s.itemDone r w k st).soOwner i = s.soOwner i) ∧ (∀ i, (s.itemDone r w k st).soBroken i = s.soBroken i) ∧
    (∀ i, (s.itemDone r w k st).owner i = s.owner i) ∧ (∀ i, (s.itemDone r w k st).chan i = s.chan i) ∧
    (∀ i j, (s.itemDone r w k st).band i j = s.band i j) ∧ (∀ i, (s.itemDone r w k st).readByte i = s.readByte i) ∧
    (∀ i, (s.itemDone r w k st).dirEntry i = s.dirEntry i) := by
  obtain ⟨x0, h⟩ := State.itemDone_only s r w k st
  rw [h]
  exact ⟨fun _ => rfl, fun _ => rfl, fun _ => rfl, fun _ => rfl, fun _ => rfl, fun _ => rfl, fun _ => rfl, fun _ _ => rfl, fun _ => rfl, fun _ => rfl, fun _ => rfl, fun _ => rfl, fun _ => rfl, fun _ => rfl, fun _ => rfl, fun _ => rfl, fun _ => rfl, fun _ => rfl, fun _ _ => rfl, fun _ => rfl, fun _ => rfl⟩

theorem State.dropCmd_only (s : State) (r : Nat) (w : Word) : ∃ x0, s.dropCmd r w = { s with cmds := x0 } := ⟨_, rfl⟩

@[simp] theorem State.dropCmd_fields (s : State) (r : Nat) (w : Word) :
   (s.dropCmd r w).pending = s.pending ∧ (s.dropCmd r w).phase = s.phase ∧ (s.dropCmd r w).pins = s.pins ∧
    (s.dropCmd r w).flash = s.flash ∧ (s.dropCmd r w).bring = s.bring ∧ (s.dropCmd r w).time = s.time ∧ (s.dropCmd r w).fresh = s.fresh ∧
    (s.dropCmd r w).mem = s.mem ∧ (s.dropCmd r w).own = s.own ∧ (s.dropCmd r w).regs = s.regs ∧ (s.dropCmd r w).shadow = s.shadow ∧
    (s.dropCmd r w).latch = s.latch ∧ (s.dropCmd r w).held = s.held ∧ (s.dropCmd r w).tierB0 = s.tierB0 ∧
    (s.dropCmd r w).tierB1 = s.tierB1 ∧ (s.dropCmd r w).degradeGen = s.degradeGen ∧ (s.dropCmd r w).svc = s.svc ∧
    (s.dropCmd r w).fatal = s.fatal ∧ (s.dropCmd r w).released = s.released ∧ (s.dropCmd r w).hosts = s.hosts ∧
    (s.dropCmd r w).cells = s.cells ∧ (s.dropCmd r w).ochres = s.ochres ∧ (s.dropCmd r w).logs = s.logs ∧
    (s.dropCmd r w).rings = s.rings ∧ (s.dropCmd r w).ctxs = s.ctxs ∧ (s.dropCmd r w).soVal = s.soVal ∧ (s.dropCmd r w).soOwn = s.soOwn ∧
    (s.dropCmd r w).soBad = s.soBad ∧ (s.dropCmd r w).cellErr = s.cellErr ∧ (s.dropCmd r w).fatalRecs = s.fatalRecs ∧
    (s.dropCmd r w).hbm = s.hbm ∧ (s.dropCmd r w).coh = s.coh ∧ (s.dropCmd r w).links = s.links ∧ (s.dropCmd r w).fab = s.fab ∧
    (s.dropCmd r w).roots = s.roots ∧ (s.dropCmd r w).qps = s.qps ∧ (s.dropCmd r w).front = s.front ∧ (s.dropCmd r w).power = s.power ∧
    (s.dropCmd r w).sec = s.sec ∧ (s.dropCmd r w).warm = s.warm ∧ (s.dropCmd r w).xlt = s.xlt ∧ (s.dropCmd r w).mc = s.mc ∧
    (s.dropCmd r w).irqs = s.irqs := by
  obtain ⟨x0, h⟩ := State.dropCmd_only s r w
  rw [h]
  exact ⟨rfl, rfl, rfl, rfl, rfl, rfl, rfl, rfl, rfl, rfl, rfl, rfl, rfl, rfl, rfl, rfl, rfl, rfl, rfl, rfl, rfl, rfl, rfl, rfl, rfl, rfl, rfl, rfl, rfl, rfl, rfl, rfl, rfl, rfl, rfl, rfl, rfl, rfl, rfl, rfl, rfl, rfl, rfl⟩

@[simp] theorem State.dropCmd_parts (s : State) (r : Nat) (w : Word) :
   (∀ i, (s.dropCmd r w).host i = s.host i) ∧ (∀ i, (s.dropCmd r w).cell i = s.cell i) ∧ (∀ i, (s.dropCmd r w).ochre i = s.ochre i) ∧
    (∀ i, (s.dropCmd r w).log i = s.log i) ∧ (∀ i, (s.dropCmd r w).ring i = s.ring i) ∧ (∀ cid, (s.dropCmd r w).ctx cid = s.ctx cid) ∧
    (∀ i, (s.dropCmd r w).root i = s.root i) ∧ (∀ i j, (s.dropCmd r w).qp i j = s.qp i j) ∧ (∀ i, (s.dropCmd r w).link i = s.link i) ∧
    (∀ i, (s.dropCmd r w).port i = s.port i) ∧ (∀ i, (s.dropCmd r w).gust i = s.gust i) ∧ (∀ i, (s.dropCmd r w).reg i = s.reg i) ∧
    (∀ i, (s.dropCmd r w).shadowOf i = s.shadowOf i) ∧ (∀ i, (s.dropCmd r w).so i = s.so i) ∧
    (∀ i, (s.dropCmd r w).soOwner i = s.soOwner i) ∧ (∀ i, (s.dropCmd r w).soBroken i = s.soBroken i) ∧
    (∀ i, (s.dropCmd r w).owner i = s.owner i) ∧ (∀ i, (s.dropCmd r w).chan i = s.chan i) ∧
    (∀ i j, (s.dropCmd r w).band i j = s.band i j) ∧ (∀ i, (s.dropCmd r w).readByte i = s.readByte i) ∧
    (∀ i, (s.dropCmd r w).dirEntry i = s.dirEntry i) := by
  obtain ⟨x0, h⟩ := State.dropCmd_only s r w
  rw [h]
  exact ⟨fun _ => rfl, fun _ => rfl, fun _ => rfl, fun _ => rfl, fun _ => rfl, fun _ => rfl, fun _ => rfl, fun _ _ => rfl, fun _ => rfl, fun _ => rfl, fun _ => rfl, fun _ => rfl, fun _ => rfl, fun _ => rfl, fun _ => rfl, fun _ => rfl, fun _ => rfl, fun _ => rfl, fun _ _ => rfl, fun _ => rfl, fun _ => rfl⟩

theorem State.endCmd_only (s : State) (c : Cmd) (st : Status) : ∃ x0, s.endCmd c st = { s with cmds := x0 } := ⟨_, rfl⟩

@[simp] theorem State.endCmd_fields (s : State) (c : Cmd) (st : Status) :
   (s.endCmd c st).pending = s.pending ∧ (s.endCmd c st).phase = s.phase ∧ (s.endCmd c st).pins = s.pins ∧
    (s.endCmd c st).flash = s.flash ∧ (s.endCmd c st).bring = s.bring ∧ (s.endCmd c st).time = s.time ∧ (s.endCmd c st).fresh = s.fresh ∧
    (s.endCmd c st).mem = s.mem ∧ (s.endCmd c st).own = s.own ∧ (s.endCmd c st).regs = s.regs ∧ (s.endCmd c st).shadow = s.shadow ∧
    (s.endCmd c st).latch = s.latch ∧ (s.endCmd c st).held = s.held ∧ (s.endCmd c st).tierB0 = s.tierB0 ∧
    (s.endCmd c st).tierB1 = s.tierB1 ∧ (s.endCmd c st).degradeGen = s.degradeGen ∧ (s.endCmd c st).svc = s.svc ∧
    (s.endCmd c st).fatal = s.fatal ∧ (s.endCmd c st).released = s.released ∧ (s.endCmd c st).hosts = s.hosts ∧
    (s.endCmd c st).cells = s.cells ∧ (s.endCmd c st).ochres = s.ochres ∧ (s.endCmd c st).logs = s.logs ∧
    (s.endCmd c st).rings = s.rings ∧ (s.endCmd c st).ctxs = s.ctxs ∧ (s.endCmd c st).soVal = s.soVal ∧ (s.endCmd c st).soOwn = s.soOwn ∧
    (s.endCmd c st).soBad = s.soBad ∧ (s.endCmd c st).cellErr = s.cellErr ∧ (s.endCmd c st).fatalRecs = s.fatalRecs ∧
    (s.endCmd c st).hbm = s.hbm ∧ (s.endCmd c st).coh = s.coh ∧ (s.endCmd c st).links = s.links ∧ (s.endCmd c st).fab = s.fab ∧
    (s.endCmd c st).roots = s.roots ∧ (s.endCmd c st).qps = s.qps ∧ (s.endCmd c st).front = s.front ∧ (s.endCmd c st).power = s.power ∧
    (s.endCmd c st).sec = s.sec ∧ (s.endCmd c st).warm = s.warm ∧ (s.endCmd c st).xlt = s.xlt ∧ (s.endCmd c st).mc = s.mc ∧
    (s.endCmd c st).irqs = s.irqs := by
  obtain ⟨x0, h⟩ := State.endCmd_only s c st
  rw [h]
  exact ⟨rfl, rfl, rfl, rfl, rfl, rfl, rfl, rfl, rfl, rfl, rfl, rfl, rfl, rfl, rfl, rfl, rfl, rfl, rfl, rfl, rfl, rfl, rfl, rfl, rfl, rfl, rfl, rfl, rfl, rfl, rfl, rfl, rfl, rfl, rfl, rfl, rfl, rfl, rfl, rfl, rfl, rfl, rfl⟩

@[simp] theorem State.endCmd_parts (s : State) (c : Cmd) (st : Status) :
   (∀ i, (s.endCmd c st).host i = s.host i) ∧ (∀ i, (s.endCmd c st).cell i = s.cell i) ∧ (∀ i, (s.endCmd c st).ochre i = s.ochre i) ∧
    (∀ i, (s.endCmd c st).log i = s.log i) ∧ (∀ i, (s.endCmd c st).ring i = s.ring i) ∧ (∀ cid, (s.endCmd c st).ctx cid = s.ctx cid) ∧
    (∀ i, (s.endCmd c st).root i = s.root i) ∧ (∀ i j, (s.endCmd c st).qp i j = s.qp i j) ∧ (∀ i, (s.endCmd c st).link i = s.link i) ∧
    (∀ i, (s.endCmd c st).port i = s.port i) ∧ (∀ i, (s.endCmd c st).gust i = s.gust i) ∧ (∀ i, (s.endCmd c st).reg i = s.reg i) ∧
    (∀ i, (s.endCmd c st).shadowOf i = s.shadowOf i) ∧ (∀ i, (s.endCmd c st).so i = s.so i) ∧
    (∀ i, (s.endCmd c st).soOwner i = s.soOwner i) ∧ (∀ i, (s.endCmd c st).soBroken i = s.soBroken i) ∧
    (∀ i, (s.endCmd c st).owner i = s.owner i) ∧ (∀ i, (s.endCmd c st).chan i = s.chan i) ∧
    (∀ i j, (s.endCmd c st).band i j = s.band i j) ∧ (∀ i, (s.endCmd c st).readByte i = s.readByte i) ∧
    (∀ i, (s.endCmd c st).dirEntry i = s.dirEntry i) := by
  obtain ⟨x0, h⟩ := State.endCmd_only s c st
  rw [h]
  exact ⟨fun _ => rfl, fun _ => rfl, fun _ => rfl, fun _ => rfl, fun _ => rfl, fun _ => rfl, fun _ => rfl, fun _ _ => rfl, fun _ => rfl, fun _ => rfl, fun _ => rfl, fun _ => rfl, fun _ => rfl, fun _ => rfl, fun _ => rfl, fun _ => rfl, fun _ => rfl, fun _ => rfl, fun _ _ => rfl, fun _ => rfl, fun _ => rfl⟩

theorem State.launchCmd_only (s : State) (c : Cmd) : ∃ x0, s.launchCmd c = { s with cmds := x0 } := ⟨_, rfl⟩

@[simp] theorem State.launchCmd_fields (s : State) (c : Cmd) :
   (s.launchCmd c).pending = s.pending ∧ (s.launchCmd c).phase = s.phase ∧ (s.launchCmd c).pins = s.pins ∧
    (s.launchCmd c).flash = s.flash ∧ (s.launchCmd c).bring = s.bring ∧ (s.launchCmd c).time = s.time ∧ (s.launchCmd c).fresh = s.fresh ∧
    (s.launchCmd c).mem = s.mem ∧ (s.launchCmd c).own = s.own ∧ (s.launchCmd c).regs = s.regs ∧ (s.launchCmd c).shadow = s.shadow ∧
    (s.launchCmd c).latch = s.latch ∧ (s.launchCmd c).held = s.held ∧ (s.launchCmd c).tierB0 = s.tierB0 ∧
    (s.launchCmd c).tierB1 = s.tierB1 ∧ (s.launchCmd c).degradeGen = s.degradeGen ∧ (s.launchCmd c).svc = s.svc ∧
    (s.launchCmd c).fatal = s.fatal ∧ (s.launchCmd c).released = s.released ∧ (s.launchCmd c).hosts = s.hosts ∧
    (s.launchCmd c).cells = s.cells ∧ (s.launchCmd c).ochres = s.ochres ∧ (s.launchCmd c).logs = s.logs ∧
    (s.launchCmd c).rings = s.rings ∧ (s.launchCmd c).ctxs = s.ctxs ∧ (s.launchCmd c).soVal = s.soVal ∧ (s.launchCmd c).soOwn = s.soOwn ∧
    (s.launchCmd c).soBad = s.soBad ∧ (s.launchCmd c).cellErr = s.cellErr ∧ (s.launchCmd c).fatalRecs = s.fatalRecs ∧
    (s.launchCmd c).hbm = s.hbm ∧ (s.launchCmd c).coh = s.coh ∧ (s.launchCmd c).links = s.links ∧ (s.launchCmd c).fab = s.fab ∧
    (s.launchCmd c).roots = s.roots ∧ (s.launchCmd c).qps = s.qps ∧ (s.launchCmd c).front = s.front ∧ (s.launchCmd c).power = s.power ∧
    (s.launchCmd c).sec = s.sec ∧ (s.launchCmd c).warm = s.warm ∧ (s.launchCmd c).xlt = s.xlt ∧ (s.launchCmd c).mc = s.mc ∧
    (s.launchCmd c).irqs = s.irqs := by
  obtain ⟨x0, h⟩ := State.launchCmd_only s c
  rw [h]
  exact ⟨rfl, rfl, rfl, rfl, rfl, rfl, rfl, rfl, rfl, rfl, rfl, rfl, rfl, rfl, rfl, rfl, rfl, rfl, rfl, rfl, rfl, rfl, rfl, rfl, rfl, rfl, rfl, rfl, rfl, rfl, rfl, rfl, rfl, rfl, rfl, rfl, rfl, rfl, rfl, rfl, rfl, rfl, rfl⟩

@[simp] theorem State.launchCmd_parts (s : State) (c : Cmd) :
   (∀ i, (s.launchCmd c).host i = s.host i) ∧ (∀ i, (s.launchCmd c).cell i = s.cell i) ∧ (∀ i, (s.launchCmd c).ochre i = s.ochre i) ∧
    (∀ i, (s.launchCmd c).log i = s.log i) ∧ (∀ i, (s.launchCmd c).ring i = s.ring i) ∧ (∀ cid, (s.launchCmd c).ctx cid = s.ctx cid) ∧
    (∀ i, (s.launchCmd c).root i = s.root i) ∧ (∀ i j, (s.launchCmd c).qp i j = s.qp i j) ∧ (∀ i, (s.launchCmd c).link i = s.link i) ∧
    (∀ i, (s.launchCmd c).port i = s.port i) ∧ (∀ i, (s.launchCmd c).gust i = s.gust i) ∧ (∀ i, (s.launchCmd c).reg i = s.reg i) ∧
    (∀ i, (s.launchCmd c).shadowOf i = s.shadowOf i) ∧ (∀ i, (s.launchCmd c).so i = s.so i) ∧
    (∀ i, (s.launchCmd c).soOwner i = s.soOwner i) ∧ (∀ i, (s.launchCmd c).soBroken i = s.soBroken i) ∧
    (∀ i, (s.launchCmd c).owner i = s.owner i) ∧ (∀ i, (s.launchCmd c).chan i = s.chan i) ∧
    (∀ i j, (s.launchCmd c).band i j = s.band i j) ∧ (∀ i, (s.launchCmd c).readByte i = s.readByte i) ∧
    (∀ i, (s.launchCmd c).dirEntry i = s.dirEntry i) := by
  obtain ⟨x0, h⟩ := State.launchCmd_only s c
  rw [h]
  exact ⟨fun _ => rfl, fun _ => rfl, fun _ => rfl, fun _ => rfl, fun _ => rfl, fun _ => rfl, fun _ => rfl, fun _ _ => rfl, fun _ => rfl, fun _ => rfl, fun _ => rfl, fun _ => rfl, fun _ => rfl, fun _ => rfl, fun _ => rfl, fun _ => rfl, fun _ => rfl, fun _ => rfl, fun _ _ => rfl, fun _ => rfl, fun _ => rfl⟩

theorem State.count_only (s : State) (die event : Nat) (who : Option Cid) (n : Nat) : ∃ x0, s.count die event who n = { s with logs := x0 } := by
  unfold State.count
  split
  · exact ⟨_, rfl⟩
  · refine foldl_keeps (fun t => ∃ l, t = { s with logs := l }) _ _ _ ⟨s.logs, rfl⟩ ?_
    rintro b i ⟨l, h⟩
    subst h
    dsimp only
    split
    · exact ⟨_, rfl⟩
    · exact ⟨l, rfl⟩

@[simp] theorem State.count_fields (s : State) (die event : Nat) (who : Option Cid) (n : Nat) :
   (s.count die event who n).pending = s.pending ∧ (s.count die event who n).phase = s.phase ∧ (s.count die event who n).pins = s.pins ∧
    (s.count die event who n).flash = s.flash ∧ (s.count die event who n).bring = s.bring ∧ (s.count die event who n).time = s.time ∧
    (s.count die event who n).fresh = s.fresh ∧ (s.count die event who n).mem = s.mem ∧ (s.count die event who n).own = s.own ∧
    (s.count die event who n).regs = s.regs ∧ (s.count die event who n).shadow = s.shadow ∧ (s.count die event who n).latch = s.latch ∧
    (s.count die event who n).held = s.held ∧ (s.count die event who n).tierB0 = s.tierB0 ∧ (s.count die event who n).tierB1 = s.tierB1 ∧
    (s.count die event who n).degradeGen = s.degradeGen ∧ (s.count die event who n).svc = s.svc ∧
    (s.count die event who n).fatal = s.fatal ∧ (s.count die event who n).released = s.released ∧
    (s.count die event who n).hosts = s.hosts ∧ (s.count die event who n).cells = s.cells ∧ (s.count die event who n).ochres = s.ochres ∧
    (s.count die event who n).rings = s.rings ∧ (s.count die event who n).cmds = s.cmds ∧ (s.count die event who n).ctxs = s.ctxs ∧
    (s.count die event who n).soVal = s.soVal ∧ (s.count die event who n).soOwn = s.soOwn ∧ (s.count die event who n).soBad = s.soBad ∧
    (s.count die event who n).cellErr = s.cellErr ∧ (s.count die event who n).fatalRecs = s.fatalRecs ∧
    (s.count die event who n).hbm = s.hbm ∧ (s.count die event who n).coh = s.coh ∧ (s.count die event who n).links = s.links ∧
    (s.count die event who n).fab = s.fab ∧ (s.count die event who n).roots = s.roots ∧ (s.count die event who n).qps = s.qps ∧
    (s.count die event who n).front = s.front ∧ (s.count die event who n).power = s.power ∧ (s.count die event who n).sec = s.sec ∧
    (s.count die event who n).warm = s.warm ∧ (s.count die event who n).xlt = s.xlt ∧ (s.count die event who n).mc = s.mc ∧
    (s.count die event who n).irqs = s.irqs := by
  obtain ⟨x0, h⟩ := State.count_only s die event who n
  rw [h]
  exact ⟨rfl, rfl, rfl, rfl, rfl, rfl, rfl, rfl, rfl, rfl, rfl, rfl, rfl, rfl, rfl, rfl, rfl, rfl, rfl, rfl, rfl, rfl, rfl, rfl, rfl, rfl, rfl, rfl, rfl, rfl, rfl, rfl, rfl, rfl, rfl, rfl, rfl, rfl, rfl, rfl, rfl, rfl, rfl⟩

@[simp] theorem State.count_parts (s : State) (die event : Nat) (who : Option Cid) (n : Nat) :
   (∀ i, (s.count die event who n).host i = s.host i) ∧ (∀ i, (s.count die event who n).cell i = s.cell i) ∧
    (∀ i, (s.count die event who n).ochre i = s.ochre i) ∧ (∀ i, (s.count die event who n).ring i = s.ring i) ∧
    (∀ cid, (s.count die event who n).ctx cid = s.ctx cid) ∧ (∀ i, (s.count die event who n).root i = s.root i) ∧
    (∀ i j, (s.count die event who n).qp i j = s.qp i j) ∧ (∀ i, (s.count die event who n).link i = s.link i) ∧
    (∀ i, (s.count die event who n).port i = s.port i) ∧ (∀ i, (s.count die event who n).gust i = s.gust i) ∧
    (∀ i, (s.count die event who n).reg i = s.reg i) ∧ (∀ i, (s.count die event who n).shadowOf i = s.shadowOf i) ∧
    (∀ i q, (s.count die event who n).cmd i q = s.cmd i q) ∧ (∀ i, (s.count die event who n).so i = s.so i) ∧
    (∀ i, (s.count die event who n).soOwner i = s.soOwner i) ∧ (∀ i, (s.count die event who n).soBroken i = s.soBroken i) ∧
    (∀ i, (s.count die event who n).owner i = s.owner i) ∧ (∀ i, (s.count die event who n).chan i = s.chan i) ∧
    (∀ i j, (s.count die event who n).band i j = s.band i j) ∧ (∀ i, (s.count die event who n).readByte i = s.readByte i) ∧
    (∀ i, (s.count die event who n).dirEntry i = s.dirEntry i) := by
  obtain ⟨x0, h⟩ := State.count_only s die event who n
  rw [h]
  exact ⟨fun _ => rfl, fun _ => rfl, fun _ => rfl, fun _ => rfl, fun _ => rfl, fun _ => rfl, fun _ _ => rfl, fun _ => rfl, fun _ => rfl, fun _ => rfl, fun _ => rfl, fun _ => rfl, fun _ _ => rfl, fun _ => rfl, fun _ => rfl, fun _ => rfl, fun _ => rfl, fun _ => rfl, fun _ _ => rfl, fun _ => rfl, fun _ => rfl⟩

theorem State.tally_only (s : State) (who : Option (Nat × Word)) (k n : Nat) : ∃ x0, s.tally who k n = { s with cmds := x0 } := by
  unfold State.tally
  split
  · exact ⟨_, rfl⟩
  · split <;> exact ⟨_, rfl⟩

@[simp] theorem State.tally_fields (s : State) (who : Option (Nat × Word)) (k n : Nat) :
   (s.tally who k n).pending = s.pending ∧ (s.tally who k n).phase = s.phase ∧ (s.tally who k n).pins = s.pins ∧
    (s.tally who k n).flash = s.flash ∧ (s.tally who k n).bring = s.bring ∧ (s.tally who k n).time = s.time ∧
    (s.tally who k n).fresh = s.fresh ∧ (s.tally who k n).mem = s.mem ∧ (s.tally who k n).own = s.own ∧ (s.tally who k n).regs = s.regs ∧
    (s.tally who k n).shadow = s.shadow ∧ (s.tally who k n).latch = s.latch ∧ (s.tally who k n).held = s.held ∧
    (s.tally who k n).tierB0 = s.tierB0 ∧ (s.tally who k n).tierB1 = s.tierB1 ∧ (s.tally who k n).degradeGen = s.degradeGen ∧
    (s.tally who k n).svc = s.svc ∧ (s.tally who k n).fatal = s.fatal ∧ (s.tally who k n).released = s.released ∧
    (s.tally who k n).hosts = s.hosts ∧ (s.tally who k n).cells = s.cells ∧ (s.tally who k n).ochres = s.ochres ∧
    (s.tally who k n).logs = s.logs ∧ (s.tally who k n).rings = s.rings ∧ (s.tally who k n).ctxs = s.ctxs ∧
    (s.tally who k n).soVal = s.soVal ∧ (s.tally who k n).soOwn = s.soOwn ∧ (s.tally who k n).soBad = s.soBad ∧
    (s.tally who k n).cellErr = s.cellErr ∧ (s.tally who k n).fatalRecs = s.fatalRecs ∧ (s.tally who k n).hbm = s.hbm ∧
    (s.tally who k n).coh = s.coh ∧ (s.tally who k n).links = s.links ∧ (s.tally who k n).fab = s.fab ∧
    (s.tally who k n).roots = s.roots ∧ (s.tally who k n).qps = s.qps ∧ (s.tally who k n).front = s.front ∧
    (s.tally who k n).power = s.power ∧ (s.tally who k n).sec = s.sec ∧ (s.tally who k n).warm = s.warm ∧ (s.tally who k n).xlt = s.xlt ∧
    (s.tally who k n).mc = s.mc ∧ (s.tally who k n).irqs = s.irqs := by
  obtain ⟨x0, h⟩ := State.tally_only s who k n
  rw [h]
  exact ⟨rfl, rfl, rfl, rfl, rfl, rfl, rfl, rfl, rfl, rfl, rfl, rfl, rfl, rfl, rfl, rfl, rfl, rfl, rfl, rfl, rfl, rfl, rfl, rfl, rfl, rfl, rfl, rfl, rfl, rfl, rfl, rfl, rfl, rfl, rfl, rfl, rfl, rfl, rfl, rfl, rfl, rfl, rfl⟩

@[simp] theorem State.tally_parts (s : State) (who : Option (Nat × Word)) (k n : Nat) :
   (∀ i, (s.tally who k n).host i = s.host i) ∧ (∀ i, (s.tally who k n).cell i = s.cell i) ∧
    (∀ i, (s.tally who k n).ochre i = s.ochre i) ∧ (∀ i, (s.tally who k n).log i = s.log i) ∧ (∀ i, (s.tally who k n).ring i = s.ring i) ∧
    (∀ cid, (s.tally who k n).ctx cid = s.ctx cid) ∧ (∀ i, (s.tally who k n).root i = s.root i) ∧
    (∀ i j, (s.tally who k n).qp i j = s.qp i j) ∧ (∀ i, (s.tally who k n).link i = s.link i) ∧
    (∀ i, (s.tally who k n).port i = s.port i) ∧ (∀ i, (s.tally who k n).gust i = s.gust i) ∧ (∀ i, (s.tally who k n).reg i = s.reg i) ∧
    (∀ i, (s.tally who k n).shadowOf i = s.shadowOf i) ∧ (∀ i, (s.tally who k n).so i = s.so i) ∧
    (∀ i, (s.tally who k n).soOwner i = s.soOwner i) ∧ (∀ i, (s.tally who k n).soBroken i = s.soBroken i) ∧
    (∀ i, (s.tally who k n).owner i = s.owner i) ∧ (∀ i, (s.tally who k n).chan i = s.chan i) ∧
    (∀ i j, (s.tally who k n).band i j = s.band i j) ∧ (∀ i, (s.tally who k n).readByte i = s.readByte i) ∧
    (∀ i, (s.tally who k n).dirEntry i = s.dirEntry i) := by
  obtain ⟨x0, h⟩ := State.tally_only s who k n
  rw [h]
  exact ⟨fun _ => rfl, fun _ => rfl, fun _ => rfl, fun _ => rfl, fun _ => rfl, fun _ => rfl, fun _ => rfl, fun _ _ => rfl, fun _ => rfl, fun _ => rfl, fun _ => rfl, fun _ => rfl, fun _ => rfl, fun _ => rfl, fun _ => rfl, fun _ => rfl, fun _ => rfl, fun _ => rfl, fun _ _ => rfl, fun _ => rfl, fun _ => rfl⟩

theorem State.vecDone_only (s : State) (g : Nat) (x : Job) (n : Nat) : ∃ x0 x1 x2, s.vecDone g x n = { s with cells := x0, logs := x1, cmds := x2 } := by
  unfold State.vecDone
  dsimp only
  generalize hu : s.setCell g _ = u
  obtain ⟨l, h2⟩ := State.count_only u (g / 64) 0x04 (some x.cid) n
  rw [h2]
  obtain ⟨c, h1⟩ := State.tally_only { u with logs := l } (some (x.ring, x.seq)) 2 n
  rw [h1, ← hu]
  exact ⟨_, _, _, rfl⟩

@[simp] theorem State.vecDone_fields (s : State) (g : Nat) (x : Job) (n : Nat) :
   (s.vecDone g x n).pending = s.pending ∧ (s.vecDone g x n).phase = s.phase ∧ (s.vecDone g x n).pins = s.pins ∧
    (s.vecDone g x n).flash = s.flash ∧ (s.vecDone g x n).bring = s.bring ∧ (s.vecDone g x n).time = s.time ∧
    (s.vecDone g x n).fresh = s.fresh ∧ (s.vecDone g x n).mem = s.mem ∧ (s.vecDone g x n).own = s.own ∧ (s.vecDone g x n).regs = s.regs ∧
    (s.vecDone g x n).shadow = s.shadow ∧ (s.vecDone g x n).latch = s.latch ∧ (s.vecDone g x n).held = s.held ∧
    (s.vecDone g x n).tierB0 = s.tierB0 ∧ (s.vecDone g x n).tierB1 = s.tierB1 ∧ (s.vecDone g x n).degradeGen = s.degradeGen ∧
    (s.vecDone g x n).svc = s.svc ∧ (s.vecDone g x n).fatal = s.fatal ∧ (s.vecDone g x n).released = s.released ∧
    (s.vecDone g x n).hosts = s.hosts ∧ (s.vecDone g x n).ochres = s.ochres ∧ (s.vecDone g x n).rings = s.rings ∧
    (s.vecDone g x n).ctxs = s.ctxs ∧ (s.vecDone g x n).soVal = s.soVal ∧ (s.vecDone g x n).soOwn = s.soOwn ∧
    (s.vecDone g x n).soBad = s.soBad ∧ (s.vecDone g x n).cellErr = s.cellErr ∧ (s.vecDone g x n).fatalRecs = s.fatalRecs ∧
    (s.vecDone g x n).hbm = s.hbm ∧ (s.vecDone g x n).coh = s.coh ∧ (s.vecDone g x n).links = s.links ∧ (s.vecDone g x n).fab = s.fab ∧
    (s.vecDone g x n).roots = s.roots ∧ (s.vecDone g x n).qps = s.qps ∧ (s.vecDone g x n).front = s.front ∧
    (s.vecDone g x n).power = s.power ∧ (s.vecDone g x n).sec = s.sec ∧ (s.vecDone g x n).warm = s.warm ∧ (s.vecDone g x n).xlt = s.xlt ∧
    (s.vecDone g x n).mc = s.mc ∧ (s.vecDone g x n).irqs = s.irqs := by
  obtain ⟨x0, x1, x2, h⟩ := State.vecDone_only s g x n
  rw [h]
  exact ⟨rfl, rfl, rfl, rfl, rfl, rfl, rfl, rfl, rfl, rfl, rfl, rfl, rfl, rfl, rfl, rfl, rfl, rfl, rfl, rfl, rfl, rfl, rfl, rfl, rfl, rfl, rfl, rfl, rfl, rfl, rfl, rfl, rfl, rfl, rfl, rfl, rfl, rfl, rfl, rfl, rfl⟩

@[simp] theorem State.vecDone_parts (s : State) (g : Nat) (x : Job) (n : Nat) :
   (∀ i, (s.vecDone g x n).host i = s.host i) ∧ (∀ i, (s.vecDone g x n).ochre i = s.ochre i) ∧
    (∀ i, (s.vecDone g x n).ring i = s.ring i) ∧ (∀ cid, (s.vecDone g x n).ctx cid = s.ctx cid) ∧
    (∀ i, (s.vecDone g x n).root i = s.root i) ∧ (∀ i j, (s.vecDone g x n).qp i j = s.qp i j) ∧
    (∀ i, (s.vecDone g x n).link i = s.link i) ∧ (∀ i, (s.vecDone g x n).port i = s.port i) ∧ (∀ i, (s.vecDone g x n).gust i = s.gust i) ∧
    (∀ i, (s.vecDone g x n).reg i = s.reg i) ∧ (∀ i, (s.vecDone g x n).shadowOf i = s.shadowOf i) ∧
    (∀ i, (s.vecDone g x n).so i = s.so i) ∧ (∀ i, (s.vecDone g x n).soOwner i = s.soOwner i) ∧
    (∀ i, (s.vecDone g x n).soBroken i = s.soBroken i) ∧ (∀ i, (s.vecDone g x n).owner i = s.owner i) ∧
    (∀ i, (s.vecDone g x n).chan i = s.chan i) ∧ (∀ i j, (s.vecDone g x n).band i j = s.band i j) ∧
    (∀ i, (s.vecDone g x n).readByte i = s.readByte i) ∧ (∀ i, (s.vecDone g x n).dirEntry i = s.dirEntry i) := by
  obtain ⟨x0, x1, x2, h⟩ := State.vecDone_only s g x n
  rw [h]
  exact ⟨fun _ => rfl, fun _ => rfl, fun _ => rfl, fun _ => rfl, fun _ => rfl, fun _ _ => rfl, fun _ => rfl, fun _ => rfl, fun _ => rfl, fun _ => rfl, fun _ => rfl, fun _ => rfl, fun _ => rfl, fun _ => rfl, fun _ => rfl, fun _ => rfl, fun _ _ => rfl, fun _ => rfl, fun _ => rfl⟩

theorem State.vecPut_only (s : State) (g : Nat) (x : Job) (w : VWord) (bs : List Byte) : ∃ x0 x1 x2, s.vecPut g x w bs = { s with cells := x0, logs := x1, cmds := x2 } := by
  unfold State.vecPut
  dsimp only
  obtain ⟨c, l, m, h⟩ := State.vecDone_only (s.setCell g { s.cell g with vec := (s.cell g).vec.put w.d bs }) g x w.e
  rw [h]
  exact ⟨_, _, _, rfl⟩

@[simp] theorem State.vecPut_fields (s : State) (g : Nat) (x : Job) (w : VWord) (bs : List Byte) :
   (s.vecPut g x w bs).pending = s.pending ∧ (s.vecPut g x w bs).phase = s.phase ∧ (s.vecPut g x w bs).pins = s.pins ∧
    (s.vecPut g x w bs).flash = s.flash ∧ (s.vecPut g x w bs).bring = s.bring ∧ (s.vecPut g x w bs).time = s.time ∧
    (s.vecPut g x w bs).fresh = s.fresh ∧ (s.vecPut g x w bs).mem = s.mem ∧ (s.vecPut g x w bs).own = s.own ∧
    (s.vecPut g x w bs).regs = s.regs ∧ (s.vecPut g x w bs).shadow = s.shadow ∧ (s.vecPut g x w bs).latch = s.latch ∧
    (s.vecPut g x w bs).held = s.held ∧ (s.vecPut g x w bs).tierB0 = s.tierB0 ∧ (s.vecPut g x w bs).tierB1 = s.tierB1 ∧
    (s.vecPut g x w bs).degradeGen = s.degradeGen ∧ (s.vecPut g x w bs).svc = s.svc ∧ (s.vecPut g x w bs).fatal = s.fatal ∧
    (s.vecPut g x w bs).released = s.released ∧ (s.vecPut g x w bs).hosts = s.hosts ∧ (s.vecPut g x w bs).ochres = s.ochres ∧
    (s.vecPut g x w bs).rings = s.rings ∧ (s.vecPut g x w bs).ctxs = s.ctxs ∧ (s.vecPut g x w bs).soVal = s.soVal ∧
    (s.vecPut g x w bs).soOwn = s.soOwn ∧ (s.vecPut g x w bs).soBad = s.soBad ∧ (s.vecPut g x w bs).cellErr = s.cellErr ∧
    (s.vecPut g x w bs).fatalRecs = s.fatalRecs ∧ (s.vecPut g x w bs).hbm = s.hbm ∧ (s.vecPut g x w bs).coh = s.coh ∧
    (s.vecPut g x w bs).links = s.links ∧ (s.vecPut g x w bs).fab = s.fab ∧ (s.vecPut g x w bs).roots = s.roots ∧
    (s.vecPut g x w bs).qps = s.qps ∧ (s.vecPut g x w bs).front = s.front ∧ (s.vecPut g x w bs).power = s.power ∧
    (s.vecPut g x w bs).sec = s.sec ∧ (s.vecPut g x w bs).warm = s.warm ∧ (s.vecPut g x w bs).xlt = s.xlt ∧
    (s.vecPut g x w bs).mc = s.mc ∧ (s.vecPut g x w bs).irqs = s.irqs := by
  obtain ⟨x0, x1, x2, h⟩ := State.vecPut_only s g x w bs
  rw [h]
  exact ⟨rfl, rfl, rfl, rfl, rfl, rfl, rfl, rfl, rfl, rfl, rfl, rfl, rfl, rfl, rfl, rfl, rfl, rfl, rfl, rfl, rfl, rfl, rfl, rfl, rfl, rfl, rfl, rfl, rfl, rfl, rfl, rfl, rfl, rfl, rfl, rfl, rfl, rfl, rfl, rfl, rfl⟩

@[simp] theorem State.vecPut_parts (s : State) (g : Nat) (x : Job) (w : VWord) (bs : List Byte) :
   (∀ i, (s.vecPut g x w bs).host i = s.host i) ∧ (∀ i, (s.vecPut g x w bs).ochre i = s.ochre i) ∧
    (∀ i, (s.vecPut g x w bs).ring i = s.ring i) ∧ (∀ cid, (s.vecPut g x w bs).ctx cid = s.ctx cid) ∧
    (∀ i, (s.vecPut g x w bs).root i = s.root i) ∧ (∀ i j, (s.vecPut g x w bs).qp i j = s.qp i j) ∧
    (∀ i, (s.vecPut g x w bs).link i = s.link i) ∧ (∀ i, (s.vecPut g x w bs).port i = s.port i) ∧
    (∀ i, (s.vecPut g x w bs).gust i = s.gust i) ∧ (∀ i, (s.vecPut g x w bs).reg i = s.reg i) ∧
    (∀ i, (s.vecPut g x w bs).shadowOf i = s.shadowOf i) ∧ (∀ i, (s.vecPut g x w bs).so i = s.so i) ∧
    (∀ i, (s.vecPut g x w bs).soOwner i = s.soOwner i) ∧ (∀ i, (s.vecPut g x w bs).soBroken i = s.soBroken i) ∧
    (∀ i, (s.vecPut g x w bs).owner i = s.owner i) ∧ (∀ i, (s.vecPut g x w bs).chan i = s.chan i) ∧
    (∀ i j, (s.vecPut g x w bs).band i j = s.band i j) ∧ (∀ i, (s.vecPut g x w bs).readByte i = s.readByte i) ∧
    (∀ i, (s.vecPut g x w bs).dirEntry i = s.dirEntry i) := by
  obtain ⟨x0, x1, x2, h⟩ := State.vecPut_only s g x w bs
  rw [h]
  exact ⟨fun _ => rfl, fun _ => rfl, fun _ => rfl, fun _ => rfl, fun _ => rfl, fun _ _ => rfl, fun _ => rfl, fun _ => rfl, fun _ => rfl, fun _ => rfl, fun _ => rfl, fun _ => rfl, fun _ => rfl, fun _ => rfl, fun _ => rfl, fun _ => rfl, fun _ _ => rfl, fun _ => rfl, fun _ => rfl⟩

theorem State.countPath_only (s : State) (g b t : Nat) (x : Block) (y : Thread) : ∃ x0 x1, s.countPath g b t x y = { s with logs := x0, cmds := x1 } := by
  unfold State.countPath
  split
  · exact ⟨_, _, rfl⟩
  · split
    · obtain ⟨l, h2⟩ := State.count_only s (g / 64) 0x05 (some x.cid) 1
      rw [h2]
      obtain ⟨c, h1⟩ := State.tally_only { s with logs := l } (some (x.ring, x.seq)) 3 1
      rw [h1]
      exact ⟨_, _, rfl⟩
    · exact ⟨_, _, rfl⟩

@[simp] theorem State.countPath_fields (s : State) (g b t : Nat) (x : Block) (y : Thread) :
   (s.countPath g b t x y).pending = s.pending ∧ (s.countPath g b t x y).phase = s.phase ∧ (s.countPath g b t x y).pins = s.pins ∧
    (s.countPath g b t x y).flash = s.flash ∧ (s.countPath g b t x y).bring = s.bring ∧ (s.countPath g b t x y).time = s.time ∧
    (s.countPath g b t x y).fresh = s.fresh ∧ (s.countPath g b t x y).mem = s.mem ∧ (s.countPath g b t x y).own = s.own ∧
    (s.countPath g b t x y).regs = s.regs ∧ (s.countPath g b t x y).shadow = s.shadow ∧ (s.countPath g b t x y).latch = s.latch ∧
    (s.countPath g b t x y).held = s.held ∧ (s.countPath g b t x y).tierB0 = s.tierB0 ∧ (s.countPath g b t x y).tierB1 = s.tierB1 ∧
    (s.countPath g b t x y).degradeGen = s.degradeGen ∧ (s.countPath g b t x y).svc = s.svc ∧ (s.countPath g b t x y).fatal = s.fatal ∧
    (s.countPath g b t x y).released = s.released ∧ (s.countPath g b t x y).hosts = s.hosts ∧ (s.countPath g b t x y).cells = s.cells ∧
    (s.countPath g b t x y).ochres = s.ochres ∧ (s.countPath g b t x y).rings = s.rings ∧ (s.countPath g b t x y).ctxs = s.ctxs ∧
    (s.countPath g b t x y).soVal = s.soVal ∧ (s.countPath g b t x y).soOwn = s.soOwn ∧ (s.countPath g b t x y).soBad = s.soBad ∧
    (s.countPath g b t x y).cellErr = s.cellErr ∧ (s.countPath g b t x y).fatalRecs = s.fatalRecs ∧ (s.countPath g b t x y).hbm = s.hbm ∧
    (s.countPath g b t x y).coh = s.coh ∧ (s.countPath g b t x y).links = s.links ∧ (s.countPath g b t x y).fab = s.fab ∧
    (s.countPath g b t x y).roots = s.roots ∧ (s.countPath g b t x y).qps = s.qps ∧ (s.countPath g b t x y).front = s.front ∧
    (s.countPath g b t x y).power = s.power ∧ (s.countPath g b t x y).sec = s.sec ∧ (s.countPath g b t x y).warm = s.warm ∧
    (s.countPath g b t x y).xlt = s.xlt ∧ (s.countPath g b t x y).mc = s.mc ∧ (s.countPath g b t x y).irqs = s.irqs := by
  obtain ⟨x0, x1, h⟩ := State.countPath_only s g b t x y
  rw [h]
  exact ⟨rfl, rfl, rfl, rfl, rfl, rfl, rfl, rfl, rfl, rfl, rfl, rfl, rfl, rfl, rfl, rfl, rfl, rfl, rfl, rfl, rfl, rfl, rfl, rfl, rfl, rfl, rfl, rfl, rfl, rfl, rfl, rfl, rfl, rfl, rfl, rfl, rfl, rfl, rfl, rfl, rfl, rfl⟩

@[simp] theorem State.countPath_parts (s : State) (g b t : Nat) (x : Block) (y : Thread) :
   (∀ i, (s.countPath g b t x y).host i = s.host i) ∧ (∀ i, (s.countPath g b t x y).cell i = s.cell i) ∧
    (∀ i, (s.countPath g b t x y).ochre i = s.ochre i) ∧ (∀ i, (s.countPath g b t x y).ring i = s.ring i) ∧
    (∀ cid, (s.countPath g b t x y).ctx cid = s.ctx cid) ∧ (∀ i, (s.countPath g b t x y).root i = s.root i) ∧
    (∀ i j, (s.countPath g b t x y).qp i j = s.qp i j) ∧ (∀ i, (s.countPath g b t x y).link i = s.link i) ∧
    (∀ i, (s.countPath g b t x y).port i = s.port i) ∧ (∀ i, (s.countPath g b t x y).gust i = s.gust i) ∧
    (∀ i, (s.countPath g b t x y).reg i = s.reg i) ∧ (∀ i, (s.countPath g b t x y).shadowOf i = s.shadowOf i) ∧
    (∀ i, (s.countPath g b t x y).so i = s.so i) ∧ (∀ i, (s.countPath g b t x y).soOwner i = s.soOwner i) ∧
    (∀ i, (s.countPath g b t x y).soBroken i = s.soBroken i) ∧ (∀ i, (s.countPath g b t x y).owner i = s.owner i) ∧
    (∀ i, (s.countPath g b t x y).chan i = s.chan i) ∧ (∀ i j, (s.countPath g b t x y).band i j = s.band i j) ∧
    (∀ i, (s.countPath g b t x y).readByte i = s.readByte i) ∧ (∀ i, (s.countPath g b t x y).dirEntry i = s.dirEntry i) := by
  obtain ⟨x0, x1, h⟩ := State.countPath_only s g b t x y
  rw [h]
  exact ⟨fun _ => rfl, fun _ => rfl, fun _ => rfl, fun _ => rfl, fun _ => rfl, fun _ => rfl, fun _ _ => rfl, fun _ => rfl, fun _ => rfl, fun _ => rfl, fun _ => rfl, fun _ => rfl, fun _ => rfl, fun _ => rfl, fun _ => rfl, fun _ => rfl, fun _ => rfl, fun _ _ => rfl, fun _ => rfl, fun _ => rfl⟩

/-! ### What the cells are after the shared operations -/

@[simp] theorem State.retire_cell (s : State) (g rd h : Nat) (v : DWord) :
    (s.retire g rd v).cell h = if h = g then { s.cell g with core := (s.cell g).core.retire rd v 4 } else s.cell h :=
  State.setCell_cell ..

@[simp] theorem State.clearHalt_ochre (s : State) (g d : Nat) :
    (s.clearHalt g).ochre d =
      if d = g / 64 then { s.ochre d with dbgHalt := (s.ochre d).dbgHalt &&& ~~~(1 <<< (g % 64) : DWord) } else s.ochre d := by
  unfold State.clearHalt
  simp only [State.setOchre_ochre]
  by_cases e : d = g / 64 <;> simp [e]

theorem State.endItem_cell_ne (s : State) (g h : Nat) (st : Status) (e : h ≠ g) : (s.endItem g st).cell h = s.cell h := by
  unfold State.endItem
  dsimp only
  split
  · rfl
  · split
    · rfl
    · simp [e]

@[simp] theorem State.endItem_cell_mem (s : State) (g h : Nat) (st : Status) : ((s.endItem g st).cell h).mem = (s.cell h).mem := by
  unfold State.endItem
  dsimp only
  split
  · rfl
  · split
    · rfl
    · by_cases e : h = g <;> simp [e]

/-- The item of the cell after it ends. -/
theorem State.endItem_job (s : State) (g : Nat) (j : Job) (st : Status) (h : (s.cell g).job = some j) (h1 : j.ended = none) :
    ((s.endItem g st).cell g).job = some { j with ended := some st } := by
  rw [State.endItem_runs s g j st h h1]
  simp

@[simp] theorem State.onBlock_cell (s : State) (g b h : Nat) (f : Block → Block) :
    (s.onBlock g b f).cell h = if h = g then { s.cell g with blocks := (s.cell g).blocks.modify b f } else s.cell h :=
  State.setCell_cell ..

@[simp] theorem State.endBlock_cell (s : State) (g b h : Nat) (st : Status) :
    (s.endBlock g b st).cell h =
      if h = g then { s.cell g with blocks := (s.cell g).blocks.modify b fun x => x.endWith st } else s.cell h :=
  State.setCell_cell ..

@[simp] theorem State.onThreadAt_cell (s : State) (g b t h : Nat) (f : Thread → Thread) :
    (s.onThreadAt g b t f).cell h =
      if h = g then { s.cell g with blocks := (s.cell g).blocks.modify b fun x => x.onT t f } else s.cell h :=
  State.setCell_cell ..

theorem State.repartition_cell_ne (s : State) (g h : Nat) (p : Partition) (e : h ≠ g) : (s.repartition g p).cell h = s.cell h := by
  unfold State.repartition
  dsimp only
  split
  · show (State.setCell _ g _).cell h = _
    simp [e]; rfl
  · simp [e]

/-- A partition that takes no byte from the first-level cache leaves memory as it was. -/
theorem State.repartition_keeps (s : State) (g : Nat) (p : Partition) (h : (s.cell g).part.l1 ≤ p.l1) :
    s.repartition g p = s.setCell g { s.cell g with part := p } := by
  unfold State.repartition
  simp [Nat.not_lt.2 h]

/-- The command under a ring and sequence once an item of it has ended. -/
theorem State.itemDone_cmd (s : State) (r : Nat) (q : Word) (i : Nat) (st : Status) (c : Cmd) (h : s.cmd r q = some c)
    (h1 : (Cmd.noteEnd c.soe c i st).ring = c.ring) (h2 : (Cmd.noteEnd c.soe c i st).seq = c.seq) :
    (s.itemDone r q i st).cmd r q = some (Cmd.noteEnd c.soe c i st) := by
  obtain ⟨e1, e2⟩ := State.cmd_some s r q c h
  unfold State.itemDone
  rw [h]
  exact State.setCmd_cmd s r q c _ h (h1.trans e1) (h2.trans e2)

@[simp] theorem Cmd.settle_ids (c : Cmd) : c.settle.ring = c.ring ∧ c.settle.seq = c.seq := by
  unfold Cmd.settle; split <;> split <;> exact ⟨rfl, rfl⟩

@[simp] theorem Cmd.noteBad_ids (c : Cmd) (i : Nat) (st : Status) : (c.noteBad i st).ring = c.ring ∧ (c.noteBad i st).seq = c.seq := by
  unfold Cmd.noteBad; split
  · split <;> exact ⟨rfl, rfl⟩
  · exact ⟨rfl, rfl⟩

@[simp] theorem Cmd.noteEnd_ids (soe : Bool) (c : Cmd) (i : Nat) (st : Status) :
    (Cmd.noteEnd soe c i st).ring = c.ring ∧ (Cmd.noteEnd soe c i st).seq = c.seq := by
  unfold Cmd.noteEnd; split
  · simp
  · simp

@[simp] theorem Cmd.cut_ids (c : Cmd) : c.cut.ring = c.ring ∧ c.cut.seq = c.seq := by
  unfold Cmd.cut
  dsimp only
  split
  · split <;> simp
  · split
    · split <;> simp
    · exact ⟨rfl, rfl⟩
  · exact ⟨rfl, rfl⟩

/-- The command under a ring and sequence after counts are added to it. -/
theorem State.tally_cmd (s : State) (who : Option (Nat × Word)) (k n r : Nat) (q : Word) (c : Cmd) (h : s.cmd r q = some c) :
    ∃ l, (s.tally who k n).cmd r q = some { c with counts := l } := by
  unfold State.tally
  split
  · exact ⟨_, h⟩
  · rename_i r' q'
    split
    · exact ⟨_, h⟩
    · unfold State.cmd at h ⊢
      dsimp only
      generalize s.cmds = l at h
      induction l with
      | nil => simp at h
      | cons a l ih =>
        simp only [List.map_cons, List.find?_cons] at h ⊢
        by_cases e : (a.ring == r && a.seq == q) = true
        · simp only [e] at h
          injection h with h
          subst h
          by_cases e2 : (a.ring == r' && a.seq == q') = true
          · simp only [e2, if_true, e]; exact ⟨_, rfl⟩
          · simp only [Bool.not_eq_true] at e2
            simp only [e2, Bool.false_eq_true, if_false, e]; exact ⟨a.counts, rfl⟩
        · simp only [Bool.not_eq_true] at e
          simp only [e] at h
          by_cases e2 : (a.ring == r' && a.seq == q') = true
          · simpa only [e2, if_true, e] using ih h
          · simp only [Bool.not_eq_true] at e2
            simpa only [e2, Bool.false_eq_true, if_false, e] using ih h

/-- What the i-th block of a list is after a change of the b-th. -/
theorem blocks_modify (l : List Block) (b c : Nat) (f : Block → Block) :
    (l.modify b f)[c]? = if c = b then (l[b]?).map f else l[c]? := by
  rw [List.getElem?_modify]
  by_cases e : b = c
  · subst e; cases l[b]? <;> simp
  · simp [e, Ne.symm e]


end Sys2Proof.Machine
end

