-- ==== Sys2Proof/WellFormed.lean ====
section
/-! DEFINITION. Which commands are well formed: an operand that the manual numbers stays within its numbering. -/

namespace Sys2Proof

/-- Operands within the ranges of the rule that each command's docstring names. -/
def Instr.wf : Instr → Bool
  | .registerWrite _ _ _ => true
  | .stagedWrite _ _ _ => true
  | .lowHalfReadLatch _ _ n => 1 ≤ n && n ≤ 4
  | .lowHalfWriteHold _ _ _ => true
  | .highHalfWrite _ _ _ => true
  | .dispatchWorkItem _ _ => true
  | .workItemStart _ => true
  | .workItemEnd _ item => item < 2 ^ 24
  | .workItemTimeout _ item => item < 2 ^ 24
  | .emat _ _ _ => true
  | .evec _ _ _ _ => true
  | .evec2 _ _ _ _ _ => true
  | .estr _ _ _ => true
  | .ewait _ _ _ _ => true
  | .esig _ _ _ => true
  | .esigAddition _ => true
  | .ewso _ _ _ _ => true
  | .efence _ _ => true
  | .edone _ _ => true
  | .fenceI _ => true
  | .ebreak _ _ => true
  | .dbgResume _ _ => true
  | .dbgDataWrite _ _ => true
  | .matrixBlockStart _ => true
  | .readyReceived _ _ => true
  | .rawStreamSend _ => true
  | .rawStreamLanded _ _ => true
  | .matrixDrain _ => true
  | .drainQueuePush _ => true
  | .matrixTicketComplete _ _ => true
  | .vld _ => true
  | .vst _ => true
  | .pop _ => true
  | .cvt _ => true
  | .quant _ => true
  | .dequant _ => true
  | .slice _ => true
  | .expv _ => true
  | .add _ => true
  | .sub _ => true
  | .mul _ => true
  | .div _ => true
  | .fma _ => true
  | .max _ => true
  | .min _ => true
  | .sdiv _ => true
  | .smul _ => true
  | .sqrt _ => true
  | .abs _ => true
  | .neg _ => true
  | .rsum _ => true
  | .rmax _ => true
  | .rmin _ => true
  | .ramax _ => true
  | .rdot _ => true
  | .rstat _ => true
  | .rxs _ => true
  | .rxa _ => true
  | .func _ => true
  | .streamTransfer _ => true
  | .dispatchBlock _ _ => true
  | .gmma _ _ t _ => t < 1024
  | .gmld _ _ t _ => t < 1024
  | .gdrain _ _ t _ => t < 1024
  | .bar _ _ t _ => t < 1024
  | .gsync _ _ t _ => t < 1024
  | .gvote _ _ t _ => t < 1024
  | .gshfl _ _ t _ => t < 1024
  | .eGroupStall _ _ grp => grp < 32
  | .soadd _ _ t _ => t < 1024
  | .sowait _ _ t _ => t < 1024
  | .soread _ _ t _ => t < 1024
  | .tfence _ _ t _ => t < 1024
  | .atomg _ _ t _ => t < 1024
  | .atomb _ _ t _ => t < 1024
  | .exit _ _ t _ => t < 1024
  | .threadLoad _ _ t _ _ _ dst addr => t < 1024 && dst < 256 && addr < 256
  | .threadStore _ _ t _ _ addr src => t < 1024 && addr < 256 && src < 256
  | .load _ => true
  | .store _ => true
  | .atomic _ => true
  | .lr _ => true
  | .sc _ => true
  | .fence _ _ _ _ => true
  | .yfence _ _ => true
  | .getS _ _ => true
  | .getM _ _ => true
  | .writeback _ _ => true
  | .forwardedRequest _ _ => true
  | .holdEnd _ _ => true
  | .homeRetry _ _ => true
  | .ioCoherentAccess _ _ _ _ => true
  | .nearAtomic _ _ _ _ _ _ => true
  | .finePathAccess _ _ _ => true
  | .lakeWayClean _ set way => set < 49152 && way < 16
  | .bandZeroed _ b => b < 128
  | .patrolScrubPass _ _ _ => true
  | .quotaAdmission => true
  | .hbmLaneFailure _ lane => lane < 80
  | .hbmRetrain _ => true
  | .rowSoftRepair _ band _ _ => band < 128
  | .xltInv _ _ data => data.length == 32
  | .invalidationBroadcast => true
  | .invalidationComplete => true
  | .translationWalk _ _ _ kind => kind < 10
  | .walkFinish _ _ => true
  | .faultRecordWrite _ => true
  | .xltResumeRetry _ _ => true
  | .xltResumeAbort _ _ => true
  | .thirdDeviceRequest _ _ => true
  | .atsTranslationRequest _ _ _ _ => true
  | .priPageRequest _ _ _ _ _ => true
  | .atsInvalidateCompletion _ _ => true
  | .atsInvalidateTimeout _ _ => true
  | .pasidEntryWrite _ _ _ => true
  | .rpDefcidWrite _ _ => true
  | .doorbell _ _ _ => true
  | .ringConfigWrite _ off _ => off < 0x1C && off % 4 == 0
  | .ringCtlSetting _ _ _ => true
  | .run _ _ => true
  | .clear _ => true
  | .abort _ => true
  | .descriptorFetch _ => true
  | .commandAdmit _ => true
  | .commandStart _ => true
  | .nop _ _ => true
  | .cell _ _ => true
  | .kernel _ _ => true
  | .copy _ _ => true
  | .write _ _ => true
  | .collective _ _ => true
  | .ctxOpen _ _ => true
  | .ctxSeal _ _ => true
  | .ctxThaw _ _ => true
  | .ctxClose _ _ => true
  | .commandComplete _ _ => true
  | .hostWarmReset _ => true
  | .preservedStateWrite => true
  | .postedWrite _ _ _ => true
  | .mmioAccess _ _ data n _ => data.length ≤ 8 && n ≤ 8
  | .rootPortLinkDown _ => true
  | .rootPortLinkUp _ => true
  | .hostpathTimeout _ => true
  | .fabricRead _ _ n => n ≤ 512
  | .fabricWrite _ k => k.data.length ≤ 512
  | .fabricAtomic _ _ _ _ _ _ => true
  | .collectiveData _ _ _ _ _ _ => true
  | .fabricResponse _ _ _ => true
  | .fabricForward _ _ => true
  | .packetTransit _ _ => true
  | .fabricRequestTimeout _ => true
  | .wrongRankResend _ => true
  | .routeChoiceChange _ _ => true
  | .routeResume _ _ => true
  | .isobarLaneFailure _ lanesLeft => lanesLeft < 8
  | .prepare _ n _ _ _ => n < 2 ^ 20
  | .prepAck _ => true
  | .prepDone _ _ => true
  | .prepAckTimeout _ => true
  | .missing _ _ _ => true
  | .edgeUpdate _ _ _ => true
  | .commit _ _ => true
  | .commitAck _ => true
  | .commitAckTimeout _ => true
  | .revert => true
  | .preparedTimeout => true
  | .teardown => true
  | .teardownScrubDone => true
  | .teardownDone _ => true
  | .scrubbingReprepare _ => true
  | .timeSync _ => true
  | .collectiveAnnounce _ _ _ _ => true
  | .collectiveTimeout _ _ _ => true
  | .qpDoorbell _ _ _ _ _ => true
  | .send _ _ => true
  | .rdmaWrite _ _ => true
  | .rdmaRead _ _ => true
  | .incomingRdma _ _ _ _ _ => true
  | .incomingSend _ _ _ => true
  | .qpRun _ _ _ => true
  | .keyEntryWrite _ _ _ => true
  | .flitReceive _ _ _ flit => flit.length = 256
  | .nak _ _ _ => true
  | .linkRetrain _ => true
  | .retrain _ => true
  | .retrainComplete _ _ => true
  | .retrainTimeout _ => true
  | .pathResume _ _ => true
  | .activityEstimate _ demand => demand ≤ 1024
  | .ballastHoldEnd _ => true
  | .prewarm _ _ => true
  | .prewarmTimeout _ => true
  | .opReq _ _ _ => true
  | .opReqTimeout _ => true
  | .opSet _ _ => true
  | .opApply _ => true
  | .powerCapWindow _ => true
  | .pwrAlert _ => true
  | .stretchRelease _ => true
  | .droop _ island => island < 128
  | .thermalPoll tj hbm => tj.length == 18 && hbm.length == 12
  | .thermtrip => true
  | .go => true
  | .granuleSet => true
  | .keyNew => true
  | .report => true
  | .sealPrep => true
  | .tenant => true
  | .importTenant _ data => data.length ≤ 61440
  | .exportTenant _ n => n ≤ 61440
  | .setRt _ => true
  | .pasidGrant _ _ _ => true
  | .epochKey _ _ => true
  | .tenantReport _ => true
  | .operatorReq _ _ _ _ => true
  | .mgmtKeyGraceEnd => true
  | .debugChallenge => true
  | .debugUnlock => true
  | .extend => true
  | .errorDetected _ _ => true
  | .ueConsumed _ _ => true
  | .openRecordFlush _ _ => true
  | .heldRecordWrite _ => true
  | .degradeEvent _ => true
  | .pwrGoodRise => true
  | .strapSample => true
  | .pwrGoodFall => true
  | .packageReset => true
  | .hostRstN => true
  | .hostRstCtlGo => true
  | .fcCheck => true
  | .fcCheckDone => true
  | .fcApply _ => true
  | .cancel => true
  | .frontApply => true
  | .devtimeStep _ => true
  | .mcWinRead off n => off + n ≤ 2 ^ 26
  | .mcWinWrite off data => off + data.length ≤ 2 ^ 26
  | .freeze _ _ => true
  | .pmcClear _ => true
  | .counterSample => true
  | .traceLostRecord _ => true
  | .soValWrite _ _ _ => true
  | .soOwnWrite _ _ _ => true
  | .atbSelect _ _ _ => true
  | .testInstrumentRequest _ _ => true
  | .granuleZeroingDone => true
  | .roceAcknowledgement _ _ _ _ => true
  | .transportRetriesExhausted _ _ => true
  | .pkgRstNRise => true
  | .hostRstNRise => true
  | .droopRecovery _ island => island < 128
  | .opExchangeBoundary _ => true
  | .wbDone => true
  | .isobarPortTrained _ lanes => lanes ≤ 8
  | .illegalInstruction _ => true

end Sys2Proof
end

