-- ==== Sys2Proof/Tests/Slice0.lean ====
section
/-! SUPPORT. The model's own tests: refused operands, witnesses for the hypotheses of the statements with what the step then
answers, and single steps on small states. Expected values come from the rules named, by hand. -/

set_option Elab.async false

namespace Sys2Proof.Machine

/-- The outcome is a next state of which p holds. -/
def answers (o : Host.Outcome State Fault Refusal) (p : State → Bool) : Bool :=
  match o with
  | .next t => p t
  | _ => false

/-- Host core c issues its next instruction at once, as a Boolean. -/
def tReady (s : State) (c : HostId) : Bool := s.hostRuns c && s.hostFree c && !(s.host c).barrier && (s.host c).buffer.isEmpty

theorem hostReady_of_tReady (s : State) (c : HostId) (h : tReady s c = true) : s.hostReady c := by
  simpa [tReady, State.hostReady, and_assoc] using h

/-! ### Refused operands: each check of WellFormed refuses a command -/

theorem test_wf_latch : (Instr.lowHalfReadLatch 0 0 5).wf = false ∧ (Instr.lowHalfReadLatch 0 0 0).wf = false := by decide
theorem test_wf_item : (Instr.workItemEnd 0 16777216).wf = false ∧ (Instr.workItemTimeout 0 16777216).wf = false := by decide
theorem test_wf_matrix_thread : (Instr.gmma 0 0 1024 0).wf = false ∧ (Instr.gmld 0 0 1024 0).wf = false ∧
    (Instr.gdrain 0 0 1024 0).wf = false := by decide
theorem test_wf_group_thread : (Instr.bar 0 0 1024 0).wf = false ∧ (Instr.gsync 0 0 1024 0).wf = false ∧
    (Instr.gvote 0 0 1024 0).wf = false ∧ (Instr.gshfl 0 0 1024 0).wf = false ∧ (Instr.exit 0 0 1024 0).wf = false := by decide
theorem test_wf_sync_thread : (Instr.soadd 0 0 1024 0).wf = false ∧ (Instr.sowait 0 0 1024 0).wf = false ∧
    (Instr.soread 0 0 1024 0).wf = false ∧ (Instr.tfence 0 0 1024 0).wf = false := by decide
theorem test_wf_atomic_thread : (Instr.atomg 0 0 1024 0).wf = false ∧ (Instr.atomb 0 0 1024 0).wf = false := by decide
theorem test_wf_group : (Instr.eGroupStall 0 0 32).wf = false := by decide
theorem test_wf_thread_load : (Instr.threadLoad 0 0 1024 true false .b4 0 0).wf = false ∧
    (Instr.threadLoad 0 0 0 true false .b4 256 0).wf = false ∧ (Instr.threadLoad 0 0 0 true false .b4 0 256).wf = false := by decide
theorem test_wf_thread_store : (Instr.threadStore 0 0 1024 true .b4 0 0).wf = false ∧
    (Instr.threadStore 0 0 0 true .b4 256 0).wf = false ∧ (Instr.threadStore 0 0 0 true .b4 0 256).wf = false := by decide
theorem test_wf_lake : (Instr.lakeWayClean 0 49152 0).wf = false ∧ (Instr.lakeWayClean 0 0 16).wf = false := by decide
theorem test_wf_band : (Instr.bandZeroed 0 128).wf = false ∧ (Instr.rowSoftRepair 0 128 0 true).wf = false := by decide
theorem test_wf_lane : (Instr.hbmLaneFailure 0 80).wf = false ∧ (Instr.isobarLaneFailure 0 8).wf = false ∧
    (Instr.isobarPortTrained 0 9).wf = false := by decide
theorem test_wf_inv : (Instr.xltInv 0 0 (List.replicate 31 0)).wf = false := by decide
theorem test_wf_walk : (Instr.translationWalk 0 0 0 10).wf = false := by decide
theorem test_wf_ring : (Instr.ringConfigWrite 0 0x1C 0).wf = false ∧ (Instr.ringConfigWrite 0 2 0).wf = false := by decide
theorem test_wf_mmio : (Instr.mmioAccess (.host 0) 0 (List.replicate 9 0) 8 .refused).wf = false ∧
    (Instr.mmioAccess (.host 0) 0 [] 9 .refused).wf = false := by decide
theorem test_wf_prepare : (Instr.prepare 1 1048576 0 ⟨0, false⟩ 0).wf = false := by decide
theorem test_wf_activity : (Instr.activityEstimate 0 1025).wf = false ∧ (Instr.droop 0 128).wf = false ∧
    (Instr.droopRecovery 0 128).wf = false := by decide
theorem test_wf_poll : (Instr.thermalPoll (List.replicate 17 0) (List.replicate 12 0)).wf = false ∧
    (Instr.thermalPoll (List.replicate 18 0) (List.replicate 11 0)).wf = false := by decide
theorem test_wf_export : (Instr.exportTenant 0 61441).wf = false := by decide
theorem test_wf_window : (Instr.mcWinRead 67108864 1).wf = false ∧ (Instr.mcWinWrite 67108864 [0]).wf = false := by decide

/-! ### Small states -/

/-- Cell 0 as given, everything else at reset. -/
def tCell (c : Cell) : State := { State.reset with cells := [(0, c)] }

/-- A slot whose 64 bytes are the little-endian bytes of a number. -/
def tSlot (n : Nat) : List Byte := leBytes 64 n

/-- Command 0 of ring 0, CID 0, in a stage, with its slots. -/
def tCmd (st : CmdStage) (slots : List (List Byte)) : Cmd :=
  { ring := 0, seq := 0, cid := 0, slots := slots, stage := st, status := 0, strict := false, params := [], total := 4, next := 0,
    ended := 0, ok := 0, firstBad := none, partWrites := false, ctxFault := false, longOvf := false, stopped := false, obs := none,
    tint := none, counts := [], startTime := 0, recTime := 0, passed := decide (st ≠ .waiting), moved := 0, sealBad := false, due := [],
    sent := false, stall := none }

/-- Item 0 of that command. -/
def tJob : Job := { ring := 0, seq := 0, index := 0, kind := .item, cid := 0, ended := none }

/-- A running item on cell 0 with its core's registers. -/
def tItem (x : Tab DWord) : State := tCell { Cell.reset with job := some tJob, core := { ControlCore.reset with x := x } }

/-- A CELL command's slot: ENTRY 0x1000, ARG 7, cells 0 and 1, 4 items, 64 KiB of L1 and 16 KiB block-local (13 R270). -/
def tCellSlot : List Byte := tSlot (1 + 0x1000 * 2 ^ 128 + 7 * 2 ^ 192 + 3 * 2 ^ 256 + 4 * 2 ^ 320 + 5 * 2 ^ 352)

/-! ### 05 -/

theorem witness_StepRunsFrontCommand : ({ State.reset with pending := [Instr.quotaAdmission] } : State).pending = [.quotaAdmission] := rfl

/-- R104, R98: the item goes to cell 0; with cell 0 occupied to cell 1. -/
theorem witness_WorkItemLifecycle_dispatch :
    let c := tCmd .running [tCellSlot]
    let s := { State.reset with cmds := [c] }
    s.phase = .up ∧ s.handsOut 0 0 = some c ∧ c.opcode ≠ 2 ∧ ((s.cellSet c).find? fun g => (s.cell g).idle) = some 0 ∧
    answers (exec (.dispatchWorkItem 0 0) s) (fun t => (t.cell 0).job = some tJob ∧ (t.cell 1).job = none ∧
      (t.cmd 0 0).map Cmd.next = some 1) = true := by decide +kernel

/-- R90: the entry, the argument registers and the stack pointer below the L1 and block-local regions. -/
theorem witness_WorkItemLifecycle_start :
    let c := tCmd .running [tCellSlot]
    let s := { tCell { Cell.reset with job := some { tJob with index := 3 }, core := { ControlCore.reset with wait := .zeroing } } with cmds := [c] }
    s.phase = .up ∧ (s.cell 0).job = some { tJob with index := 3 } ∧ (s.cell 0).core.wait = .zeroing ∧ s.cmd 0 0 = some c ∧
    (s.cell 0).part.l1 ≤ c.partition.l1 ∧
    answers (exec (.workItemStart 0) s) (fun t => (t.cell 0).core.pc = 0x1000 ∧ (t.cell 0).core.get 10 = 3 ∧ (t.cell 0).core.get 11 = 7 ∧
      (t.cell 0).core.get 2 = 0xFFFFFFFFFFE00000 + (2097152 - 65536 - 16384) ∧ (t.cell 0).core.get 1 = 0) = true := by decide +kernel

/-- R95: the time limit. -/
theorem witness_WorkItemLifecycle_timeout :
    let s := tItem []
    s.phase = .up ∧ (s.cell 0).job = some tJob ∧ tJob.ended = none ∧ (s.cell 0).core.wait ≠ .zeroing ∧ (s.cell 0).core.wait ≠ .halted ∧
    answers (exec (.workItemTimeout 0 0) s) (fun t => (t.cell 0).job = some { tJob with ended := some stTimeout }) = true := by decide +kernel

/-- R104: the last item to end lets its command finish. -/
theorem witness_WorkItemLifecycle_end :
    let c := { tCmd .running [tCellSlot] with next := 4, ended := 3, ok := 3 }
    let s := { tCell { Cell.reset with job := some { tJob with ended := some stOk } } with cmds := [c] }
    s.phase = .up ∧ (s.cell 0).job = some { tJob with ended := some stOk } ∧ s.cmd 0 0 = some c ∧
    answers (exec (.workItemEnd 0 0) s) (fun t => (t.cell 0).job = none ∧
      (t.cmd 0 0).map (fun d => (d.stage, d.ended, d.ok)) = some (.finished, 4, 4)) = true := by decide +kernel

theorem witness_CoresRetireTrapAndHalt_runs : State.coreRuns (tItem []) 0 tJob ∧ (tItem []).unlocked 1 = false := by
  unfold State.coreRuns; decide +kernel

/-- R431: CSRRS x5, cycle, x0 retires with the counter; R91: funct7 1 with funct3 0 traps. -/
theorem witness_CoresRetireTrapAndHalt_words :
    let s := tCell { Cell.reset with job := some tJob, core := { ControlCore.reset with instret := 41 } }
    zicntrRead 0xC02022F3 = some (5, .instret) ∧ zicntrRead 0x0200000B = none ∧ customInstr 0 0x0200000B = none ∧
    answers (exec (.illegalInstruction ⟨0, 0xC02022F3⟩) s) (fun t => (t.cell 0).core.get 5 = 41 ∧ (t.cell 0).core.pc = 4) = true ∧
    answers (exec (.illegalInstruction ⟨0, 0x0200000B⟩) s) (fun t => (t.cell 0).job.bind Job.ended = some stFormat) = true := by decide +kernel

/-- R88, R91: words of RV64IMC written out: ADDI x1, x0, 5; C.LI x10, 5 (with what follows it); a row of the table; BEQ x0, x0, 8; JALR
x1, 3(x2) clears bit 0 of its target; MULH x3, x1, x2 of -1 and -1; DIVU by 0. -/
theorem witness_CoresRetireTrapAndHalt_plain :
    let s := tItem [(1, 0xFFFFFFFFFFFFFFFF), (2, 0xFFFFFFFFFFFFFFFF)]
    let z := tItem [(1, 7), (2, 0)]
    let runs := fun (s : State) (w : Word) (p : ControlCore → Bool) => answers (exec (.illegalInstruction ⟨0, w⟩) s) (fun t => p (t.cell 0).core ∧ (t.cell 0).core.instret = 1)
    coreWordKind 0 0x00500093 = .plain (.opImm .add false 1 0 5) 4 ∧ coreWordKind 0 0xFFFF4515 = .plain (.opImm .add false 10 0 5) 2 ∧
    coreWordKind 0 0x0000000B = .ownRow ∧ coreWordKind 0 0x0200000B = .illegal ∧ coreWordKind 0 0xC02022F3 = .counter 5 .instret ∧
    coreWordKind 0 0x00000000 = .illegal ∧
    runs s 0x00500093 (fun k => k.get 1 = 5 ∧ k.pc = 4) = true ∧ runs s 0xFFFF4515 (fun k => k.get 10 = 5 ∧ k.pc = 2) = true ∧
    runs s 0x00000463 (fun k => k.pc = 8) = true ∧ runs s 0x003100E7 (fun k => k.pc = 2 ∧ k.get 1 = 4) = true ∧
    runs s 0x022091B3 (fun k => k.get 3 = 0) = true ∧ runs z 0x0220D1B3 (fun k => k.get 3 = 0xFFFFFFFFFFFFFFFF) = true ∧
    answers (exec (.illegalInstruction ⟨0, 0x0000000B⟩) s) (fun t => (t.cell 0).core.pc = 0 ∧ (t.cell 0).job = some tJob) = true := by decide +kernel

/-- R430: a parcel changed while an item runs may be stale until FENCE.I. -/
theorem witness_CoresRetireTrapAndHalt_fence :
    let s := { tItem [] with older := [(0x400000, 7)] }
    answers (exec (.fenceI 0) s) (fun t => (t.cell 0).core.fenced = 1 ∧ (t.cell 0).core.pc = 4) = true := by decide +kernel

/-- R91: words written out from the table: EMAT x5, x6; EVEC x5, x1, x2; EVEC2 x5, x1, x2, x3; ESTR x5, x1; EWAIT x4, x0, x2;
ESIG x1, x2; EWSO x4, x1, x2; EFENCE 2; EDONE x10. -/
theorem test_engine_words :
    customInstr 7 0b00000000000000110000001010001011 = some (.emat 7 5 6) ∧
    customInstr 7 0b00000000001000001001001010001011 = some (.evec 7 5 1 2) ∧
    customInstr 7 0b00011000001000001001001010101011 = some (.evec2 7 5 1 2 3) ∧
    customInstr 7 0b00000000000000001010001010001011 = some (.estr 7 5 1) ∧
    customInstr 7 0b00000000001000000011001000001011 = some (.ewait 7 4 0 2) ∧
    customInstr 7 0b00000000001000001100000000001011 = some (.esig 7 1 2) ∧
    customInstr 7 0b00000000001000001101001000001011 = some (.ewso 7 4 1 2) ∧
    customInstr 7 0b00000100000000000110000000001011 = some (.efence 7 2) ∧
    customInstr 7 0b00000000000001010111000000001011 = some (.edone 7 10) ∧
    customInstr 7 0b00000110000000000110000000001011 = none ∧ customInstr 7 0b00011010001000001001001010101011 = none := by decide +kernel

/-- R96, R361: under an unlock of scope bit 1, EBREAK halts with its pc past the instruction. -/
theorem witness_CoresRetireTrapAndHalt_halt :
    let s := { tItem [] with sec := { State.reset.sec with unlock := some 2 } }
    s.phase = .up ∧ s.unlocked 1 = true ∧
    answers (exec (.ebreak 0 true) s) (fun t => (t.cell 0).core.wait = .halted ∧ (t.cell 0).core.pc = 2 ∧ (t.ochre 0).dbgHalt = 1 ∧
      answers (exec (.dbgResume 0 1) t) (fun u => (u.cell 0).core.wait = .running ∧ (u.ochre 0).dbgHalt = 0)) = true := by decide +kernel

/-- DBG_SEL names x31 and the pc of a halted core (17 R361): both boundary values of the register number. -/
theorem witness_CoresRetireTrapAndHalt_debug :
    let core := { ControlCore.reset with wait := .halted }
    let s := fun n : Word => { tCell { Cell.reset with job := some tJob, core := core } with
      sec := { State.reset.sec with unlock := some 2 }, regs := [(ochreBar 0 + 0x28, n)] }
    (s (31 * 64)).unlocked 1 = true ∧ ((s (31 * 64)).cell ((s (31 * 64)).dbgCell 0)).core.wait = .halted ∧
    (s (31 * 64)).dbgReg 0 = 31 ∧ (s (32 * 64)).dbgReg 0 = 32 ∧
    answers (exec (.dbgDataWrite 0 9) (s (31 * 64))) (fun t => (t.cell 0).core.get 31 = 9) = true ∧
    answers (exec (.dbgDataWrite 0 9) (s (32 * 64))) (fun t => (t.cell 0).core.pc = 9) = true := by decide +kernel

/-- A block of PSET 0, M = N = 1, K = 1, drained to the queue, at address 0 of cell memory. -/
def tBlk (n : Nat) : List Byte := leBytes 128 n

/-- R91, R93: an issue takes ticket 1 and the pc moves on by 4. -/
theorem witness_EngineInstructionsIssue_vector :
    let s := tItem [(1, 0x99910), (2, 0), (3, 0)]
    s.phase = .up ∧ (s.cell 0).vec.queue.length < 16 ∧
    (VWord.decode ((s.cell 0).core.get 1) ((s.cell 0).core.get 2) 0).check (s.cell 0).limit = stOk ∧
    (VWord.decode ((s.cell 0).core.get 1) ((s.cell 0).core.get 2) ((s.cell 0).core.get 3)).check (s.cell 0).limit = stOk ∧
    answers (exec (.evec 0 5 1 2) s) (fun t => (t.cell 0).vec.queue.length = 1 ∧ (t.cell 0).core.get 5 = 1 ∧ (t.cell 0).core.pc = 4) = true ∧
    answers (exec (.evec2 0 5 1 2 3) s) (fun t => (t.cell 0).vec.issued = 1 ∧ (t.cell 0).core.get 5 = 1) = true := by decide +kernel

/-- R91, R92: issues that fail their checks: a block at the misaligned offset 1, an undefined opcode, a descriptor at offset 1. -/
theorem witness_EngineInstructionsIssue_failing :
    let s := tItem [(1, 1), (2, 0), (3, 0), (4, 0xFF)]
    s.blockCheck 0 ((s.cell 0).core.get 1).toNat tJob ≠ stOk ∧ (s.cell 0).streamCheck ((s.cell 0).core.get 1).toNat ≠ stOk ∧
    (VWord.decode ((s.cell 0).core.get 4) ((s.cell 0).core.get 2) 0).check (s.cell 0).limit ≠ stOk ∧
    (VWord.decode ((s.cell 0).core.get 4) ((s.cell 0).core.get 2) ((s.cell 0).core.get 3)).check (s.cell 0).limit ≠ stOk ∧
    answers (exec (.emat 0 5 1) s) (fun t => (t.cell 0).job.bind Job.ended = some (s.blockCheck 0 1 tJob)) = true ∧
    answers (exec (.evec 0 5 4 2) s) (fun t => (t.cell 0).job.bind Job.ended = some stFormat) = true ∧
    answers (exec (.evec2 0 5 4 2 3) s) (fun t => (t.cell 0).job.bind Job.ended = some stFormat) = true ∧
    answers (exec (.estr 0 5 1) s) (fun t => (t.cell 0).job.bind Job.ended = some ((s.cell 0).streamCheck 1)) = true := by decide +kernel

/-- R92: sixteen issued vector instructions fill the queue, four blocks the matrix queue, 32 descriptors the stream queue. -/
theorem witness_EngineInstructionsIssue_full :
    let v : VecInstr := ⟨1, 0x10, 0, 0, false⟩
    let m : MatBlock := ⟨1, 0, .queued, 0⟩
    let d : StreamDesc := ⟨1, 0, 0, false⟩
    let s := tCell { Cell.reset with job := some tJob, vec := { VectorEngine.reset with queue := List.replicate 16 v },
                                     matrix := { MatrixEngine.reset with queue := List.replicate 4 m },
                                     str := { StreamEngine.reset with queue := List.replicate 32 d } }
    s.phase = .up ∧ 4 ≤ (s.cell 0).matrix.queue.length ∧ 16 ≤ (s.cell 0).vec.queue.length ∧ 32 ≤ (s.cell 0).str.queue.length ∧
    exec (.emat 0 1 2) s = .next s ∧ exec (.evec 0 1 2 3) s = .next s ∧ exec (.estr 0 1 2) s = .next s :=
  ⟨rfl, by decide, by decide, by decide, rfl, rfl, rfl⟩

/-- R100, R101: a descriptor that moves one row of 32 bytes to cell offset 64, issued from offset 0. -/
theorem witness_EngineInstructionsIssue_stream :
    let d := leBytes 32 (0x100000 + 64 * 2 ^ 64 + 32 * 2 ^ 96 + 1 * 2 ^ 112)
    let s := tCell { Cell.reset with job := some tJob, mem := tabSetMany zeroByte [] 0 d }
    s.phase = .up ∧ (s.cell 0).str.queue.length < 32 ∧ (s.cell 0).streamCheck ((s.cell 0).core.get 2).toNat = stOk ∧
    answers (exec (.estr 0 5 2) s) (fun t => (t.cell 0).str.queue.length = 1 ∧ (t.cell 0).core.get 5 = 1) = true := by decide +kernel

/-- R91, R432: ticket 1 issued and completed, ticket 2 not issued. -/
theorem witness_EngineWaitsAndSignals_tickets :
    let s := fun d : Word => tCell { Cell.reset with job := some tJob, core := { ControlCore.reset with x := [(2, 1), (3, 2)] },
                                                     matrix := { MatrixEngine.reset with issued := 1, done := d } }
    reached32 ((s 1).cell 0).matrix.issued 1 = true ∧ reached32 ((s 1).cell 0).matrix.done 1 = true ∧
    reached32 ((s 0).cell 0).matrix.done 1 = false ∧ reached32 ((s 0).cell 0).matrix.issued 2 = false ∧
    answers (exec (.ewait 0 4 0 2) (s 1)) (fun t => (t.cell 0).core.get 4 = 1 ∧ (t.cell 0).core.pc = 4) = true ∧
    answers (exec (.ewait 0 4 0 2) (s 0)) (fun t => (t.cell 0).core.pc = 0 ∧ (t.cell 0).job = some tJob) = true ∧
    answers (exec (.ewait 0 4 0 3) (s 0)) (fun t => (t.cell 0).job = some { tJob with ended := some stState }) = true := by decide +kernel

/-- R91, R274, R432: CID 0 may name object 5; a CID that owns none may not. -/
theorem witness_EngineWaitsAndSignals_objects :
    let s := { tItem [(1, 5), (2, 3)] with soVal := [(5, 3)] }
    let q := tCell { Cell.reset with job := some { tJob with cid := 9 }, core := { ControlCore.reset with x := [(1, 5), (2, 3)] } }
    s.soAllowed 0 5 = true ∧ s.soBroken 5 = false ∧ reached64 (s.so 5) 3 = true ∧ reached64 (s.so 5) 4 = false ∧ q.soAllowed 9 5 = false ∧
    (s.cell 0).enginesIdle = true ∧ (s.cell 0).esig = [] ∧ s.cellOwed 0 = false ∧ s.itemOwed 0 0 0 = false ∧ s.soWay 0 5 = .clear ∧
    answers (exec (.ewso 0 4 1 2) s) (fun t => (t.cell 0).core.get 4 = 3) = true ∧
    answers (exec (.ewso 0 4 1 2) q) (fun t => (t.cell 0).job.bind Job.ended = some stAccess) = true ∧
    answers (exec (.esig 0 1 2) s) (fun t => t.so 5 = 3 ∧ answers (exec (.esigAddition 0) t) fun u => u.so 5 = 6) = true ∧
    answers (exec (.efence 0 0) s) (fun t => (t.cell 0).core.pc = 4) = true ∧
    answers (exec (.edone 0 2) s) (fun t => (t.cell 0).job.bind Job.ended = some 3) = true := by decide +kernel

/-! ### 06 -/

/-- A parameter set: FA and FB INT8, FOUT FP32, scales 1.0 (06 R107). -/
def tPset : BitVec 512 := BitVec.ofNat 512 (0x3F800000 + 0x3F800000 * 2 ^ 32 + 0x3F800000 * 2 ^ 64 + 0xFF800000 * 2 ^ 128 + 0x7F800000 * 2 ^ 160 +
  5 * 2 ^ 240 + 5 * 2 ^ 244 + 9 * 2 ^ 248)

/-- A matrix block's words: DST and RXM, M = N = 1, K = 1, A at 0, B at 32, leading dimensions 1 (06 R109). -/
def tBlock (dst rxm tag : Nat) : BitVec 1024 := BitVec.ofNat 1024 (dst * 2 ^ 13 + rxm * 2 ^ 20 + tag * 2 ^ 48 + 2 ^ 80 + 2 ^ 160 + 32 * 2 ^ 192 +
  2 ^ 224 + 64 * 2 ^ 256 + 2 ^ 288 + 128 * 2 ^ 464)

/-- Cell 0 runs an item of a command with that parameter set, its matrix engine as given; A = 3, B = 5. -/
def tMat (m : MatrixEngine) (dq : List QueueTile) : State :=
  { tCell { Cell.reset with job := some tJob, matrix := m, dq := dq, mem := [(0, 3), (32, 5)] } with
    cmds := [{ tCmd .running [tCellSlot] with params := [tPset] }] }

theorem witness_EngineInstructionsIssue_matrix :
    let s := { tCell { Cell.reset with job := some tJob, mem := tabSetMany zeroByte [] 0 (leBytes 128 (tBlock 2 0 0).toNat) } with
      cmds := [{ tCmd .running [tCellSlot] with params := [tPset] }] }
    s.phase = .up ∧ (s.cell 0).matrix.queue.length < 4 ∧ s.blockCheck 0 0 tJob = stOk ∧ s.blockCheck 0 1 tJob = stFormat ∧
    (MBlk.decode (BitVec.ofNat 1024 ((s.cell 0).readNat 0 128))).sides = [] ∧
    answers (exec (.emat 0 5 2) s) (fun t => (t.cell 0).matrix.queue.length = 1 ∧ (t.cell 0).core.get 5 = 1) = true := by decide +kernel

theorem witness_MatrixBlockAccumulates_runs : State.engineRuns (tMat MatrixEngine.reset []) 0 tJob := by
  unfold State.engineRuns; decide +kernel

/-- R57: 3 × 5 = 15. -/
theorem witness_MatrixBlockAccumulates :
    let q : MatBlock := ⟨1, tBlock 2 0 0, .queued, 0⟩
    let s := tMat { MatrixEngine.reset with queue := [q] } []
    s.phase = .up ∧ s.startable tJob (s.cell 0).matrix = some 0 ∧ (s.cell 0).matrix.queue[0]? = some q ∧
    (s.cell 0).kindsMatch q.dec (s.psetOf tJob q.dec) = true ∧ q.dec.groups ≤ 1 ∧ q.dec.n ≤ 128 ∧
    answers (exec (.matrixBlockStart 0) s) (fun t => ((t.cell 0).matrix.bank false).get 0 0 = ⟨15, false⟩ ∧
      ((t.cell 0).matrix.bank false).int = true ∧ (t.cell 0).matrix.queue.map MatBlock.phase = [.accumulated]) = true := by decide +kernel

/-- R119, R102, R103: with three entries in use there is room for an FP32 tile, with four there is none. -/
theorem witness_MatrixDrainsIntoQueue_drain :
    let q : MatBlock := ⟨1, tBlock 2 0 0, .accumulated, 0⟩
    let s := fun n : Nat => tMat { MatrixEngine.reset with queue := [q], bank0 := ⟨false, true, [(0, ⟨15, false⟩)]⟩ } (List.replicate n ⟨9, []⟩)
    (s 0).phase = .up ∧ (s 0).cell 0 ≠ Cell.reset ∧ ((s 3).cell 0).matrix.drainable = some 0 ∧
    ((s 3).cell 0).matrix.queue[0]? = some q ∧ ((s 3).cell 0).landedKinds q.dec = true ∧ (((s 3).cell 0).addLanded q.dec).2 = false ∧
    q.dec.dst = 2 ∧ ((s 3).cell 0).queueRoom ((s 3).psetOf tJob q.dec).out = true ∧
    ((s 4).cell 0).queueRoom ((s 4).psetOf tJob q.dec).out = false ∧
    answers (exec (.matrixDrain 0) (s 3)) (fun t => (t.cell 0).dq.length = 4 ∧ (t.cell 0).matrix.queue.map MatBlock.phase = [.done]) = true ∧
    answers (exec (.matrixDrain 0) (s 4)) (fun t => (t.cell 0).dq.length = 4 ∧
      (t.cell 0).matrix.queue.map MatBlock.phase = [.stalled]) = true := by decide +kernel

/-- R119: an output to cell memory: 15.0 at OOFF; a block without an output writes nothing. -/
theorem witness_MatrixDrainsIntoQueue_memory :
    let q := fun dst : Nat => (⟨1, tBlock dst 0 0, .accumulated, 0⟩ : MatBlock)
    let s := fun dst : Nat => tMat { MatrixEngine.reset with queue := [q dst], bank0 := ⟨false, true, [(0, ⟨15, false⟩)]⟩ } []
    ((s 1).cell 0).matrix.drainable = some 0 ∧ (q 1).dec.dst = 1 ∧ (q 1).dec.ooff = 64 ∧ ((s 1).cell 0).landedKinds (q 1).dec = true ∧
    answers (exec (.matrixDrain 0) (s 1)) (fun t => (t.cell 0).read 64 4 = [0x00, 0x00, 0x70, 0x41] ∧ (t.cell 0).dq = [] ∧
      (t.cell 0).matrix.queue.map MatBlock.phase = [.done]) = true := by decide +kernel

/-- R103: the stalled block pushes once an entry is free. The tile's first element is 15.0. -/
theorem witness_MatrixDrainsIntoQueue_push :
    let q : MatBlock := ⟨1, tBlock 2 0 0, .stalled, 0⟩
    let s := fun n : Nat => tMat { MatrixEngine.reset with queue := [q], bank0 := ⟨false, true, [(0, ⟨15, false⟩)]⟩ } (List.replicate n ⟨9, []⟩)
    (((s 4).cell 0).matrix.queue.findIdx? fun q => q.phase = .stalled) = some 0 ∧
    ((s 4).cell 0).queueRoom ((s 4).psetOf tJob q.dec).out = false ∧ ((s 3).cell 0).queueRoom ((s 3).psetOf tJob q.dec).out = true ∧
    answers (exec (.drainQueuePush 0) (s 4)) (fun t => (t.cell 0).matrix.queue.map MatBlock.phase = [.stalled]) = true ∧
    answers (exec (.drainQueuePush 0) (s 3)) (fun t => (t.cell 0).matrix.queue.map MatBlock.phase = [.done] ∧
      ((t.cell 0).dq.getD 3 ⟨0, []⟩).bytes.take 4 = [0x00, 0x00, 0x70, 0x41]) = true := by decide +kernel

/-- R93: a ticket completes when its instruction has acted, not before. -/
theorem witness_MatrixDrainsIntoQueue_ticket :
    let m : MatBlock := ⟨7, 0, .done, 0⟩
    let v : VecInstr := ⟨8, 0, 0, 0, true⟩
    let d : StreamDesc := ⟨9, 0, 0, true⟩
    let s := tCell { Cell.reset with job := some tJob, matrix := { MatrixEngine.reset with queue := [m] },
                                     vec := { VectorEngine.reset with queue := [v] }, str := { StreamEngine.reset with queue := [d] } }
    s.phase = .up ∧ (s.cell 0).matrix.queue = [m] ∧ (s.cell 0).vec.queue = [v] ∧ (s.cell 0).str.queue = [d] ∧
    answers (exec (.matrixTicketComplete 0 .matrix) s) (fun t => (t.cell 0).matrix.done = 7 ∧ (t.cell 0).vec.done = 0) = true ∧
    answers (exec (.matrixTicketComplete 0 .vector) s) (fun t => (t.cell 0).vec.done = 8 ∧ (t.cell 0).vec.queue = []) = true ∧
    answers (exec (.matrixTicketComplete 0 .stream) s) (fun t => (t.cell 0).str.done = 9) = true ∧
    answers (exec (.matrixTicketComplete 0 .matrix) (tMat { MatrixEngine.reset with queue := [{ m with phase := .stalled }] } [])) (fun t =>
      (t.cell 0).matrix.queue.length = 1 ∧ (t.cell 0).matrix.done = 0) = true ∧
    answers (exec (.matrixTicketComplete 0 .stream) (tItem [])) (fun t => (t.cell 0).str.done = 0) = true := by decide +kernel

/-- R122: the ninth READY message waits. -/
theorem witness_RawStreamsCrossSideLinks_ready :
    let r : Ready := ⟨5, 0, 1, 1⟩
    let s := fun n : Nat => tMat { MatrixEngine.reset with netLo := [r], readyLo := List.replicate n r } []
    (s 7).phase = .up ∧ ((s 7).cell 0).matrix.net false = [r] ∧ (((s 7).cell 0).matrix.ready false).length < 8 ∧
    8 ≤ (((s 8).cell 0).matrix.ready false).length ∧
    answers (exec (.readyReceived 0 false) (s 7)) (fun t => (t.cell 0).matrix.readyLo.length = 8 ∧ (t.cell 0).matrix.netLo = []) = true ∧
    answers (exec (.readyReceived 0 false) (s 8)) (fun t => (t.cell 0).matrix.netLo = [r]) = true := by decide +kernel

/-- R122, R123: the stream goes to the neighbour that asked, or ends the item when CID or shape differ. -/
theorem witness_RawStreamsCrossSideLinks_send :
    let q : MatBlock := ⟨1, tBlock 3 0 5, .accumulated, 0⟩
    let s := fun r : Ready => tMat { MatrixEngine.reset with queue := [q], readyLo := [r], bank0 := ⟨false, true, [(0, ⟨15, false⟩)]⟩ } []
    ((s ⟨5, 0, 1, 1⟩).cell 0).matrix.sendable = some (0, ⟨5, 0, 1, 1⟩) ∧ ((s ⟨5, 0, 1, 1⟩).cell 0).matrix.queue[0]? = some q ∧
    sideCell 0 q.dec.peer ≠ 0 ∧ (s ⟨5, 0, 1, 1⟩).sideWay 0 (sideCell 0 q.dec.peer) = .clear ∧ q.dec.m = 1 ∧ q.dec.n = 1 ∧
    answers (exec (.rawStreamSend 0) (s ⟨5, 0, 1, 1⟩)) (fun t => (t.cell 0).matrix.queue.map MatBlock.phase = [.done] ∧
      (t.cell (sideCell 0 q.dec.peer)).matrix.rawLo ++ (t.cell (sideCell 0 q.dec.peer)).matrix.rawHi ≠ []) = true ∧
    answers (exec (.rawStreamSend 0) (s ⟨5, 1, 1, 1⟩)) (fun t => (t.cell 0).job.bind Job.ended = some stAccess) = true ∧
    answers (exec (.rawStreamSend 0) (s ⟨5, 0, 2, 1⟩)) (fun t => (t.cell 0).job.bind Job.ended = some stFormat) = true := by decide +kernel

/-- R122, R123: a landed stream sets its bit and fills the area; a failed comparison ends the item. -/
theorem witness_RawStreamsCrossSideLinks_land :
    let q : MatBlock := ⟨1, tBlock 2 1 5, .queued, 0⟩
    let s := fun x : RawStream => tMat { MatrixEngine.reset with queue := [q], rawLo := [x] } []
    let x : RawStream := ⟨5, 64, leBytes 16 9, stOk⟩
    ((s x).cell 0).job = some tJob ∧ ((s x).cell 0).matrix.rawLo = [x] ∧ (((s x).cell 0).matrix.queue.findIdx? fun q =>
        q.dec.tag = x.tag.toNat && bitOf q.dec.rxm false.toNat && (q.landed &&& sideBit false) = 0) = some 0 ∧
    answers (exec (.rawStreamLanded 0 false) (s x)) (fun t => (t.cell 0).matrix.queue.map MatBlock.landed = [1] ∧
      tabGet zeroByte (t.cell 0).mem 128 = 9) = true ∧
    answers (exec (.rawStreamLanded 0 false) (s { x with bad := stAccess })) (fun t =>
      (t.cell 0).job.bind Job.ended = some stAccess) = true ∧ (s x).sideWay 64 0 = .clear := by decide +kernel

/-- R319, R323: a link that retrains holds stream and READY; with every link DOWN the sender ends with E_LINK. -/
theorem witness_RawStreamsCrossSideLinks_link :
    let q : MatBlock := ⟨1, tBlock 3 0 5, .accumulated, 0⟩
    let r : Ready := ⟨5, 0, 1, 1⟩
    let s := fun st : LinkState => (List.range 8).foldl (fun (t : State) l => t.setLink l { t.link l with state := st })
      (tMat { MatrixEngine.reset with queue := [q], readyLo := [r], netLo := [r], bank0 := ⟨false, true, [(0, ⟨15, false⟩)]⟩ } [])
    (s .retraining).sideWay 0 (sideCell 0 q.dec.peer) = .stall ∧ (s .down).sideWay 0 (sideCell 0 q.dec.peer) = .cut ∧
    (s .retraining).sideWay (sideCell 0 false) 0 ≠ .clear ∧
    answers (exec (.rawStreamSend 0) (s .retraining)) (fun t => (t.cell 0).matrix.queue.map MatBlock.phase = [.accumulated]) = true ∧
    answers (exec (.rawStreamSend 0) (s .down)) (fun t => (t.cell 0).job.bind Job.ended = some stLink) = true ∧
    answers (exec (.readyReceived 0 false) (s .retraining)) (fun t => (t.cell 0).matrix.netLo = [r]) = true := by decide +kernel

/-! ### 07 -/

/-- A vector word with both formats and the destination format in the operation's row (07 R131). -/
def tW (op f1 f2 fd d s1 s2 bc e c rsc : Nat) : DWord :=
  BitVec.ofNat 64 (op + f1 * 2 ^ 8 + f2 * 2 ^ 12 + fd * 2 ^ 16 + d * 2 ^ 20 + s1 * 2 ^ 23 + s2 * 2 ^ 26 + bc * 2 ^ 29 + (e - 1) * 2 ^ 31 +
    (c - 1) * 2 ^ 45 + rsc * 2 ^ 59)

/-- Cell 0's vector engine holds one instruction; TB0 begins with given bytes. -/
def tVecs (w rs2 rs3 : DWord) (tb : List Byte) (m : Tab Byte) (dq : List QueueTile) : State :=
  tCell { Cell.reset with job := some tJob, mem := m, dq := dq,
                          vec := { VectorEngine.reset with queue := [⟨1, w, rs2, rs3, false⟩], tb := tabSetMany zeroByte [] 0 tb } }
def tVec (w rs2 rs3 : DWord) (tb : List Byte) : State := tVecs w rs2 rs3 tb [] []

/-- FP32 codes as bytes. -/
def tF32 (l : List Nat) : List Byte := l.flatMap (leBytes 4)

/-- The first codes of TB1 after a step. -/
def tOut (o : Host.Outcome State Fault Refusal) (codes : List Nat) : Bool :=
  answers o fun t => (t.cell 0).vec.bytes 1 (4 * codes.length) = tF32 codes ∧ (t.cell 0).vec.queue.map VecInstr.done = [true]

/-- The engine of cell 0 runs and its next instruction is the one queued. -/
theorem tVecs_next (w rs2 rs3 : DWord) (tb : List Byte) (m : Tab Byte) (dq : List QueueTile) :
    (tVecs w rs2 rs3 tb m dq).phase = .up ∧ (tVecs w rs2 rs3 tb m dq).vecNext 0 tJob (VWord.decode w rs2 rs3) :=
  ⟨rfl, ⟨rfl, rfl, fun h => CoreWait.noConfusion h⟩, ⟨1, w, rs2, rs3, false⟩, rfl, rfl⟩

/-- 2.0 and 0.5 in both sources (S1 = TB0, S2 = TB0); the scalar 2.0 as B when BC is 3. -/
def tTwo (op bc : Nat) : State := tVec (tW op 9 (if bc = 3 then 0 else 9) 9 1 0 0 bc 2 2 0) 0x40000000 0x3F800000 (tF32 [0x40000000, 0x3F000000])

/-- The formats and operands are those that issue accepts (07 R132), for each binary operation with a second source. -/
theorem witness_VectorArithmetic_words : ([0x10, 0x11, 0x12, 0x13, 0x14, 0x15, 0x16].all fun op =>
    (VWord.decode (tW op 9 9 9 1 0 0 0 2 2 0) 0x40000000 0x3F800000).check 2097152 = stOk) = true ∧
    ([0x19, 0x1A, 0x1B].all fun op => (VWord.decode (tW op 9 0 9 1 0 0 0 2 2 0) 0 0).check 2097152 = stOk) = true ∧
    ([0x17, 0x18].all fun op => (VWord.decode (tW op 9 9 9 1 0 0 2 2 2 0) 0 0).check 2097152 = stOk) = true := by decide +kernel

theorem test_add : tOut (exec (.add 0) (tTwo 0x10 0)) [0x40800000, 0x3F800000] = true := by decide +kernel
theorem test_sub : tOut (exec (.sub 0) (tTwo 0x11 3)) [0x00000000, 0xBFC00000] = true := by decide +kernel
theorem test_mul : tOut (exec (.mul 0) (tTwo 0x12 0)) [0x40800000, 0x3E800000] = true := by decide +kernel
theorem test_div : tOut (exec (.div 0) (tTwo 0x13 3)) [0x3F800000, 0x3E800000] = true := by decide +kernel
theorem test_fma : tOut (exec (.fma 0) (tTwo 0x14 0)) [0x40A00000, 0x3FA00000] = true := by decide +kernel
theorem test_max : tOut (exec (.max 0) (tTwo 0x15 3)) [0x40000000, 0x40000000] = true := by decide +kernel
theorem test_min : tOut (exec (.min 0) (tTwo 0x16 3)) [0x40000000, 0x3F000000] = true := by decide +kernel
theorem test_sqrt : tOut (exec (.sqrt 0) (tVec (tW 0x19 9 0 9 1 0 0 0 1 1 0) 0 0 (tF32 [0x40800000]))) [0x40000000] = true := by decide +kernel
theorem test_abs : tOut (exec (.abs 0) (tVec (tW 0x1A 9 0 9 1 0 0 0 1 1 0) 0 0 (tF32 [0xC0800000]))) [0x40800000] = true := by decide +kernel
theorem test_neg : tOut (exec (.neg 0) (tVec (tW 0x1B 9 0 9 1 0 0 0 1 1 0) 0 0 (tF32 [0x00000000]))) [0x80000000] = true := by decide +kernel

/-- R50, R136: positive factors divide; a zero factor ends the item. -/
theorem test_sdiv :
    let s := tVec (tW 0x17 9 9 9 1 0 0 2 2 2 0) 0 0 (tF32 [0x40000000, 0x3F000000])
    ((VWord.decode (tW 0x17 9 9 9 1 0 0 2 2 2 0) 0 0).factors (s.cell 0).vec).all Num.isPosFinite = true ∧
    tOut (exec (.sdiv 0) s) [0x3F800000, 0x3F800000] = true := by decide +kernel
theorem test_smul_bad_factor :
    let s := tVec (tW 0x18 9 9 9 1 0 0 2 2 2 0) 0 0 (tF32 [0x40000000, 0])
    ((VWord.decode (tW 0x18 9 9 9 1 0 0 2 2 2 0) 0 0).factors (s.cell 0).vec).all Num.isPosFinite = false ∧
    answers (exec (.smul 0) s) (fun t => (t.cell 0).job.bind Job.ended = some stFormat ∧ (t.cell 0).vec.tb = (s.cell 0).vec.tb) = true := by
  decide +kernel

/-- R41: 1.5 in BF16 is the same value in FP32. -/
theorem test_cvt : tOut (exec (.cvt 0) (tVec (tW 0x04 7 0 9 1 0 0 0 1 1 0) 0 0 [0xC0, 0x3F])) [0x3FC00000] = true := by decide +kernel
/-- R42: 3.0 by scale 2.0 gives round half to even of 1.5 = 2, plus zero point 1. -/
theorem test_quant : answers (exec (.quant 0) (tVec (tW 0x05 9 0 5 1 0 0 0 1 1 0) 0x40000000 1 (tF32 [0x40400000])))
    (fun t => (t.cell 0).vec.bytes 1 1 = [3]) = true := by decide +kernel
/-- R47: (3 − 1) × 2.0 = 4.0. -/
theorem test_dequant : tOut (exec (.dequant 0) (tVec (tW 0x06 5 0 9 1 0 0 0 1 1 0) 0x40000000 1 [3])) [0x40800000] = true := by decide +kernel
/-- R75: 1.0 lies below 2^1 and not below 2^0; a zero has code 0. -/
theorem test_expv : answers (exec (.expv 0) (tVec (tW 0x08 9 0 0 1 0 0 0 2 2 0) 0 0 (tF32 [0x3F800000, 0])))
    (fun t => (t.cell 0).vec.bytes 1 4 = [1, 0, 0, 0]) = true := by decide +kernel
/-- R137: FUNC of code 0. -/
theorem test_func : (0x40 ≤ (VWord.decode (tW 0x5F 9 0 9 1 0 0 0 1 1 0) 0 0).op) ∧
    answers (exec (.func 0) (tVec (tW 0x40 9 0 9 1 0 0 0 1 1 0) 0 0 (tF32 [0x3F800000])))
      (fun t => (t.cell 0).vec.queue.map VecInstr.done = [true]) = true := by decide +kernel

/-- R145: rows at O and O + STRIDE. -/
theorem test_vld : tOut (exec (.vld 0) (tVecs (tW 0x01 9 0 0 1 0 0 0 2 1 0) 32 64 [] (tabSetMany zeroByte [(32, 7)] 96 (leBytes 4 0x01020304)) []))
    [7, 0x01020304] = true := by decide +kernel
theorem test_vst : answers (exec (.vst 0) (tVecs (tW 0x02 9 0 0 6 0 0 0 2 1 0) 32 64 (tF32 [7, 9]) [(36, 5)] []))
    (fun t => tabGet zeroByte (t.cell 0).mem 32 = 7 ∧ tabGet zeroByte (t.cell 0).mem 96 = 9 ∧ tabGet zeroByte (t.cell 0).mem 36 = 5) = true := by
  decide +kernel
/-- R26: one element of a 4-bit format; the pad nibble is stored as 0. -/
theorem test_vst_pad : answers (exec (.vst 0) (tVecs (tW 0x02 2 0 0 6 0 0 0 1 1 0) 32 64 [0xF3] [] [])) (fun t => tabGet zeroByte (t.cell 0).mem 32 = 3) = true := by
  decide +kernel
/-- R103: POP of an empty queue waits while a drain will come, and ends the item when none will. -/
theorem test_pop_empty :
    let s := tVec (tW 0x03 9 0 0 1 7 0 0 1 1 0) 0 0 []
    let q : MatBlock := ⟨1, tBlock 2 0 0, .queued, 0⟩
    let u := s.setCell 0 { s.cell 0 with matrix := { MatrixEngine.reset with queue := [q] } }
    (s.cell 0).dq = [] ∧ answers (exec (.pop 0) u) (fun t => t.cells = u.cells) = true ∧
    answers (exec (.pop 0) s) (fun t => (t.cell 0).job.bind Job.ended = some stState) = true := by decide +kernel
theorem test_pop_head :
    let w := tW 0x03 9 0 0 1 7 0 0 1 1 0
    tOut (exec (.pop 0) (tVecs w 0 0 [] [] [⟨9, leBytes 4 5⟩, ⟨7, []⟩])) [5] = true ∧
    answers (exec (.pop 0) (tVecs w 0 0 [] [] [⟨7, []⟩])) (fun t => (t.cell 0).job.bind Job.ended = some stFormat) = true := by decide +kernel

/-- R138, R139: 2^60 + 1 − 2^60 is exactly 1. -/
theorem test_rsum : tOut (exec (.rsum 0) (tVec (tW 0x20 9 0 9 1 0 0 0 3 3 0) 0 0 (tF32 [0x5D800000, 0x3F800000, 0xDD800000]))) [0x3F800000] = true := by
  decide +kernel
/-- RSC 3 accumulates and writes nothing; the sum is held in units of 2^-149. -/
theorem test_rsum_accumulates : answers (exec (.rsum 0) (tVec (tW 0x20 9 0 9 6 0 0 0 1 1 3) 0 0 (tF32 [0x00000003])))
    (fun t => (t.cell 0).vec.narrow = 3 ∧ (t.cell 0).vec.terms = 1 ∧ (t.cell 0).vec.bytes 1 4 = [0, 0, 0, 0]) = true := by decide +kernel
/-- RSC 0 leaves the accumulator and the counter as the last row left them: two rows of one element (R138). -/
theorem test_rsum_rows : answers (exec (.rsum 0) (tVec (tW 0x20 9 0 9 1 0 0 0 2 1 0) 0 0 (tF32 [0x00000007, 0x00000003])))
    (fun t => (t.cell 0).vec.narrow = 3 ∧ (t.cell 0).vec.terms = 1 ∧ (t.cell 0).vec.bytes 1 8 = tF32 [7, 3]) = true := by decide +kernel
/-- RSC 3 over FP64 accumulates into the wide accumulator, in units of 2^-2148 (R128). -/
theorem test_rsum_wide :
    let w := tW 0x20 10 0 9 6 0 0 0 1 1 3
    (VWord.decode w 0 0).wide = true ∧ (VWord.decode w 0 0).rsc = 3 ∧
    answers (exec (.rsum 0) (tVec w 0 0 (leBytes 8 1))) (fun t => (t.cell 0).vec.wide = BitVec.ofNat 4352 (2 ^ (2148 - 1074)) ∧
      (t.cell 0).vec.narrow = 0 ∧ (t.cell 0).vec.terms = 1 ∧ (t.cell 0).vec.wflags.nz = true) = true := by decide +kernel
theorem test_rdot : tOut (exec (.rdot 0) (tVec (tW 0x24 9 9 9 1 0 0 0 2 2 2) 0 0 (tF32 [0x40000000, 0x3F800000]))) [0x40A00000] = true := by
  decide +kernel
theorem test_rmax : tOut (exec (.rmax 0) (tVec (tW 0x21 9 0 9 1 0 0 0 2 2 0) 0 0 (tF32 [0x40000000, 0xC0400000]))) [0x40000000] = true := by
  decide +kernel
theorem test_rmin : tOut (exec (.rmin 0) (tVec (tW 0x22 9 0 9 1 0 0 0 2 2 0) 0 0 (tF32 [0x40000000, 0xC0400000]))) [0xC0400000] = true := by
  decide +kernel
theorem test_ramax : tOut (exec (.ramax 0) (tVec (tW 0x23 9 0 9 1 0 0 0 2 2 0) 0 0 (tF32 [0x40000000, 0xC0400000]))) [0x40400000] = true := by
  decide +kernel

/-- R142: 1 and 3 have mean 2 and variance 1. -/
theorem test_rstat :
    let w := tW 0x25 9 0 9 1 0 0 0 2 2 0
    let s := tVec w 0 0 (tF32 [0x3F800000, 0x40400000])
    ((VWord.decode w 0 0).scopes ((VWord.decode w 0 0).xs (s.cell 0).vec)).all (fun l =>
      (statPair (l.foldl (Sum.term narrowUnit) Sum.clear) (l.foldl (fun a x => Sum.term wideUnit a (x.mul x)) Sum.clear)
        (satTerms l.length) (fp32 (VWord.decode w 0 0).rs2)).2.isSome) = true ∧
    tOut (exec (.rstat 0) s) [0x40000000, 0x3F800000] = true := by decide +kernel

/-- R143: the record holds narrow 5, and adding it back doubles it. -/
theorem test_rxs_rxa :
    let s := tVec (tW 0x26 0 0 0 1 0 0 0 1 1 0) 0 0 []
    let v := { (s.cell 0).vec with narrow := 5, terms := 2 }
    let a := tVec (tW 0x27 0 0 0 0 0 0 0 1 1 0) 0 0 v.record
    answers (exec (.rxs 0) (s.setCell 0 { s.cell 0 with vec := v })) (fun t => (t.cell 0).vec.bytes 1 640 = v.record ∧ v.record.length = 640) = true ∧
    answers (exec (.rxa 0) (a.setCell 0 { a.cell 0 with vec := { (a.cell 0).vec with narrow := 5, terms := 0xFFFFFFFF } }))
      (fun t => (t.cell 0).vec.narrow = 10 ∧ (t.cell 0).vec.terms = 0xFFFFFFFF) = true := by decide +kernel

/-- R77, R78, R144: 1.0 with its own exponent 1 has first digit 0x80; a supplied exponent 0 is too small for it. -/
theorem test_slice :
    let own := tW 0x07 9 0 0 6 0 0 0 1 1 0
    let s := tVec own 0 1 (tF32 [0x3F800000])
    let bad := tVec own 0 17 (tF32 [0x3F800000])
    answers (exec (.slice 0) s) (fun t => (t.cell 0).read 0 2 = [1, 0] ∧ (t.cell 0).read ((VWord.decode own 0 1).planeOff 1) 1 = [0x80]) = true ∧
    ((VWord.decode own 0 17).given && !(List.range (VWord.decode own 0 17).vecs).all fun i => givenOk ((bad.cell 0).givenExp (VWord.decode own 0 17) i)
      ((VWord.decode own 0 17).vector ((VWord.decode own 0 17).xs (bad.cell 0).vec) i)) = true ∧
    answers (exec (.slice 0) bad) (fun t => (t.cell 0).job.bind Job.ended = some stFormat) = true := by decide +kernel

/-! ### 09 -/

/-- A thread word with predicate 7 (09 R184). -/
def tT (opc dst sa1 sa2 sa3 fn : Nat) : DWord :=
  BitVec.ofNat 64 (opc + dst * 2 ^ 8 + sa1 * 2 ^ 16 + sa2 * 2 ^ 24 + sa3 * 2 ^ 32 + 7 * 2 ^ 40 + fn * 2 ^ 44)

/-- A thread at pc 0x100 with its registers. -/
def tThread (w : Tab Word) : Thread := { w := w, q := 0, pc := 0x100, ended := false, wait := .none }

/-- Cell 0 holds one block of these threads: 64 registers, 1 KiB of block-local memory from address 0. -/
def tBlockOf (l : List Thread) : Block :=
  { ring := 0, seq := 0, index := 0, cid := 0, nthr := l.length, rq := 64, lkib := 1, base := 0, sched := [0], threads := l, ended := none }
def tThreads (l : List Thread) : State :=
  { tCell { Cell.reset with blocks := [tBlockOf l] } with cmds := [{ tCmd .running [tCellSlot] with params := [tPset] }] }

/-- How block 0 has ended, and the pc of a thread of it. -/
def tEnded (o : Host.Outcome State Fault Refusal) (st : Status) : Bool := answers o fun t => t.blockEnded 0 0 = some st
def tPc (t : State) (i : Nat) : Option DWord := (t.threadAt 0 0 i).map Thread.pc

theorem tThreads_runs (y : Thread) (l : List Thread) (h : y.ended = false) (h' : y.wait = .none) :
    (tThreads (y :: l)).threadRuns 0 0 0 (tBlockOf (y :: l)) y := ⟨rfl, rfl, rfl, h, h'⟩

/-- R160, R164, R165, R167: block 1 of a kernel of two threads goes to cell 0; w0 to w4 hold what a thread starts with. -/
theorem witness_BlocksStartInTheirShare :
    let slot := tSlot (2 + 0x2000 * 2 ^ 128 + (2 ^ 33 + 5) * 2 ^ 192 + 2 ^ 256 + 3 * 2 ^ 320)
    let c := { tCmd .running [slot, tSlot (2 * 2 ^ 128 + 8 * 2 ^ 144)] with next := 1 }
    let s := { State.reset with cmds := [c] }
    s.phase = .up ∧ s.handsOut 0 0 = some c ∧ c.opcode = 2 ∧ s.blockCell c = some 0 ∧ c.threads = 2 ∧
    answers (exec (.dispatchBlock 0 0) s) (fun t => (t.cell 0).blocks.length = 1 ∧ tPc t 1 = some 0x2000 ∧
      ((t.threadAt 0 0 1).map fun y => [y.get 0, y.get 1, y.get 2, y.get 3, y.get 4, y.get 5]) = some [1, 1, 5, 2, 0, 0]) = true := by
  decide +kernel

/-- R181: CID 0 adds 7 to object 3; a CID that does not own it ends its block. -/
theorem witness_ThreadsSignalFenceOrGoOn_soadd :
    let y := tThread [(0, 3), (2, 7)]
    let w := tT 0xD0 0 0 2 0 0
    let s := tThreads [y]
    let q := tCell { Cell.reset with blocks := [{ tBlockOf [y] with cid := 9 }] }
    let d := TWord.decode w
    s.phase = .up ∧ d.opc = 0xD0 ∧ d.holds y = true ∧ d.fieldsOk false true true false 0 = true ∧ d.sa1 < 64 ∧ pairOk 64 d.sa2 = true ∧
    s.soAllowed 0 3 = true ∧ s.soBroken 3 = false ∧ s.soWay 0 3 = .clear ∧ s.threadOwed 0 0 (tBlockOf [y]) = false ∧ q.soAllowed 9 3 = false ∧
    answers (exec (.soadd 0 0 0 w) s) (fun t => t.so 3 = 7 ∧ t.so 4 = 0 ∧ tPc t 0 = some 0x108) = true ∧
    tEnded (exec (.soadd 0 0 0 w) q) stAccess = true := by decide +kernel

/-- R181: SOWAIT returns once the object has reached the value, and drops the L1; before, the thread stays. SOREAD returns at once. -/
theorem witness_ThreadsSignalFenceOrGoOn_sowait :
    let y := fun n : Word => tThread [(0, 3), (2, n)]
    let w := tT 0xD1 4 0 2 0 0
    let r := tT 0xD2 4 0 0 0 0
    let s := fun n : Word => { tThreads [y n] with soVal := [(3, 5)] }
    (TWord.decode w).fieldsOk true true true false 0 = true ∧ pairOk 64 4 = true ∧ reached64 ((s 5).so 3) 5 = true ∧ reached64 ((s 6).so 3) 6 = false ∧
    answers (exec (.sowait 0 0 0 w) (s 5)) (fun t => tPc t 0 = some 0x108 ∧ (t.threadAt 0 0 0).map (fun y => y.get64 4) = some 5) = true ∧
    answers (exec (.sowait 0 0 0 w) (s 6)) (fun t => tPc t 0 = some 0x100) = true ∧
    answers (exec (.soread 0 0 0 r) (s 6)) (fun t => (t.threadAt 0 0 0).map (fun y => y.get64 4) = some 5) = true := by decide +kernel

/-- R179: an acquire at scope SYSTEM drops the L1, one at scope CELL does not. -/
theorem witness_ThreadsSignalFenceOrGoOn_tfence :
    let s := fun _ : Unit => let u := tThreads [tThread []]; u.setCell 0 { u.cell 0 with l1 := [⟨0, []⟩] }
    let sys := tT 0xD8 0 0 0 0 10
    let cell := tT 0xD8 0 0 0 0 8
    (TWord.decode sys).fieldsOk false false false false 4 = true ∧ (TWord.decode sys).fn % 4 = 2 ∧
    answers (exec (.tfence 0 0 0 sys) (s ())) (fun t => (t.cell 0).l1 = [] ∧ tPc t 0 = some 0x108) = true ∧
    answers (exec (.tfence 0 0 0 cell) (s ())) (fun t => (t.cell 0).l1.length = 1 ∧ tPc t 0 = some 0x108) = true := by decide +kernel

/-- R184: a word whose predicate does not hold moves on; one with a function bit too many ends the block; another operation's does nothing. -/
theorem witness_ThreadsSignalFenceOrGoOn_words :
    let s := tThreads [tThread []]
    let off := tT 0xC8 0 0 0 0 0 ^^^ (1 <<< 43 : DWord)
    let bad := tT 0xC8 0 0 0 0 (2 ^ 19)
    (TWord.decode off).holds (tThread []) = false ∧ (TWord.decode off).opc = 0xC8 ∧ (TWord.decode bad).holds (tThread []) = true ∧
    2 ^ 19 ≤ (TWord.decode bad).fn ∧ (TWord.decode bad).opc ≠ 0xC9 ∧
    answers (exec (.bar 0 0 0 off) s) (fun t => tPc t 0 = some 0x108) = true ∧ tEnded (exec (.bar 0 0 0 bad) s) stFormat = true ∧
    answers (exec (.gsync 0 0 0 bad) s) (fun t => t.cells = s.cells) = true := by decide +kernel

/-- R184: a field that BAR does not name, an odd pair, a register that the kernel does not have, a reserved scope, and the three of a vote. -/
theorem witness_ThreadsSignalFenceOrGoOn_formats :
    let s := tThreads [tThread []]
    ([(.bar 0 0 0 (tT 0xC8 0 1 0 0 0)), .soread 0 0 0 (tT 0xD2 3 0 0 0 0), .soread 0 0 0 (tT 0xD2 4 64 0 0 0), .soadd 0 0 0 (tT 0xD0 0 0 63 0 0),
      .tfence 0 0 0 (tT 0xD8 0 0 0 0 3), .gvote 0 0 0 (tT 0xCA 64 0 0 0 0), .gvote 0 0 0 (tT 0xCA 0 0 0 0 7), .gvote 0 0 0 (tT 0xCA 0 0 0 0 24),
      .exit 0 0 0 (tT 0xDB 1 0 0 0 0)] : List Instr).all (fun i => tEnded (exec i s) stFormat) = true := by decide +kernel

/-- R171: the first of two threads waits at barrier 15; with the other there, both go on. -/
theorem witness_ThreadsBarrierAndExit_bar :
    let w := tT 0xC8 0 0 0 0 15
    let s := tThreads [tThread [], tThread []]
    let r := tThreads [tThread [], { tThread [] with wait := .bar 15 }]
    (TWord.decode w).fieldsOk false false false false 4 = true ∧ (TWord.decode w).fn = 15 ∧
    answers (exec (.bar 0 0 0 w) s) (fun t => (t.threadAt 0 0 0).map Thread.wait = some (.bar 15) ∧ tPc t 0 = some 0x100) = true ∧
    answers (exec (.bar 0 0 0 w) r) (fun t => tPc t 0 = some 0x108 ∧ tPc t 1 = some 0x108) = true := by decide +kernel

/-- R166, R172: the last thread ends the block; an earlier one does not; a wait at a group matrix instruction needs every thread. -/
theorem witness_ThreadsBarrierAndExit_exit :
    let w := tT 0xDB 0 0 0 0 0
    (TWord.decode w).fieldsOk false false false false 0 = true ∧
    tEnded (exec (.exit 0 0 0 w) (tThreads [tThread [], { tThread [] with ended := true }])) stOk = true ∧
    answers (exec (.exit 0 0 0 w) (tThreads [tThread [], tThread []])) (fun t => t.blockEnded 0 0 = none ∧
      (t.threadAt 0 0 0).map Thread.ended = some true) = true ∧
    tEnded (exec (.exit 0 0 0 w) (tThreads [tThread [], { tThread [] with wait := .groupMatrix 0xC0 }])) stGroupIncomplete = true := by
  decide +kernel

/-- R172: threads 0 and 1 exchange: the vote ANY of q0, the register of the other lane; a thread that has ended cannot arrive. -/
theorem witness_GroupWideExchange :
    let y := fun n : Word => { tThread [(0, 3), (1, n), (2, 10 + n)] with q := BitVec.ofNat 7 n.toNat }
    let vote := tT 0xCA 3 0 0 0 8
    let shfl := tT 0xCB 3 0 2 1 0
    let sync := tT 0xC9 0 0 0 0 0
    let s := fun w : DWord => tThreads [y 1, { y 0 with wait := .groupWide w 3 }]
    let e := tThreads [y 1, { y 0 with ended := true }]
    named 3 0 = true ∧ named 3 1 = true ∧ named 3 2 = false ∧ (y 0).ended = false ∧ ({ y 0 with wait := .groupWide vote 3 } : Thread).wide = some (0x100, 3) ∧
    (TWord.decode vote).fieldsOk true true false false 5 = true ∧ (TWord.decode vote).fn % 8 ≠ 7 ∧ (TWord.decode vote).fn / 8 ≠ 3 ∧
    (TWord.decode shfl).fieldsOk true true true true 0 = true ∧ (TWord.decode sync).fieldsOk false true false false 0 = true ∧
    answers (exec (.gvote 0 0 0 vote) (s vote)) (fun t => (t.threadAt 0 0 1).map (fun z => (z.get 3, z.pc)) = some (1, 0x108)) = true ∧
    answers (exec (.gshfl 0 0 0 shfl) (s shfl)) (fun t => (t.threadAt 0 0 1).map (fun z => z.get 3) = some 11 ∧
      (t.threadAt 0 0 0).map (fun z => z.get 3) = some 10) = true ∧
    answers (exec (.gsync 0 0 0 sync) (s sync)) (fun t => tPc t 0 = some 0x108 ∧ tPc t 1 = some 0x108) = true ∧
    answers (exec (.gsync 0 0 0 sync) (tThreads [y 1, y 0])) (fun t => (t.threadAt 0 0 0).map Thread.wait = some (.groupWide sync 3)) = true ∧
    tEnded (exec (.gsync 0 0 0 sync) e) stGroupIncomplete = true := by decide +kernel

/-- R172, R173: the first of two threads waits at each of the three; one that finds another at another instruction, at another word or
with another mask ends the block. -/
theorem witness_GroupWideExchange_waits :
    let y := tThread [(0, 3)]
    let vote := tT 0xCA 3 0 0 0 8
    let shfl := tT 0xCB 3 0 2 1 0
    let sync := tT 0xC9 0 0 0 0 0
    let at' := fun (w : DWord) (m : Word) => tThreads [y, { y with pc := 0x108, wait := .groupWide w m }]
    let same := fun (w : DWord) (m : Word) => tThreads [y, { y with wait := .groupWide w m }]
    ([(Instr.gvote 0 0 0 vote, vote), (.gshfl 0 0 0 shfl, shfl), (.gsync 0 0 0 sync, sync)].all fun p =>
      answers (exec p.1 (tThreads [y, y])) (fun t => (t.threadAt 0 0 0).map Thread.wait = some (.groupWide p.2 3)) &&
      tEnded (exec p.1 (at' p.2 3)) stGroupMismatch && tEnded (exec p.1 (same p.2 7)) stGroupMismatch &&
      tEnded (exec p.1 (tThreads [y, { y with ended := true }])) stGroupIncomplete) = true := by decide +kernel

theorem test_group_stall :
    let s := tThreads [{ tThread [] with wait := .groupMatrix 0xC0 }]
    let r := tThreads [tThread []]
    tEnded (exec (.eGroupStall 0 0 0) s) stGroupStall = true ∧ answers (exec (.eGroupStall 0 0 0) r) (fun t => t.cells = r.cells) = true := by
  decide +kernel

/-- A whole group: 31 threads wait at a word, thread 0 arrives. Each has 0x01010101 in w0 to w3. -/
def tGroup (w : DWord) (n : Nat) : State :=
  let y := tThread [(0, 0x01010101), (1, 0x01010101), (2, 0x01010101), (3, 0x01010101)]
  tThreads (y :: List.replicate n { y with wait := .groupMatrix w })

/-- R173, R174: INT8 ones: each element becomes 32; with 31 threads the group is not whole; the first to arrive waits. -/
theorem witness_GroupMatrixInstructions_gmma :
    let w := tT 0xC0 4 0 0 0 64
    let d := TWord.decode w
    let s := tGroup w 31
    d.pred = 7 ∧ d.opc = 0xC0 ∧ d.fieldsOk true true true false 7 = true ∧ (s.blockPset (tBlockOf []) (d.fn % 64)).map PSet.fa = some 5 ∧
    baseOk 64 d.dst 32 = true ∧ baseOk 64 d.sa1 4 = true ∧ overlap d.sa1 4 d.dst 32 = false ∧ bitOf d.fn 6 = true ∧
    (((s.cell 0).blocks.getD 0 (tBlockOf [])).members 0).length = 32 ∧
    (((s.cell 0).blocks.getD 0 (tBlockOf [])).fragSum 0 (PSet.decode tPset) 0 0 15 15) = (32, false) ∧
    tEnded (exec (.gmma 0 0 0 w) (tGroup w 30)) stGroupIncomplete = true ∧
    answers (exec (.gmma 0 0 0 w) (tThreads (List.replicate 32 (tThread [])))) (fun t =>
      (t.threadAt 0 0 0).map Thread.wait = some (.groupMatrix w)) = true := by decide +kernel

/-- R173: a group matrix instruction that another thread awaits at another word or address; one thread of the group has ended. -/
theorem witness_GroupMatrixInstructions_mismatch :
    let w := tT 0xC0 4 0 0 0 64
    let s := fun (z : Thread) => tThreads (tThread [] :: z :: List.replicate 30 (tThread []))
    ([(Instr.gmma 0 0 0 w, w), (.gmld 0 0 0 (tT 0xC1 8 4 5 0 0), tT 0xC1 8 4 5 0 0), (.gdrain 0 0 0 (tT 0xC2 0 8 4 5 0), tT 0xC2 0 8 4 5 0)].all fun p =>
      tEnded (exec p.1 (s { tThread [] with wait := .groupMatrix (p.2 + 1) })) stGroupMismatch &&
      tEnded (exec p.1 (s { tThread [] with pc := 0x108, wait := .groupMatrix p.2 })) stGroupMismatch &&
      tEnded (exec p.1 (s { tThread [] with ended := true })) stGroupIncomplete) = true := by decide +kernel

/-- R175, R176: GMLD of fragment A from offset 0, leading dimension 48 bytes; a leading dimension of 1,008 leaves the block's KiB. -/
theorem witness_GroupMatrixInstructions_gmld :
    let w := tT 0xC1 8 4 5 0 0
    let s := fun (ld : Word) => let u := tThreads ((tThread [(5, ld)]) :: List.replicate 31 { tThread [] with wait := .groupMatrix w });
      u.setCell 0 { u.cell 0 with mem := tabSetMany zeroByte [] 720 [1, 2, 3, 4] }
    let d := TWord.decode w
    d.fieldsOk true true true false 3 = true ∧ ldOk 48 = true ∧ ldOk 1008 = true ∧ d.fn % 4 < 2 ∧ baseOk 64 d.dst 4 = true ∧
    tileStop 0 48 1 16 32 false ≤ 1024 ∧ 1024 < tileStop 0 1008 1 16 32 false ∧
    answers (exec (.gmld 0 0 0 w) (s 48)) (fun t => (((t.cell 0).blocks[0]?).map fun x => x.lane 0 30 8) = some 0x04030201) = true ∧
    tEnded (exec (.gmld 0 0 0 w) (s 1008)) stRange = true := by decide +kernel

/-- R176: a drain of an integer tile to FP32 writes each element's four bytes. -/
theorem witness_GroupMatrixInstructions_gdrain :
    let w := tT 0xC2 0 8 4 5 0
    let y := tThread [(5, 64), (8, 3), (11, 0x80000000)]
    let s := tThreads (y :: List.replicate 31 { tThread [] with wait := .groupMatrix w })
    let d := TWord.decode w
    let p := PSet.decode tPset
    d.fieldsOk false true true true 7 = true ∧ (s.blockPset (tBlockOf []) 0).map PSet.fout = some 9 ∧ baseOk 64 d.sa1 32 = true ∧ ldOk 64 = true ∧ p.bmode = 0 ∧ p.amode < 2 ∧
    tileStop 0 64 (p.out.bits / 8) 16 16 false ≤ 1024 ∧
    answers (exec (.gdrain 0 0 0 w) s) (fun t => tPc t 0 = some 0x108) = true := by decide +kernel

/-! ### Accesses to memory -/

/-- A cached range: 64 KiB of virtual address 0x100000 at physical address 0x400000, for every kind of access (11 R217, R220). -/
def tRange : XEntry :=
  { cid := 0, start := 0x100000, length := 0x10000, pbase := 0x400000, r := true, w := true, x := true, mig := false, nolake := false }

/-- The state with that range in cell 0's cache, and 0x2A at the range's first byte. -/
def tMapped (s : State) : State := { s.setCell 0 { s.cell 0 with xc := [tRange] } with mem := [(0x400000, 0x2A)] }

/-- R177, R180: block-local accesses at the last byte of the block's memory, one past it, and a misaligned one. -/
theorem witness_ThreadAccessesReachMemory_local :
    let s := fun o : Word => let u := tThreads [tThread [(0, o), (1, 0xAB)]]; u.setCell 0 { u.cell 0 with mem := [(1023, 9)] }
    regOk 64 1 = true ∧ ¬ 1024 < 1023 + 1 ∧ 1024 < 1024 + 1 ∧ 1021 % 2 ≠ 0 ∧
    answers (exec (.threadLoad 0 0 0 false false .b1 2 0) (s 1023)) (fun t => (t.threadAt 0 0 0).map (fun y => y.get 2) = some 9 ∧ tPc t 0 = some 0x108) = true ∧
    tEnded (exec (.threadLoad 0 0 0 false false .b1 2 0) (s 1024)) stRange = true ∧
    tEnded (exec (.threadStore 0 0 0 false .b2 0 1) (s 1021)) stFormat = true ∧
    answers (exec (.threadStore 0 0 0 false .b1 0 1) (s 1022)) (fun t => (t.cell 0).read 1022 2 = [0xAB, 9]) = true := by decide +kernel

/-- R180: ATOMB of function add returns the old value. -/
theorem test_atomb :
    let w := tT 0xDA 4 0 1 0 0
    let s := let u := tThreads [tThread [(0, 8), (1, 5)]]; u.setCell 0 { u.cell 0 with mem := [(8, 2)] }
    (TWord.decode w).atomicOk 64 false = true ∧
    answers (exec (.atomb 0 0 0 w) s) (fun t => (t.cell 0).read 8 1 = [7] ∧ (t.threadAt 0 0 0).map (fun y => y.get 4) = some 2) = true := by
  decide +kernel

/-- R178: a global load past the L1, a store and an atomic through a mapped range. -/
theorem witness_ThreadAccessesReachMemory_global :
    let y := tThread [(0, 0x100000), (2, 1)]
    let s := tMapped (tThreads [y])
    let w := tT 0xD9 4 0 2 0 0
    isRemote 0x400000 = false ∧ isMemory 0x400000 = true ∧ s.cacheable 0x400000 = true ∧ s.ways 0 0x400000 4 = .clear ∧
    s.quiet 0x400000 4 false none = true ∧ s.quiet 0x400000 4 true none = true ∧ s.siteOk 0 96 (.dcache 0) 0x400000 4 = true ∧
    s.quotaOk 0 0x400000 4 = true ∧ (s.translate ((tBlockOf [y]).requester 0 0) 0 0x100000 4 .threadLoad).2 = .at 0x400000 false ∧
    (s.translate ((tBlockOf [y]).requester 0 0) 0 0x100000 4 .threadStore).2 = .at 0x400000 false ∧
    s.brokenIn 0x400000 4 = false ∧ s.partlyBroken 0x400000 4 = false ∧ (TWord.decode w).atomicOk 64 true = true ∧
    answers (exec (.threadLoad 0 0 0 true true .b4 4 0) s) (fun t => (t.threadAt 0 0 0).map (fun y => y.get 4) = some 0x2A) = true ∧
    answers (exec (.threadStore 0 0 0 true .b4 0 2) s) (fun t => t.readNat 0x400000 4 = 1) = true ∧
    answers (exec (.atomg 0 0 0 w) s) (fun t => t.readNat 0x400000 4 = 0x2B ∧ (t.threadAt 0 0 0).map (fun y => y.get 4) = some 0x2A) = true := by
  decide +kernel

/-- A descriptor of one row of 32 bytes at virtual address 0x100000 and cell offset 64 (05 R100), as load or store. -/
def tDesc (store : Nat) : StreamDesc := ⟨1, BitVec.ofNat 256 (0x100000 + 64 * 2 ^ 64 + 32 * 2 ^ 96 + 2 ^ 112 + store * 2 ^ 192), 0, false⟩
def tStream (q : StreamDesc) (j : Job) (c : Cmd) : State :=
  tMapped { tCell { Cell.reset with job := some j, str := { StreamEngine.reset with queue := [q] }, mem := [(64, 7)] } with cmds := [c] }

/-- R100: a load brings memory's byte, a store takes the cell's; an unmapped row ends the item with E_RANGE. -/
theorem witness_StreamRowsMove_rows :
    let c := tCmd .running [tCellSlot]
    let s := fun n : Nat => tStream (tDesc n) tJob c
    let bad := tStream ⟨1, BitVec.ofNat 256 (0x900000 + 32 * 2 ^ 96 + 2 ^ 112), 0, false⟩ tJob c
    let d := SDesc.decode (tDesc 1).desc
    (s 0).ways 0 0x400000 32 = .clear ∧ (s 0).quotaOk 0 0x400000 32 = true ∧ (s 0).quiet 0x400000 32 false none = true ∧
    (s 1).quiet 0x400000 32 true none = true ∧ (s 0).brokenIn 0x400000 32 = false ∧ (s 1).partlyBroken 0x400000 32 = false ∧
    ((s 0).cell 0).str.stall = none ∧ (s 0).streamOwed 0 tJob = false ∧ d.rows = 0 + 1 ∧ d.store = true ∧ granulePieces 0x100000 32 = [(0x100000, 32)] ∧
    ((s 0).cell 0).rowAt (SDesc.decode (tDesc 0).desc) 0 = (0x100000, 64, 32) ∧
    ((s 0).translate (tJob.requester 0) 0 0x100000 32 .streamRead).2 = .at 0x400000 false ∧
    ((s 1).translate (tJob.requester 0) 0 0x100000 32 .streamWrite).2 = .at 0x400000 false ∧
    (bad.translate (tJob.requester 0) 0 0x900000 32 .streamRead).2 = .bad stRange ∧
    answers (exec (.streamTransfer 0) (s 0)) (fun t => (t.cell 0).read 64 2 = [0x2A, 0] ∧ (t.cell 0).str.queue.map StreamDesc.done = [true]) = true ∧
    answers (exec (.streamTransfer 0) (s 1)) (fun t => t.readBytes 0x400000 2 = [7, 0]) = true ∧
    answers (exec (.streamTransfer 0) bad) (fun t => (t.cell 0).job.bind Job.ended = some stRange) = true := by decide +kernel

/-- R271: a migration piece of 64 bytes; a source that belongs to another CID, in private mode, ends it with E_ACCESS. -/
theorem witness_StreamRowsMove_migration :
    let slot := tSlot (3 + 0x400000 * 2 ^ 128 + 0x800000 * 2 ^ 192 + (64 + 2 ^ 40) * 2 ^ 256 + 2 ^ 320)
    let c := tCmd .running [slot]
    let j := { tJob with kind := .piece }
    let s := tStream (tDesc 0) j c
    let r := { s with own := [(2, { owner := 5, kslot := 0, mode := 0 })] }
    let none' := { s with regs := [(umberBar 0 + 0xA010, 0)] }
    c.mig = true ∧ c.pieceLen 0 = 64 ∧ s.migCheck c.mcid false 0x400000 64 = stOk ∧ s.migCheck c.mcid true 0x800000 64 = stOk ∧
    r.migCheck c.mcid false 0x400000 64 = stAccess ∧ isMemory 0x800000 = true ∧ s.ways 0 0x400000 64 = .clear ∧ s.ways 0 0x800000 64 = .clear ∧
    s.quiet 0x400000 64 false none = true ∧ s.quiet 0x800000 64 true none = true ∧ s.migrateShare ≠ 0 ∧ none'.migrateShare = 0 ∧
    answers (exec (.streamTransfer 0) none') (fun t => t.mem = s.mem ∧ (t.cell 0).job.bind Job.ended = none) = true ∧
    answers (exec (.streamTransfer 0) s) (fun t => t.readBytes 0x800000 2 = [0x2A, 0] ∧ (t.cell 0).job.bind Job.ended = some stOk) = true ∧
    answers (exec (.streamTransfer 0) r) (fun t => (t.cell 0).job.bind Job.ended = some stAccess) = true := by decide +kernel

/-! ### 10, 11, 12 -/

/-- A granule that belongs to CID 5 alone. -/
def tOwned : Own := { owner := 5, kslot := 0, mode := 0 }

/-- R240, R258, R199: a read, a write and an atomic of CID 0; an access that CID 0 may not make; a write with FJ1 and no quota left waits. -/
theorem witness_HomePerformsAccesses :
    let s := { State.reset with mem := [(0x400000, 3)] }
    let p := { s with own := [(2, tOwned)] }
    let st := (s.hbmPlace 0x400000).1 / 32
    let q := { s with regs := [(umberBar 0 + 0xA000, 1), (umberBar 0 + 0xA200 + 4 * st, 1)], hbm := { s.hbm with quota := [(st, 1)] } }
    let w := { s with hbm := { s.hbm with quotaHeld := [(0, 0x400000, false, .write [9])] } }
    s.homeOk 0 0x400000 (.read 4) = true ∧ s.homeOk 0 0x400000 (.write [9]) = true ∧ s.homeOk 0 0x400000 (.atomic .add false 2 0) = true ∧
    p.homeOk 0 0x400000 (.read 4) = false ∧ s.quotaOk 0 0x400000 33 = true ∧ q.quotaOk 0 0x400000 31 = true ∧ q.quotaOk 0 0x400000 32 = false ∧
    s.heldOver 0x400000 1 = false ∧ s.waitsOver 0x400000 1 = false ∧ w.heldOver 0x400000 4 = true ∧ w.heldOver 0x400001 4 = false ∧
    s.homeTakes 0 0x400000 (.write [9]) = true ∧ q.homeTakes 0 0x400000 (.write (List.replicate 32 9)) = false ∧ w.homeTakes 0 0x400000 (.write [9]) = true ∧
    s.brokenIn 0x400000 4 = false ∧ s.partlyBroken 0x400000 1 = false ∧ inHbm 0x400000 = true ∧ 0x400000 / 32 = (0x400000 + 4 - 1) / 32 ∧
    answers (exec (.ioCoherentAccess 0 0x400000 false (.write [9])) s) (fun t => t.readBytes 0x400000 2 = [9, 0]) = true ∧
    answers (exec (.ioCoherentAccess 0 0x400000 false (.write (List.replicate 32 9))) q) (fun t => t.mem = s.mem ∧ t.hbm.quotaHeld.length = 1) = true ∧
    answers (exec (.nearAtomic 0 0x400000 .add false 2 0) w) (fun t => t.mem = s.mem ∧ t.hbm.quotaHeld.length = 2) = true ∧
    answers (exec .quotaAdmission w) (fun t => t.hbm.quotaHeld = [] ∧ t.readBytes 0x400000 1 = [9]) = true ∧
    answers (exec (.nearAtomic 0 0x400000 .add false 2 0) s) (fun t => t.readNat 0x400000 4 = 5) = true ∧
    answers (exec (.finePathAccess 0 0x400000 (.write [8])) s) (fun t => t.readBytes 0x400000 1 = [8] ∧ t.hbm.lake = []) = true ∧
    answers (exec (.ioCoherentAccess 0 0x400000 false (.write [9])) p) (fun t => t.mem = s.mem) = true := by decide +kernel

theorem witness_HomePerformsAccesses_idle :
    ({ State.reset with mem := [(0x400000, 3)], hbm := { Hbm.reset with quotaHeld := [(0, 0x400000, false, .write [9])] } } : State).portsIdle :=
  State.portsIdle_of_listed _ (by decide +kernel)

/-- R204, R196, R364: a line of a group that powers down, a zeroing band, a word found broken, a pass that is behind. -/
theorem witness_HbmMaintenance_pages :
    let line : LakeLine := { tag := 1, dirty := true }
    let s := { State.reset with hbm := { Hbm.reset with cleaning := [(0, 1)], lake := [(lakeKey 0 5 3, line)], bands := [(128 * 7 + 2, .zeroing)] } }
    bitOf (tabGet cleanDflt s.hbm.cleaning 0).toNat (3 / 4) = true ∧ bitOf (tabGet cleanDflt s.hbm.cleaning 0).toNat (4 / 4) = false ∧
    s.band 7 2 = .zeroing ∧ s.band 7 3 ≠ .zeroing ∧ inHbm 0x400000 = true ∧ s.mapped 0x400000 = true ∧ s.errEn 0 = false ∧
    answers (exec (.lakeWayClean 0 5 3) s) (fun t => t.hbm.lake = [] ∧ tabGet waysDflt t.hbm.ways 0 = 0xE) = true ∧
    answers (exec (.bandZeroed 7 2) s) (fun t => t.band 7 2 = .free) = true ∧
    answers (exec (.patrolScrubPass (Fin.ofNat 12 ((s.hbmPlace 0x400000).1 / 32)) true [0x400000]) s)
      (fun t => 0x400000 / 32 ∈ t.hbm.broken ∧ (t.reg (umberBar 0 + 0xA004)).getLsbD 0 = true) = true := by decide +kernel

/-- R209, R211, R210: a channel one lane short of retiring, a retraining with one spare left takes it, a repaired row is recorded. -/
theorem witness_HbmMaintenance_lanes :
    let ch : Channel := { state := .inService, spares := 3, failed := [1, 2] }
    let s := { State.reset with hbm := { Hbm.reset with chans := [(7, ch)] } }
    3 ∉ (s.chan 7).failed ∧ 4 ≤ (s.chan 7).spares + (s.chan 7).failed.length ∧ (s.chan 8).spares + (s.chan 8).failed.length < 4 ∧
    (s.chan 7).state = .inService ∧ (s.chan 7).failed ≠ [] ∧ (s.chan 7).spares < 4 ∧ s.band 7 0 ≠ .offline ∧
    answers (exec (.hbmRetrain 7) s) (fun t => t.chan 7 = { state := .inService, spares := 4, failed := [2] }) = true := by decide +kernel

/-- R210: a row whose soft repair is due; one of which nothing is known. -/
theorem witness_HbmMaintenance_rows :
    let s := State.reset
    let d := { s with hbm := { s.hbm with rowDue := [(7, 0, 9)] } }
    (7, 0, 9) ∈ d.hbm.rowDue ∧ (7, 0, 9) ∉ s.hbm.rowDue ∧ d.band 7 0 ≠ .offline ∧
    answers (exec (.rowSoftRepair 7 0 9 true) d) (fun t => t.flash.rows = [(7, 0, 9)] ∧ t.hbm.rowDue = []) = true ∧
    answers (exec (.rowSoftRepair 7 0 9 true) s) (fun t => t.flash.rows = []) = true := by decide +kernel

/-- An XLT_INV descriptor for CID 0, object 3, the range of `tRange` (11 R221). -/
def tInvData : List Byte := leBytes 32 (3 * 2 ^ 16 + 0x100000 * 2 ^ 64 + 0x10000 * 2 ^ 128)
def tInv : Inv := { cid := 0, so := 3, all := false, start := 0x100000, length := 0x10000, tids := [], owed := [], mmio := [] }

/-- R221: the 64th waits in the queue, the 65th makes the core wait. -/
theorem witness_InvalidationReachesEveryCache_queue :
    let s := fun n : Nat => { State.reset with xlt := { Xlt.reset with queue := List.replicate n tInv } }
    tReady (s 63) 0 = true ∧ tInvData.length = 32 ∧ (s 63).xlt.queue.length < 64 ∧ 64 ≤ (s 64).xlt.queue.length ∧
    answers (exec (.xltInv 0 0 tInvData) (s 63)) (fun t => t.xlt.queue = List.replicate 64 tInv) = true ∧
    answers (exec (.xltInv 0 0 tInvData) (s 64)) (fun t => (t.host 0).invStore = some (0, tInvData) ∧ t.xlt.queue.length = 64) = true := by
  decide +kernel

/-- R222, R223: generation 1, no entry of the range anywhere, a walk begun before starts again; completion adds 1 once no walk is stale. -/
theorem witness_InvalidationReachesEveryCache_broadcast :
    let w : Walk := { cid := 0, va := 0x100000, kind := 2, gen := 0, found := some tRange, status := stOk, stale := false }
    let o := { Ochre.reset with xc := [tRange], walks := [w] }
    let x := { Xlt.reset with queue := [tInv] }
    let s := { tCell { Cell.reset with xc := [tRange] } with ochres := [(0, o)], xlt := x }
    s.xlt.queue = [tInv] ∧ (s.ochre 0).walks[0]? = some w ∧ (s.ochre 0).missQ = [] ∧
    answers (exec .invalidationBroadcast s) (fun t => t.xlt.gen = 1 ∧ (t.cell 0).xc = [] ∧ (t.ochre 0).xc = [] ∧
      (t.ochre 0).walks.map Walk.stale = [true] ∧ t.invDone tInv = false ∧
      answers (exec (.walkFinish 0 0) t) fun u => (u.ochre 0).xc = [] ∧ (u.ochre 0).walks.map Walk.gen = [1] ∧ u.invDone tInv = true ∧
        u.soBroken 3 = false ∧ answers (exec .invalidationComplete u) fun v => v.so 3 = 1 ∧ v.xlt.flying = []) = true ∧
    answers (exec (.walkFinish 0 0) s) (fun t => t.ochre 0 = { Ochre.reset with xc := [tRange] }) = true := by decide +kernel

/-- R220: the 33rd miss waits for a walker; a covered address starts nothing. -/
theorem witness_WalksAndFaultRecords_walks :
    let w : Walk := { cid := 1, va := 0, kind := 2, gen := 0, found := none, status := stRange, stale := false }
    let s := fun n : Nat => { State.reset with ochres := [(0, { Ochre.reset with xc := [tRange], walks := List.replicate n w })] }
    ((((s 31).ochre 0).xc.any fun e => e.covers 0 0x200000) = false) ∧ (((s 31).ochre 0).xc.any fun e => e.covers 0 0x10FFFF) = true ∧
    (((s 31).ochre 0).walks.any fun w => w.cid == 0 && w.va == 0x200000) = false ∧ ((s 31).ochre 0).walks.length < 32 ∧
    32 ≤ ((s 32).ochre 0).walks.length ∧ (s 32).ochre 0 ≠ Ochre.reset ∧
    answers (exec (.translationWalk 0 0 0x200000 2) (s 31)) (fun t => (t.ochre 0).walks.length = 32) = true ∧
    answers (exec (.translationWalk 0 0 0x200000 2) (s 32)) (fun t => (t.ochre 0).missQ = [(0, 0x200000, 2)]) = true ∧
    answers (exec (.translationWalk 0 0 0x10FFFF 2) (s 31)) (fun t => (t.ochre 0).walks.length = 31) = true := by decide +kernel

def tFault : FaultRec := { fid := 4, va := 0x100000, cid := 0, req := 0, kind := 2, cause := 0, prg := 0, cmd := none, written := false }

/-- R227, R228: the record at slot 0 of the queue; RETRY lets the core go on, ABORT ends its item; the queue is full at 1,024. -/
theorem witness_WalksAndFaultRecords_faults :
    let s := { tCell { Cell.reset with job := some tJob, core := { ControlCore.reset with wait := .faultOn 0x100000 } } with
      ochres := [(0, { Ochre.reset with faults := [tFault], fqTail := 0x400 })], regs := [(ochreBar 0 + 0x1000, 0x800000), (ochreBar 0 + 0x1008, 1), (ochreBar 0 + 0x100C, 1)] }
    let full := { s with regs := [(ochreBar 0 + 0x1000, 0x800000), (ochreBar 0 + 0x1008, 1)] }
    s.fqEn 0 = true ∧ s.fqFull 0 = false ∧ full.fqFull 0 = true ∧ ((s.ochre 0).faults.find? fun f => !f.written) = some tFault ∧
    s.spanMapped 0x800000 32 = true ∧ s.ownOk 0 true 0x800000 32 = true ∧ s.trcOn 0 3 = false ∧ s.faultCmd tFault = none ∧
    s.faultOf 0 4 = some tFault ∧ s.faultOf 0 5 = none ∧
    answers (exec (.faultRecordWrite 0) s) (fun t => (t.ochre 0).fqTail = 0x401 ∧ (0, 256) ∈ t.irqs ∧
      t.readBytes 0x800000 12 = [0, 0, 0x10, 0, 0, 0, 0, 0, 0, 0, 4, 0]) = true ∧
    answers (exec (.faultRecordWrite 0) full) (fun t => t.mem = [] ∧ t.irqs = []) = true ∧
    answers (exec (.xltResumeRetry 0 4) s) (fun t => (t.cell 0).core.wait = .running ∧ (t.ochre 0).faults = []) = true ∧
    answers (exec (.xltResumeAbort 0 4) s) (fun t => (t.cell 0).job.bind Job.ended = some stAccess ∧ (t.ochre 0).faults = []) = true := by
  decide +kernel

/-- A translated request of function 7 of port 0 without a PASID. -/
def tDev (a : IoAccess) : DeviceRequest := { rid := 7, pasid := none, translated := true, addr := 0x400000, access := a }

/-- R229, R230: with CID 0 as the default, a translated write stores, a read is answered; a function that lost ATS is refused. -/
theorem witness_ThirdDevicesUnderOwnership_requests :
    let s := { State.reset with mem := [(0x400000, 3)], ochres := [(0, { Ochre.reset with xc := [{ tRange with mig := true }] })] }
    let off := { s with roots := [(0, { RootPort.reset with atsOff := [7] })] }
    s.devCid 0 7 none = some 0 ∧ (s.devAddr 0 0 (tDev (.read 4))).2 = .at 0x400000 false ∧ (off.devAddr 0 0 (tDev (.read 4))).2 = .unsupported ∧
    s.ways 4 0x400000 4 = .clear ∧ s.spanMapped 0x400000 4 = true ∧ s.ownOk 0 true 0x400000 4 = true ∧ s.sealedCid 0 = false ∧
    (s.root 0).posted = [] ∧ s.behindWrites 0 7 [] = false ∧ s.homeTakes 0 0x400000 (.write [9, 8]) = true ∧ s.partlyBroken 0x400000 2 = false ∧
    (off.root 0).posted = [] ∧ off.behindWrites 0 7 [] = false ∧ s.homeTakes 0 0x400000 (.read 2) = true ∧
    s.brokenIn 0x400000 4 = false ∧ (match (s.lookup (portReq 0) 0 0x100000 0).2 with | .entry e => e.mig | _ => false) = true ∧
    answers (exec (.thirdDeviceRequest 0 (tDev (.write [9, 8]))) s) (fun t => t.readBytes 0x400000 2 = [9, 8]) = true ∧
    answers (exec (.postedWrite 0 (tDev (.write [9, 8])) true) s) (fun t => t.readBytes 0x400000 2 = [9, 8]) = true ∧
    answers (exec (.thirdDeviceRequest 0 (tDev (.read 2))) s) (fun t => (t.root 0).answer = some (0, [3, 0])) = true ∧
    answers (exec (.thirdDeviceRequest 0 (tDev (.read 2))) off) (fun t => (t.root 0).answer = some (1, []) ∧ (t.root 0).aer = 1) = true ∧
    answers (exec (.atsTranslationRequest 0 7 none 0x100000) s) (fun t => ((t.root 0).answer.map fun a => (a.1, byteAt a.2 16)) = some (0, 0)) = true ∧
    answers (exec (.atsTranslationRequest 0 7 none 0x100000) off) (fun t => (t.root 0).answer = some (1, [])) = true := by decide +kernel

/-- R230, R231: PRI adds a record with CAUSE 2; an acknowledgement, or the end of its time limit. -/
theorem witness_ThirdDevicesUnderOwnership_events :
    let x : AtsReq := { rid := 7, tag := 0, wipes := [1] }
    let y : AtsReq := { rid := 7, tag := 1, wipes := [2] }
    let s := { State.reset with roots := [(0, { RootPort.reset with atsOwed := [x, y], ats := [(7, 1), (7, 2), (9, 1)] })] }
    ((s.root 0).atsOwed.find? fun x => x.rid == 7) = some x ∧ ((s.root 0).atsOwed.any fun x => x.rid == 8) = false ∧ s.devCid 0 7 none = some 0 ∧
    answers (exec (.priPageRequest 0 7 none 0x12345678 9) s) (fun t => (t.ochre 0).faults.map (fun f => (f.cause, f.kind, f.va, f.prg)) =
      [(2, 8, 0x12340000, 9)]) = true ∧
    answers (exec (.atsInvalidateCompletion 0 7) s) (fun t => (t.root 0).atsOwed = [y] ∧ (t.root 0).ats = [(7, 2), (9, 1)]) = true ∧
    answers (exec (.atsInvalidateTimeout 0 7) s) (fun t => (t.root 0).atsOff = [7] ∧ (t.root 0).atsEvt = true ∧ (t.root 0).atsOwed = [] ∧ (t.root 0).ats = [(9, 1)]) = true ∧
    answers (exec (.atsInvalidateTimeout 0 8) s) (fun t => (t.root 0).atsOff = []) = true := by decide +kernel

/-- R411, R356: a second entry for the same function and PASID sets DUP; a SEALED CID is no default. -/
theorem witness_ThirdDevicesUnderOwnership_pasid :
    let a := rootBlock 0 + 0x8000
    let s := { State.reset with regs := [(a + 8, 0x00050007), (a + 12, 0x80000009)], ctxs := [(6, { Ctx.reset 6 with state := .sealed })],
                                held := [(a, 0x00050007)] }
    let e := { State.reset with ctxs := [(6, { Ctx.reset 6 with state := .sealed })], held := [(a, 0x00060007)] }
    bitOf (s.pasidEntry 0 1) 63 = true ∧ bitsOf (s.pasidEntry 0 1) 15 0 = 7 ∧ bitsOf (s.pasidEntry 0 1) 51 32 = 9 ∧
    s.lowHalf a (s.reg a) = 0x00050007 ∧ (s.ctx 6).state = .sealed ∧ (s.ctx 5).state ≠ .sealed ∧
    (∀ k : Fin 16, bitOf (e.pasidEntry 0 k) 63 = false) ∧
    answers (exec (.pasidEntryWrite 0 0 0x80000009) s) (fun t => (t.root 0).dup = true ∧ t.reg64 a = 0) = true ∧
    answers (exec (.rpDefcidWrite 0 6) s) (fun t => t.reg (rootBlock 0) = 0) = true ∧
    answers (exec (.rpDefcidWrite 0 5) s) (fun t => t.reg (rootBlock 0) = 5) = true := by decide +kernel

/-- R288, R434: a window of port 0 at the base of the third-device range. -/
def tPort (r : RootPort) : State := { State.reset with roots := [(0, { r with windows := [(0x0E0000000000, 0x0E00000FFFFF)] })] }

theorem witness_RootPortLinksHoldRequests :
    let up := tPort RootPort.reset
    let down := tPort { RootPort.reset with l0 := false }
    let dead := tPort { RootPort.reset with l0 := false, dead := true }
    let held := tPort { RootPort.reset with l0 := false, held := [hostMmio 0 0x0E0000000000 [] 4] }
    let wr := tPort { RootPort.reset with l0 := false, held := [hostMmio 0 0x0E0000000000 [7] 1] }
    placeOf 0x0E0000000000 = .mmio ∧ up.portOf 0x0E0000000000 = some 0 ∧ up.portOf 0x0E00000FFFFF = some 0 ∧ up.portOf 0x0E0000100000 = none ∧
    tReady up 0 = true ∧ (up.root 0).l0 = true ∧ (down.root 0).dead = false ∧ (dead.root 0).dead = true ∧
    answers (exec (.mmioAccess (.host 0) 0x0E0000000000 [] 4 (.data [5, 0, 0, 0])) up) (fun t => (t.host 0).loaded = 5 ∧ (t.root 0).sent.length = 1) = true ∧
    answers (exec (.mmioAccess (.host 0) 0x0E0000000000 [] 4 .refused) down) (fun t => (t.root 0).held.length = 1 ∧ (t.host 0).trap = none) = true ∧
    answers (exec (.mmioAccess (.host 0) 0x0E0000000000 [] 4 .refused) dead) (fun t => (t.host 0).trap = some .accessFault) = true ∧
    answers (exec (.mmioAccess (.host 0) 0x0E0000100000 [] 4 .refused) up) (fun t => (t.host 0).trap = some .accessFault) = true ∧
    answers (exec (.rootPortLinkDown 0) up) (fun t => (t.root 0).l0 = false) = true ∧
    answers (exec (.rootPortLinkUp ⟨0, .x8, .gt32⟩) wr) (fun t => (t.root 0).l0 = true ∧ (t.root 0).lanes = .x8 ∧ (t.root 0).speed = .gt32 ∧
      (t.root 0).sent = [hostMmio 0 0x0E0000000000 [7] 1]) = true ∧
    answers (exec (.hostpathTimeout 0) held) (fun t => (t.host 0).trap = some .accessFault ∧ (t.root 0).held = [] ∧ (t.root 0).dead = true) = true := by
  decide +kernel

theorem witness_RootPortLinksHoldRequests_idle : State.reset.hostReady 0 ∧
    (tPort { RootPort.reset with l0 := false, held := [hostMmio 0 0x0E0000000000 [] 4] }).portsIdle :=
  ⟨by unfold State.hostReady; decide +kernel, State.portsIdle_of_listed _ (by decide +kernel)⟩

/-- R283, R424: a warm reset freezes context 3 and remembers its state. -/
theorem witness_HostWarmReset_begin :
    let s := { State.reset with ctxs := [(3, { Ctx.reset 3 with state := .opened })] }
    s.rings = [] ∧ s.cmds = [] ∧ (s.ctx 3).state = .opened ∧ s.warm.active = false ∧ s.pins.hostRstN = true ∧ s.released = true ∧
    s.everReleased = true ∧ answers (exec .hostRstN { s with everReleased := false }) (fun t => t.released = true ∧ t.pins.hostRstN = false) = true ∧
    answers (exec .hostRstCtlGo s) (fun t => t.released = false ∧ (t.ctx 3).state = .frozen ∧ (t.ctx 3).before = .opened ∧ t.warm.active = true) = true ∧
    answers (exec .hostRstN s) (fun t => t.released = false ∧ t.pins.hostRstN = false) = true ∧
    answers (exec (.hostWarmReset []) s) (fun t => answers (exec .hostRstCtlGo t) fun u => u.warm = t.warm) = true := by decide +kernel

/-- R250, R284: the write-back ends with HOST_RST_N low, the rise releases the cores; the table goes to HRST_PST_BASE. -/
theorem witness_HostWarmReset_end :
    let s := { State.reset with released := false, warm := { Warm.reset with active := true }, pins := { Pins.reset with hostRstN := false },
                                coh := { Coherence.reset with dir := [(9, { owner := some (.l2 3), modified := true, sharers := [] })] } }
    let p := { s with regs := [(umberBar 0 + 0x58, 0x1000000)] }
    let r := { s with rings := [(0, { Ring.reset with state := .running })] }
    s.pstBase = 0 ∧ p.pstBase = 0x1000000 ∧ p.spanMapped 0x1000000 (2 ^ 22) = true ∧
    answers (exec .wbDone s) (fun t => t.warm.wbDone = true ∧ t.released = false ∧ (t.dirEntry 9).owner = none ∧
      answers (exec .hostRstNRise t) fun u => u.released = true) = true ∧
    answers (exec .wbDone { s with everReleased := false, pins := Pins.reset }) (fun t => t.warm.wbDone = true ∧ t.released = false) = true ∧
    answers (exec .wbDone { s with pins := Pins.reset }) (fun t => t.released) = true ∧
    answers (exec .preservedStateWrite s) (fun t => t.warm.complete = true ∧ t.mem = []) = true ∧
    answers (exec .preservedStateWrite r) (fun t => t.warm.complete = false) = true := by decide +kernel

theorem witness_HostWarmReset_table (n : Nat) : State.reset.ownOk 0 true 0x1000000 n = true := by
  simp [State.ownOk, State.owner, State.reset, tabGet, ownDflt, Own.allows]

/-- R238, R258, R187, R363: CID 0's memory, a granule of another CID, an uncorrectable word. -/
theorem witness_HostCoresAccessMemory :
    let s := { State.reset with mem := [(0x400000, 0x80)] }
    let p := { s with own := [(2, tOwned)] }
    let b := { s with hbm := { Hbm.reset with broken := [0x400000 / 32] } }
    s.localise 0x400000 = 0x400000 ∧ tReady s 0 = true ∧ s.hostWay 0 0x400000 4 true = .memory ∧ p.hostWay 0 0x400000 4 false = .trap ∧
    b.brokenIn 0x400000 4 = true ∧ s.brokenIn 0x400000 4 = false ∧ s.partlyBroken 0x400000 4 = false ∧ 0x400002 % 4 ≠ 0 ∧
    (s.host 0).barrier = false ∧ (s.host 0).buffer = [] ∧ s.cacheOk 0 (.l2 0) 0x400000 4 false = true ∧ s.cacheOk 0 (.l2 0) 0x400000 2 true = true ∧
    s.hostWay 0 0x400000 4 true = .memory ∧ s.siteOk 0 0 (.l2 0) 0x400000 4 = true ∧
    answers (exec (.load (.host 0 .b1 0x400000)) s) (fun t => (t.host 0).loaded = 0x80) = true ∧
    answers (exec (.store (.host 0 .b2 0x400000 0x1234)) s) (fun t => t.readBytes 0x400000 3 = [0x34, 0x12, 0]) = true ∧
    answers (exec (.atomic (.host 0 .add false 0x400000 1 0)) s) (fun t => t.readNat 0x400000 4 = 0x81 ∧ (t.host 0).loaded = 0x80) = true ∧
    answers (exec (.load (.host 0 .b4 0x400000)) p) (fun t => (t.host 0).trap = some .accessFault) = true ∧
    answers (exec (.atomic (.host 0 .add false 0x400002 1 0)) s) (fun t => (t.host 0).trap = some .accessFault) = true ∧
    answers (exec (.load (.host 0 .b4 0x400000)) b) (fun t => (t.host 0).trap = some .machineCheck) = true := by decide +kernel

/-- R88, R89, R95: the window's first byte, a translated address, a misaligned one, an unmapped one; the pc moves on by 4, by 2 after the
compressed form. -/
theorem witness_ControlCoresAccessMemory :
    let s := tMapped (tItem [(1, 0xFFFFFFFFFFE00000), (2, 0x100000), (3, 0x900000), (4, 0x85)])
    cellWindow ≤ 0xFFFFFFFFFFE00000 ∧ 0x100000 < cellWindow ∧ s.cacheable 0x400000 = true ∧ s.ways 0 0x400000 4 = .clear ∧
    s.cacheOk 0 (.dcache 0) 0x400000 4 true = true ∧ s.cacheOk 0 (.dcache 0) 0x400000 1 false = true ∧ s.siteOk 0 96 (.dcache 0) 0x400000 4 = true ∧
    (s.translate (tJob.requester 0) 0 0x100000 1 .coreLoad).2 = .at 0x400000 false ∧
    (s.translate (tJob.requester 0) 0 0x100000 4 .coreStore).2 = .at 0x400000 false ∧
    (s.translate (tJob.requester 0) 0 0x900000 1 .coreLoad).2 = .bad stRange ∧
    answers (exec (.store (.cell 0 .b1 1 4 0 false)) s) (fun t => (t.cell 0).read 0 1 = [0x85] ∧
      answers (exec (.load (.cell 0 .b1 true 5 1 0 true)) t) fun u => (u.cell 0).core.get 5 = 0xFFFFFFFFFFFFFF85 ∧ (u.cell 0).core.pc = 6) = true ∧
    answers (exec (.load (.cell 0 .b1 false 5 2 0 false)) s) (fun t => (t.cell 0).core.get 5 = 0x2A) = true ∧
    answers (exec (.store (.cell 0 .b4 2 4 0 false)) s) (fun t => t.readNat 0x400000 4 = 0x85) = true ∧
    answers (exec (.atomic (.cell 0 .add false 5 2 4)) s) (fun t => t.readNat 0x400000 4 = 0xAF ∧ (t.cell 0).core.get 5 = 0x2A) = true ∧
    answers (exec (.load (.cell 0 .b4 false 5 2 1 false)) s) (fun t => (t.cell 0).job.bind Job.ended = some stFormat) = true ∧
    answers (exec (.load (.cell 0 .b1 false 5 3 0 false)) s) (fun t => (t.cell 0).job.bind Job.ended = some stRange) = true ∧
    answers (exec (.atomic (.cell 0 .cas false 5 2 4)) s) (fun t => (t.cell 0).job.bind Job.ended = some stFormat) = true := by decide +kernel

/-- R256: LR reserves; SC with the reservation stores and returns 0, and a second SC returns 1. -/
theorem witness_ReservationsAndBarriers_pair :
    let s := { State.reset with mem := [(0x400000, 5)] }
    let c := tMapped (tItem [(2, 0x100000), (4, 6)])
    s.hostWay 0 0x400000 4 false = .memory ∧ s.hostWay 0 0x400000 4 true = .memory ∧ s.reserved (.host 0) (0x400000 / 128) = false ∧
    answers (exec (.lr (.host 0 false 0x400000)) s) (fun t => (t.host 0).loaded = 5 ∧ t.reserved (.host 0) (0x400000 / 128) = true ∧
      answers (exec (.sc (.host 0 false 0x400000 9)) t) fun u => (u.host 0).loaded = 0 ∧ u.readNat 0x400000 4 = 9 ∧
        answers (exec (.sc (.host 0 false 0x400000 8)) u) fun v => (v.host 0).loaded = 1 ∧ v.readNat 0x400000 4 = 9) = true ∧
    answers (exec (.lr (.cell 0 false 5 2)) c) (fun t => (t.cell 0).core.get 5 = 0x2A ∧ t.reserved (.cell 0) (0x400000 / 128) = true ∧
      answers (exec (.sc (.cell 0 false 6 2 4)) t) fun u => (u.cell 0).core.get 6 = 0 ∧ u.readNat 0x400000 4 = 6) = true ∧
    answers (exec (.sc (.cell 0 false 6 2 4)) c) (fun t => (t.cell 0).core.get 6 = 1 ∧ t.readNat 0x400000 1 = 0x2A) = true := by decide +kernel

/-- R243, R245: a SYSTEM barrier waits for a remote access of the cell; YFENCE of scopes 0 and 2 completes, 3 is illegal; a
host core after a SYSTEM barrier issues nothing while it awaits a remote access. -/
theorem witness_ReservationsAndBarriers_fences :
    let r : FabReq := { tid := 0, who := .cell 0 0 0 0 5 false, station := 0, rank := 0, route := 0, priv := false, resent := false, wrong := false,
                        heard := false, cid := 0, addr := 0, access := .read 4 }
    let s := { tItem [] with fab := { Fabric.reset with reqs := [r] } }
    let h := { State.reset with mem := [(0x400000, 7)], fab := { Fabric.reset with reqs := [{ r with who := .host 0 true }] } }
    let b := h.setHost 0 { h.host 0 with barrier := true }
    s.cellOwed 0 = true ∧ systemScope 4 0 false = true ∧ systemScope 3 3 false = false ∧
    answers (exec (.fence (.cell 0) 4 0 false) s) (fun t => (t.cell 0).core.pc = 0) = true ∧
    answers (exec (.fence (.cell 0) 3 3 false) s) (fun t => (t.cell 0).core.pc = 4) = true ∧
    h.hostAwaits 0 = true ∧ s.hostAwaits 0 = false ∧ (b.host 0).barrier = true ∧ b.hostAwaits 0 = true ∧
    answers (exec (.yfence 0 0x0400600B) s) (fun t => (t.host 0).trap = none) = true ∧
    answers (exec (.yfence 0 0x0600600B) s) (fun t => (t.host 0).trap = some .illegal) = true ∧
    answers (exec (.fence (.host 0) 15 15 false) h) (fun t => (t.host 0).barrier = true) = true ∧
    answers (exec (.load (.host 0 .b1 0x400000)) b) (fun t => (t.host 0).loaded = 0) = true ∧
    answers (exec (.fence (.host 0) 15 15 false) s) (fun t => (t.host 0).trap = none) = true := by decide +kernel

/-- R254, R255, R257: the first GetS owns in E; the owner's answer to a forwarded GetS leaves both sharers; a busy line gives one token. -/
theorem witness_DirectoryServesRequests :
    let s := State.reset
    let line := 0x400000 / 128
    s.cacheable 0x400000 = true ∧ s.isBusy line = false ∧ (s.dirEntry line).owner = none ∧ s.quotaOk (s.holderCid (.l2 3)) (128 * line) 128 = true ∧
    s.homeWay (.l2 3) 0x400000 = .clear ∧ s.setFull line = false ∧ s.coh.accepted = [] ∧ s.coh.tokens = [] ∧ s.tableFull line = false ∧ (s.setMates line).length < 16 ∧ s.home (128 * line) = s.home 0x400000 ∧
    answers (exec (.getS (.l2 3) 0x400000) s) (fun t => t.dirEntry line = { owner := some (.l2 3), modified := false, sharers := [] } ∧
      answers (exec (.holdEnd (.l2 3) 0x400000) t) fun t => t.isHeld line (.l2 3) = false ∧
      answers (exec (.writeback (.l2 3) 0x400000) t) (fun w => (w.dirEntry line).owner = none) ∧
      answers (exec (.getS (.l2 4) 0x400000) t) fun u => u.isBusy line = true ∧
        answers (exec (.getM (.l2 5) 0x400000) u) (fun v => v.coh.tokens = [(line, .l2 5, ReqKind.getM)] ∧
          answers (exec (.getM (.l2 5) 0x400000) v) fun w => w.coh.tokens = v.coh.tokens) ∧
        answers (exec (.getS (.l2 5) 0x400000) u) (fun v => v.coh.tokens = [(line, .l2 5, ReqKind.getS)]) ∧
        answers (exec (.writeback (.l2 3) 0x400000) u) (fun v => v.coh.tokens = [(line, .l2 3, ReqKind.writeback)] ∧ v.coh.dir = u.coh.dir) ∧
        answers (exec (.forwardedRequest (.l2 3) 0x400000) u) fun v => v.dirEntry line = { owner := none, modified := false, sharers := [.l2 3, .l2 4] } ∧
          v.isBusy line = false) = true ∧
    answers (exec (.getM (.l2 3) 0x400000) s) (fun t => (t.dirEntry line).modified = true) = true ∧
    answers (exec (.homeRetry (.l2 5) 0x400000) { s with coh := { Coherence.reset with tokens := [(line, .l2 5, ReqKind.getM)] } })
      (fun t => (t.dirEntry line).owner = some (.l2 5) ∧ t.coh.tokens = []) = true := by decide +kernel

/-! ### 13 -/

/-- Ring 0 as given, everything else at reset. -/
def tRing (x : Ring) : State := { State.reset with rings := [(0, x)] }

/-- R265, R266: SIZE 4, head and tail 2: the highest accepted tail is 6; 7 is refused; a RUNNING ring then faults; CID 7 may not write. -/
theorem witness_DoorbellRule :
    let x := { Ring.reset with cid := 5, head := 2, tail := 2 }
    let s := tRing x
    let run := tRing { x with state := .running }
    ((5 : Cid) = 0 ∨ (5 : Cid) = (s.ring 0).cid) ∧ ((6 : Word) - (s.ring 0).head).toNat ≤ (s.ring 0).size ∧
    ((6 : Word) - (s.ring 0).tail).toNat ≤ (s.ring 0).size ∧ ¬ ((7 : Word) - (s.ring 0).head).toNat ≤ (s.ring 0).size ∧
    (7 : Cid) ≠ (s.ring 0).cid ∧ (s.ring 0).state ≠ .running ∧ (run.ring 0).state = .running ∧
    answers (exec (.doorbell 0 5 6) s) (fun t => t.ring 0 = { x with tail := 6 }) = true ∧
    answers (exec (.doorbell 0 0 7) s) (fun t => t.ring 0 = { x with dbErr := true }) = true ∧
    answers (exec (.doorbell 0 7 6) run) (fun t => t.ring 0 = { x with state := .running, dbErr := true }) = true ∧
    answers (exec (.doorbell 0 5 7) run) (fun t => t.ring 0 = { x with state := .faulted, dbErr := true }) = true := by decide +kernel

/-- R263: a STOPPED ring takes its fields, LOG2SIZE at both ends of 2 to 12; a RUNNING ring sets CFG_ERR. -/
theorem witness_RingRegistersWhileStopped :
    let s := tRing Ring.reset
    let run := tRing { Ring.reset with state := .running }
    (s.ring 0).state = .stopped ∧ (run.ring 0).state ≠ .stopped ∧ (12 : BitVec 4) ≠ (run.ring 0).log2 ∧ 2 ≤ (2 : BitVec 4).toNat ∧
    (12 : BitVec 4).toNat ≤ 12 ∧
    answers (exec (.ringConfigWrite 0 0x10 7) s) (fun t => (t.ring 0).cid = 7) = true ∧
    answers (exec (.ringCtlSetting 0 12 true) s) (fun t => (t.ring 0).log2 = 12 ∧ (t.ring 0).replay) = true ∧
    answers (exec (.ringCtlSetting 0 13 false) s) (fun t => (t.ring 0).log2 = 2 ∧ (t.ring 0).cfgErr) = true ∧
    answers (exec (.ringCtlSetting 0 12 false) run) (fun t => (t.ring 0).log2 = 2 ∧ (t.ring 0).cfgErr) = true := by decide +kernel

/-- R263, R279: RUN = 1 in each state, RUN = 0 with and without a started command, ABORT of a ring without commands, CLEAR. -/
theorem witness_RingsStartDrainAndClear :
    let x := { Ring.reset with head := 3, tail := 5 }
    let s := fun st => tRing { x with state := st }
    let busy := { s .running with cmds := [tCmd .running [tCellSlot], { tCmd .waiting [tCellSlot] with seq := 1 }] }
    let bad := { s .faulted with ctxs := [(0, { Ctx.reset 0 with state := .faulted })] }
    (s .stopped).mayRun 0 = true ∧ (tRing { x with dbase := 1 }).mayRun 0 = false ∧ ((s .faulted).ctx 0).state = .opened ∧
    (bad.ctx (bad.ring 0).cid).state = .faulted ∧ (busy.ring 0).state = .running ∧
    (∃ c ∈ busy.cmds, c.ring = 0 ∧ c.hasStarted = true) ∧ (∀ c ∈ (s .running).cmds, c.ring ≠ 0) ∧
    answers (exec (.run 0 true) (s .stopped)) (fun t => (t.ring 0).state = .running ∧ (t.ring 0).fetch = 3) = true ∧
    answers (exec (.run 0 true) (tRing { x with dbase := 1 })) (fun t => (t.ring 0).state = .stopped ∧ (t.ring 0).cfgErr) = true ∧
    answers (exec (.run 0 true) (s .draining)) (fun t => (t.ring 0).cfgErr) = true ∧
    answers (exec (.run 0 false) busy) (fun t => (t.ring 0).state = .draining ∧ t.cmds.length = 1) = true ∧
    answers (exec (.run 0 false) (s .running)) (fun t => (t.ring 0).state = .stopped) = true ∧
    answers (exec (.abort 0) (s .faulted)) (fun t => (t.ring 0).state = .stopped) = true ∧
    answers (exec (.clear 0) (s .faulted)) (fun t => (t.ring 0).state = .stopped) = true ∧
    answers (exec (.clear 0) bad) (fun t => (t.ring 0).state = .faulted ∧ (t.ring 0).cfgErr) = true := by decide +kernel

/-- R267, R269: the slot of sequence 0 at RING_DBASE, a NOP with LAYER 0x0908. -/
theorem witness_SubmittedCommandsAreFetchedAndStart_fetch :
    let x := { Ring.reset with dbase := 0x100000, tail := 1, state := .running }
    let s := { tRing x with mem := [(0x400004, 8), (0x400005, 9)], ochres := [(0, { Ochre.reset with xc := [tRange] })] }
    let bs := s.readBytes 0x400000 64
    s.ringStarts 0 = true ∧ (s.ring 0).stall = none ∧ (s.ring 0).fetch ≠ (s.ring 0).tail ∧ (s.ring 0).own = [] ∧ slotSpan bs = 1 ∧
    (match (s.dispRead 0 0 0 ((s.ring 0).slotAddr 0) 64) with | (u, .bytes l) => u.ring 0 == s.ring 0 && l == bs | _ => false) = true ∧
    answers (exec (.descriptorFetch 0) s) (fun t => (t.ring 0).fetch = 1 ∧
      t.cmds.map (fun c => (c.ring, c.seq, c.opcode, c.layer, c.stage)) = [(0, 0, 0, 0x908, .fetched)]) = true := by decide +kernel

/-- R273: stage 1 accepts a NOP and refuses a reserved opcode; a waiting command starts when its object has reached WVAL, 5 of 5. -/
theorem witness_SubmittedCommandsAreFetchedAndStart_start :
    let c := fun st n => tCmd st [tSlot n]
    let s := fun st n so => { tRing { Ring.reset with state := .running } with cmds := [c st n], soVal := [(9, so)] }
    let nop := 9 * 2 ^ 96 + 5 * 2 ^ 448
    let bad := 2 ^ 130 + nop
    (s .fetched 0 0).nextCmd 0 = some ([], c .fetched 0) ∧ (s .fetched 0 0).ringStarts 0 = true ∧ (s .fetched 0 0).admits [] (c .fetched 0) = true ∧
    (s .fetched 0 0).stage1 (c .fetched 0) = stOk ∧ (s .fetched 0x7F 0).stage1 (c .fetched 0x7F) = stFormat ∧
    (s .waiting nop 5).nextCmd 0 = some ([], c .waiting nop) ∧ (s .waiting nop 5).jobHolds 0 = false ∧ (s .waiting nop 5).objectWay (c .waiting nop) (c .waiting nop).waitObj (c .waiting nop).wval = .clear ∧
    (s .waiting nop 4).waitOver (c .waiting nop) = false ∧ (s .waiting nop 5).waitOver (c .waiting nop) = true ∧
    (s .waiting nop 5).bodyOk (c .waiting nop) = true ∧ (s .waiting bad 5).bodyOk (c .waiting bad) = false ∧ (c .waiting nop).opcode = 0 ∧
    ((s .waiting nop 5).endErrand (.ring 0 0)).startOk (c .waiting nop) = stOk ∧
    answers (exec (.commandAdmit 0) (s .fetched 0 0)) (fun t => t.cmds.map Cmd.stage = [.waiting]) = true ∧
    answers (exec (.commandAdmit 0) (s .fetched 0x7F 0)) (fun t => t.cmds.map (fun c => (c.stage, c.status)) = [(.finished, stFormat)]) = true ∧
    answers (exec (.commandStart 0) (s .waiting nop 4)) (fun t => t.cmds.map Cmd.stage = [.waiting]) = true ∧
    answers (exec (.commandStart 0) (s .waiting nop 5)) (fun t => t.cmds.map Cmd.stage = [.started]) = true ∧
    answers (exec (.commandStart 0) (s .waiting bad 5)) (fun t => t.cmds.map Cmd.status = [stFormat]) = true := by decide +kernel

/-- One command of ring 0 in progress on a die that holds the translation of `tRange`. -/
def tStarted (c : Cmd) : State := { State.reset with cmds := [c], ochres := [(0, { Ochre.reset with xc := [tRange] })] }

/-- R269, R272: NOP, CELL, KERNEL and COPY; a WRITE of 4 bytes to 0x100000, which maps to 0x400000. -/
theorem witness_StartedCommandsTakeEffect :
    let c := fun op => tCmd .started [tSlot op]
    let w := tCmd .started [tSlot (4 + 0x100000 * 2 ^ 128 + 4 * 2 ^ 192), tSlot 0xDDCCBBAA]
    let s := tStarted w
    (∀ op : Fin 5, (tStarted (c op.val)).cmd 0 0 = some (c op.val) ∧ (c op.val).opcode = op.val) ∧ s.fatal = false ∧ s.cmd 0 0 = some w ∧
    packetPieces (field w.slot 16 8) w.wlen = [(field w.slot 16 8, w.wlen)] ∧
    (s.translate (dispatchReq 0 (some 0)) 0 0x100000 4 .dispatchWrite).2 = .at 0x400000 false ∧ ((w.slots.drop 1).flatten.take w.wlen).length = 4 ∧
    isRemote 0x400000 = false ∧ isMemory 0x400000 = true ∧ (match s.translate (dispatchReq 0 (some 0)) 0 0x100000 4 .dispatchWrite with
      | (v, _) => v.ways 0 0x400000 4 == .clear && v.quiet 0x400000 4 true none && v.quotaOk 0 0x400000 4 && !v.partlyBroken 0x400000 4) = true ∧
    answers (exec (.nop 0 0) (tStarted (c 0))) (fun t => t.cmds.map (fun c => (c.stage, c.status)) = [(.finished, stOk)]) = true ∧
    answers (exec (.cell 0 0) (tStarted (c 1))) (fun t => t.cmds.map Cmd.stage = [.running]) = true ∧
    answers (exec (.kernel 0 0) (tStarted (c 2))) (fun t => t.cmds.map Cmd.stage = [.running]) = true ∧
    answers (exec (.copy 0 0) (tStarted (c 3))) (fun t => t.cmds.map Cmd.stage = [.running]) = true ∧
    answers (exec (.write 0 0) s) (fun t => t.cmds.map (fun c => (c.stage, c.status)) = [(.finished, stOk)] ∧
      t.readBytes 0x400000 5 = [0xAA, 0xBB, 0xCC, 0xDD, 0]) = true := by decide +kernel

/-- R280: context 3 (or 0) in each state that the commands name. -/
theorem witness_ContextsOpenThawClose :
    let c := fun op tcid => tCmd .started [tSlot (op + tcid * 2 ^ 128)]
    let s := fun op tcid st => { tStarted (c op tcid) with ctxs := [(3, { Ctx.reset 3 with state := st, before := .opened })],
                                                            soOwn := [(9, 3)], soVal := [(9, 4), (10, 4)] }
    (s 0x20 3 .free).cmd 0 0 = some (c 0x20 3) ∧ ((s 0x20 3 .free).ctx (c 0x20 3).tcid).state = .free ∧ (c 0x20 3).tcid ≠ 0 ∧
    (c 0x20 0).tcid = 0 ∧ ((s 0x22 3 .frozen).ctx (c 0x22 3).tcid).state = .frozen ∧ ((s 0x22 3 .opened).ctx (c 0x22 3).tcid).state ≠ .frozen ∧
    (s 0x23 3 .free).closable 3 = false ∧
    answers (exec (.ctxOpen 0 0) (s 0x20 3 .free)) (fun t => (t.ctx 3).state = .opened) = true ∧
    answers (exec (.ctxOpen 0 0) (s 0x20 0 .free)) (fun t => t.cmds.map Cmd.status = [stState]) = true ∧
    answers (exec (.ctxThaw 0 0) (s 0x22 3 .frozen)) (fun t => (t.ctx 3).state = .opened) = true ∧
    answers (exec (.ctxThaw 0 0) (s 0x22 3 .opened)) (fun t => t.cmds.map Cmd.status = [stState]) = true ∧
    answers (exec (.ctxClose 0 0) (s 0x23 3 .free)) (fun t => t.cmds.map Cmd.status = [stState]) = true := by decide +kernel

/-- R275: a finished NOP with NTF whose signal and records are done; a command with SVAL 5; the record of an E_FORMAT command. -/
theorem witness_CompletionRetiresCommand :
    let c := tCmd .finished [tSlot (2 ^ 13 + 9 * 2 ^ 112 + 5 * 2 ^ 384)]
    let s := { tRing { Ring.reset with cbase := 0x100000 } with cmds := [c] }
    let s := { s with soVal := [(9, 4)], ochres := [(0, { Ochre.reset with xc := [tRange] })] }
    s.cmd 0 0 = some c ∧ s.cmdOwed 0 0 = false ∧ c.final = stOk ∧ c.sval ≠ 0 ∧ s.soBroken c.signalObj = false ∧ s.objectWay c c.signalObj c.sval = .clear ∧ c.stall = none ∧ c.stage = .finished ∧
    (match s.observe c with
      | (w, e, ok) => ok && !w.cmdOwed 0 0 && e.ring == 0 && e.seq == 0 &&
        (((w.conclude e).1.putRecords (w.conclude e).2 (w.conclude e).2.due).cmd 0 0).any fun d => d.due.isEmpty && d.ntf) = true ∧
    { c with status := stFormat }.final ≠ stOk ∧
    answers (exec (.commandComplete 0 0) s) (fun t => t.cmds = [] ∧ (0, 0) ∈ t.irqs ∧ t.so 9 = 9) = true := by decide +kernel


/-- R279, R282, R437: ABORT drops the waiting command, ends a started NOP and a started CELL, and stops a running CELL and its item; a finished one stays. -/
theorem witness_RingsStartDrainAndClear_abort :
    let nop := { tCmd .started [tSlot 0] with seq := 1 }
    let item := { tCmd .started [tCellSlot] with seq := 2 }
    let runs := { tCmd .running [tCellSlot] with seq := 3, next := 1 }
    let done := { tCmd .finished [tSlot 0] with seq := 4 }
    let s := { tCell { Cell.reset with job := some { tJob with seq := 3 } } with
      cmds := [done, runs, item, nop, { tCmd .waiting [tSlot 0] with seq := 5 }], rings := [(0, { Ring.reset with state := .running })] }
    s.phase = .up ∧ (s.ring 0).state ≠ .stopped ∧ s.faultFirst (s.ring 0).cid = false ∧ s.cmd 0 1 = some nop ∧ s.cmd 0 2 = some item ∧
    s.cmd 0 3 = some runs ∧ s.cmd 0 4 = some done ∧ s.cmdOwed 0 4 = false ∧ nop.hasItems = false ∧ item.hasItems = true ∧ runs.next < runs.total ∧
    nop.hasStarted = true ∧ runs.hasStarted = true ∧ 0 ∈ cellsOfRing 0 ∧ (s.cell 0).job = some { tJob with seq := 3 } ∧
    answers (exec (.abort 0) s) (fun t => (t.ring 0).state = .draining ∧ (t.ring 0).aborting ∧
      t.cmds.map (fun c => (c.seq, c.stage, c.status)) = [(4, .finished, stOk), (3, .running, stOk), (2, .finished, stOk), (1, .finished, stAbort)] ∧
      t.cmds.map Cmd.firstBad = [none, some (1, stAbort), some (0, stAbort), none] ∧ (t.cell 0).job.bind Job.ended = some stAbort) = true := by
  decide +kernel

/-- R319, R323, R362: the object of Umber 0 behind links that retrain or are DOWN; an uncorrectable object. -/
theorem witness_SubmittedCommandsAreFetchedAndStart_object :
    let c := tCmd .waiting [tSlot (9 * 2 ^ 96 + 5 * 2 ^ 448)]
    let s := fun st : LinkState => (List.range 8).foldl (fun (t : State) l => t.setLink l { t.link l with state := st })
      { tRing { Ring.reset with state := .running } with cmds := [c], soVal := [(9, 5)] }
    let bad := { s .up with soBad := [9] }
    (s .down).nextCmd 0 = some ([], c) ∧ (s .down).ringStarts 0 = true ∧ c.stall = none ∧ (s .down).jobHolds c.cid = false ∧ (s .down).admits [] c = true ∧
    (s .retraining).objectWay c c.waitObj c.wval = .stall ∧ (s .down).objectWay c c.waitObj c.wval = .cut ∧
    bad.objectWay c c.waitObj c.wval = .clear ∧ c.wval ≠ 0 ∧ bad.soBroken c.waitObj = true ∧
    answers (exec (.commandStart 0) (s .retraining)) (fun t => t.cmds = [c]) = true ∧
    answers (exec (.commandStart 0) (s .down)) (fun t => t.cmds.map Cmd.status = [stLink]) = true ∧
    answers (exec (.commandStart 0) bad) (fun t => t.cmds.map Cmd.status = [stMemUe]) = true := by decide +kernel

/-- R319, R323, R362: the signal waits, fails with E_LINK or fails with E_MEM_UE; a stalled command waits. -/
theorem witness_CompletionRetiresCommand_signal :
    let c := tCmd .finished [tSlot (9 * 2 ^ 112 + 5 * 2 ^ 384)]
    let s := fun st : LinkState => (List.range 8).foldl (fun (t : State) l => t.setLink l { t.link l with state := st })
      { tRing Ring.reset with cmds := [c], soVal := [(9, 4)] }
    let bad := { s .up with soBad := [9] }
    (s .retraining).cmd 0 0 = some c ∧ c.final = stOk ∧ c.sval ≠ 0 ∧ { c with stall := some 0 }.stall ≠ none ∧
    (match (s .retraining).observe c with | (w, e, ok) => ok && (w.objectWay e e.signalObj e.sval == .stall)) = true ∧
    (s .down).objectWay c c.signalObj c.sval = .cut ∧ bad.objectWay c c.signalObj c.sval = .clear ∧ bad.soBroken c.signalObj = true ∧
    answers (exec (.commandComplete 0 0) (s .retraining)) (fun t => t.cmds.map Cmd.stage = [.finished] ∧ t.so 9 = 4) = true ∧
    ((s .down).conclude c).2.final = stLink ∧ (bad.conclude c).2.final = stMemUe := by decide +kernel

/-! ### 14: the fabric -/

/-- A one-hop packet to this package's station, at its last hop, with 32 bytes at 0x400000. -/
def tPacket (cls : BitVec 2) (op : BitVec 6) (data : List Byte) : Packet :=
  { ver := 1, cls := cls, vl := 0, op := op, priv := false, epoch := 0, dst := 0, src := 9, dstRank := 0, srcRank := 0, tid := 3, hop := 1,
    nhopm1 := 0, route := 0, gmask := 0, addr := 0x400000, resv := false, len32 := 1, iv := 0, tag := .epochKey, data := data }

/-- The package holds the epoch key of epoch e. -/
def tKeyed (s : State) (e : Word) : State := { s with sec := { s.sec with epochKey := some (e, 0, none) } }

/-- What a response says to whom: station, TID, the status in ADDR (14 R298), data. -/
def tSays (k : Packet) : BitVec 20 × BitVec 16 × BitVec 44 × List Byte := (k.dst, k.tid, k.addr, k.data)

/-- R297-R302: each way that a read ends. -/
theorem witness_FabricRequestsAreServed_reads :
    let s := tKeyed { State.reset with mem := [(0x400000, 3)] } 0
    let e := { tKeyed s 7 with regs := [(umberBar 0 + 0x8000, 7), (umberBar 0 + 0x800C, 5)], own := [(2, { owner := 6, kslot := 0, mode := 0 })] }
    let k := tPacket 0 1 []
    let run := fun (k : Packet) n s p => answers (exec (.fabricRead 0 k n) s) p
    s.portUp 0 = true ∧ packetLegal k = true ∧ packetLegal { k with vl := 3 } = false ∧ packetLast k = true ∧ k.dst = s.pins.stn ∧ e.epoch = 7 ∧
    (s.serves 0 = true) ∧ s.serves 1 = false ∧ s.aliasOf 1 2 = none ∧ ioFits k (.read 32) = true ∧ ioFits k (.read 33) = false ∧
    s.fabMapped 0x400000 32 = true ∧ s.fabMapped 0 32 = true ∧ s.fabMapped 0x0E0000000000 32 = false ∧ s.fabAllowed 0x400000 32 false = true ∧
    e.fabAllowed 0x400000 32 false = false ∧ s.homeTakes s.jobCid 0x400000 (.read 32) = true ∧ s.meetsBroken 0x400000 (.read 32) = false ∧
    s.tagGood k = true ∧ s.tagGood { k with tag := .mgmtKey } = false ∧ s.behind 0x400000 32 = false ∧ s.ways 4 0x400000 32 = .clear ∧ e.fab.state ≠ .committed ∧
    run k 32 s (fun t => t.fab.responses.map tSays = [(9, 3, 0, 3 :: List.replicate 31 0)]) = true ∧
    run { k with vl := 3 } 32 s (fun t => (t.port 0).drops = 1 ∧ t.fab.responses = []) = true ∧
    run { k with dst := 1 } 32 s (fun t => (t.port 0).drops = 1) = true ∧
    run { k with tag := .none } 32 s (fun t => (t.port 0).drops = 1 ∧ t.fab.responses = []) = true ∧
    run { k with epoch := 6 } 32 e (fun t => (t.port 0).stale = 1) = true ∧ run { k with epoch := 8 } 32 e (fun t => (t.port 0).early = 1) = true ∧
    run { k with priv := true, dstRank := 1 } 32 s (fun t => t.fab.responses.map tSays = [(9, 3, 4, [])]) = true ∧
    run k 33 s (fun t => t.fab.responses.map tSays = [(9, 3, 5, [])]) = true ∧
    run { k with addr := 0x0E0000000000 } 32 s (fun t => t.fab.responses.map tSays = [(9, 3, 1, [])]) = true ∧
    run { k with epoch := 7 } 32 e (fun t => t.fab.responses.map tSays = [(9, 3, 2, [])]) = true := by decide +kernel

/-- R297, R298: a write, an atomic and a forwarded request; a packet in transit goes out by its hop's port. -/
theorem witness_FabricRequestsAreServed_writes :
    let s := tKeyed { State.reset with mem := [(0x400000, 3)] } 0
    let w := tPacket 0 2 (List.replicate 32 7)
    let a := tPacket 0 3 (leBytes 17 0)
    let g := { tPacket 0 2 [] with hop := 0, route := 11, gmask := 1, vl := 0 }
    packetAccess (tPacket 1 2 (List.replicate 32 7)) = some (.write (List.replicate 32 7)) ∧ packetLast g = false ∧ hopPort 11 0 = 11 ∧
    s.way 4 5 0x400000 = .clear ∧ s.portUp 11 = true ∧ bitOf g.gmask.toNat 0 = true ∧ ioFits a (.atomic .add false 2 0) = true ∧
    answers (exec (.fabricWrite 0 w) s) (fun t => t.readBytes 0x40001F 2 = [7, 0] ∧ t.fab.responses.map tSays = [(9, 3, 0, [])]) = true ∧
    answers (exec (.fabricAtomic 0 a .add false 2 0) s) (fun t => t.readNat 0x400000 4 = 5 ∧ t.fab.responses.map tSays = [(9, 3, 0, [3, 0, 0, 0])]) = true ∧
    s.tagGood w = true ∧ s.homeTakes s.jobCid 0x400000 (.write (List.replicate 32 7)) = true ∧ s.way 4 (4 + hopPort 11 0 / 10 % 2) 0x400000 = .clear ∧
    answers (exec (.packetTransit 0 { w with cls := 3 }) s) (fun t => (t.port 0).drops = 1) = true ∧
    answers (exec (.fabricForward 0 (tPacket 1 2 (List.replicate 32 7))) s) (fun t => t.readBytes 0x400000 1 = [7]) = true ∧
    answers (exec (.packetTransit 0 g) s) (fun t => t.fab.outbox = [(11, { g with hop := 1, vl := 1 })]) = true := by decide +kernel

/-- R297, R299: the hop's port is up, its way clear and its VL in range; a management packet by its tag at its last hop. -/
theorem witness_FabricRequestsAreServed_transit :
    let s := tKeyed { State.reset with sec := { State.reset.sec with mgmtKey := some 5 } } 0
    let g := { tPacket 0 2 [] with hop := 0, route := 11, gmask := 1 }
    let m := { tPacket 3 0x30 [] with tag := .mgmtKey }
    s.spanWay 4 (4 + hopPort g.route.toNat g.hop.toNat / 10 % 2) g.addr.toNat (max 1 (32 * g.len32.toNat)) = .clear ∧ packetLegal g = true ∧
    packetLast g = false ∧ s.portUp (hopPort g.route.toNat g.hop.toNat) = true ∧ g.vl.toNat + (bitOf g.gmask.toNat g.hop.toNat).toNat ≤ 2 ∧
    packetLegal m = true ∧ packetLast m = true ∧ m.dst = s.pins.stn ∧ s.tagGood m = true ∧ s.tagGood { m with tag := .epochKey } = false ∧
    { m with dst := 8 }.dst ≠ s.pins.stn ∧ answers (exec (.packetTransit 0 m) s) (fun t => (t.port 0).drops = 0 ∧ t.fab.outbox = []) = true ∧
    answers (exec (.packetTransit 0 { m with tag := .epochKey }) s) (fun t => (t.port 0).drops = 1) = true := by decide +kernel

/-- A request of this package for station 5. -/
def tReq (who : FabWho) : FabReq :=
  { tid := 3, who := who, station := 5, rank := 0, route := 7, priv := false, resent := false, wrong := false, heard := false, cid := 0, addr := 0x400000,
    access := .read 4 }

def tReqs (l : List FabReq) : State := { State.reset with fab := { Fabric.reset with reqs := l } }

/-- R301, R302: a response to a load of host core 3, one to a posted write, one to no request; a wrong-rank response; a time limit. -/
theorem witness_RequestsEndAtTheirSender_responses :
    let k := { tPacket 2 0x20 (leBytes 32 0x2A) with addr := 0 }
    let bad := { k with addr := 4 }
    let none_ := tKeyed State.reset 0
    let ld := tKeyed (tReqs [tReq (.host 0 true)]) 0
    let po := tKeyed (tReqs [tReq .posted]) 0
    let pv := tKeyed (tReqs [{ tReq .posted with priv := true }]) 0
    let wr := tReqs [{ tReq .posted with priv := true, wrong := true }]
    ld.request? k.tid = some (tReq (.host 0 true)) ∧ none_.request? k.tid = none ∧ packetLegal k = true ∧ packetLast k = true ∧ none_.tagGood k = true ∧ ld.released = true ∧ pv.request? 3 = some { tReq .posted with priv := true } ∧
    k.addr.toNat = FabStatus.ok.code ∧ bad.addr.toNat = FabStatus.wrongRank.code ∧
    answers (exec (.fabricResponse 0 bad .ok) po) (fun t => t.fab.reqs = po.fab.reqs) = true ∧
    answers (exec (.fabricResponse 0 k .ok) none_) (fun t => (t.port 0).drops = 1) = true ∧
    answers (exec (.fabricResponse 0 k .ok) ld) (fun t => (t.host 0).loaded = 0x2A ∧ t.fab.reqs = []) = true ∧
    answers (exec (.fabricResponse 0 k .ok) po) (fun t => t.fab.reqs = []) = true ∧
    answers (exec (.fabricResponse 0 bad .wrongRank) pv) (fun t => t.fab.reqs.map FabReq.wrong = [true]) = true ∧
    answers (exec (.wrongRankResend 3) pv) (fun t => t.fab.reqs = pv.fab.reqs) = true ∧
    answers (exec (.wrongRankResend 3) wr) (fun t => t.fab.reqs.map FabReq.wrong = [false]) = true ∧
    answers (exec (.fabricRequestTimeout 3) po) (fun t => t.fab.reqs = []) = true := by decide +kernel

/-- R296: with entry 0 of the edge table valid, station 6 and route set 2 (one route by port 11), the second try goes there. -/
theorem witness_RequestsEndAtTheirSender_resend :
    let r := { tReq .posted with priv := true }
    let v := 2 ^ 20 + 6 * 2 ^ 40 + 2 * 2 ^ 64
    let s := { tReqs [r] with regs := [(umberBar 0 + 0x8010, 0x10000), (umberBar 0 + 0x8018, 1), (umberBar 0 + 0x8020, 0x20000)],
                              mem := [(0x10002, 0x10), (0x10005, 6), (0x10008, 2), (0x20040, 11), (0x20045, 8)] }
    r.resent = false ∧ s.edge r.rank.toNat = some v ∧ s.chooseRoute (bitsOf v 79 64) (bitsOf v 59 40) r.addr = some (2 ^ 43 + 11) ∧
    answers (exec (.fabricRequestTimeout 3) s) (fun t => t.fab.reqs = [{ r with resent := true, station := 6, route := 2 ^ 43 + 11 }]) = true := by
  decide +kernel

/-- R289, R290, R302: a station on hold until its old requests end; a port that loses lanes, and one that trains. -/
theorem witness_RequestsEndAtTheirSender_routes :
    let s := tReqs [tReq .posted]
    let h := { State.reset with fab := { Fabric.reset with heldTo := [(0, 5), (0, 6)] } }
    let tr := State.reset.setPort 2 { State.reset.port 2 with training := true }
    (∃ r ∈ s.fab.reqs, s.onOldRoute 0 5 r = true) ∧ (∀ r ∈ h.fab.reqs, h.onOldRoute 0 5 r = false) ∧
    (s.port 2).width ≤ widthOf 8 ∧ widthOf 7 < (s.port 2).width ∧ (s.port 2).training = false ∧ (tr.port 2).training = true ∧
    answers (exec (.routeChoiceChange 0 5) s) (fun t => t.fab.heldTo = [(0, 5)]) = true ∧
    answers (exec (.routeResume 0 5) h) (fun t => t.fab.heldTo = [(0, 6)]) = true ∧
    answers (exec (.isobarLaneFailure 2 7) s) (fun t => (t.port 2).width = 1) = true ∧
    answers (exec (.isobarPortTrained 2 4) tr) (fun t => (t.port 2).width = 1 ∧ (t.port 2).degraded ∧ (t.port 2).most = 1 ∧ t.svc.getLsbD 22 ∧
      ¬ (t.port 2).training) = true ∧
    (tr.port 2).most = 2 ∧ answers (exec (.isobarPortTrained 2 8) tr) (fun t => (t.port 2).width = 2 ∧ ¬ (t.port 2).degraded) = true := by decide +kernel

/-! ### 14: the launch and the collectives -/

/-- R308, R310, R312: rank 0 of 3 packages sends PREPARE to ranks 1 and 2; acknowledgements, statuses, a missing rank, a scrubbing one;
a standby has no children, and an active package keeps its launch beside a second one. -/
theorem witness_LaunchPreparesTheTree_tree :
    let c := Child.fresh 1
    let l := { Launch.reset with own := some PrepStatus.ready, children := [c, Child.fresh 2], n := 3, epoch := 7 }
    let s := { State.reset with fab := { Fabric.reset with launch := l } }
    let leaf := { State.reset with shadow := [(umberBar 0 + 0x8004, 1)],
                                   fab := { Fabric.reset with launch := { l with children := [{ Child.fresh 17 with done := some PrepStatus.ready }, Child.fresh 18] } } }
    let scr := { State.reset with fab := { Fabric.reset with launch := { l with children := [{ c with ack := true, done := some PrepStatus.scrubbing }] } } }
    let busy := { State.reset with fab := { Fabric.reset with state := .active, launch := l } }
    let second := { State.reset with fab := { Fabric.reset with launch := l, second := { l with children := [Child.fresh 2] } } }
    State.reset.fab.state = .idle ∧ busy.fab.state ≠ .idle ∧ busy.fab.launch.due = none ∧ State.reset.fab.second.due = none ∧
    treeChildren 0 3 = [1, 2] ∧ treeChildren 1 3 = [] ∧ s.launchRank = 0 ∧ leaf.launchRank = 1 ∧ s.child 1 = some c ∧ c.missing = false ∧
    c.ack = false ∧ leaf.fab.launch.sent = false ∧ (∀ c ∈ leaf.fab.launch.children, c.missing = false ∧ (c.rank ≠ 18 → c.done = some .ready)) ∧
    (scr.child 1).bind Child.done = some .scrubbing ∧ (∀ c, s.child 1 = some c → c.done ≠ some .scrubbing) ∧
    answers (exec (.prepare 7 3 0 ⟨0, false⟩ 5) State.reset) (fun t => t.fab.launch.children = [c, Child.fresh 2] ∧ t.fab.mgmt = [.prepare 1 7 3 0 0 5 false, .prepare 2 7 3 0 0 5 false]) = true ∧
    answers (exec (.prepare 7 3 0 ⟨9, true⟩ 5) State.reset) (fun t => t.fab.launch.children = [] ∧ t.fab.launch.parent = 9) = true ∧
    answers (exec (.prepare 8 3 0 ⟨9, false⟩ 5) busy) (fun t => t.fab.launch = l ∧ t.fab.second.epoch = 8 ∧ t.fab.second.children.length = 2) = true ∧
    answers (exec (.prepDone 2 .ready) second) (fun t => t.fab.launch = l ∧ t.fab.second.children.map Child.done = [some .ready]) = true ∧
    answers (exec (.prepAck 1) s) (fun t => (t.child 1).map Child.ack = some true) = true ∧
    answers (exec (.prepDone 18 .ready) leaf) (fun t => t.fab.mgmt = [.prepDone 0 .ready] ∧ t.fab.launch.sent) = true ∧
    answers (exec (.prepAckTimeout 1) s) (fun t => t.fab.mgmt = [.missing 1] ∧ (t.child 1).map Child.missing = some true) = true ∧
    answers (exec (.scrubbingReprepare 1) scr) (fun t => (t.child 1).map Child.done = some none ∧ t.fab.mgmt = [.prepare 1 7 3 0 0 0 false]) = true := by
  decide +kernel

/-- R310, R312: the updates that rank 0 has had go to its children before PREPARE; a child of the second launch is missing. -/
theorem witness_LaunchPreparesTheTree_updates :
    let l := { Launch.reset with own := some PrepStatus.scrubbing, children := [Child.fresh 2], epoch := 8 }
    let s := { State.reset with fab := { Fabric.reset with launch := { Launch.reset with edges := [(2, 0x0201, 9)] } } }
    let two := { State.reset with fab := { Fabric.reset with state := .active, second := l } }
    (two.fab.second.children.find? fun c => c.rank == 2 && c.done.isNone) = some (Child.fresh 2) ∧ (Child.fresh 2).missing = false ∧
    (Child.fresh 2).ack = false ∧ (∃ c ∈ two.fab.second.children, c.rank = 2 ∧ c.done = none) ∧
    answers (exec (.prepare 7 2 0 ⟨0, false⟩ 5) s) (fun t => t.fab.mgmt = [.edgeUpdate 1 2 0x0201 9, .prepare 1 7 2 0 0 5 false]) = true ∧
    answers (exec (.prepAck 2) two) (fun t => t.fab.second.children.map Child.ack = [true]) = true ∧
    answers (exec (.prepAckTimeout 2) two) (fun t => t.fab.mgmt = [.missing 2] ∧ t.fab.second.children.map Child.missing = [true]) = true := by
  decide +kernel

/-- R315: entry 2 of the staged edge table at 0x10000 is at 0x10020; at rank 0 a missing rank ends the launch or is replaced. -/
theorem witness_LaunchPreparesTheTree_edges :
    let s := { State.reset with shadow := [(umberBar 0 + 0x8010, 0x10000)], fab := { Fabric.reset with state := .prepared, launch := { Launch.reset with own := some PrepStatus.ready } } }
    s.launching = true ∧ State.reset.launching = false ∧ s.launchRank = 0 ∧ s.spanMapped (s.stagedEdgeBase + 16 * 2) 16 = true ∧
    s.ownOk 0 true (s.stagedEdgeBase + 16 * 2) 16 = true ∧
    answers (exec (.edgeUpdate 2 0x0201 9) s) (fun t => t.readBytes 0x1001F 4 = [0, 1, 2, 0] ∧ t.fab.launch.staged = some 9) = true ∧
    answers (exec (.missing 2 (some 0x0201) 9) s) (fun t => t.readBytes 0x10020 2 = [1, 2]) = true ∧
    answers (exec (.missing 2 none 9) s) (fun t => t.fab.state = .idle) = true := by decide +kernel

/-- R311: COMMIT at a later tick; a child acknowledges or its time runs out. -/
theorem witness_LaunchCommitsAndEnds_commit :
    let l := { Launch.reset with own := some PrepStatus.ready, children := [{ Child.fresh 1 with done := some PrepStatus.ready }], n := 20, epoch := 7 }
    let s := { State.reset with fab := { Fabric.reset with state := .prepared, launch := l } }
    let c := { s with front := { Front.reset with clean := true } }
    let k := { State.reset with fab := { Fabric.reset with state := .committed, launch := { l with applyAt := some 0x4000000000 } } }
    s.mayCommit = true ∧ (7 : Word) = s.fab.launch.epoch ∧ s.time.toNat ≤ (tickAt 0x4000000000).toNat ∧ tickAt 13000000001 = 13000001000 ∧
    (k.child 1).map Child.commitAck = some false ∧ k.fab.launch.applyAt = some 0x4000000000 ∧
    answers (exec (.commit 8 0x4000000000) s) (fun t => t.fab.state = .prepared) = true ∧
    s.front.clean = false ∧ c.mayCommit = true ∧ c.front.clean = true ∧ c.time.toNat ≤ (tickAt 0x4000000000).toNat ∧ (tickAt 1000).toNat < c.time.toNat ∧
    answers (exec (.commit 7 0x4000000000) s) (fun t => t.fab.state = .committed ∧ t.front.state = .checking true ∧
      t.fab.mgmt = [.commit 1 7 0x4000000000]) = true ∧
    answers (exec (.commit 7 0x4000000000) c) (fun t => t.front.state = .pending ∧ t.front.reused ∧ t.front.applyAt = tickAt 0x4000000000) = true ∧
    answers (exec (.commit 7 1000) c) (fun t => t.fab.state = .committed ∧ t.front.state = .idle ∧ t.front.late) = true ∧
    answers (exec (.commitAck 1) k) (fun t => (t.child 1).map Child.commitAck = some true) = true ∧
    answers (exec (.teardownDone 1) k) (fun t => (t.child 1).map Child.torn = some true) = true ∧
    answers (exec (.commitAckTimeout 1) k) (fun t => t.fab.mgmt = [.commit 17 7 0x4000000000, .commit 18 7 0x4000000000, .commit 19 7 0x4000000000]) = true := by
  decide +kernel

/-- R313, R314: what is staged goes back; a job is torn down once its memory has been zeroed. -/
theorem witness_LaunchCommitsAndEnds_end :
    let s := fun st => { State.reset with shadow := [(umberBar 0 + 0x8000, 9)], fab := { Fabric.reset with state := st } }
    let two := fun st => { s st with fab := { (s st).fab with second := { Launch.reset with own := some .refused, children := [Child.fresh 4] } } }
    (s .prepared).launching = true ∧ (s .idle).launching = false ∧ (s .idle).fab.second.own = none ∧ (two .idle).fab.second.own ≠ none ∧
    answers (exec .revert (two .active)) (fun t => t.fab.state = .active ∧ t.fab.second = Launch.reset ∧ t.fab.mgmt = [.revert 4]) = true ∧ umberBar 0 + 0x8000 ∈ launchWords ∧
    answers (exec .revert (s .prepared)) (fun t => t.fab.state = .idle ∧ t.shadowOf (umberBar 0 + 0x8000) = 0) = true ∧
    answers (exec .preparedTimeout (s .prepared)) (fun t => t.fab.state = .idle) = true ∧
    answers (exec .preparedTimeout (s .idle)) (fun t => t.fab.state = .idle ∧ t.shadow = (s .idle).shadow) = true := by decide +kernel

/-- R314: a job, and what is prepared or committed, is torn down; the closing of its context comes before the end. -/
theorem witness_LaunchCommitsAndEnds_teardown :
    let s := fun st => { State.reset with shadow := [(umberBar 0 + 0x8000, 9)], fab := { Fabric.reset with state := st } }
    ((s .scrubbing).ctx (s .scrubbing).fab.leaving.1).closing = false ∧
    answers (exec .teardown { s .active with regs := [(umberBar 0 + 0x800C, 5)] }) (fun t => t.fab.state = .teardown) = true ∧
    answers (exec .teardown { s .prepared with shadow := [(umberBar 0 + 0x8004, 3), (umberBar 0 + 0x800C, 5)] }) (fun t => t.fab.state = .teardown ∧
      t.fab.leaving = (5, 3)) = true ∧
    answers (exec .teardownScrubDone (s .scrubbing)) (fun t => t.fab.state = .idle ∧ t.fab.mgmt = []) = true := by decide +kernel

/-- 10 R208, 12 R249: after reset nothing waits. -/
theorem witness_LaunchCommitsAndEnds_idle : State.reset.nothingWaits :=
  ⟨rfl, State.portsIdle_of_listed _ (by decide), rfl, fun _ => rfl, by decide, fun _ => rfl, by decide⟩

/-- R303, R380: in a job the time's rate moves by at most 200 ppm; outside one the time may be stepped forward. -/
theorem witness_LaunchCommitsAndEnds_time :
    let s := { State.reset with regs := [(umberBar 0 + 0x8000, 7)] }
    s.epoch ≠ 0 ∧ State.reset.epoch = 0 ∧ s.time.toNat + 200 < 2 ^ 64 ∧ s.time.toNat / 1000 ≠ 13000001000 / 1000 ∧
    State.reset.time.toNat < 13000001000 ∧
    answers (exec (.timeSync 201) s) (fun t => t.time = s.time ∧ t.rate = 200) = true ∧ answers (exec (.timeSync (-7)) s) (fun t => t.time = s.time ∧ t.rate = -7) = true ∧
    answers (exec (.devtimeStep 13000001000) State.reset) (fun t => t.time = 13000001000) = true ∧
    answers (exec (.devtimeStep 13000001000) s) (fun t => t.time = s.time) = true := by decide +kernel

/-- A COLLECTIVE command of FP32 data, COUNT 2, in-line, members 0 and 1: kind in byte 36, the group in bytes 40-47. -/
def tColl (kind : Nat) : Cmd :=
  tCmd .started [tSlot (8 + 2 ^ 9 + 2 ^ 24 + 2 * 2 ^ 256 + kind * 2 ^ 288 + 9 * 2 ^ 296 + (2 * 2 ^ 20 + 2 ^ 40) * 2 ^ 320), tSlot 0x0807060504030201]

/-- R306, R309: the second collective of a group and tag; the first learns of itself; the members' announcements and data; loss and time. -/
theorem witness_CollectivesGatherMembers :
    let c := tColl 0
    let b := tColl 5
    let s := { State.reset with cmds := [c] }
    let x : Coll := { u := 0, ring := 0, seq := 0, group := c.group, tag := 0, here := [0], data := [] }
    let g := { State.reset with cmds := [c], fab := { Fabric.reset with colls := [x] } }
    let dup := { State.reset with cmds := [c], fab := { Fabric.reset with colls := [{ x with ring := 1 }] } }
    let all := { State.reset with cmds := [b], fab := { Fabric.reset with colls := [{ x with here := [0, 1] }] } }
    s.cmd 0 0 = some c ∧ s.coll 0 0 = none ∧ c.opcode = 8 ∧ c.inl = true ∧ c.collSize = 2 ∧ s.myMember c = 0 ∧ grpSize c.group = 2 ∧ c.tag = 0 ∧
    (∃ x ∈ dup.fab.colls, x.group = c.group ∧ x.tag = c.tag) ∧ dup.coll 0 0 = none ∧ g.collOf 0 c.group 0 = some x ∧
    s.collOf 0 c.group 0 = none ∧ b.collKind = 5 ∧ b.group = c.group ∧ all.coll 0 0 = some { x with here := [0, 1] } ∧
    answers (exec (.collective 0 0) dup) (fun t => t.cmds.map Cmd.status = [stState]) = true ∧
    answers (exec (.collective 0 0) s) (fun t => t.fab.colls.map Coll.here = [[0]] ∧ t.fab.colls.map Coll.data = [[(0, [1, 2, 3, 4, 5, 6, 7, 8])]]) = true ∧
    answers (exec (.collectiveAnnounce 0 c.group 0 1) s) (fun t => t.fab.annc = [(0, c.group, 0, 1)]) = true ∧
    answers (exec (.collectiveAnnounce 0 c.group 0 2) s) (fun t => t.fab.annc = []) = true ∧
    answers (exec (.collectiveData 0 c.group 0 1 [] true) g) (fun t => t.cmds.map (fun c => (c.stage, c.status)) = [(.finished, stLink)]) = true ∧
    answers (exec (.collectiveTimeout 0 c.group 0) g) (fun t => t.cmds.map Cmd.status = [stTimeout]) = true ∧
    answers (exec (.collective 0 0) all) (fun t => t.fab.colls = [] ∧ t.cmds.map (fun c => (c.stage, c.status)) = [(.finished, stOk)]) = true := by
  decide +kernel

/-- R299, R306: the payload from memory; two packets of member 1 whose checks hold, one whose tag fails. -/
theorem witness_CollectivesGatherMembers_packets :
    let m := { tColl 0 with slots := [tSlot (8 + 2 ^ 24 + 0x100000 * 2 ^ 128 + 2 * 2 ^ 256 + 9 * 2 ^ 296 + (3 * 2 ^ 20 + 2 ^ 40) * 2 ^ 320), tSlot 0] }
    let x : Coll := { u := 0, ring := 0, seq := 0, group := m.group, tag := 0, here := [0], data := [] }
    let k := tPacket 0 4 [1, 2, 3, 4]
    let e := tKeyed { tStarted m with mem := [(0x400004, 7)] } 0
    let g := { e with fab := { Fabric.reset with colls := [x] } }
    m.inl = false ∧ m.collSize = 3 ∧ e.cmd 0 0 = some m ∧ m.collGives (e.myMember m) = 8 ∧ granulePieces (field m.slot 16 8) 8 = [(0x100000, 8)] ∧
    (match e.translate (dispatchReq 0 (some 0)) 0 0x100000 8 .dispatchRead with
      | (v, .at a _) => a == 0x400000 && v.ways 0 a 8 == .clear && v.quiet a 8 false none && v.quotaOk 0 a 8 && !v.brokenIn a 8
      | _ => false) = true ∧
    g.collOf 0 m.group 0 = some x ∧ g.collGood 0 k = true ∧ packetLegal k = true ∧ packetLast k = true ∧ g.tagGood { k with tag := .none } = false ∧
    answers (exec (.collective 0 0) e) (fun t => t.fab.colls.map Coll.data = [[(0, [0, 0, 0, 0, 7, 0, 0, 0])]]) = true ∧
    answers (exec (.collectiveData 0 m.group 0 1 [(0, k), (0, k)] false) g) (fun t => t.fab.colls.map Coll.data = [[(1, [1, 2, 3, 4, 1, 2, 3, 4])]]) = true ∧
    answers (exec (.collectiveData 0 m.group 0 1 [(0, { k with tag := .none })] false) g) (fun t => t.fab.colls = [] ∧
      t.cmds.map Cmd.status = [stLink] ∧ (t.port 0).drops = 1) = true := by decide +kernel

/-- R307, R308: the result of each kind; LONG sums of one KIND. -/
theorem witness_CollectivesGatherMembers_results :
    let d := [leBytes 8 0x3F0000003F800000, leBytes 8 0x400000003FC00000]
    let l := { tColl 0 with slots := [tSlot (8 + 2 ^ 9 + 2 ^ 24 + 2 ^ 256 + 11 * 2 ^ 296 + (2 * 2 ^ 20 + 2 ^ 40) * 2 ^ 320), tSlot 0] }
    (∀ k : Fin 8, (tColl k.val).collKind = k.val ∧ (tColl k.val).collF ≠ .long) ∧ l.collF = .long ∧ l.collKind = 0 ∧ l.collCount = 1 ∧
    longSum [0, 0] = some (0, false) ∧ (tColl 1).collRoot = 0 ∧
    (tColl 3).collResult 1 d = some (d.flatten, false) ∧ (tColl 4).collResult 1 d = some (leBytes 8 0x3F0000003F800000, false) ∧
    (tColl 1).collResult 0 d = some (leBytes 8 0x4020000040200000, false) ∧ (tColl 2).collResult 1 d = some (leBytes 4 0x40200000, false) ∧
    (tColl 6).collResult 0 d = some (leBytes 8 0x400000003FC00000, false) ∧ (tColl 7).collResult 0 d = some (leBytes 8 0x3F0000003F800000, false) ∧
    [1, 2, 3].length ≤ 2 ^ 2 ∧ gsum .fp32 21 [0x3F800000, 0x3F800000, 0x40000000] = 0x40800000 := by decide +kernel

/-- A sum of two members: with the second member's 1.5 and 2.0, member 0's 1.0 and 0.5 become 2.5 and 2.5 at DST (14 R309). -/
theorem witness_CollectivesGatherMembers_stored :
    let c := { tColl 0 with slots := [tSlot (8 + 2 ^ 9 + 2 ^ 24 + 0x100000 * 2 ^ 192 + 2 * 2 ^ 256 + 9 * 2 ^ 296 + (2 * 2 ^ 20 + 2 ^ 40) * 2 ^ 320), tSlot 0x3F0000003F800000] }
    let x : Coll := { u := 0, ring := 0, seq := 0, group := c.group, tag := 0, here := [0, 1],
                      data := [(0, leBytes 8 0x3F0000003F800000), (1, leBytes 8 0x400000003FC00000)] }
    let s := { tStarted c with fab := { Fabric.reset with colls := [x] } }
    s.cmd 0 0 = some c ∧ s.coll 0 0 = some x ∧ c.collResult (s.myMember c) (x.data.map Prod.snd) = some (leBytes 8 0x4020000040200000, false) ∧
    packetPieces (field c.slot 24 8) 8 = [(0x100000, 8)] ∧ (match s.translate (dispatchReq 0 (some 0)) 0 0x100000 8 .dispatchWrite with
      | (v, .at a _) => a == 0x400000 && v.ways 0 a 8 == .clear && v.quiet a 8 true none && v.quotaOk 0 a 8 && !v.partlyBroken a 8
      | _ => false) = true ∧
    answers (exec (.collective 0 0) s) (fun t => t.readNat 0x400000 8 = 0x4020000040200000 ∧ t.cmds.map Cmd.status = [stOk]) = true := by
  decide +kernel

/-! ### 14, 21: queue pairs -/

/-- Port 0 as Ethernet, with queue pair 2 as given: CID 5, 4 elements, queues at virtual address 0x100000 (21 R415, R416). -/
def tQp (q : Qp) : State :=
  let b := qpBlock 0 2
  { State.reset with
    regs := [(umberBar 0 + 0x8800, 1), (b, 0x100000), (b + 8, 0x100000), (b + 0x10, 0x100100), (b + 0x18, 2)],
    qps := [(2, q)], ochres := [(0, { Ochre.reset with xc := [tRange] })] }

/-- R266, R416: accepted doorbells of both queues at the highest tail, a refused one, one of another CID. -/
theorem witness_QueuePairsSendCompleteAndServe_doorbells :
    let s := tQp { Qp.reset with state := .running, sqHead := 3, sqTail := 3 }
    let c := s.setReg (qpBlock 0 2 + 0x1C) 5
    s.qpCid 0 2 = 0 ∧ c.qpCid 0 2 = 5 ∧ s.qpLog2 0 2 = 2 ∧ ((7 : Word) - (s.qp 0 2).sqHead).toNat ≤ 2 ^ s.qpLog2 0 2 ∧
    2 ^ s.qpLog2 0 2 < ((8 : Word) - (s.qp 0 2).sqHead).toNat ∧
    answers (exec (.qpDoorbell 0 2 0 false 7) s) (fun t => (t.qp 0 2).sqTail = 7) = true ∧
    answers (exec (.qpDoorbell 0 2 0 true 4) s) (fun t => (t.qp 0 2).rqTail = 4) = true ∧
    answers (exec (.qpDoorbell 0 2 0 false 8) s) (fun t => (t.qp 0 2).state = .faulted ∧ (t.qp 0 2).dbErr) = true ∧
    answers (exec (.qpDoorbell 0 2 6 false 4) c) (fun t => (t.qp 0 2).dbErr ∧ (t.qp 0 2).sqTail = 3) = true := by decide +kernel

/-- R291, R292, R415: RUN in each state; an element in flight is acknowledged, refused or given up; a key entry of a SEALED CID. -/
theorem witness_QueuePairsSendCompleteAndServe_run :
    let e := leBytes 64 (32 * 2 ^ 32 + 0x100000 * 2 ^ 64)
    let s := fun st l => tQp { Qp.reset with state := st, sqHead := 3, flying := l }
    let z := { s .stopped [] with ctxs := [(0, { Ctx.reset 0 with state := .sealed })] }
    (s .stopped []).sealedCid 0 = false ∧ z.sealedCid (z.qpCid 0 2) = true ∧ ((s .running []).qp 0 2).due = [] ∧ elemOp e = 0 ∧ byteAt e 1 % 2 = 0 ∧
    (((s .running [(3, e)]).qp 0 2).flying = [(3, e)]) ∧ bitOf (0x10000 : Word).toNat 16 = true ∧
    answers (exec (.qpRun 0 2 true) (s .stopped [])) (fun t => (t.qp 0 2).state = .running ∧ (t.qp 0 2).sqNext = 3) = true ∧
    answers (exec (.qpRun 0 2 true) z) (fun t => (t.qp 0 2).state = .stopped ∧ (t.qp 0 2).cfgErr) = true ∧
    (z.qpRead (.qpIn 0 2) 0 0 0x100000 4).2 = .bad stAccess ∧ (z.qpWrite (.qpIn 0 2) 0 0 0x100000 [1]).2 = .bad stAccess ∧
    answers (exec (.qpRun 0 2 false) (s .running [])) (fun t => (t.qp 0 2).state = .stopped) = true ∧
    answers (exec (.roceAcknowledgement 0 2 [] (some 0x62)) (s .running [(3, e)])) (fun t => (t.qp 0 2).syndrome = 0x62 ∧ (t.qp 0 2).state = .faulted) = true ∧
    answers (exec (.roceAcknowledgement 0 2 [] none) (s .running [(3, e)])) (fun t => (t.qp 0 2).flying = [] ∧ (t.qp 0 2).cqSeq = 0) = true ∧
    answers (exec (.transportRetriesExhausted 0 2) (s .running [(3, e)])) (fun t => (t.qp 0 2).flying = [] ∧ (t.qp 0 2).cqSeq = 1) = true ∧
    answers (exec (.keyEntryWrite 0 4 0x10000) z) (fun t => t.keyWord 0 4 = 0) = true ∧
    answers (exec (.keyEntryWrite 0 4 0xFFFF0000) (s .stopped [])) (fun t => t.keyWord 0 4 = 0x70000) = true := by decide +kernel

/-- The queue's memory: one element of an operation, 2 bytes long, whose data lie at 0x100040 (physical 0x400040). -/
def tElem (op : Nat) (q : Qp) : State :=
  let e := leBytes 64 (op + 2 * 2 ^ 32 + 0x100040 * 2 ^ 64 + (if op = 0 then 0 else 0x5000 * 2 ^ 128 + 9 * 2 ^ 192))
  { tQp q with mem := ((List.range 64).map fun i => (0x400000 + i, e.getD i 0)).filter (fun c => c.2 ≠ 0) ++ [(0x400040, 0xAB), (0x400041, 0xCD)] }

/-- R291: SEND, RDMA_WRITE and RDMA_READ elements are sent once and stay in flight. -/
theorem witness_QueuePairsSendCompleteAndServe_send :
    let s := fun op => tElem op { Qp.reset with state := .running, sqTail := 1 }
    (s 0).ethUp 0 = true ∧ ((s 0).qp 0 2).sqNext ≠ ((s 0).qp 0 2).sqTail ∧
    (∀ op : Fin 3, (match (s op.val).qpRead (.qpOut 0 2) 0 ((s op.val).qpCid 0 2) ((s op.val).qpBase 0 2 0 + 64 * (((s op.val).qp 0 2).sqNext.toNat % 2 ^ (s op.val).qpLog2 0 2)) 64 with
      | (_, .bytes e) => elemOk e && elemOp e == op.val && elemLaddr e == 0x100040 | _ => false) = true) ∧
    answers (exec (.send 0 2) (s 0)) (fun t => (t.qp 0 2).sqNext = 1 ∧ (t.qp 0 2).flying.length = 1 ∧ (t.qp 0 2).wire = [wireSend [0xAB, 0xCD]]) = true ∧
    answers (exec (.rdmaWrite 0 2) (s 1)) (fun t => (t.qp 0 2).sqNext = 1 ∧ (t.qp 0 2).wire.length = 1) = true ∧
    answers (exec (.rdmaRead 0 2) (s 2)) (fun t => (t.qp 0 2).sqNext = 1 ∧ (t.qp 0 2).flying.length = 1) = true ∧
    answers (exec (.rdmaRead 0 2) (s 1)) (fun t => (t.qp 0 2).sqNext = 0) = true := by decide +kernel

/-- R292: an entry of the key table that allows reads and writes of 64 KiB at 0x100000; a message into the posted element; none posted. -/
theorem witness_QueuePairsSendCompleteAndServe_serve :
    let k := keyBlock 0 4
    let s := (((tElem 0 { Qp.reset with state := .running, rqTail := 1 }).setReg k 0x100000).setReg (k + 8) 0x10000).setReg (k + 16) 0x70000
    let n := tQp { Qp.reset with state := .running }
    s.ethUp 0 = true ∧ (s.qp 0 2).state = .running ∧ s.keyOk 0 4 0x100000 (.read 2) = true ∧ s.keyOk 0 4 0x10FFFF (.read 2) = false ∧
    s.keyOk 0 4 0x10FFFE (.write [1, 2]) = true ∧ (s.qp 0 2).rqHead ≠ (s.qp 0 2).rqTail ∧ (n.qp 0 2).rqHead = (n.qp 0 2).rqTail ∧
    (tQp Qp.reset).ethUp 0 = true ∧ ((tQp Qp.reset).qp 0 2).state ≠ .running ∧
    answers (exec (.incomingRdma 0 2 4 0x100040 (.read 2)) s) (fun t => (t.qp 0 2).wire = [wireData [0xAB, 0xCD]]) = true ∧
    answers (exec (.incomingRdma 0 2 4 0x100042 (.write [1, 2])) s) (fun t => t.readBytes 0x400042 2 = [1, 2] ∧ (t.qp 0 2).wire = [wireAck]) = true ∧
    answers (exec (.incomingRdma 0 2 4 0x10FFFF (.read 2)) s) (fun t => (t.qp 0 2).wire = [wireNak nakAccess]) = true ∧
    answers (exec (.incomingSend 0 2 [7]) s) (fun t => t.readBytes 0x400040 2 = [7, 0xCD] ∧ (t.qp 0 2).rqHead = 1) = true ∧
    answers (exec (.incomingSend 0 2 [7]) n) (fun t => (t.qp 0 2).wire = [wireNak nakRequest]) = true := by decide +kernel

/-! ### 15 -/

/-- A flit without payload whose link header and CRC are the given 8 bytes each (15 R316). -/
def tFlit (head crc : List Byte) : List Byte := List.replicate 224 0 ++ (head ++ (crc ++ List.replicate 16 0))

/-- Bytes of zero before a message leave its CRC as it is, since the initial value is 0 (R398). -/
theorem crc64_zeros (n : Nat) (l : List Byte) : crc64 (List.replicate n 0 ++ l) = crc64 l := by
  induction n with
  | zero => rfl
  | succ n ih => exact ih

theorem tFlit_crc (head crc : List Byte) (hh : head.length = 8) (hc : crc.length = 8) :
    flitCrcOk (tFlit head crc) = decide ((crc64 head).toNat = leNat crc) := by
  have hz : (List.replicate 224 (0 : Byte)).length = 224 := List.length_replicate
  have h0 := crc64_zeros 224 head
  unfold flitCrcOk tFlit field
  generalize List.replicate 224 (0 : Byte) = z at hz h0 ⊢
  simp [List.take_append, List.drop_append, List.take_of_length_le, List.drop_of_length_le, hz, hh, hc, h0]

/-- Headers: SEQ 0; ACK 0 with NAK set (R316). -/
def tQuiet : List Byte := List.replicate 8 0
def tNakHead : List Byte := [0, 0, 0, 1, 0, 0, 0, 0]
def tGood : List Byte := tFlit tQuiet (List.replicate 8 0)
def tBad : List Byte := tFlit tQuiet (1 :: List.replicate 7 0)
def tNak : List Byte := tFlit tNakHead (leBytes 8 (crc64 tNakHead).toNat)

theorem tGood_crc : flitCrcOk tGood = true := (tFlit_crc _ _ rfl rfl).trans (by decide +kernel)
theorem tBad_crc : flitCrcOk tBad = false := (tFlit_crc _ _ rfl rfl).trans (by decide +kernel)
theorem tNak_crc : flitCrcOk tNak = true := (tFlit_crc _ _ rfl rfl).trans (by decide +kernel)

/-- R316, R318, R319: a good flit on link 0, corrected or not; the 15th and 16th bad one; a NAK in a header of the other direction. -/
theorem witness_PackageLinksRetrainAndRecover_flits :
    let p := PLink.trained 0
    let fails := fun n => State.reset.setLink 0 { p with hi := { p.hi with crc := n } }
    let asked := State.reset.setLink 0 { p with hi := { p.hi with nak := some 0 } }
    let again := State.reset.setLink 0 { p with hi := { p.hi with nak := some 0, resend := some 0, crc := 1 } }
    (((asked.link 0).dir true).nak ≠ none ∧ ((asked.link 0).dir true).resend = none) ∧ ((again.link 0).dir true).resend ≠ none ∧
    answers (exec (.flitReceive 0 true false tBad) asked) (fun t => (t.link 0).hi.crc = 0 ∧ (t.link 0).hi.nak = some 0) = true ∧
    answers (exec (.flitReceive 0 true false tBad) again) (fun t => (t.link 0).hi.crc = 2 ∧ (t.link 0).hi.resend = none) = true ∧
    tGood.length = 256 ∧ tBad.length = 256 ∧ tNak.length = 256 ∧ flitSeq tGood = (p.dir true).exp ∧ flitNak tGood = false ∧ flitNak tNak = true ∧
    answers (exec (.flitReceive 0 true false tGood) State.reset) (fun t => (t.link 0).hi.exp = 1 ∧ (t.link 0).lo.exp = 0 ∧ (t.link 0).hi.group = 1) = true ∧
    answers (exec (.flitReceive 0 true true tGood) State.reset) (fun t => (t.link 0).fecCorr = 1) = true ∧
    answers (exec (.flitReceive 0 true false tBad) (fails 14)) (fun t => (t.link 0).hi.crc = 15 ∧ (t.link 0).state = .up ∧ (t.link 0).hi.nak = some 0) = true ∧
    answers (exec (.flitReceive 0 true false tBad) (fails 15)) (fun t => (t.link 0).state = .retraining) = true ∧
    answers (exec (.flitReceive 0 false false tNak) asked) (fun t => (t.link 0).hi.resend = some 0 ∧ (t.link 0).replays = 1) = true := by
  simp only [exec, execFlitReceive, State.live, effFlitReceive, tGood_crc, tBad_crc, tNak_crc]
  decide +kernel

/-- R318-R322: link 0 up; a NAK that the receiver asked for and one that it did not; a retraining in which every group passes, 4 of 12 pass, 3 of 12 pass. -/
theorem witness_PackageLinksRetrainAndRecover :
    let p := PLink.trained 0
    let s := State.reset
    let at' := fun x => State.reset.setLink 0 x
    let rt := at' { p with state := .retraining }
    let down := at' { p with state := .down }
    let asked := at' { p with hi := { p.hi with nak := some 0 } }
    (s.link 0).state = .up ∧ (down.link 0).state ≠ .up ∧ (s.link 0).fecCorr ≠ 0xFFFF ∧
    (rt.link 0).groups &&& 0xFFF = (rt.link 0).groups ∧ leastGroups 0 ≤ popcount 12 ((rt.link 0).groups &&& 0xF).toNat ∧
    popcount 12 ((rt.link 0).groups &&& 7).toNat < leastGroups 0 ∧
    answers (exec (.nak 0 true 0) asked) (fun t => (t.link 0).hi.resend = some 0 ∧ (t.link 0).replays = 1) = true ∧
    answers (exec (.nak 0 true 0xABC) asked) (fun t => t.link 0 = asked.link 0) = true ∧
    answers (exec (.retrain 0) s) (fun t => (t.link 0).state = .retraining) = true ∧ answers (exec (.linkRetrain 0) s) (fun t => (t.link 0).state = .retraining) = true ∧
    answers (exec (.retrainComplete 0 0xFFF) rt) (fun t => t.link 0 = p) = true ∧
    answers (exec (.retrainComplete 0 0xF) rt) (fun t => t.link 0 = { p with groups := 0xF }) = true ∧
    answers (exec (.retrainComplete 0 7) rt) (fun t => (t.link 0).state = .down) = true ∧
    answers (exec (.retrainTimeout 0) rt) (fun t => (t.link 0).state = .down ∧ (t.link 1).state = .up) = true ∧
    answers (exec (.pathResume 0 4) { s with links := { s.links with held := [(0, 4), (1, 4)] } }) (fun t => t.links.held = [(1, 4)]) = true := by
  decide +kernel

/-! ### 16 -/

/-- R329, R330, R334: the highest demand, a hold at its end, a ring that waits only for an object, an alert and a droop that end. -/
theorem witness_ActivityAndStretches :
    let s := State.reset
    let hi := s.setGust 5 { Gust.reset with activity := 2000, holding := true }
    let w := { tRing { Ring.reset with state := .running } with cmds := [tCmd .waiting [tSlot (9 * 2 ^ 96 + 5 * 2 ^ 448)]], regs := [(umberBar 0 + 0x500C, 2 ^ 18)] }
    (s.gust 5).warming = [] ∧ (s.gust 5).activity ≤ 1024 * 1024 ∧ (hi.gust 5).holding = true ∧ 1 * 1024 < (hi.gust 5).activity ∧
    (w.waitsOnly 0).isSome = true ∧ s.waitsOnly 0 = none ∧ w.prewarms = true ∧ prewarmTarget 0 = some 1024 ∧
    answers (exec (.activityEstimate 5 1024) s) (fun t => (t.gust 5).activity = s.gustSlope ∧ (t.gust 5).demand = 1048576) = true ∧
    answers (exec (.ballastHoldEnd 5) hi) (fun t => (t.gust 5).falling ∧ ¬ (t.gust 5).holding) = true ∧
    answers (exec (.prewarm 0 0) w) (fun t => (t.gust 0).warming = [(0, 1024)]) = true ∧
    answers (exec (.prewarmTimeout 0) (w.setGust 0 { Gust.reset with warming := [(9, 512), (0, 1024)] })) (fun t => (t.gust 0).warming = [(0, 1024)]) = true ∧
    answers (exec (.stretchRelease 5) (s.onPower fun p => { p with fast := 0x21 })) (fun t => t.power.fast = 1) = true ∧
    answers (exec (.droopRecovery 5 127) (s.onPower fun p => { p with droops := [(5, 127), (5, 3)] })) (fun t => t.power.droops = [(5, 3)]) = true := by decide +kernel

/-- R333, R334: the voltages of an Ochre die's cell islands: gated when idle, lowered within the envelope, returning for a demand or a
prewarm; in service it rises toward a prewarm by the slope. -/
theorem witness_ActivityAndStretches_islands :
    let s := fun (v : Volt) (p : BitVec 2) (w : List (Nat × Nat)) (r : Option Nat) =>
      State.reset.setGust 0 { Gust.reset with volt := v, phase := p, warming := w, rising := r }
    (s .nominal 3 [] none).inProgress 0 = [] ∧ 512 ≤ envelope 1 ∧ envelope 1 < 513 ∧
    answers (exec (.activityEstimate 0 0) (s .nominal 3 [] none)) (fun t => (t.gust 0).volt = .gated) = true ∧
    answers (exec (.activityEstimate 0 512) (s .nominal 1 [] none)) (fun t => (t.gust 0).volt = .lowered) = true ∧
    answers (exec (.activityEstimate 0 513) (s .lowered 1 [] none)) (fun t => (t.gust 0).rising.isSome ∧ (t.gust 0).volt = .lowered) = true ∧
    answers (exec (.activityEstimate 0 1) (s .gated 3 [] none)) (fun t => (t.gust 0).rising.isSome ∧ (t.gust 0).volt = .gated ∧ (t.gust 0).activity = 0) = true ∧
    answers (exec (.activityEstimate 0 0) (s .gated 3 [(0, 512)] none)) (fun t => (t.gust 0).rising.isSome ∧ (t.gust 0).activity = 0) = true ∧
    answers (exec (.activityEstimate 0 0) (s .gated 3 [] none)) (fun t => (t.gust 0).rising = none) = true ∧
    answers (exec (.activityEstimate 0 0) (s .gated 3 [(0, 512)] (some 0))) (fun t => (t.gust 0).volt = .nominal ∧ (t.gust 0).rising = none) = true ∧
    answers (exec (.activityEstimate 0 0) (s .nominal 0 [(0, 512)] none)) (fun t => (t.gust 0).activity = t.gustSlope) = true := by decide +kernel

/-- R335, R336, R338: an exchange at rank 1 without children, one that was not settled, a window above and one at 95 percent of the cap. -/
theorem witness_OperatingPointsAreAgreed_exchange :
    let r := [(umberBar 0 + 0x8000, 7), (umberBar 0 + 0x8004, 1), (umberBar 0 + 0x5008, 1000)]
    let s := { State.reset with regs := r }
    let x := { s with power := { Power.reset with exK := 4, exHeard := [1], exSet := some (4, 3), exMin := 2 },
                      fab := { Fabric.reset with launch := { Launch.reset with children := [Child.fresh 17] } } }
    s.epoch ≠ 0 ∧ State.reset.epoch = 0 ∧ s.rank = 1 ∧ x.power.exSent = false ∧ (1 : BitVec 20) ∈ x.power.exHeard ∧ x.child 17 = some (Child.fresh 17) ∧
    s.power.exK ≠ 4 ∧ s.capWatts < 933 + 68 ∧ 100 * (882 + 68) ≤ 95 * s.capWatts ∧ ¬ 100 * (883 + 68) ≤ 95 * s.capWatts ∧ s.power.under < 9 ∧
    answers (exec (.opExchangeBoundary 4) s) (fun t => t.fab.mgmt = [.opReq 0 4 7] ∧ t.power.exSent) = true ∧
    answers (exec (.opReqTimeout 4) x) (fun t => t.fab.mgmt = [.opReq 0 4 2]) = true ∧
    answers (exec (.opReq 17 4 1) x) (fun t => t.power.exMin = 1 ∧ 17 ∈ t.power.exHeard) = true ∧
    answers (exec (.opSet 4 5) x) (fun t => t.fab.mgmt = [.opSet 17 4 5] ∧ t.power.exSet = some (4, 5)) = true ∧
    answers (exec (.opApply 4) x) (fun t => t.power.curOp = 3) = true ∧ answers (exec (.opApply 5) x) (fun t => t.power.exchMiss) = true ∧
    answers (exec (.powerCapWindow 933) s) (fun t => t.power.capOp = 6 ∧ t.power.reqOp = BitVec.ofNat 3 (min s.opMax 6)) = true ∧
    answers (exec (.powerCapWindow 882) s) (fun t => t.power.under = 1 ∧ t.power.capOp = 7) = true := by decide +kernel

/-- R342, R343: sensor 3 at 100 degrees, stack 0 at 86 degrees; then a trip at 110. -/
theorem witness_OperatingPointsAreAgreed_thermal :
    let tj := fun n => (List.replicate 18 50).set 3 n
    let hbm := (List.replicate 12 85).set 0 86
    (tj 100).length = 18 ∧ hbm.length = 12 ∧
    answers (exec (.thermalPoll (tj 100) hbm) State.reset) (fun t => t.power.throttle = 8 ∧ t.power.refresh2 = 1 ∧ t.power.tjMax = 100 ∧ ¬ t.power.trip) = true ∧
    answers (exec (.thermalPoll (tj 110) hbm) State.reset) (fun t => t.power.trip ∧ answers (exec .thermtrip t) fun u => u.pins.thermtrip) = true ∧
    answers (exec .thermtrip State.reset) (fun t => ¬ t.pins.thermtrip) = true := by decide +kernel

/-! ### 17 -/

/-- The mailbox BUSY with a request of a code, its body and an answer buffer of a length (17 R351). -/
def tBox (code len : Nat) (body : List Byte) : State :=
  { State.reset with sec := { State.reset.sec with mboxState := 1, header := leBytes 64 (code + 0x600000 * 2 ^ 64 + len * 2 ^ 128), body := body } }

theorem tBox_serves : ∀ code : Fin 10, (tBox code.val 4096 []).boxServes code.val := by unfold State.boxServes; decide +kernel

/-- R351: a request of code 9 at 0x400000 with a 32-byte body; a mailbox in memory that is not CID 0's; one that is BUSY. -/
theorem witness_MailboxServesRequests_go :
    let s := { State.reset with regs := [(umberBar 0 + 0x6000, 0x400000)], mem := [(0x400000, 9), (0x400004, 32), (0x400040, 0xAB)] }
    let p := { s with own := [(2, tOwned)] }
    s.sec.mboxState ≠ 1 ∧ (tBox 9 0 []).sec.mboxState = 1 ∧ s.mboxAddr = 0x400000 ∧ s.spOk s.mboxAddr 64 = true ∧ p.spOk p.mboxAddr 64 = false ∧
    mboxHeaderOk (s.readBytes s.mboxAddr 64) = true ∧ s.spOk (s.mboxAddr + 64) (field (s.readBytes s.mboxAddr 64) 4 4) = true ∧
    s.spOk (field (s.readBytes s.mboxAddr 64) 8 8) (field (s.readBytes s.mboxAddr 64) 16 4) = true ∧
    answers (exec .go s) (fun t => t.sec.mboxState = 1 ∧ t.sec.body = 0xAB :: List.replicate 31 0) = true ∧
    answers (exec .go p) (fun t => t.sec.mboxState = 2 ∧ t.sec.mboxResult = mbRefused) = true := by decide +kernel

/-- R357: KEY_NEW for key slots 1 and 4095, one of them in use. -/
theorem witness_MailboxServesRequests_keys :
    let s := fun k : Nat => { tBox 2 4096 (leBytes 8 k) with own := [(7, { owner := 5, kslot := 4095, mode := 0 })] }
    (s 1).sec.body.length = 8 ∧ zeroSpan (s 1).sec.body 2 6 = true ∧ field (s 4095).sec.body 0 2 = 4095 ∧
    (∀ p ∈ (s 1).own, p.2.kslot.toNat ≠ 1) ∧ (∃ p ∈ (s 4095).own, p.2.kslot.toNat = 4095) ∧
    answers (exec .keyNew (s 1)) (fun t => t.sec.mboxResult = mbOk ∧ (tabFind t.sec.keys 1).isSome) = true ∧
    answers (exec .keyNew (s 4095)) (fun t => t.sec.mboxResult = mbRefused ∧ t.sec.keys = [(0, 0)]) = true := by decide +kernel

/-- R348, R360: the measurement registers, a challenge, a report with and without room for the answer. -/
theorem witness_MailboxServesRequests_reports :
    let m := { tBox 9 0 (leBytes 32 1) with sec := { (tBox 9 0 (leBytes 32 1)).sec with mr := [1, 2, 3, 4, 5, 6, 7] } }
    let d := tBox 7 32 (leBytes 4 15)
    let r := fun n => tBox 3 n (leBytes 40 (2 ^ 16))
    m.sec.mr.length = 7 ∧ m.sec.body.length = 32 ∧ leNat d.sec.body < 16 ∧ d.boxFits 32 = true ∧ (r 3988).boxFits reportLength = true ∧
    (r 3987).boxFits reportLength = false ∧ byteAt (r 0).sec.body 2 = 1 ∧ zeroSpan (r 0).sec.body 3 5 = true ∧
    answers (exec .extend m) (fun t => t.sec.mboxResult = mbOk ∧ t.sec.mr.take 6 = [1, 2, 3, 4, 5, 6]) = true ∧
    answers (exec .report (r 3987)) (fun t => t.sec.mboxResult = mbFormat ∧ t.sec.ek = none) = true := by decide +kernel

/-- R215, R357: granule 2 to CID 5 with key slot 0 stays CID 0's; with key slot 9 it is zeroed first. -/
theorem witness_MailboxServesRequests_granules :
    let b := fun owner kslot : Nat => leBytes 32 (0x400000 + 2 ^ 64 + owner * 2 ^ 96 + kslot * 2 ^ 112 + 1 * 2 ^ 128)
    let s := fun owner kslot => let t := tBox 1 0 (b owner kslot); { t with sec := { t.sec with keys := [(0, 0), (9, 3)] } }
    let z : State := { State.reset with mem := [(0x3FFFFF, 1), (0x400000, 2), (0x5FFFFF, 3), (0x600000, 4)],
                                        sec := { State.reset.sec with zeroing := [⟨2, { owner := 5, kslot := 9, mode := 1 }⟩] } }
    (s 0 0).granuleFormat (b 0 0) = true ∧ (s 5 9).granuleFormat (b 5 9) = true ∧ (s 5 9).hasKey 9 = true ∧ ((s 0 0).owner 2).owner = 0 ∧
    ((s 5 9).owner 2).owner ≠ 5 ∧ ((s 5 9).ctx ((s 5 9).owner 2).owner).guarded = false ∧ z.sec.setting = false ∧ z.sec.unlocking = none ∧
    (∀ p ∈ z.ctxs, p.2.closing = false) ∧
    answers (exec .granuleSet (s 0 0)) (fun t => t.sec.mboxResult = mbOk ∧ (t.owner 2).mode = 1) = true ∧
    answers (exec .granuleSet (s 5 9)) (fun t => t.sec.mboxState = 1 ∧ t.sec.zeroing.map Zeroing.granule = [2]) = true ∧
    answers (exec .granuleZeroingDone z) (fun t => t.mem = [(0x3FFFFF, 1), (0x600000, 4)] ∧ (t.owner 2).owner = 5) = true := by decide +kernel

/-- R215, R357: a span of granules 2 and 3, of which 3 is another CID's; one whose context has been prepared refuses. -/
theorem witness_MailboxServesRequests_span :
    let b := leBytes 32 (0x400000 + 2 * 2 ^ 64 + 1 * 2 ^ 128)
    let s := { tBox 1 0 b with own := [(3, { owner := 5, kslot := 0, mode := 0 })] }
    let g := { s with ctxs := [(5, { Ctx.reset 5 with state := .sealed })] }
    s.granuleFormat b = true ∧ field b 0 8 / 2 ^ 21 = 2 ∧ field b 8 4 = 2 ∧ s.hasKey 0 = true ∧ (s.owner 2).owner = 0 ∧ (s.owner 3).owner = 5 ∧
    (s.ctx 5).guarded = false ∧ (g.ctx (g.owner 3).owner).guarded = true ∧
    answers (exec .granuleSet s) (fun t => (t.owner 2).mode = 1 ∧ (t.owner 3).owner = 5 ∧ t.sec.setting ∧ t.sec.zeroing.map Zeroing.granule = [3]) = true ∧
    answers (exec .granuleSet g) (fun t => t.sec.mboxResult = mbRefused ∧ t.own = g.own) = true := by decide +kernel

/-- R360: a challenge leaves the earlier nonces. -/
theorem witness_MailboxServesRequests_nonces :
    let n : List (BitVec 256 × DWord) := [(0, 5), (9, 5)]
    let c := tBox 7 32 (leBytes 4 15)
    answers (exec .debugChallenge { c with sec := { c.sec with dbgNonces := n } }) (fun t => t.sec.mboxResult = mbOk ∧ t.sec.dbgNonces.length = 3) = true := by decide +kernel

/-- R358: a wrapped request of CID 3 with counter 8: the context OPEN, the last counter 8 and 7. -/
theorem witness_TenantRequestsAreServed_wrapped :
    let s := fun st (c : Option DWord) => { tBox 5 4096 (leBytes 28 (3 + 8 * 2 ^ 32)) with ctxs := [(3, { Ctx.reset 3 with state := st, counter := c })] }
    28 ≤ (s .sealed none).sec.body.length ∧ zeroSpan (s .sealed none).sec.body 2 2 = true ∧ field (s .sealed none).sec.body 0 2 = 3 ∧
    field (s .sealed none).sec.body 4 8 = 8 ∧ ((s .opened none).ctx 3).state ≠ .sealed ∧ ((s .sealed (some 8)).ctx 3).counter = some 8 ∧
    (∀ c, ((s .sealed (some 7)).ctx 3).counter = some c → c.toNat < 8) ∧
    answers (exec .tenant (s .opened none)) (fun t => t.sec.mboxResult = mbState) = true ∧
    answers (exec .tenant (s .sealed (some 8))) (fun t => t.sec.mboxResult = mbRefused) = true := by
  refine ⟨by decide +kernel, by decide +kernel, by decide +kernel, by decide +kernel, by decide +kernel, by decide +kernel, ?_, by decide +kernel, by decide +kernel⟩
  intro c h
  have : (7 : DWord) = c := Option.some.inj h
  subst this; decide

/-- A tag is good or it is not: the two cases of the wrapped request exclude each other and leave none out (17 R347, R358). -/
theorem witness_tags (k : BitVec 256) (iv : BitVec 96) (aad bs : List Byte) :
    Config.gcmOpen k iv aad bs = none ∨ ∃ p, Config.gcmOpen k iv aad bs = some p := by
  cases Config.gcmOpen k iv aad bs <;> simp

/-- A tenant request of CID 3 that has been unwrapped, and the translation of `tRange` for CID 3. -/
def tTenant (op : TenantOp) : State :=
  let s := tBox 5 4096 []
  { s with sec := { s.sec with tenant := some (3, 8, op) }, ctxs := [(3, { Ctx.reset 3 with state := .sealed })],
           ochres := [(0, { Ochre.reset with xc := [{ tRange with cid := 3 }] })], own := [(2, { owner := 3, kslot := 0, mode := 0 })] }

/-- R355, R358: what a plaintext names; an operation that a request did not name and one without a request change nothing. What the
response holds is sealed under a free value, so the operations' results stand in the statement alone. -/
theorem witness_TenantRequestsAreServed_operations :
    let s := tTenant (.setRt 0x20)
    s.sec.mboxState = 1 ∧ s.sec.tenant = some (3, 8, .setRt 0x20) ∧ State.reset.sec.tenant = none ∧
    tenantOpOf (leBytes 16 (3 + 0x20 * 2 ^ 64)) = some (.setRt 0x20) ∧ tenantOpOf (leBytes 16 (3 + 0x21 * 2 ^ 64)) = none ∧
    tenantOpOf (leBytes 20 (2 + 0x100000 * 2 ^ 64 + 61441 * 2 ^ 128)) = none ∧ tenantOpOf (leBytes 17 (1 + 0x100000 * 2 ^ 64 + 7 * 2 ^ 128)) = some (.import_ 0x100000 [7]) ∧
    s.granted 0 7 1 = false ∧ (s.install? 0 7 1 3).isSome = true ∧ (TenantOp.report 0).answers = reportLength + 16 ∧
    (match s.writeUnder (fun s => s.tenantXlate 3 true) .tenant (qpHome 0) 3 0x100000 [7] (granulePieces 0x100000 1) with
      | (t, .done) => t.readByte 0x400000 == 7 | _ => false) = true ∧
    (match s.readUnder (fun s => s.tenantXlate 3 false) .tenant (qpHome 0) 3 [] (granulePieces 0x100000 1) with | (_, .bytes bs) => bs == [0] | _ => false) = true ∧
    (match s.writeUnder (fun s => s.tenantXlate 3 true) .tenant (qpHome 0) 3 0x200000 [7] (granulePieces 0x200000 1) with | (_, .bad _) => true | _ => false) = true ∧
    s.boxFits (1 + 16) = true ∧ s.boxFits (4081 + 16) = false ∧ s.boxFits (reportLength + 16) = true ∧
    answers (exec (.setRt 0x40) s) (fun t => t.sec.mboxState = 1 ∧ (t.ctx 3).word0 = 0) = true ∧
    answers (exec (.setRt 0x20) State.reset) (fun t => t.ctxs = []) = true := by decide +kernel

/-- R355, R361: signed requests and tokens of a legal length; a signature is good or it is not. -/
theorem witness_SealsAndUnlocks_signed :
    let o := tBox 6 0 (List.replicate 3548 0)
    let d := tBox 8 0 (leBytes 2500 (1 + 15 * 2 ^ 32))
    d.sec.body.length = 2500 ∧ field d.sec.body 0 4 = 1 ∧ tokenScope d.sec.body = 15 ∧ operatorBody o.sec.body = true ∧ o.operatorKey o.sec.body ≠ some 5 ∧
    operatorBody (List.replicate 3547 0) = false ∧ byteAt o.sec.body 0 = false.toNat ∧ field o.sec.body 4 4 = 0 ∧ field o.sec.body 8 32 = 0 ∧
    answers (exec (.operatorReq false 0 5 0) o) (fun t => t.sec.mboxResult = mbAuth ∧ t.sec.stagedKey = none) = true ∧
    answers (exec .mgmtKeyGraceEnd { State.reset with sec := { State.reset.sec with mgmtOld := some 4 } }) (fun t => t.sec.mgmtOld = none) = true := by
  decide +kernel

/-- R360: a token whose nonce is not outstanding is not accepted. -/
theorem witness_SealsAndUnlocks_nonce :
    let d := tBox 8 0 (leBytes 2500 (1 + 15 * 2 ^ 32))
    let u := { d with sec := { d.sec with dbgNonces := [(9, 5)] } }
    u.tokenOk u.sec.body = false ∧ (9 : BitVec 256).toNat ≠ field u.sec.body 40 32 := by
  refine ⟨?_, by decide +kernel⟩
  have h : State.nonceOk { tBox 8 0 (leBytes 2500 (1 + 15 * 2 ^ 32)) with
      sec := { (tBox 8 0 (leBytes 2500 (1 + 15 * 2 ^ 32))).sec with dbgNonces := [(9, 5)] } } (leBytes 2500 (1 + 15 * 2 ^ 32)) = false := by decide +kernel
  exact (congrArg (fun x => (_ && x) && _ && _) h).trans (by simp)

theorem witness_SealsAndUnlocks_signatures (h : Digest) (b : List Byte) (s : State) :
    (signedBy h b = true ∨ signedBy h b = false) ∧ (s.tokenOk b = true ∨ s.tokenOk b = false) := by
  cases signedBy h b <;> cases s.tokenOk b <;> simp

/-- R354: CTX_SEAL of context 3, prepared and not; its record lies at 0x400000. -/
theorem witness_SealsAndUnlocks_seal :
    let c := tCmd .started [tSlot (0x21 + 3 * 2 ^ 128 + 0x400000 * 2 ^ 192)]
    let s := fun p => { State.reset with cmds := [c], ctxs := [(3, { Ctx.reset 3 with state := .opened, prep := p })] }
    let prep : SealPrep := ⟨0, 1, 2⟩
    (s none).cmd 0 0 = some c ∧ c.opcode = 0x21 ∧ c.tcid = 3 ∧ ((s none).ctx 3).prep = none ∧ ((s (some prep)).ctx 3).prep = some prep ∧
    (s (some prep)).sealable 3 = true ∧ (s (some prep)).spanMapped (field c.slot 24 8) 1104 = true ∧ (s (some prep)).spOk (field c.slot 24 8) 1104 = true ∧
    (s (some prep)).brokenIn (field c.slot 24 8) 1104 = false ∧ c.slots.length = 1 ∧
    let busy := { s none with coh := { Coherence.reset with busy := [(0x400000 / 128, .l2 3, true)] } }
    busy.homeTakes 0 (field c.slot 24 8) (.read 1104) = false ∧ (s none).homeTakes 0 (field c.slot 24 8) (.read 1104) = true ∧
    answers (exec (.ctxSeal 0 0) busy) (fun t => t.cmds = [c]) = true ∧
    answers (exec (.ctxSeal 0 0) (s none)) (fun t => t.cmds.map Cmd.status = [stState]) = true := by decide +kernel

/-- R354: SEAL_PREP of context 3, OPEN and FREE, whose context word is 0: it has no range table. -/
theorem witness_SealsAndUnlocks_prepare :
    let s := fun st => { tBox 4 4096 (leBytes 56 3) with ctxs := [(3, { Ctx.reset 3 with state := st })], own := [(7, { owner := 3, kslot := 9, mode := 0 })] }
    56 ≤ (s .opened).sec.body.length ∧ (s .opened).sec.body.length % 16 = 8 ∧ (measureList ((s .opened).sec.body.drop 40)).length = 1 ∧
    zeroSpan (s .opened).sec.body 2 6 = true ∧ (∀ e ∈ measureList ((s .opened).sec.body.drop 40), e.2 % 2 ^ 16 = 0) ∧
    (s .opened).boxFits reportLength = true ∧ field (s .opened).sec.body 0 2 = 3 ∧
    (match (s .opened).contextWord 3 with | .ok w => w == 0 | _ => false) = true ∧ (s .free).sealReady 3 = false ∧ (s .opened).sealReady 3 = true ∧ (s .opened).tableOwned 3 0 = true ∧
    ((s .opened).ctxMeas 3 0 (measureList ((s .opened).sec.body.drop 40))).2.isSome = true ∧
    answers (exec .sealPrep (s .free)) (fun t => t.sec.mboxResult = mbState) = true := by decide +kernel

/-! ### 18 -/

/-- An error event of a severity and type at an address. -/
def tErr (sev : Severity) (typ : BitVec 16) (inst : Word) : ErrorEvent :=
  { typ := typ, sev := sev, inst := inst, addr := 0x400000, cid := 0, owner := 0, layer := 0, operator := 0, detail := 0 }

/-- R362, R363, R365, R368: one error of each severity; the first of its kind and one that joins an open record; sync object 65,535. -/
theorem witness_ErrorsAreRecordedAndContained_errors :
    let e := tErr .corrected 4 0
    let s := { State.reset with hostsOn := 1 <<< 95 }
    let o := s.setLog 0 { s.log 0 with opened := [⟨e, 0, 1, 5, 5⟩] }
    s.hostRuns 95 = true ∧ s.hostRuns 94 = false ∧ (s.host 95).buffer = [] ∧ (s.host 95).invStore = none ∧ e.typ ≠ 0x01 ∧ alwaysFatal 0x03 = true ∧ (∃ x ∈ (o.log (logOfDie 0)).opened, x.merges e = true) ∧ (∀ x ∈ (s.log (logOfDie 0)).opened, x.merges e = false) ∧
    (s.log (logOfDie 0)).opened.length < 16 ∧ s.errEn (logOfDie 0) = false ∧ (s.log (logOfDie 0)).held.length < 64 ∧
    ofMemory (tErr .contained 1 0).typ.toNat = true ∧ hasOwner (tErr .contained 1 0).addr.toNat = true ∧ s.mapped (tErr .contained 1 0).addr.toNat = true ∧
    (tErr .contained 0x0C 65535).inst.toNat < 65536 ∧
    answers (exec (.errorDetected 0 (tErr .fatal 1 0)) s) (fun t => t.fatal ∧ (t.host 95).trap = some .machineCheck ∧ (t.host 94).trap = none) = true ∧
    answers (exec (.errorDetected 4 (tErr .contained 0x0A 0)) s) (fun t => t.fatal ∧ t.fatalRecs.length = 1) = true ∧
    answers (exec (.errorDetected 0 e) s) (fun t => (t.log 0).opened.map ErrRec.count = [1]) = true ∧
    answers (exec (.errorDetected 0 e) o) (fun t => (t.log 0).opened.map ErrRec.count = [2]) = true ∧
    answers (exec (.errorDetected 0 (tErr .event 1 0)) s) (fun t => (t.log 0).held.length = 1) = true ∧
    answers (exec (.errorDetected 0 (tErr .contained 1 0)) s) (fun t => 0x400000 / 32 ∈ t.hbm.broken) = true ∧
    answers (exec (.errorDetected 0 (tErr .contained 0x0C 65535)) s) (fun t => t.soBroken 65535) = true := by decide +kernel

/-- R362, R366: a clean line that the host L2 of core 3 holds is invalidated and counts as corrected, the next error of it does not; an
accumulator's error ends its cell's item. -/
theorem witness_ErrorsAreRecordedAndContained_refetch :
    let h : Holder := .l2 3
    let s := { tItem [] with coh := { Coherence.reset with dir := [(0x400000 / 128, { owner := some h, modified := false, sharers := [] })] } }
    let e := tErr .contained 0x09 3
    (s.refetch 4 e).isSome = true ∧ (State.reset.refetch 4 e).isNone = true ∧ (s.cell 0).job = some tJob ∧ tJob.ended = none ∧
    answers (exec (.errorDetected 4 e) s) (fun t => (t.log 4).opened.map (fun r => r.e.sev) = [.corrected] ∧ t.coh.dir = [] ∧ t.hbm.broken = []) = true ∧
    answers (exec (.errorDetected 0 (tErr .contained 0x06 0)) s) (fun t => (t.cell 0).job.bind Job.ended = some stMemUe ∧ tabFind t.cellErr 0 = some t.time) = true := by
  decide +kernel

/-- R369: two corrected errors of the row of 0x400000 within 24 h, and one. Which row an address lies in is free (log entry 48). -/
theorem witness_ErrorsAreRecordedAndContained_rows :
    let row := Config.hbmRow 0
    let one := [(0, 0, row, (5 : DWord))]
    let mine := fun (l : List (Nat × Nat × Nat × DWord)) => l.filter fun x => ((7 : DWord) - x.2.2.2).toNat < dayNs && x.1 = 0 && x.2.1 = 0 && x.2.2.1 = row
    2 ≤ (mine (one ++ one)).length ∧ (mine one).length < 2 := by
  constructor <;> simp [dayNs]

theorem witness_ErrorsAreRecordedAndContained_row : inHbm 0x400000 = true ∧ State.reset.mapped 0x400000 = true := by decide +kernel

/-- R363: uncorrectable data at a host core, an item, a command, a fabric request and a background reader. -/
theorem witness_ErrorsAreRecordedAndContained_consumers :
    let s := { tItem [] with cmds := [tCmd .started [tSlot 0]] }
    (s.cell 0).job = some tJob ∧ tJob.ended = none ∧ s.cmd 0 0 = some (tCmd .started [tSlot 0]) ∧ (tCmd .started [tSlot 0]).hasStarted = true ∧
    answers (exec (.ueConsumed (.hostCore 95) 0x400000) s) (fun t => (t.host 95).trap = some .machineCheck) = true ∧
    answers (exec (.ueConsumed (.cell 0) 0x400000) s) (fun t => (t.cell 0).job.bind Job.ended = some stMemUe) = true ∧
    answers (exec (.ueConsumed (.command 0 0) 0x400000) s) (fun t => t.cmds.map Cmd.status = [stMemUe]) = true ∧
    answers (exec (.ueConsumed (.fabric 3 9) 0x400000) s) (fun t => t.fab.responses.map tSays = [(9, 3, 3, [])]) = true ∧
    answers (exec (.ueConsumed .background 0x400000) s) (fun t => t.cmds = s.cmds) = true := by decide +kernel

/-- R368: a log of 1,024 records at 0x400000 in use: an open record is flushed, a held one written. -/
theorem witness_ErrorsAreRecordedAndContained_records :
    let r : ErrRec := ⟨tErr .corrected 1 0, 0, 1, 5, 5⟩
    let b := dieBar 0 + 0x2000
    let s := fun (o h : List ErrRec) => { State.reset.setLog 0 { State.reset.log 0 with opened := o, held := h } with
                                            regs := [(b, 0x400000), (b + 4, 0xA000), (b + 8, 1)] }
    ((s [r] []).log 0).opened[0]? = some r ∧ ((s [r] []).log 0).opened[1]? = none ∧ ((s [] [r]).log 0).held = [r] ∧
    (s [] [r]).errEn 0 = true ∧ (s [] [r]).errFull 0 = false ∧
    answers (exec (.openRecordFlush 0 0) (s [r] [])) (fun t => (t.log 0).opened = [] ∧ (t.log 0).errTail = 1 ∧ (0, 257) ∈ t.irqs ∧ t.readBytes 0x400000 2 = [1, 0]) = true ∧
    answers (exec (.heldRecordWrite 0) (s [] [r])) (fun t => (t.log 0).held = [] ∧ (t.log 0).errTail = 1) = true ∧
    answers (exec (.openRecordFlush 0 1) (s [r] [])) (fun t => (t.log 0).opened = [r]) = true := by decide +kernel

/-- R372: cell 255 in and out of service, channel 95 in and out of service. -/
theorem witness_ErrorsAreRecordedAndContained_service :
    let s := State.reset
    let off := { s with ochres := [(3, { Ochre.reset with cellEn := 0 })], hbm := { Hbm.reset with chans := [(95, { s.chan 95 with state := .offline })] } }
    (s.ochre 3).cellEn.getLsbD 63 = true ∧ (off.ochre 3).cellEn.getLsbD 63 = false ∧ (s.chan 95).state = .inService ∧ (off.chan 95).state ≠ .inService ∧
    answers (exec (.degradeEvent (.cell 255)) s) (fun t => t.degradeGen = 2 ∧ (t.ochre 3).cellEn.getLsbD 63 = false ∧ (t.ochre 3).cellEn.getLsbD 62) = true ∧
    answers (exec (.degradeEvent (.cell 255)) off) (fun t => t.degradeGen = 0) = true ∧
    answers (exec (.degradeEvent (.channel 95)) off) (fun t => t.degradeGen = 0) = true := by decide +kernel

/-! ### 19, 20, 21 -/

/-- R375, R376, R377: the phases, an image that starts and one that does not. -/
theorem witness_PowerAndResetPinsStartTheMachine :
    let s := fun ph => { State.reset with phase := ph }
    let bad := { s .starting with flash := { State.reset.flash with svn := 0 } }
    let fw := { s .starting with flash := { State.reset.flash with hostGood := false } }
    (s .off).phase = .off ∧ (s .up).phase ≠ .off ∧ (s .held).phase = .held ∧ (s .starting).phase = .starting ∧ (s .starting).boots = true ∧
    bad.boots = false ∧ fw.boots = true ∧ fw.flash.hostGood = false ∧ (s .starting).flash.hostGood = true ∧
    answers (exec .strapSample fw) (fun t => t.phase = .up ∧ ¬ t.released ∧ t.svc.getLsbD 25) = true ∧
    answers (exec .pwrGoodRise (s .off)) (fun t => t.phase = .starting ∧ t.pins.pwrGood) = true ∧
    answers (exec .pwrGoodFall (s .up)) (fun t => t.phase = .off ∧ ¬ t.pins.pwrGood ∧ t.regs = []) = true ∧
    answers (exec .packageReset (s .up)) (fun t => t.phase = .held ∧ ¬ t.pins.pkgRstN) = true ∧
    answers (exec .pkgRstNRise (s .held)) (fun t => t.phase = .starting) = true ∧
    answers (exec .strapSample (s .starting)) (fun t => t.phase = .up ∧ t.released) = true ∧
    answers (exec .strapSample bad) (fun t => t.phase = .starting ∧ ¬ t.released) = true := by decide +kernel

/-- R381, R383: the controller in each state, with a shadow that passes. -/
theorem witness_FrontAppliesAndManagementWindow_front :
    let s := fun st => { State.reset with front := { Front.reset with state := st } }
    let beside := fun st =>
      { State.reset with front := { Front.reset with state := st, sides := [{ words := [(umberBar 0 + 0x5008, 0xFFFFFFFF)], dirtied := false }] } }
    (s .idle).front.state = .idle ∧ (s .pending).front.state = .pending ∧ (s (.checking false)).front.state = .checking false ∧
    (s (.checking true)).front.sched = false ∧ (s .idle).front.clean = false ∧ (s .pending).front.applyAt.toNat ≤ (s .pending).time.toNat ∧
    (s .pending).fab.state ≠ .committed ∧
    answers (exec .fcCheck (s .idle)) (fun t => t.front.state = .checking false) = true ∧
    answers (exec .fcCheck (s .pending)) (fun t => t.front.sides.length = 1 ∧ t.front.state = .pending) = true ∧
    (s .pending).front.sides = [] ∧ (beside .pending).front.sides = [{ words := [(umberBar 0 + 0x5008, 0xFFFFFFFF)], dirtied := false }] ∧
    answers (exec .fcCheckDone (beside .pending)) (fun t => t.front.state = .pending ∧ t.front.sides = [] ∧ t.front.result = 2) = true ∧
    answers (exec .fcCheckDone (beside .idle)) (fun t => t.front.state = .idle ∧ t.front.sides = [] ∧ t.front.result = 2) = true ∧
    answers (exec .fcCheckDone (s .pending)) (fun t => t.front = (s .pending).front) = true ∧
    answers (exec .fcCheck (s (.checking true))) (fun t => t.front.rej) = true ∧
    answers (exec .fcCheckDone (s .idle)) (fun t => t.front = Front.reset) = true ∧
    answers (exec (.fcApply true) (s .pending)) (fun t => t.front.rej) = true ∧
    answers (exec (.fcApply false) { s .idle with front := { Front.reset with clean := true } }) (fun t => t.front.state = .pending ∧ t.front.reused) = true ∧
    answers (exec (.fcApply true) (s .idle)) (fun t => t.front.state = .checking true) = true ∧
    answers (exec .cancel { s .pending with front := { Front.reset with state := .pending, applyAt := 14000000000 } }) (fun t => t.front.state = .idle) = true ∧
    answers (exec .frontApply (s .idle)) (fun t => t.front = Front.reset) = true := by decide +kernel

/-- R383, R384: the shadow at reset passes every rule; a shadow of all ones in one word fails one. -/
theorem witness_FrontAppliesAndManagementWindow_rules :
    State.reset.failCode [] = 0 ∧ ∃ a ∈ stgWords, State.reset.failCode [(a, 0xFFFFFFFF)] ≠ 0 := by
  refine ⟨by decide +kernel, umberBar 0 + 0x5008, by decide +kernel, by decide +kernel⟩

/-- R385: the window at CID 0's memory and at a granule of a SEALED context. -/
theorem witness_FrontAppliesAndManagementWindow_window :
    let s := { State.reset with mem := [(0x400000, 3)], mc := { State.reset.mc with base := 0x400000 } }
    let p := { s with own := [(2, tOwned)], ctxs := [(5, { Ctx.reset 5 with state := .sealed })] }
    s.winReadable 0x400000 2 = true ∧ p.winReadable 0x400000 2 = false ∧ s.brokenIn 0x400000 2 = false ∧ s.tableOk 0x400000 1 = true ∧
    p.tableOk 0x400000 1 = false ∧ s.partlyBroken 0x400000 1 = false ∧
    answers (exec (.mcWinRead 0 2) s) (fun t => t.mc.data = [3, 0]) = true ∧
    answers (exec (.mcWinRead 0 2) p) (fun t => t.mc.refused ∧ t.mc.data = [0xFF, 0xFF]) = true ∧
    answers (exec (.mcWinWrite 0 [9]) s) (fun t => t.readBytes 0x400000 2 = [9, 0]) = true ∧
    answers (exec (.mcWinWrite 0 [9]) p) (fun t => t.mc.refused ∧ t.mem = s.mem) = true := by decide +kernel

/-- R264: the doorbell page of ring 1,023 (die 3, page 255), at offsets 0, 4, 8 and 0xFFC. -/
theorem witness_DoorbellPagesOfTheRings :
    let s := { State.reset with rings := [(1023, { Ring.reset with head := 2, tail := 3 })] }
    (1023 : Nat) = 256 * (3 : DieId).val + (255 : Fin 256).val ∧ (BitVec.ofNat 64 (bellBar 3 + 4096 * 255)).toNat = bellBar 3 + 4096 * 255 ∧
    s.readReg (bellBar 3 + 4096 * 255 + 4) = 2 ∧ s.readReg (bellBar 3 + 4096 * 255 + 0xFFC) = 0 ∧
    answers (exec (.registerWrite 0 (BitVec.ofNat 64 (bellBar 3 + 4096 * 255)) [6, 0, 0, 0]) s) (fun t => (t.ring 1023).tail = 6) = true ∧
    answers (exec (.registerWrite 0 (BitVec.ofNat 64 (bellBar 3 + 4096 * 255 + 4)) [6, 0, 0, 0]) s) (fun t => (t.ring 1023).head = 2) = true := by
  decide +kernel

/-- R409: a write to each copy leaves the register. -/
theorem witness_DegradeGenReadsTheSameEverywhere :
    (BitVec.ofNat 64 (umberBar 0 + 0x48) : DWord).toNat = umberBar 0 + 0x48 ∧ (BitVec.ofNat 64 (ochreBar 3 + 0x10) : DWord).toNat = ochreBar (3 : DieId).val + 0x10 ∧
    answers (exec (.registerWrite 0 (BitVec.ofNat 64 (umberBar 0 + 0x48)) [9, 0, 0, 0]) State.reset) (fun t => t.degradeGen = 0) = true ∧
    answers (exec (.registerWrite 0 (BitVec.ofNat 64 (ochreBar 3 + 0x10)) [9, 0, 0, 0]) State.reset) (fun t => t.degradeGen = 0) = true := by decide +kernel

/-- R402, R403, R404: a narrow and a misaligned write, a CID other than 0, a staged field, the two halves of a 64-bit register. -/
theorem witness_RegisterAccessRules :
    let a : DWord := BitVec.ofNat 64 (umberBar 0 + 0x8004)
    let lo : DWord := BitVec.ofNat 64 (umberBar 0 + 0x1008)
    let hi : DWord := BitVec.ofNat 64 (umberBar 0 + 0x100C)
    let s := State.reset
    a.toNat < mgmtBar ∧ ([1, 2] : List Byte).length < 4 ∧ (a + 1).toNat % 4 ≠ 0 ∧ bar0Ok 5 a.toNat = false ∧ a.toNat % 4 = 0 ∧ stgMask a.toNat ≠ 0 ∧
    heldWide a.toNat = false ∧ heldWide (a.toNat - 4) = false ∧ isLow lo.toNat = true ∧ bar0Ok 0 lo.toNat = true ∧ hi.toNat = umberBar 0 + 0x100C ∧
    answers (exec (.registerWrite 0 a [1, 2]) s) (fun t => t.regs = s.regs ∧ t.shadow = s.shadow) = true ∧
    answers (exec (.registerWrite 5 a [1, 2, 3, 4]) s) (fun t => t.shadow = s.shadow) = true ∧
    answers (exec (.stagedWrite 0 a [7, 0, 0, 0]) s) (fun t => t.shadowOf a.toNat = 7 ∧ t.reg a.toNat = s.reg a.toNat) = true ∧
    answers (exec (.lowHalfReadLatch 0 lo 4) s) (fun t => tabFind t.latch lo.toNat = some 0) = true ∧
    answers (exec (.lowHalfWriteHold 0 lo 0x40) s) (fun t => t.reg lo.toNat = 0 ∧ answers (exec (.highHalfWrite 0 hi 1) t) fun u => u.reg64 lo.toNat = 0x100000040) = true := by
  decide +kernel

/-- R388, R392, R394: counters of die 0 frozen and cleared, a sample at its interval, a lost record, sync objects, test access. -/
theorem witness_CountersTraceSyncAndTest_counters :
    let a := dieBar 0 + 0x3100
    let s := { State.reset with regs := [(a, 1 + 13 * 16)], logs := [(0, { DieLog.reset with pmc := [(0, 5)], trcLost := 3 })] }
    (∀ d < 6, (State.reset.reg (dieBar d + 0x3100)).toNat / 16 % 2 ^ 16 = 0) ∧ (s.reg a).toNat / 16 % 2 ^ 16 = 13 ∧ s.time.toNat % 1000 = 0 ∧
    s.time.toNat / 1000 % 13 = 0 ∧ s.traceSpent = false ∧ (s.log 0).trcHeld = [] ∧ (s.log 0).trcLost ≠ 0 ∧ State.reset.traceWaits 0 = false ∧
    answers (exec (.freeze 0 false) s) (fun t => t.reg a = 208) = true ∧ answers (exec (.pmcClear 0) s) (fun t => (t.log 0).pmc = []) = true ∧
    answers (exec .counterSample State.reset) (fun t => t.logs = []) = true := by decide +kernel

/-- With every link UP and no message held, no path makes a record wait. -/
theorem recordWay_of_up (s : State) (hu : ∀ l : Nat, (s.link l).state = .up) (hh : s.links.held = []) (hb : s.coh.busy = [])
    (ht : s.coh.tokens = []) (hc : s.coh.holds = []) (die a n : Nat) : s.recordWay die a n = true := by
  have way (src dst b : Nat) : s.way src dst b = .clear := by simp [State.way, State.path, State.pathOpen, hu, hh]
  have all (l : List (Nat × Nat)) : worstWay (l.map fun b => s.way die (s.memDie b.1) b.1) = .clear := by
    simp only [way, worstWay]
    simp [List.map_const']
  simp [State.recordWay, State.memWays, all, State.quiet, hb, ht, hc]

/-- R388, R394: two enabled counters of die 0 at its interval of 13 us, with the log at 0x400000 in use; then a lost record. -/
theorem witness_CountersTraceSyncAndTest_trace :
    let a := dieBar 0 + 0x3000
    let b := dieBar 0 + 0x4000
    let s := { State.reset with regs := [(a, 0x100), (a + 4, 0x100), (a + 0x100, 13 * 16), (b, 0x400000), (b + 4, 0xA000), (b + 8, 1 + 512 + 1024)] }
    s.trcOn 0 6 = true ∧ s.trcOn 0 7 = true ∧ s.traceWaits 0 = false ∧ s.time.toNat % 1000 = 0 ∧ s.time.toNat / 1000 % 13 = 0 ∧ (s.log 0).ctxLost = [] ∧
    answers (exec .counterSample s) (fun t => (t.log 0).trcSeq = 2) = true ∧
    answers (exec (.traceLostRecord 0) (s.setLog 0 { s.log 0 with trcLost := 3 })) (fun t => (t.log 0).trcLost = 0 ∧ (t.log 0).trcSeq = 1) = true := by
  decide +kernel

theorem witness_CountersTraceSyncAndTest_ways (die a n : Nat) : State.reset.recordWay die a n = true :=
  recordWay_of_up _ (fun _ => rfl) rfl rfl rfl rfl die a n

/-- R399, R412, R426: sync object 65,535, its owners, the test bus and a test instrument, locked and unlocked by scope bit 0. -/
theorem witness_CountersTraceSyncAndTest_sync :
    let s := { State.reset with soVal := [(65535, 4)] }
    let b := { s with soBad := [65535] }
    let u := { s with sec := { s.sec with unlock := some 1 } }
    s.soBroken 65535 = false ∧ b.soBroken 65535 = true ∧ (65534 : Nat) = 32768 * (1 : UmberId).val + 2 * (16383 : Fin 16384).val ∧
    s.sealedCid (s.soOwner 65534) = false ∧ s.sealedCid (s.soOwner 65535) = false ∧ s.unlocked 0 = false ∧ u.unlocked 0 = true ∧ ({ code := 6, name := 0 } : AtbSource).code ≤ 6 ∧
    answers (exec (.soValWrite 65535 true 0x100000002) s) (fun t => t.so 65535 = 0x100000006) = true ∧
    answers (exec (.soValWrite 65535 false 0x100000002) s) (fun t => t.so 65535 = 6) = true ∧
    answers (exec (.soValWrite 65535 true 2) b) (fun t => t.so 65535 = 4) = true ∧
    answers (exec (.testInstrumentRequest .memoryBist (.other 4 7)) u) (fun t => t.soVal = u.soVal) = true ∧
    answers (exec (.soOwnWrite 1 16383 0x00070005) s) (fun t => t.soOwner 65534 = 5 ∧ t.soOwner 65535 = 7) = true ∧
    answers (exec (.atbSelect 5 true { code := 6, name := 1 }) u) (fun t => t.pins.atb = [(11, { code := 6, name := 1 })]) = true ∧
    answers (exec (.atbSelect 5 true { code := 6, name := 1 }) s) (fun t => t.pins.atb = s.pins.atb) = true := by decide +kernel

/-! ### The invariants -/

theorem witness_EveryStepKeepsPhaseAndPins :
    let s := { State.reset with pending := [Instr.pwrGoodFall, .pwrGoodRise] }
    s.powerWf ∧ (Instr.thermtrip ∉ [Instr.pwrGoodRise, .strapSample, .pwrGoodFall, .packageReset, .pkgRstNRise]) ∧
    answers (step s) (fun t => t.phase = .off ∧ t.pending = [.pwrGoodRise] ∧ answers (step t) fun u => u.phase = .starting ∧ u.pending = []) = true := by
  unfold State.powerWf; decide +kernel

/-- The rewrites of one byte to 0 and back; a step of an empty queue moves the time to the next tick (log entry 2). -/
theorem witness_WritesKeepMemoryCanonical :
    let s := { State.reset with mem := [(0x400000, 3)] }
    Memory.wf s.mem = true ∧
    answers (exec (.ioCoherentAccess 0 0x400000 false (.write [0])) s) (fun t => t.mem = [] ∧ Memory.wf t.mem) = true ∧
    answers (step { s with pending := [.ioCoherentAccess 0 0x400000 false (.write [0, 9])] }) (fun t => t.mem = [(0x400001, 9)] ∧ Memory.wf t.mem) = true ∧
    answers (step State.reset) (fun t => t.time = State.reset.time + 1000) = true := by decide +kernel

theorem witness_CommandsThatStoreNothingKeepMemory :
    answers (exec .go State.reset) (fun t => t.mem = []) = true ∧ answers (exec .cancel State.reset) (fun t => t.mem = []) = true := by decide +kernel

end Sys2Proof.Machine
end

section
/-! Proofs of spec/00_scope.md: register accesses (R6, R7, R402-R404). First the facts about little-endian words, the register map and
its access codes, then what a write of one word does, then the statement. -/

namespace Sys2Proof.Machine

/-! ### Words as bytes, and tables of present keys -/

@[simp] theorem leBytes_length (n v : Nat) : (leBytes n v).length = n := by
  induction n generalizing v with
  | zero => rfl
  | succ n ih => simp [leBytes, ih]

theorem leNat_leBytes (n v : Nat) : leNat (leBytes n v) = v % 256 ^ n := by
  induction n generalizing v with
  | zero => simp [leBytes, leNat, Nat.mod_one]
  | succ n ih =>
    have hv : v % (256 * 256 ^ n) = v % 256 + 256 * (v / 256 % 256 ^ n) := Nat.mod_mul
    rw [leBytes, leNat, ih, BitVec.toNat_ofNat, Nat.pow_succ' (n := n), hv]

/-- The bytes of a 32-bit word spell that word. -/
@[simp] theorem ofNat_leNat_leBytes (v : Word) : BitVec.ofNat 32 (leNat (leBytes 4 v.toNat)) = v := by
  rw [leNat_leBytes, Nat.mod_eq_of_lt (by have := v.isLt; omega), BitVec.ofNat_toNat, BitVec.setWidth_eq]

@[simp] theorem tabFind_erase_self {α : Type} (t : Tab α) (k : Nat) : tabFind (tabErase t k) k = none := by
  suffices key : ∀ l : Tab α, (∀ p ∈ l, p.1 ≠ k) → tabFind l k = none from key _ (tabErase_absent t k)
  intro l
  induction l with
  | nil => exact fun _ => rfl
  | cons p l ih =>
    intro h
    rw [tabFind, if_neg (h p List.mem_cons_self)]
    exact ih fun q hq => h q (List.mem_cons_of_mem _ hq)

/-! ### Where an address lies -/

theorem ochreBar_eq (d : Nat) : ochreBar d = 0x0F0000000000 + d * 0x1000000 := by rw [ochreBar]
theorem umberBar_eq (u : Nat) : umberBar u = 0x0F0004000000 + u * 0x1000000 := by rw [umberBar]
theorem bellBar_eq (d : Nat) : bellBar d = 0x0F4000000000 + d * 0x100000 := by rw [bellBar]
theorem mgmtBar_eq : mgmtBar = 0x8000000000000000 := by simp only [mgmtBar, Nat.reducePow]

/-! The BARs lie apart, so an address is in the one that its bounds name; the address is read off the sizes by arithmetic. -/

theorem regSpace_ochre_iff (a : Nat) (d : DieId) (o : Nat) :
    regSpace a = .ochre d o ↔ a = ochreBar d.val + o ∧ o < 0x1000000 := by
  have hd := d.isLt
  unfold regSpace
  repeat' split
  all_goals simp only [Bool.and_eq_true, decide_eq_true_eq, RegSpace.ochre.injEq, Fin.ext_iff, Fin.val_ofNat, reduceCtorEq, false_iff] at *
  all_goals simp only [ochreBar_eq, umberBar_eq, bellBar_eq, mgmtBar_eq] at *
  all_goals omega

theorem regSpace_umber_iff (a : Nat) (u : UmberId) (o : Nat) :
    regSpace a = .umber u o ↔ a = umberBar u.val + o ∧ o < 0x1000000 := by
  have hu := u.isLt
  unfold regSpace
  repeat' split
  all_goals simp only [Bool.and_eq_true, decide_eq_true_eq, RegSpace.umber.injEq, Fin.ext_iff, Fin.val_ofNat, reduceCtorEq, false_iff] at *
  all_goals simp only [ochreBar_eq, umberBar_eq, bellBar_eq, mgmtBar_eq] at *
  all_goals omega

theorem regSpace_mgmt_iff (a o : Nat) : regSpace a = .mgmt o ↔ a = mgmtBar + o := by
  unfold regSpace
  repeat' split
  all_goals simp only [Bool.and_eq_true, decide_eq_true_eq, RegSpace.mgmt.injEq, reduceCtorEq, false_iff] at *
  all_goals simp only [ochreBar_eq, umberBar_eq, bellBar_eq, mgmtBar_eq] at *
  all_goals omega

/-- Only the sideband's own space has an address with a mirror (22 R422). -/
theorem regAlias_below (a : Nat) (h : a < mgmtBar) : regAlias a = a := by
  unfold regAlias
  rw [if_neg (by simp only [Bool.and_eq_true, decide_eq_true_eq]; omega)]

theorem lt_mgmtBar_of_ochre (a : Nat) (d : DieId) (o : Nat) (h : regSpace a = .ochre d o) : a < mgmtBar := by
  have ha := (regSpace_ochre_iff a d o).mp h
  have hd := d.isLt
  have hbar := ochreBar_eq d.val
  have htop := mgmtBar_eq
  omega

theorem lt_mgmtBar_of_umber (a : Nat) (u : UmberId) (o : Nat) (h : regSpace a = .umber u o) : a < mgmtBar := by
  have ha := (regSpace_umber_iff a u o).mp h
  have hu := u.isLt
  have hbar := umberBar_eq u.val
  have htop := mgmtBar_eq
  omega

/-- BAR0 of an Ochre endpoint refuses every other CID (21 R403). -/
theorem bar0Ok_of_ochre (a : Nat) (d : DieId) (o : Nat) (cid : Cid) (e : regSpace a = .ochre d o) :
    bar0Ok cid a = decide (cid = 0) := by
  unfold bar0Ok
  rw [e]

/-- BAR0 of a platform function refuses every other CID but on the doorbell pages of queue pairs (21 R403). -/
theorem bar0Ok_of_umber (a : Nat) (u : UmberId) (o : Nat) (cid : Cid) (e : regSpace a = .umber u o) :
    bar0Ok cid a = (decide (cid = 0) || decide (0x600000 ≤ o)) := by
  unfold bar0Ok
  rw [e]

theorem bar0Ok_ochre_refused (d : DieId) (off : Nat) (cid : Cid) (hcid : cid ≠ 0) (hoff : off < 0x1000000) :
    bar0Ok cid (ochreBar d.val + off) = false := by
  generalize ha : ochreBar d.val + off = a
  rw [bar0Ok_of_ochre a d off cid ((regSpace_ochre_iff a d off).mpr ⟨ha.symm, hoff⟩), decide_eq_false hcid]

theorem bar0Ok_umber_refused (u : UmberId) (off : Nat) (cid : Cid) (hcid : cid ≠ 0) (hoff : off < 0x600000) :
    bar0Ok cid (umberBar u.val + off) = false := by
  generalize ha : umberBar u.val + off = a
  rw [bar0Ok_of_umber a u off cid ((regSpace_umber_iff a u off).mpr ⟨ha.symm, by omega⟩), decide_eq_false hcid,
    decide_eq_false (by omega), Bool.or_self]

/-- The low half of a 64-bit register is no mirrored address. -/
theorem regAlias_of_isLow (a : Nat) (h : isLow a = true) : regAlias a = a := by
  unfold isLow at h
  split at h
  next d o e => exact regAlias_below a (lt_mgmtBar_of_ochre a d o e)
  next u o e => exact regAlias_below a (lt_mgmtBar_of_umber a u o e)
  next o e =>
    have ho : o = 0 := of_decide_eq_true h
    have ha := (regSpace_mgmt_iff a o).mp e
    unfold regAlias
    rw [if_neg (by simp only [Bool.and_eq_true, decide_eq_true_eq]; omega)]
  next => cases h

/-! ### Access codes -/

/-- A conditional mask that names a field has its condition met, or else names it in the other branch. -/
theorem cond_or_of_ite_ne_zero {c : Prop} [Decidable c] {x y : Word} (h : (if c then x else y) ≠ 0) : (c ∧ x ≠ 0) ∨ y ≠ 0 := by
  split at h
  next hc => exact .inl ⟨hc, h⟩
  next => exact .inr h

/-- Offsets of the RW words that both kinds of function have. -/
theorem rwCommon_offset (o : Nat) (h : rwCommon o ≠ 0) :
    o = 0x2008 ∨ o = 0x200C ∨ (0x3000 ≤ o ∧ o < 0x3040) ∨ o = 0x3100 ∨ o = 0x4008 := by
  unfold rwCommon at h
  simp only [Bool.and_eq_true, decide_eq_true_eq] at h
  iterate 5
    obtain ⟨hc, -⟩ | h := cond_or_of_ite_ne_zero h
    · omega
  exact absurd rfl h

/-- A word with RW fields lies below 0x4010 of an Ochre endpoint's or a platform function's BAR0. -/
theorem rwMask_space (a : Nat) (h : rwMask a ≠ 0) :
    (∃ d o, regSpace a = .ochre d o ∧ (o = 0x28 ∨ (0x1008 ≤ o ∧ o < 0x1010) ∨ (0x2008 ≤ o ∧ o < 0x4010))) ∨
    (∃ u o, regSpace a = .umber u o ∧ o < 0x4010) := by
  unfold rwMask at h
  split at h
  next d o e =>
    refine .inl ⟨d, o, e, ?_⟩
    iterate 3
      obtain ⟨hc, -⟩ | h := cond_or_of_ite_ne_zero h
      · omega
    have ho := rwCommon_offset o h
    omega
  next u o e =>
    refine .inr ⟨u, o, e, ?_⟩
    simp only [Bool.and_eq_true, decide_eq_true_eq] at h
    obtain ⟨⟨-, hc⟩, -⟩ | h := cond_or_of_ite_ne_zero h
    · omega
    have ho := rwCommon_offset o h
    omega
  next => exact absurd rfl h

theorem lt_mgmtBar_of_rwMask (a : Nat) (h : rwMask a ≠ 0) : a < mgmtBar := by
  obtain ⟨d, o, e, -⟩ | ⟨u, o, e, -⟩ := rwMask_space a h
  · exact lt_mgmtBar_of_ochre a d o e
  · exact lt_mgmtBar_of_umber a u o e

theorem bar0Ok_zero_of_rwMask (a : Nat) (h : rwMask a ≠ 0) : bar0Ok 0 a = true := by
  obtain ⟨d, o, e, -⟩ | ⟨u, o, e, -⟩ := rwMask_space a h
  · rw [bar0Ok_of_ochre a d o 0 e, decide_eq_true rfl]
  · rw [bar0Ok_of_umber a u o 0 e, decide_eq_true rfl, Bool.true_or]

/-- Offsets of a platform function among which the words with STG fields lie, without the words of the same blocks that have other
fields. -/
def stgOffset (o : Nat) : Prop :=
  0x5000 ≤ o ∧ o < 0xBC00 ∧ o ≠ 0x5004 ∧ o ≠ 0x5010 ∧ ¬(0x5040 ≤ o ∧ o < 0x5070) ∧ o ≠ 0x6008 ∧ o ≠ 0x600C ∧ o ≠ 0x700C ∧
    o ≠ 0x8028 ∧ o ≠ 0xA004

/-- A word with STG fields is a platform function's (00 R7). -/
theorem stgMask_space (a : Nat) (h : stgMask a ≠ 0) : ∃ u o, regSpace a = .umber u o ∧ stgOffset o := by
  unfold stgMask at h
  split at h
  next u o e =>
    refine ⟨u, o, e, ?_⟩
    unfold stgOffset
    simp only [Bool.and_eq_true, Bool.or_eq_true, decide_eq_true_eq] at h
    obtain ⟨hc, -⟩ | h := cond_or_of_ite_ne_zero h
    · omega
    obtain ⟨-, hx⟩ | h := cond_or_of_ite_ne_zero h
    · exact absurd rfl hx
    iterate 19
      obtain ⟨hc, -⟩ | h := cond_or_of_ite_ne_zero h
      · omega
    exact absurd rfl h
  next => exact absurd rfl h

theorem bar0Ok_zero_of_stgMask (a : Nat) (h : stgMask a ≠ 0) : bar0Ok 0 a = true := by
  obtain ⟨u, o, e, -⟩ := stgMask_space a h
  rw [bar0Ok_of_umber a u o 0 e, decide_eq_true rfl, Bool.true_or]

/-- A word with STG fields has no others. -/
theorem masks_of_stgOffset (a : Nat) (u : UmberId) (o : Nat) (e : regSpace a = .umber u o) (h : stgOffset o) :
    rwMask a = 0 ∧ w1cMask a = 0 := by
  obtain ⟨h1, h2, -, -, -, -, -, -, -, h3⟩ := h
  constructor
  · have h4 : o ≠ 0x50 := by omega
    have h5 : rwCommon o = 0 := Decidable.byContradiction fun hc => by
      have ho := rwCommon_offset o hc
      omega
    simp [rwMask, e, h4, h5]
  · have h4 : o ≠ 0x2014 := by omega
    have h5 : o ≠ 0x400C := by omega
    simp [w1cMask, e, h3, h4, h5]

/-- The doorbell pages of queue pairs lie above the registers (14 R292). -/
theorem qpPage_below (u : UmberId) (o : Nat) (h : o < 0x600000) : qpPage u o = none := by
  unfold qpPage
  rw [if_neg (by omega)]

/-! ### What a write of one word does -/

/-- A write narrower than 4 bytes or not aligned to its size does nothing (00 R6). -/
theorem mmioWrite_narrow_or_misaligned (s : State) (cid : Cid) (a : Nat) (bs : List Byte) (ha : a < mgmtBar)
    (h : bs.length < 4 ∨ a % bs.length ≠ 0) : s.mmioWrite cid a bs = s := by
  unfold State.mmioWrite
  simp only [regAlias_below a ha]
  rw [if_pos (by simpa using h)]

/-- An aligned 32-bit write is a write of that word. -/
theorem mmioWrite_word (s : State) (cid : Cid) (a : Nat) (v : Word) (ha : a < mgmtBar) (h : a % 4 = 0) :
    s.mmioWrite cid a (leBytes 4 v.toNat) = s.writeReg cid a v := by
  simp [State.mmioWrite, regAlias_below a ha, h]

/-- No W1C field of a word is cleared where it has none. -/
theorem and_fullWord (x : Word) : x &&& 0xFFFFFFFF#32 = x := BitVec.and_allOnes

/-- A write to a word of RW fields alone gives those fields their new value; the debug selector, which debug must unlock first (17 R360),
and PMC_CTL, whose CLEAR acts on the counters, are not such words. -/
theorem writeReg_rw (s : State) (cid : Cid) (a : Nat) (v : Word) (hrw : rwMask a ≠ 0) (hstg : stgMask a = 0) (hw1c : w1cMask a = 0)
    (hl : heldWide a = false) (hh : heldWide (a - 4) = false) (hpmc : ∀ d : Fin 6, a ≠ dieBar d.val + 0x3100)
    (hdbg : ∀ d : DieId, a ≠ ochreBar d.val + 0x28) :
    s.writeReg cid a v = s.setReg a (merge (s.reg a) (rwMask a) v) := by
  obtain ⟨d, o, e, ho⟩ | ⟨u, o, e, ho⟩ := rwMask_space a hrw
  · obtain ⟨ha, -⟩ := (regSpace_ochre_iff a d o).mp e
    have h28 : o ≠ 0x28 := fun h => hdbg d (h ▸ ha)
    have h3100 : o ≠ 0x3100 := by
      intro h
      have hd := d.isLt
      refine hpmc ⟨d.val, by omega⟩ ?_
      rw [ha, h, dieBar, if_pos hd]
    have h20 : o ≠ 0x20 := by omega
    have h24 : o ≠ 0x24 := by omega
    have h1014 : o ≠ 0x1014 := by omega
    have hring : ¬ 0x100000 ≤ o := by omega
    simp [State.writeReg, hl, hh, e, hw1c, h28, h3100, h20, h24, h1014, hring, and_fullWord]
  · obtain ⟨ha, -⟩ := (regSpace_umber_iff a u o).mp e
    have h3100 : o ≠ 0x3100 := by
      intro h
      have hu := u.isLt
      refine hpmc ⟨4 + u.val, by omega⟩ ?_
      rw [ha, h, dieBar, if_neg (by simp), Nat.add_sub_cancel_left]
    have hrw' : ¬ rwMask a = 0#32 := hrw
    simp [State.writeReg, hl, hh, e, qpPage_below u o (by omega), hstg, hw1c, hrw', h3100, and_fullWord]

/-- A retraining changes the package links alone. -/
theorem State.startRetrain_only (s : State) (l : Nat) : ∃ x, s.startRetrain l = { s with links := x } := by
  unfold State.startRetrain
  dsimp only
  split
  · exact ⟨_, rfl⟩
  · exact ⟨_, rfl⟩

/-- Beside its staging, a word with STG fields can at most retrain a package link (PLINK_CTL, 15 R326). -/
theorem writeUmber_stg_only (s : State) (u : UmberId) (o : Nat) (v : Word) (h : stgOffset o) :
    ∃ x, s.writeUmber u o v = { s with links := x } := by
  obtain ⟨h1, h2, h3, h4, h5, h6, h7, h8, h9, -⟩ := h
  unfold State.writeUmber
  simp only [Bool.and_eq_true, decide_eq_true_eq]
  -- the words of both platform functions, none of them at an offset with STG fields
  iterate 8 rw [if_neg (by omega)]
  by_cases hu : u = 0
  · rw [if_neg (not_not_intro hu)]
    -- the words of U0 alone before PLINK_CTL
    iterate 10 rw [if_neg (by omega)]
    split
    · exact State.startRetrain_only s _
    · exact ⟨s.links, rfl⟩
  · rw [if_pos hu]
    exact ⟨s.links, rfl⟩

/-- A write to a word with STG fields stages them and changes nothing else but the package links (00 R7, R8). -/
theorem writeReg_stg (s : State) (cid : Cid) (a : Nat) (v : Word) (hstg : stgMask a ≠ 0) (hl : heldWide a = false)
    (hh : heldWide (a - 4) = false) : ∃ x, s.writeReg cid a v = { s.stage a (stgMask a) v with links := x } := by
  obtain ⟨u, o, e, ho⟩ := stgMask_space a hstg
  obtain ⟨hrw, hw1c⟩ := masks_of_stgOffset a u o e ho
  obtain ⟨x, hx⟩ := writeUmber_stg_only (s.stage a (stgMask a) v) u o v ho
  have hpage : qpPage u o = none := qpPage_below u o (by have := ho.2.1; omega)
  refine ⟨x, ?_⟩
  rw [← hx]
  have hstg' : ¬ stgMask a = 0#32 := hstg
  simp [State.writeReg, hl, hh, e, hpage, hstg', hrw, hw1c]

/-- What staging a word leaves in the shadow. -/
theorem State.stage_shadowOf (s : State) (a b : Nat) (mask v : Word) :
    (s.stage a mask v).shadowOf b = if b = a then (s.shadowOf a &&& ~~~mask) ||| (v &&& mask) else s.shadowOf b :=
  State.setShadow_shadowOf s a b _

/-- The low half of a held 64-bit register waits (21 R404). -/
theorem writeReg_low (s : State) (cid : Cid) (a : Nat) (v : Word) (h : heldWide a = true) : s.writeReg cid a v = s.hold a v := by
  unfold State.writeReg
  rw [if_pos h]

/-- The high half of a held 64-bit register takes both halves into effect, and nothing stays held (21 R404). -/
theorem writeReg_high (s : State) (cid : Cid) (a : Nat) (v : Word) (h : heldWide (a + 4) = false) (hl : heldWide a = true) :
    s.writeReg cid (a + 4) v = (s.writeWide a (v ++ s.lowHalf a (s.lowNow a))).unhold a := by
  unfold State.writeReg
  rw [if_neg (by simp [h]), if_pos (by simp [hl]), Nat.add_sub_cancel]

/-- The low half that a write has left waiting is the one that the high half joins. -/
theorem lowHalf_of_held (s : State) (a : Nat) (lo now : Word) (h : tabFind s.held a = some lo) : s.lowHalf a now = lo := by
  simp [State.lowHalf, h]

@[simp] theorem State.unhold_reg64 (s : State) (a b : Nat) : (s.unhold a).reg64 b = s.reg64 b := rfl

@[simp] theorem State.unhold_held (s : State) (a : Nat) : (s.unhold a).held = tabErase s.held a := rfl

/-- The 32-bit halves of a 64-bit word, joined. -/
theorem ofNat_halves_append (v : DWord) : BitVec.ofNat 32 (v.toNat / 2 ^ 32) ++ BitVec.ofNat 32 v.toNat = v := by
  have hv := v.isLt
  apply BitVec.eq_of_toNat_eq
  rw [BitVec.toNat_append, BitVec.toNat_ofNat, BitVec.toNat_ofNat, ← Nat.shiftLeft_add_eq_or_of_lt (Nat.mod_lt _ (by decide)),
    Nat.shiftLeft_eq]
  omega

/-- Address of the low half of FC_APPLY_TIME (19 R382). -/
def fcApplyTime : Nat := umberBar 0 + 0x1008

/-- FC_APPLY_TIME takes both halves as they are written. -/
theorem writeWide_fcApplyTime (s : State) (v : DWord) : (s.writeWide fcApplyTime v).reg64 fcApplyTime = v := by
  have e : regSpace fcApplyTime = .umber 0 0x1008 := by decide +kernel
  have hw : s.writeWide fcApplyTime v =
      (s.setReg fcApplyTime (BitVec.ofNat 32 v.toNat)).setReg (fcApplyTime + 4) (BitVec.ofNat 32 (v.toNat / 2 ^ 32)) := by
    simp [State.writeWide, e]
  rw [hw, State.reg64, State.setReg_reg, if_pos rfl, State.setReg_reg, if_neg (by omega), State.setReg_reg, if_pos rfl]
  exact ofNat_halves_append v

/-- A read of a low half leaves the high half latched as it stands (21 R404). -/
theorem mmioRead_low (s : State) (a : Nat) (h : isLow a = true) (ha : a % 4 = 0) :
    (s.mmioRead a 4).1 = { s with latch := tabPut s.latch a (s.readReg (a + 4)) } := by
  simp [State.mmioRead, regAlias_of_isLow a h, ha, State.readLatched, h]

/-! ### The commands -/

section
variable (s : State) (hup : s.phase = .up)
include hup

theorem exec_registerWrite (cid : Cid) (a : DWord) (data : List Byte) :
    exec (.registerWrite cid a data) s = .next (s.keepInputs (effRegisterWrite cid a data s)) := live_up s _ hup

theorem exec_stagedWrite (cid : Cid) (a : DWord) (data : List Byte) :
    exec (.stagedWrite cid a data) s = .next (s.keepInputs (effStagedWrite cid a data s)) := live_up s _ hup

theorem exec_lowHalfReadLatch (cid : Cid) (a : DWord) (n : Nat) :
    exec (.lowHalfReadLatch cid a n) s = .next (s.keepInputs (effLowHalfReadLatch cid a n s)) := live_up s _ hup

theorem exec_lowHalfWriteHold (cid : Cid) (a : DWord) (v : Word) :
    exec (.lowHalfWriteHold cid a v) s = .next (s.keepInputs (effLowHalfWriteHold cid a v s)) := live_up s _ hup

theorem exec_highHalfWrite (cid : Cid) (a : DWord) (v : Word) :
    exec (.highHalfWrite cid a v) s = .next (s.keepInputs (effHighHalfWrite cid a v s)) := live_up s _ hup

theorem exec_registerWrite_narrow_or_misaligned (cid : Cid) (a : DWord) (data : List Byte) (ha : a.toNat < mgmtBar)
    (h : data.length < 4 ∨ a.toNat % data.length ≠ 0) : exec (.registerWrite cid a data) s = .next s := by
  have heff : effRegisterWrite cid a data s = s := by
    simp only [effRegisterWrite, mmioWrite_narrow_or_misaligned s cid a.toNat data ha h, ite_self]
  rw [exec_registerWrite s hup, heff, keepInputs_self]

/-- A CID that does not reach the address does nothing there by any of the register commands (21 R403). -/
theorem exec_register_refused (cid : Cid) (a : DWord) (data : List Byte) (h : bar0Ok cid a.toNat = false) :
    exec (.registerWrite cid a data) s = .next s ∧ exec (.stagedWrite cid a data) s = .next s ∧
      (∀ n, exec (.lowHalfReadLatch cid a n) s = .next s) ∧
      ∀ v, exec (.lowHalfWriteHold cid a v) s = .next s ∧ exec (.highHalfWrite cid a v) s = .next s := by
  refine ⟨?_, ?_, fun n => ?_, fun v => ⟨?_, ?_⟩⟩
  · simp [exec_registerWrite s hup, effRegisterWrite, h]
  · simp [exec_stagedWrite s hup, effStagedWrite, h]
  · simp [exec_lowHalfReadLatch s hup, effLowHalfReadLatch, h]
  · simp [exec_lowHalfWriteHold s hup, effLowHalfWriteHold, h]
  · simp [exec_highHalfWrite s hup, effHighHalfWrite, h]

theorem exec_registerWrite_rw (cid : Cid) (a : DWord) (v : Word) (hok : bar0Ok cid a.toNat = true) (hal : a.toNat % 4 = 0)
    (hrw : rwMask a.toNat ≠ 0) (hstg : stgMask a.toNat = 0) (hw1c : w1cMask a.toNat = 0) (hl : heldWide a.toNat = false)
    (hh : heldWide (a.toNat - 4) = false) (hpmc : ∀ d : Fin 6, a.toNat ≠ dieBar d.val + 0x3100)
    (hdbg : ∀ d : DieId, a.toNat ≠ ochreBar d.val + 0x28) :
    exec (.registerWrite cid a (leBytes 4 v.toNat)) s =
      .next (s.keepInputs (s.setReg a.toNat (merge (s.reg a.toNat) (rwMask a.toNat) v))) := by
  rw [exec_registerWrite s hup, effRegisterWrite, if_pos hok, mmioWrite_word s cid _ v (lt_mgmtBar_of_rwMask _ hrw) hal,
    writeReg_rw s cid _ v hrw hstg hw1c hl hh hpmc hdbg]

theorem exec_stagedWrite_word (cid : Cid) (a : DWord) (v : Word) (hok : bar0Ok cid a.toNat = true) (hal : a.toNat % 4 = 0)
    (hstg : stgMask a.toNat ≠ 0) (hl : heldWide a.toNat = false) (hh : heldWide (a.toNat - 4) = false) :
    ∃ x, exec (.stagedWrite cid a (leBytes 4 v.toNat)) s =
      .next (s.keepInputs { s.stage a.toNat (stgMask a.toNat) v with links := x }) := by
  obtain ⟨u, o, e, -⟩ := stgMask_space a.toNat hstg
  obtain ⟨x, hx⟩ := writeReg_stg s cid a.toNat v hstg hl hh
  have hcond : (bar0Ok cid a.toNat && (wordsIn a.toNat (leBytes 4 v.toNat).length).any fun w => stgMask w ≠ 0) = true := by
    have hstg' : ¬ stgMask a.toNat = 0#32 := hstg
    simp [hok, wordsIn, List.range_succ, hstg']
  refine ⟨x, ?_⟩
  rw [exec_stagedWrite s hup, effStagedWrite, if_pos hcond, mmioWrite_word s cid _ v (lt_mgmtBar_of_umber _ u o e) hal, hx]

theorem exec_lowHalfReadLatch_word (cid : Cid) (a : DWord) (hok : bar0Ok cid a.toNat = true) (hal : a.toNat % 4 = 0)
    (hlow : isLow a.toNat = true) :
    exec (.lowHalfReadLatch cid a 4) s =
      .next (s.keepInputs { s with latch := tabPut s.latch a.toNat (s.readReg (a.toNat + 4)) }) := by
  have haligned : a.toNat / 4 * 4 = a.toNat := by omega
  rw [exec_lowHalfReadLatch s hup, ← mmioRead_low s a.toNat hlow hal, effLowHalfReadLatch]
  simp [regAlias_of_isLow _ hlow, haligned, hlow, hok]

theorem exec_lowHalfWriteHold_word (cid : Cid) (a : DWord) (v : Word) (hok : bar0Ok cid a.toNat = true) (hal : a.toNat % 4 = 0)
    (hlow : isLow a.toNat = true) (hheld : heldWide a.toNat = true) :
    exec (.lowHalfWriteHold cid a v) s = .next (s.keepInputs (s.hold a.toNat v)) := by
  rw [exec_lowHalfWriteHold s hup, ← writeReg_low s cid a.toNat v hheld, effLowHalfWriteHold]
  simp [regAlias_of_isLow _ hlow, hlow, hok, hal]

theorem exec_highHalfWrite_word (cid : Cid) (b : DWord) (a : Nat) (v : Word) (hb : b.toNat = a + 4) (hok : bar0Ok cid (a + 4) = true)
    (hal : a % 4 = 0) (hlow : isLow a = true) (hheld : heldWide a = true) (hhigh : heldWide (a + 4) = false)
    (hbelow : a + 4 < mgmtBar) :
    exec (.highHalfWrite cid b v) s =
      .next (s.keepInputs ((s.writeWide a (v ++ s.lowHalf a (s.lowNow a))).unhold a)) := by
  rw [exec_highHalfWrite s hup, ← writeReg_high s cid a v hhigh hheld, effHighHalfWrite]
  simp [hb, regAlias_below _ hbelow, hlow, hok, hal]

/-- FC_APPLY_TIME: the low half waits and changes nothing in force, the high half takes both into effect (19 R382, 21 R404). -/
theorem exec_fcApplyTime_halves (a b : DWord) (lo hi : Word) (ha : a.toNat = fcApplyTime) (hb : b.toNat = fcApplyTime + 4) :
    ∃ t, exec (.lowHalfWriteHold 0 a lo) s = .next t ∧ t.regs = s.regs ∧ tabFind t.held a.toNat = some lo ∧
      ∃ u, exec (.highHalfWrite 0 b hi) t = .next u ∧ u.reg64 a.toNat = hi ++ lo ∧ tabFind u.held a.toNat = none := by
  have hlow : isLow fcApplyTime = true := by decide +kernel
  have hheld : heldWide fcApplyTime = true := by decide +kernel
  have hlo := exec_lowHalfWriteHold_word s hup 0 a lo (by rw [ha]; decide +kernel) (by rw [ha]; decide +kernel) (by rw [ha]; exact hlow)
    (by rw [ha]; exact hheld)
  rw [ha] at hlo ⊢
  have hfind : tabFind (s.keepInputs (s.hold fcApplyTime lo)).held fcApplyTime = some lo := by
    simp [State.hold, tabFind_put]
  refine ⟨_, hlo, rfl, hfind, _, exec_highHalfWrite_word _ (by simpa using hup) 0 b fcApplyTime hi hb (by decide +kernel)
    (by decide +kernel) hlow hheld (by decide +kernel) (by decide +kernel), ?_, ?_⟩
  · simp only [keepInputs_parts, State.unhold_reg64, lowHalf_of_held _ _ lo _ hfind, writeWide_fcApplyTime]
  · simp only [keepInputs_fields, State.unhold_held, tabFind_erase_self]

end

/-- Settles O55: each clause is the rule of its command above, read off the state that the rule names. -/
theorem registerAccessRules : Obligations.RegisterAccessRules := by
  unfold Obligations.RegisterAccessRules
  refine ⟨?_, ?_, ?_, ?_, ?_, ?_, ?_⟩
  · intro s cid a data hup ha
    exact ⟨exec_registerWrite_narrow_or_misaligned s hup cid a data ha, exec_register_refused s hup cid a data⟩
  · intro d off cid hcid hoff
    exact bar0Ok_ochre_refused d off cid hcid hoff
  · intro u off cid hcid hoff
    exact bar0Ok_umber_refused u off cid hcid hoff
  · intro s a v hup hal hrw hstg hw1c hl hh hpmc hdbg
    refine ⟨_, exec_registerWrite_rw s hup 0 a v (bar0Ok_zero_of_rwMask _ hrw) hal hrw hstg hw1c hl hh hpmc hdbg, ?_, ?_, rfl, rfl⟩
    · simp
    · intro b hb
      simp [hb]
  · intro s a v hup hal hstg hl hh
    obtain ⟨x, hx⟩ := exec_stagedWrite_word s hup 0 a v (bar0Ok_zero_of_stgMask _ hstg) hal hstg hl hh
    refine ⟨_, hx, rfl, rfl, rfl, ?_, fun b hb => ?_⟩
    · exact (State.stage_shadowOf s a.toNat a.toNat _ v).trans (if_pos rfl)
    · exact (State.stage_shadowOf s a.toNat b _ v).trans (if_neg hb)
  · intro s a hup hal hlow hok
    refine ⟨_, exec_lowHalfReadLatch_word s hup 0 a hok hal hlow, rfl, ?_⟩
    simp [tabFind_put]
  · intro s a b lo hi hup ha hb
    exact exec_fcApplyTime_halves s hup a b lo hi ha hb

end Sys2Proof.Machine
end

section
/-! Proofs of spec/05_cell.md: the life of a work item (R90, R95, R98, R104). -/

namespace Sys2Proof.Machine


/-! ### What a command of a cell answers -/

/-- An effect on the parts of the state that no command's queue or pin belongs to is the outcome as it stands. -/
@[simp] theorem keepInputs_setCell (s : State) (g : Nat) (x : Cell) : s.keepInputs (s.setCell g x) = s.setCell g x := rfl

@[simp] theorem keepInputs_endItem (s : State) (g : Nat) (st : Status) : s.keepInputs (s.endItem g st) = s.endItem g st :=
  keepInputs_eq s _ (by simp) (by simp) (by simp)

@[simp] theorem keepInputs_retire (s : State) (g rd n : Nat) (v : DWord) : s.keepInputs (s.retire g rd v n) = s.retire g rd v n := rfl

/-! ### Work items (05 R90, R95, R98, R104) -/

/-- The command that hands out an item is in progress under its ring and sequence. -/
theorem State.cmd_of_handsOut (s : State) (r : Nat) (q : Word) (c : Cmd) (h : s.handsOut r q = some c) : s.cmd r q = some c := by
  unfold State.handsOut at h
  split at h
  next d hd =>
    split at h
    · rw [hd, h]
    · cases h
  next => cases h

/-- Cell memory of a cell that takes an item of another CID than its last. -/
theorem Cell.receive_mem (x : Cell) (cid : Cid) (h : x.lastCid ≠ some cid) : (x.receive cid).mem = [] := by
  unfold Cell.receive
  rw [if_neg h]
  rfl

/-- The job that a command's next item is to the cell that it goes to. -/
def Cmd.nextJob (c : Cmd) : Job :=
  { ring := c.ring, seq := c.seq, index := c.next, kind := if c.opcode = 3 then .piece else .item, cid := c.cid, ended := none }

/-- Dispatch: one idle cell holds the item, and the command goes on to its next. -/
theorem effDispatchWorkItem_hands (s : State) (r : RingId) (seq : Word) (c : Cmd) (g : Nat) (h : s.handsOut r seq = some c)
    (hop : c.opcode ≠ 2) (hg : ((s.cellSet c).find? fun g => (s.cell g).idle) = some g) :
    ∃ x : Cell, x.job = some c.nextJob ∧ (c.opcode ≠ 3 → (s.cell g).lastCid ≠ some c.cid → x.mem = []) ∧
      effDispatchWorkItem r seq s = (s.setCell g x).setCmd { c with next := c.next + 1 } := by
  unfold effDispatchWorkItem
  simp only [h, if_neg hop, hg]
  refine ⟨_, ?_, fun hp hcid => ?_, rfl⟩
  · simp [Cmd.nextJob]
  · simp [hp, Cell.receive_mem _ _ hcid]

/-- A core that has written no register reads 0 in each. -/
theorem ControlCore.get_of_x_nil (k : ControlCore) (r : Nat) (h : k.x = []) : k.get r = 0 := by
  unfold ControlCore.get
  rw [h]
  split <;> rfl

/-- R90: the registers that a work item starts with. -/
theorem startCore_get (c : Cmd) (g i : Nat) (now : DWord) (r : Nat) :
    (startCore c g i now).get r =
      if r = 10 then BitVec.ofNat 64 i else if r = 11 then c.arg else if r = 12 then BitVec.ofNat 64 g
      else if r = 13 then 0xFFFFFFFFFFE00000
      else if r = 2 then BitVec.ofNat 64 (0xFFFFFFFFFFE00000 + (2097152 - c.partition.l1 - c.partition.bl)) else 0 := by
  unfold startCore
  simp only [ControlCore.get_set, cellWindow, cellBytes]
  by_cases h10 : r = 10
  · simp [h10]
  by_cases h11 : r = 11
  · simp [h11]
  by_cases h12 : r = 12
  · simp [h12]
  by_cases h13 : r = 13
  · simp [h13]
  by_cases h2 : r = 2
  · simp [h2]
  simpa [h10, h11, h12, h13, h2] using ControlCore.get_of_x_nil _ r rfl

@[simp] theorem startCore_pc (c : Cmd) (g i : Nat) (now : DWord) : (startCore c g i now).pc = c.entry := by
  simp [startCore]

@[simp] theorem startCore_wait (c : Cmd) (g i : Nat) (now : DWord) : (startCore c g i now).wait = .running := by
  simp [startCore]

/-- The start of an item that keeps every byte of the first-level cache (05 R90, R97, R98). -/
theorem effWorkItemStart_item (s : State) (g : CellId) (j : Job) (c : Cmd) (hj : (s.cell g).job = some j) (he : j.ended = none)
    (hk : j.kind = .item) (hw : (s.cell g).core.wait = .zeroing) (hc : s.cmd j.ring j.seq = some c)
    (hl1 : (s.cell g).part.l1 ≤ c.partition.l1) :
    effWorkItemStart g s =
      (s.setCell g { s.cell g with part := c.partition }).setCell g
        { ({ s.cell g with part := c.partition } : Cell).newTickets with
          core := { startCore c g j.index s.time with fenced := s.older.length }, kernel := none } := by
  unfold effWorkItemStart
  simp [hj, hw, he, hk, hc, State.repartition_keeps s g c.partition hl1]

/-- The time limit of a started item (05 R95, R96). -/
theorem effWorkItemTimeout_item (s : State) (g : CellId) (j : Job) (hj : (s.cell g).job = some j)
    (hz : (s.cell g).core.wait ≠ .zeroing) (hh : (s.cell g).core.wait ≠ .halted) :
    effWorkItemTimeout g j.index s = s.endItem g stTimeout := by
  unfold effWorkItemTimeout
  simp [hj, hz, hh]

/-- The end of an item frees its cell, and its command learns of it (05 R104). -/
theorem effWorkItemEnd_item (s : State) (g : CellId) (j : Job) (st : Status) (hj : (s.cell g).job = some j) (he : j.ended = some st) :
    ∃ x : Cell, x.job = none ∧ effWorkItemEnd g j.index s = (s.setCell g x).itemDone j.ring j.seq j.index st := by
  unfold effWorkItemEnd
  simp only [hj, he, if_true]
  refine ⟨_, ?_, rfl⟩
  rfl

/-- Settles O2: each clause is what its command does to one cell and one command. -/
theorem workItemLifecycle : Obligations.WorkItemLifecycle := by
  unfold Obligations.WorkItemLifecycle
  refine ⟨?_, ?_, ?_, ?_⟩
  · intro s r seq c g hup hout hop hg
    obtain ⟨x, hjob, hmem, heff⟩ := effDispatchWorkItem_hands s r seq c g hout hop hg
    refine ⟨_, live_up s _ hup, ?_⟩
    rw [heff]
    have hcmd := State.cmd_of_handsOut s r seq c hout
    obtain ⟨hr, hq⟩ := State.cmd_some s r seq c hcmd
    refine ⟨by simp, fun h hne => by simp [hne], by simp [hjob, Cmd.nextJob], fun hp hcid a => ?_, { c with next := c.next + 1 }, ?_, rfl⟩
    · simp [hmem hp hcid, tabGet, zeroByte]
    · exact State.setCmd_cmd (s.setCell g x) r seq c _ (by simpa using hcmd) hr hq
  · intro s g j c hup hj he hk hw hc hl1
    refine ⟨_, live_up s _ hup, ?_⟩
    rw [effWorkItemStart_item s g j c hj he hk hw hc hl1]
    refine ⟨fun h hne => by simp [hne], by simp, by simp, by simp, by simp [Cell.newTickets], fun r => ?_, fun e => ?_⟩
    · rw [← startCore_get c g j.index s.time r]
      simp [ControlCore.get]
    · cases e <;> simp [Cell.tickets, Cell.newTickets, StreamEngine.reset]
  · intro s g j hup hj he hz hh
    refine ⟨_, live_up s _ hup, ?_⟩
    rw [effWorkItemTimeout_item s g j hj hz hh]
    exact ⟨by simpa using State.endItem_job s g j stTimeout hj he, by simp⟩
  · intro s g j st hup hj he
    obtain ⟨x, hx, heff⟩ := effWorkItemEnd_item s g j st hj he
    refine ⟨_, live_up s _ hup, ?_⟩
    rw [heff]
    refine ⟨by simp [hx], by simp, fun c hc => ?_⟩
    have hids := Cmd.noteEnd_ids c.soe c j.index st
    simpa using State.itemDone_cmd (s.setCell g x) j.ring j.seq j.index st c (by simpa using hc) hids.1 hids.2

end Sys2Proof.Machine
end

section
/-! Proofs of spec/05_cell.md: how the instructions of a control core retire, trap and halt (R88, R91, R95, R96). -/

namespace Sys2Proof.Machine

/-! ### Instructions of a control core (05 R88, R91, R95, R96) -/

/-- An instruction of a core that runs an item answers what its effect on the cell and the item is. -/
theorem live_onCore (s : State) (g : Nat) (j : Job) (hup : s.phase = .up) (h : s.coreRuns g j) (eff : State → State)
    (f : Cell → Job → State) (heff : eff s = s.onCore g f) : s.live eff = .next (s.keepInputs (f (s.cell g) j)) := by
  rw [live_up s eff hup, heff, State.onCore_runs s g j f h]

section
variable (s : State) (g : CellId) (j : Job) (hup : s.phase = .up) (h : s.coreRuns g j)
include hup h

/-- FENCE.I (05 R430). -/
theorem exec_fenceI : exec (.fenceI g) s = .next
    ((s.setCell g { s.cell g with core := { (s.cell g).core with fenced := s.older.length } }).retire g 0 0) := by
  refine (live_onCore s g j hup h (effFenceI g) _ rfl).trans ?_
  rfl

/-- The word that a core is to run, by its kind (05 R88, R91, R95, R431). -/
theorem exec_illegalInstruction (w : Word) :
    (coreWordKind g w = .illegal → exec (.illegalInstruction ⟨g, w⟩) s = .next (s.endItem g stFormat)) ∧
    (coreWordKind g w = .ownRow → exec (.illegalInstruction ⟨g, w⟩) s = .next s) ∧
    (∀ (rd : Reg) (k : Zicntr), coreWordKind g w = .counter rd k →
      exec (.illegalInstruction ⟨g, w⟩) s = .next (s.retire g rd (s.zicntr g k))) ∧
    ∀ (i : RvInstr) (n : Nat), coreWordKind g w = .plain i n →
      exec (.illegalInstruction ⟨g, w⟩) s = .next (s.setCell g { s.cell g with core := (s.cell g).core.run i n }) := by
  have heff : exec (.illegalInstruction ⟨g, w⟩) s = _ := live_onCore s g j hup h (effIllegalInstruction g w) _ rfl
  refine ⟨fun hk => ?_, fun hk => ?_, fun rd k hk => ?_, fun i n hk => ?_⟩
  all_goals simp [heff, hk]

/-- EBREAK without a debug unlock (05 R96, R433). -/
theorem exec_ebreak_locked (z : Bool) (hl : s.unlocked 1 = false) : exec (.ebreak g z) s = .next (s.endItem g stFormat) := by
  refine (live_onCore s g j hup h (effEbreak g z) _ rfl).trans ?_
  simp [hl]

/-- EBREAK under a debug unlock halts the core and shows it in DBG_HALT (05 R96). -/
theorem exec_ebreak_unlocked (z : Bool) (hl : s.unlocked 1 = true) : exec (.ebreak g z) s = .next
    ((s.setCell g { s.cell g with core := { (s.cell g).core with pc := (s.cell g).core.pc + (if z then 2 else 4), wait := .halted } }).setOchre
      (g.val / 64) { s.ochre (g.val / 64) with dbgHalt := (s.ochre (g.val / 64)).dbgHalt ||| ((1 : DWord) <<< (g.val % 64)) }) := by
  refine (live_onCore s g j hup h (effEbreak g z) _ rfl).trans ?_
  simp only [hl, if_true, State.setCell_parts]
  rfl

end

/-- What a core is after an instruction on its registers and pc (05 R88, R431). -/
theorem ControlCore.run_spec (k : ControlCore) (i : RvInstr) (n : Nat) :
    (k.run i n).instret = k.instret + 1 ∧ (k.run i n).pc = (i.eval k n).2.2 ∧
    ∀ r : Nat, r ≠ 0 → (k.run i n).get r = if r = (i.eval k n).1 then (i.eval k n).2.1 else k.get r := by
  refine ⟨rfl, rfl, fun r hr => ?_⟩
  refine (ControlCore.get_set k (i.eval k n).1 r (i.eval k n).2.1).trans ?_
  by_cases h : r = (i.eval k n).1
  · simp [← h, hr]
  · simp [h]

/-! ### Debug registers (05 R96) -/

/-- A fold whose step acts at one member of the list alone. -/
theorem foldl_acts_once {α β : Type} (f : β → α → β) (l : List α) (a : α) (b : β) (hl : l.Nodup) (ha : a ∈ l)
    (hf : ∀ b x, x ≠ a → f b x = b) : l.foldl f b = f b a := by
  have hskip : ∀ (l : List α) (b : β), a ∉ l → l.foldl f b = b := by
    intro l
    induction l with
    | nil => exact fun _ _ => rfl
    | cons x l ih =>
      intro b hx
      rw [List.foldl_cons, hf b x fun e => hx (e ▸ List.mem_cons_self), ih b fun hm => hx (List.mem_cons_of_mem x hm)]
  induction l with
  | nil => cases ha
  | cons x l ih =>
    obtain ⟨hx, hl⟩ := List.nodup_cons.mp hl
    rcases List.mem_cons.mp ha with rfl | ha
    · exact hskip l _ hx
    · rw [List.foldl_cons, hf b x fun e => hx (e ▸ ha), ih hl ha]

theorem getLsbD_one_shiftLeft (n m : Nat) (hn : n < 64) : ((1 : DWord) <<< n).getLsbD m = decide (n = m) :=
  (BitVec.getLsbD_twoPow n m).trans (by simp [hn])

/-- The halt bit of a core whose halt has been cleared (05 R96). -/
theorem State.clearHalt_bit (s : State) (g : Nat) : ((s.clearHalt g).ochre (g / 64)).dbgHalt.getLsbD (g % 64) = false := by
  have hbit : BitVec.getLsbD ((1 <<< (g % 64) : Nat) : DWord) (g % 64) = true := by
    have hg : g % 64 < 64 := Nat.mod_lt g (by decide)
    refine (BitVec.getLsbD_ofNat 64 _ _).trans ?_
    simp [hg, Nat.one_shiftLeft]
  rw [State.clearHalt_ochre, if_pos rfl]
  simp only [BitVec.getLsbD_and, BitVec.getLsbD_not, hbit, Bool.not_true, Bool.and_false]

/-- DBG_RESUME with one bit set makes that halted core run (05 R96). -/
theorem effDbgResume_one (s : State) (d : DieId) (n : Fin 64) (hl : s.unlocked 1 = true)
    (hw : (s.cell (64 * d.val + n.val)).core.wait = .halted) :
    effDbgResume d ((1 : DWord) <<< n.val) s = (s.setCell (64 * d.val + n.val) { s.cell (64 * d.val + n.val) with
      core := { (s.cell (64 * d.val + n.val)).core with wait := .running } }).clearHalt (64 * d.val + n.val) := by
  unfold effDbgResume
  rw [if_neg (by simp [hl]), foldl_acts_once _ _ n.val _ List.nodup_range (List.mem_range.mpr n.isLt)]
  · simp only [getLsbD_one_shiftLeft _ _ n.isLt, hw, ControlCore.isHalted, decide_true, Bool.and_self, if_true]
  · intro b m hm
    simp only [getLsbD_one_shiftLeft _ _ n.isLt, decide_eq_false (Ne.symm hm), Bool.false_and, Bool.false_eq_true, if_false]

section
variable (s : State) (d : DieId) (hup : s.phase = .up)
include hup

theorem exec_dbgResume (m : DWord) : exec (.dbgResume d m) s = .next (s.keepInputs (effDbgResume d m s)) := live_up s _ hup

theorem exec_dbgDataWrite (v : DWord) : exec (.dbgDataWrite d v) s = .next (s.keepInputs (effDbgDataWrite d v s)) := live_up s _ hup

/-- Without a debug unlock the debug registers change nothing (05 R96, 17 R361). -/
theorem exec_debug_locked (m v : DWord) (hl : s.unlocked 1 = false) :
    exec (.dbgResume d m) s = .next s ∧ exec (.dbgDataWrite d v) s = .next s := by
  rw [exec_dbgResume s d hup, exec_dbgDataWrite s d hup]
  simp [effDbgResume, effDbgDataWrite, hl]

/-- DBG_DATA of a halted core writes its selected register, or its pc (05 R96). -/
theorem exec_dbgDataWrite_halted (v : DWord) (hl : s.unlocked 1 = true) (hw : (s.cell (s.dbgCell d)).core.wait = .halted) :
    (s.dbgReg d < 32 → exec (.dbgDataWrite d v) s = .next (s.setCell (s.dbgCell d)
      { s.cell (s.dbgCell d) with core := (s.cell (s.dbgCell d)).core.set (s.dbgReg d) v })) ∧
    (s.dbgReg d = 32 → exec (.dbgDataWrite d v) s = .next (s.setCell (s.dbgCell d)
      { s.cell (s.dbgCell d) with core := { (s.cell (s.dbgCell d)).core with pc := v } })) := by
  rw [exec_dbgDataWrite s d hup]
  constructor
  · intro hr
    simp [effDbgDataWrite, hl, hw, ControlCore.isHalted, hr]
  · intro hr
    simp [effDbgDataWrite, hl, hw, ControlCore.isHalted, hr]

end

/-- Settles O3: the rules of retirement, of each kind of word, of EBREAK and of the debug registers above. -/
theorem coresRetireTrapAndHalt : Obligations.CoresRetireTrapAndHalt := by
  unfold Obligations.CoresRetireTrapAndHalt
  refine ⟨fun k rd n v => ⟨fun r => ?_, by simp, by simp, by simp⟩, fun s g j hup h => ⟨?_, fun w => ?_, ?_, ?_⟩, fun s d v m hup => ⟨?_, ?_, ?_⟩⟩
  · rw [ControlCore.get_retire]
    by_cases hr : r = 0
    · subst hr
      simp only [ControlCore.get_zero, if_true, ite_eq_right_iff]
      exact fun e => absurd e.1.symm e.2
    · by_cases hrd : r = rd
      · simp [hr, ← hrd]
      · simp [hr, hrd]
  · exact ⟨_, exec_fenceI s g j hup h, by simp, by simp⟩
  · obtain ⟨hillegal, hown, hcounter, hplain⟩ := exec_illegalInstruction s g j hup h w
    exact ⟨hillegal, hown, hcounter, fun i n hk => ⟨hplain i n hk, fun k => ⟨rfl, ControlCore.run_spec k i n⟩⟩⟩
  · exact fun hl z => exec_ebreak_locked s g j hup h z hl
  · intro hl z
    exact ⟨_, exec_ebreak_unlocked s g j hup h z hl, by simp, by simp, by simp, by simp⟩
  · exact fun hl => exec_debug_locked s d hup m v hl
  · exact fun hl hw => exec_dbgDataWrite_halted s d hup v hl hw
  · intro hl n hw
    refine ⟨_, exec_dbgResume s d hup _, ?_⟩
    rw [effDbgResume_one s d n hl hw]
    refine ⟨by simp, by simp, ?_⟩
    have hdie : (64 * d.val + n.val) / 64 = d.val := by omega
    have hbit : (64 * d.val + n.val) % 64 = n.val := by omega
    have hclear := State.clearHalt_bit (s.setCell (64 * d.val + n.val) { s.cell (64 * d.val + n.val) with
      core := { (s.cell (64 * d.val + n.val)).core with wait := .running } }) (64 * d.val + n.val)
    rwa [hdie, hbit] at hclear

end Sys2Proof.Machine
end

section
/-! Proofs of spec/05_cell.md: the engine instructions of a control core, their words, their issue and their waits (R91-R93, R432). -/

namespace Sys2Proof.Machine

/-! ### Words of the engine extension (05 R91) -/

section
variable (funct7 opcode : BitVec 7) (funct3 : BitVec 3) (rs2 rs1 rd : Nat)

/-- The fields of a word in the register-register format, from its lowest bit on. -/
theorem rWord_getLsbD (i : Nat) : (rWord funct7 rs2 rs1 funct3 rd opcode).getLsbD i =
    if i < 7 then opcode.getLsbD i else if i < 12 then (BitVec.ofNat 5 rd).getLsbD (i - 7)
    else if i < 15 then funct3.getLsbD (i - 12) else if i < 20 then (BitVec.ofNat 5 rs1).getLsbD (i - 15)
    else if i < 25 then (BitVec.ofNat 5 rs2).getLsbD (i - 20) else funct7.getLsbD (i - 25) := by
  show BitVec.getLsbD (w := 7 + 5 + 5 + 3 + 5 + 7)
    (funct7 ++ BitVec.ofNat 5 rs2 ++ BitVec.ofNat 5 rs1 ++ funct3 ++ BitVec.ofNat 5 rd ++ opcode) i = _
  simp only [BitVec.getLsbD_append, Nat.sub_sub]
  have h7 : i - 7 < 5 ↔ i < 12 := by omega
  have h12 : i - (7 + 5) < 3 ↔ i < 15 := by omega
  have h15 : i - (7 + 5 + 3) < 5 ↔ i < 20 := by omega
  have h20 : i - (7 + 5 + 3 + 5) < 5 ↔ i < 25 := by omega
  simp only [h7, h12, h15, h20]

/-- The six fields of such a word. -/
theorem rWord_fields : let w := rWord funct7 rs2 rs1 funct3 rd opcode
    w.extractLsb' 0 7 = opcode ∧ w.extractLsb' 7 5 = BitVec.ofNat 5 rd ∧ w.extractLsb' 12 3 = funct3 ∧
    w.extractLsb' 15 5 = BitVec.ofNat 5 rs1 ∧ w.extractLsb' 20 5 = BitVec.ofNat 5 rs2 ∧ w.extractLsb' 25 7 = funct7 := by
  refine ⟨?_, ?_, ?_, ?_, ?_, ?_⟩
  all_goals
    apply BitVec.eq_of_getLsbD_eq
    intro i hi
    simp (disch := omega) only [BitVec.getLsbD_extractLsb', hi, decide_true, Bool.true_and, rWord_getLsbD, if_pos, if_neg,
      if_true, Nat.add_sub_cancel_left, Nat.zero_add]

@[simp] theorem wOpcode_rWord : wOpcode (rWord funct7 rs2 rs1 funct3 rd opcode) = opcode := by
  obtain ⟨h, -⟩ := rWord_fields funct7 opcode funct3 rs2 rs1 rd
  exact h

@[simp] theorem wFunct3_rWord : wFunct3 (rWord funct7 rs2 rs1 funct3 rd opcode) = funct3 := by
  obtain ⟨-, -, h, -⟩ := rWord_fields funct7 opcode funct3 rs2 rs1 rd
  exact h

@[simp] theorem wFunct7_rWord : wFunct7 (rWord funct7 rs2 rs1 funct3 rd opcode) = funct7 := by
  obtain ⟨-, -, -, -, -, h⟩ := rWord_fields funct7 opcode funct3 rs2 rs1 rd
  exact h

end

/-- A register number of five bits names its register. -/
theorem reg_ofNat_toNat (r : Reg) : (Fin.ofNat 32 (BitVec.ofNat 5 r.val).toNat : Reg) = r := by
  have hr := r.isLt
  apply Fin.ext
  simp only [Fin.val_ofNat, BitVec.toNat_ofNat]
  omega

section
variable (funct7 opcode : BitVec 7) (funct3 : BitVec 3) (n m : Nat) (r : Reg)

@[simp] theorem wRd_rWord : wRd (rWord funct7 n m funct3 r.val opcode) = r := by
  obtain ⟨-, h, -⟩ := rWord_fields funct7 opcode funct3 n m r.val
  rw [wRd, h, reg_ofNat_toNat]

@[simp] theorem wRs1_rWord : wRs1 (rWord funct7 n r.val funct3 m opcode) = r := by
  obtain ⟨-, -, -, h, -⟩ := rWord_fields funct7 opcode funct3 n r.val m
  rw [wRs1, h, reg_ofNat_toNat]

@[simp] theorem wRs2_rWord : wRs2 (rWord funct7 r.val n funct3 m opcode) = r := by
  obtain ⟨-, -, -, -, h, -⟩ := rWord_fields funct7 opcode funct3 r.val n m
  rw [wRs2, h, reg_ofNat_toNat]

/-- The fields of EVEC2 over funct7: rs3 above a field of two bits. -/
theorem wRs3_wFmt_rWord (k : Nat) : let w := rWord (BitVec.ofNat 5 r.val ++ (0 : BitVec 2)) n m funct3 k opcode
    wRs3 w = r ∧ wFmt w = 0 := by
  refine ⟨?_, ?_⟩
  · have h : (rWord (BitVec.ofNat 5 r.val ++ (0 : BitVec 2)) n m funct3 k opcode).extractLsb' 27 5 = BitVec.ofNat 5 r.val := by
      apply BitVec.eq_of_getLsbD_eq
      intro i hi
      have hsub : 27 + i - 25 = 2 + i := by omega
      simp (disch := omega) only [BitVec.getLsbD_extractLsb', hi, decide_true, Bool.true_and, rWord_getLsbD, if_neg, hsub,
        BitVec.getLsbD_append, Nat.add_sub_cancel_left]
    rw [wRs3, h, reg_ofNat_toNat]
  · rw [wFmt]
    apply BitVec.eq_of_getLsbD_eq
    intro i hi
    simp (disch := omega) only [BitVec.getLsbD_extractLsb', hi, decide_true, Bool.true_and, rWord_getLsbD, if_neg,
      if_true, BitVec.getLsbD_append, Nat.add_sub_cancel_left]

end

/-- The word of an engine instruction decodes to it. -/
theorem customInstr_customWord (i : Instr) (w : Word) (h : customWord i = some w)
    (hscope : ∀ g scope, i = .efence g scope → scope.toNat ≤ 2) : ∃ g, customInstr g w = some i := by
  unfold customWord at h
  split at h
  case h_10 => cases h
  case h_8 g scope =>
    cases h
    exact ⟨g, by simp [customInstr, hscope g scope rfl]⟩
  case h_3 g rd rs1 rs2 rs3 =>
    cases h
    obtain ⟨h3, hfmt⟩ := wRs3_wFmt_rWord 0x2B 1 rs2.val rs1.val rs3 rd.val
    exact ⟨g, by simpa [customInstr] using And.intro hfmt h3⟩
  all_goals
    cases h
    exact ⟨_, by simp [customInstr]; rfl⟩

/-! ### Issue (05 R91-R93) -/

/-- The cell once its matrix, vector or stream engine has taken an instruction under the next ticket. -/
def Cell.takeBlock (c : Cell) (raw : BitVec 1024) : Cell :=
  { c with matrix := { c.matrix with
      issued := c.matrix.issued + 1
      queue := c.matrix.queue ++ [{ ticket := c.matrix.issued + 1, blk := raw, phase := .queued, landed := 0 }] } }
def Cell.takeVec (c : Cell) (w rs2 rs3 : DWord) : Cell :=
  { c with vec := { c.vec with
      issued := c.vec.issued + 1
      queue := c.vec.queue ++ [{ ticket := c.vec.issued + 1, word := w, rs2 := rs2, rs3 := rs3, done := false }] } }
def Cell.takeDesc (c : Cell) (desc : BitVec 256) : Cell :=
  { c with str := { c.str with
      issued := c.str.issued + 1
      queue := c.str.queue ++ [{ ticket := c.str.issued + 1, desc := desc, moved := 0, done := false }] } }

/-- A block that expects no stream sends no READY message and looks for no way (06 R122). -/
theorem effEmat_issues (s : State) (g : CellId) (j : Job) (rd rs1 : Reg) (h : s.coreRuns g j)
    (hroom : (s.cell g).matrix.queue.length < 4) (hok : s.blockCheck g ((s.cell g).core.get rs1).toNat j = stOk)
    (hsides : (MBlk.decode (BitVec.ofNat 1024 ((s.cell g).readNat ((s.cell g).core.get rs1).toNat 128))).sides = []) :
    effEmat g rd rs1 s =
      (s.setCell g ((s.cell g).takeBlock (BitVec.ofNat 1024 ((s.cell g).readNat ((s.cell g).core.get rs1).toNat 128)))).retire g rd
        (((s.cell g).matrix.issued + 1).setWidth 64) := by
  rw [effEmat, State.onCore_runs s g j _ h]
  simp [Nat.not_le.2 hroom, hok, hsides, Cell.takeBlock]

/-- An issue of a stream descriptor that passes its checks (05 R92, R93, R101). -/
theorem effEstr_issues (s : State) (g : CellId) (j : Job) (rd rs1 : Reg) (h : s.coreRuns g j)
    (hroom : (s.cell g).str.queue.length < 32) (hok : (s.cell g).streamCheck ((s.cell g).core.get rs1).toNat = stOk) :
    effEstr g rd rs1 s =
      (s.setCell g ((s.cell g).takeDesc (BitVec.ofNat 256 ((s.cell g).readNat ((s.cell g).core.get rs1).toNat 32)))).retire g rd
        (((s.cell g).str.issued + 1).setWidth 64) := by
  rw [effEstr, State.onCore_runs s g j _ h]
  simp [Nat.not_le.2 hroom, hok, Cell.takeDesc]

/-- An issue of a vector word by the room in the queue and its checks (05 R92, R93). -/
theorem issueVec_issues (s : State) (g : CellId) (rd : Reg) (w rs2 rs3 : DWord) (hroom : (s.cell g).vec.queue.length < 16)
    (hok : (VWord.decode w rs2 rs3).check (s.cell g).limit = stOk) :
    s.issueVec g rd (s.cell g) w rs2 rs3 =
      (s.setCell g ((s.cell g).takeVec w rs2 rs3)).retire g rd (((s.cell g).vec.issued + 1).setWidth 64) := by
  simp [State.issueVec, Nat.not_le.2 hroom, hok, Cell.takeVec]

theorem issueVec_fails (s : State) (g : CellId) (rd : Reg) (w rs2 rs3 : DWord) (hroom : (s.cell g).vec.queue.length < 16)
    (hbad : (VWord.decode w rs2 rs3).check (s.cell g).limit ≠ stOk) :
    s.issueVec g rd (s.cell g) w rs2 rs3 = s.endItem g ((VWord.decode w rs2 rs3).check (s.cell g).limit) := by
  simp [State.issueVec, Nat.not_le.2 hroom, hbad]

theorem issueVec_full (s : State) (g : CellId) (rd : Reg) (w rs2 rs3 : DWord) (hfull : 16 ≤ (s.cell g).vec.queue.length) :
    s.issueVec g rd (s.cell g) w rs2 rs3 = s := by
  simp [State.issueVec, hfull]

section
variable (s : State) (g : CellId) (j : Job) (hup : s.phase = .up) (h : s.coreRuns g j) (rd rs1 rs2 rs3 : Reg)
include hup h

theorem exec_evec : exec (.evec g rd rs1 rs2) s =
    .next (s.keepInputs (s.issueVec g rd (s.cell g) ((s.cell g).core.get rs1) ((s.cell g).core.get rs2) 0)) :=
  (live_onCore s g j hup h (effEvec g rd rs1 rs2) _ rfl).trans rfl

theorem exec_evec2 : exec (.evec2 g rd rs1 rs2 rs3) s = .next (s.keepInputs
    (s.issueVec g rd (s.cell g) ((s.cell g).core.get rs1) ((s.cell g).core.get rs2) ((s.cell g).core.get rs3))) :=
  (live_onCore s g j hup h (effEvec2 g rd rs1 rs2 rs3) _ rfl).trans rfl

/-- An issue to a full queue stalls the core (05 R92). -/
theorem exec_issue_full :
    (4 ≤ (s.cell g).matrix.queue.length → exec (.emat g rd rs1) s = .next s) ∧
    (16 ≤ (s.cell g).vec.queue.length → exec (.evec g rd rs1 rs2) s = .next s ∧ exec (.evec2 g rd rs1 rs2 rs3) s = .next s) ∧
    (32 ≤ (s.cell g).str.queue.length → exec (.estr g rd rs1) s = .next s) := by
  refine ⟨fun hfull => ?_, fun hfull => ⟨?_, ?_⟩, fun hfull => ?_⟩
  · refine (live_onCore s g j hup h (effEmat g rd rs1) _ rfl).trans ?_
    simp [hfull]
  · rw [exec_evec s g j hup h, issueVec_full s g rd _ _ _ hfull, keepInputs_self]
  · rw [exec_evec2 s g j hup h, issueVec_full s g rd _ _ _ hfull, keepInputs_self]
  · refine (live_onCore s g j hup h (effEstr g rd rs1) _ rfl).trans ?_
    simp [hfull]

/-- A block that fails its checks ends the item (05 R92, R95). -/
theorem exec_emat_fails (hroom : (s.cell g).matrix.queue.length < 4)
    (hbad : s.blockCheck g ((s.cell g).core.get rs1).toNat j ≠ stOk) :
    exec (.emat g rd rs1) s = .next (s.endItem g (s.blockCheck g ((s.cell g).core.get rs1).toNat j)) := by
  refine (live_onCore s g j hup h (effEmat g rd rs1) _ rfl).trans ?_
  simp [Nat.not_le.2 hroom, hbad]

/-- A descriptor that fails its checks ends the item (05 R92, R95, R101). -/
theorem exec_estr_fails (hroom : (s.cell g).str.queue.length < 32)
    (hbad : (s.cell g).streamCheck ((s.cell g).core.get rs1).toNat ≠ stOk) :
    exec (.estr g rd rs1) s = .next (s.endItem g ((s.cell g).streamCheck ((s.cell g).core.get rs1).toNat)) := by
  refine (live_onCore s g j hup h (effEstr g rd rs1) _ rfl).trans ?_
  simp [Nat.not_le.2 hroom, hbad]

end

/-- Settles O4: the words by their fields, and each issue by the room in its queue and its checks. -/
theorem engineInstructionsIssue : Obligations.EngineInstructionsIssue := by
  unfold Obligations.EngineInstructionsIssue
  refine ⟨customInstr_customWord, fun s g j rd rs1 rs2 rs3 hup h => ?_⟩
  obtain ⟨hmat, hvec, hstr⟩ := exec_issue_full s g j hup h rd rs1 rs2 rs3
  refine ⟨hmat, hvec, hstr, fun hroom => ⟨exec_emat_fails s g j hup h rd rs1 hroom, fun hok hsides => ?_⟩,
    fun hroom => ⟨fun hbad => ?_, fun hbad => ?_, fun hok => ?_, fun hok => ?_⟩,
    fun hroom => exec_estr_fails s g j hup h rd rs1 hroom, fun hroom hok => ?_⟩
  · refine ⟨_, live_up s (effEmat g rd rs1) hup, ?_⟩
    rw [effEmat_issues s g j rd rs1 h hroom hok hsides]
    simp [Cell.takeBlock]
  · rw [exec_evec s g j hup h, issueVec_fails s g rd _ _ _ hroom hbad, keepInputs_endItem]
  · rw [exec_evec2 s g j hup h, issueVec_fails s g rd _ _ _ hroom hbad, keepInputs_endItem]
  · refine ⟨_, exec_evec s g j hup h rd rs1 rs2, ?_⟩
    rw [issueVec_issues s g rd _ _ _ hroom hok]
    simp [Cell.takeVec]
  · refine ⟨_, exec_evec2 s g j hup h rd rs1 rs2 rs3, ?_⟩
    rw [issueVec_issues s g rd _ _ _ hroom hok]
    simp [Cell.takeVec]
  · refine ⟨_, live_up s (effEstr g rd rs1) hup, ?_⟩
    rw [effEstr_issues s g j rd rs1 h hroom hok]
    simp [Cell.takeDesc]

/-! ### Waits and signals (05 R91, R93, R432) -/

section
variable (s : State) (g : CellId) (j : Job) (hup : s.phase = .up) (h : s.coreRuns g j) (rd rs1 rs2 : Reg)
include hup h

/-- EWAIT on a ticket of the matrix engine: not issued, completed, or awaited. -/
theorem exec_ewait_matrix (he : ((s.cell g).core.get rs1).toNat = 0) :
    exec (.ewait g rd rs1 rs2) s = .next
      (if reached32 (s.cell g).matrix.issued (((s.cell g).core.get rs2).setWidth 32) = false then s.endItem g stState
       else if reached32 (s.cell g).matrix.done (((s.cell g).core.get rs2).setWidth 32) then
         s.retire g rd ((s.cell g).matrix.done.setWidth 64)
       else s) := by
  refine (live_onCore s g j hup h (effEwait g rd rs1 rs2) _ rfl).trans ?_
  cases hi : reached32 (s.cell g).matrix.issued (((s.cell g).core.get rs2).setWidth 32)
  · simp [he, Cell.tickets, hi]
  · cases hd : reached32 (s.cell g).matrix.done (((s.cell g).core.get rs2).setWidth 32) <;> simp [he, Cell.tickets, hi, hd]

/-- EWSO on an object to which the way is open (12 R247). -/
theorem exec_ewso_open (hso : s.soAllowed j.cid (((s.cell g).core.get rs1).toNat % 65536) = true)
    (hgood : s.soBroken (((s.cell g).core.get rs1).toNat % 65536) = false)
    (hway : s.soWay (g.val / 64) (((s.cell g).core.get rs1).toNat % 65536) = .clear) :
    exec (.ewso g rd rs1 rs2) s = .next
      (if reached64 (s.so (((s.cell g).core.get rs1).toNat % 65536)) ((s.cell g).core.get rs2) then
         s.retire g rd (s.so (((s.cell g).core.get rs1).toNat % 65536))
       else s) := by
  refine (live_onCore s g j hup h (effEwso g rd rs1 rs2) _ rfl).trans ?_
  simp [hso, hgood, hway, keepInputs_ite]

/-- EWSO and ESIG on an object that the item's CID does not own (05 R95). -/
theorem exec_so_refused (hso : s.soAllowed j.cid (((s.cell g).core.get rs1).toNat % 65536) = false) :
    exec (.ewso g rd rs1 rs2) s = .next (s.endItem g stAccess) ∧ exec (.esig g rs1 rs2) s = .next (s.endItem g stAccess) := by
  constructor
  · refine (live_onCore s g j hup h (effEwso g rd rs1 rs2) _ rfl).trans ?_
    simp [hso]
  · refine (live_onCore s g j hup h (effEsig g rs1 rs2) _ rfl).trans ?_
    simp [hso]

/-- ESIG schedules its addition behind the tickets issued (05 R432). -/
theorem exec_esig_schedules (hso : s.soAllowed j.cid (((s.cell g).core.get rs1).toNat % 65536) = true) :
    exec (.esig g rs1 rs2) s = .next ((s.setCell g { s.cell g with
      esig := (s.cell g).esig ++ [{ obj := ((s.cell g).core.get rs1).setWidth 16, val := (s.cell g).core.get rs2,
                                    mat := (s.cell g).matrix.issued, vec := (s.cell g).vec.issued,
                                    str := (s.cell g).str.issued }] }).retire g 0 0) := by
  refine (live_onCore s g j hup h (effEsig g rs1 rs2) _ rfl).trans ?_
  simp [hso]
  rfl

/-- EFENCE of scope 0 retires once every engine is idle. -/
theorem exec_efence_engines :
    exec (.efence g 0) s = .next (if (s.cell g).enginesIdle then s.retire g 0 0 else s) := by
  refine (live_onCore s g j hup h (effEfence g 0) _ rfl).trans ?_
  simp [keepInputs_ite]

/-- EDONE ends the item once its engines, additions and writes are done (05 R103, 13 R437). -/
theorem exec_edone :
    exec (.edone g rs1) s = .next
      (if (s.cell g).enginesIdle && (s.cell g).esig.isEmpty && !s.itemOwed j.ring j.seq j.index then
         s.endItem g (((s.cell g).core.get rs1).setWidth 16)
       else s) := by
  refine (live_onCore s g j hup h (effEdone g rs1) _ rfl).trans ?_
  simp only [keepInputs_ite, keepInputs_endItem, keepInputs_self]

end

/-- The oldest scheduled addition waits for the tickets before it, and is then made (05 R432). -/
theorem exec_esigAddition (s : State) (g : CellId) (hup : s.phase = .up) (a : EsigAdd) (rest : List EsigAdd)
    (hesig : (s.cell g).esig = a :: rest) (howed : s.cellOwed g = false) (hgood : s.soBroken a.obj.toNat = false)
    (hway : s.soWay (g.val / 64) a.obj.toNat = .clear) :
    exec (.esigAddition g) s = .next
      (if (s.cell g).esigDue a then (s.setCell g { s.cell g with esig := rest }).setSo a.obj.toNat (s.so a.obj.toNat + a.val) else s) := by
  refine (live_up s (effEsigAddition g) hup).trans ?_
  cases hdue : (s.cell g).esigDue a
  · simp [effEsigAddition, hesig, hdue]
  · simp [effEsigAddition, hesig, hdue, howed, hgood, hway, State.signal]
    rfl

/-- Settles O5: what each wait and signal above answers, by what it waits for. -/
theorem engineWaitsAndSignals : Obligations.EngineWaitsAndSignals := by
  unfold Obligations.EngineWaitsAndSignals
  intro s g j rd rs1 rs2 hup h
  refine ⟨fun he => ?_, fun hso hgood hway => ?_, exec_so_refused s g j hup h rd rs1 rs2, fun hidle => ?_, fun hbusy => ⟨?_, ?_⟩,
    fun hidle hesig howed => ?_, fun hso => ⟨_, exec_esig_schedules s g j hup h rs1 rs2 hso, by simp, by simp⟩,
    fun a rest hesig howed hgood hway => ?_⟩
  · rw [exec_ewait_matrix s g j hup h rd rs1 rs2 he]
    exact ⟨fun hi => by rw [if_pos hi], fun hi => ⟨fun hd => by simp [hi, hd], fun hd => by simp [hi, hd]⟩⟩
  · rw [exec_ewso_open s g j hup h rd rs1 rs2 hso hgood hway]
    exact ⟨fun hr => by rw [if_pos hr], fun hr => by simp [hr]⟩
  · rw [exec_efence_engines s g j hup h, if_pos hidle]
  · rw [exec_efence_engines s g j hup h]
    simp [hbusy]
  · rw [exec_edone s g j hup h rs1]
    simp [hbusy]
  · rw [exec_edone s g j hup h rs1]
    simp [hidle, hesig, howed]
  · rw [exec_esigAddition s g hup a rest hesig howed hgood hway]
    exact ⟨fun hd => by rw [if_pos hd], fun hd => by simp [hd]⟩

end Sys2Proof.Machine
end

section
/-! What an access to memory leaves: the bytes of memory and the cells, while the quota, the Lake, the counters, the caches and their
directory see it (10 R201, R208, 12 R254-R259). -/

namespace Sys2Proof.Machine

/-- Memory and the cells are as they were. -/
structure SameStore (s t : State) : Prop where
  mem : t.mem = s.mem
  cells : t.cells = s.cells

theorem SameStore.refl (s : State) : SameStore s s := ⟨rfl, rfl⟩

theorem SameStore.trans {s t u : State} (h : SameStore s t) (k : SameStore t u) : SameStore s u :=
  ⟨k.mem.trans h.mem, k.cells.trans h.cells⟩

theorem SameStore.foldl {α : Type} (f : State → α → State) (l : List α) (s : State) (hf : ∀ s a, SameStore s (f s a)) :
    SameStore s (l.foldl f s) :=
  foldl_keeps (SameStore s) f l s (SameStore.refl s) fun t a h => h.trans (hf t a)

theorem SameStore.cell {s t : State} (h : SameStore s t) (g : Nat) : t.cell g = s.cell g := by
  unfold State.cell
  rw [h.cells]

theorem SameStore.readByte {s t : State} (h : SameStore s t) (a : Nat) : t.readByte a = s.readByte a := by
  unfold State.readByte
  rw [h.mem]

theorem SameStore.readBytes {s t : State} (h : SameStore s t) (a n : Nat) : t.readBytes a n = s.readBytes a n := by
  unfold State.readBytes
  rw [h.mem]

theorem SameStore.readNat {s t : State} (h : SameStore s t) (a n : Nat) : t.readNat a n = s.readNat a n := by
  unfold State.readNat
  rw [h.readBytes]

theorem State.hbm_store (s : State) (x : Hbm) : SameStore s { s with hbm := x } := ⟨rfl, rfl⟩

/-! ### Counters, quota, Lake (10 R201, R208, 20 R387) -/

theorem State.count_store (s : State) (die event : Nat) (who : Option Cid) (n : Nat) : SameStore s (s.count die event who n) :=
  ⟨by simp, by simp⟩

theorem State.tally_store (s : State) (who : Option (Nat × Word)) (k n : Nat) : SameStore s (s.tally who k n) := ⟨by simp, by simp⟩

theorem State.quotaUse_store (s : State) (cid : Cid) (a n : Nat) : SameStore s (s.quotaUse cid a n) := by
  unfold State.quotaUse
  split
  · split
    · exact SameStore.foldl _ _ s fun t _ => State.hbm_store t _
    · exact SameStore.refl s
  · exact SameStore.refl s

theorem State.lakeTouch_store (s : State) (a n : Nat) (write alloc : Bool) : SameStore s (s.lakeTouch a n write alloc).1 := by
  unfold State.lakeTouch
  dsimp only
  split
  · dsimp only
    split
    · exact State.hbm_store s _
    · exact SameStore.refl s
  · split
    · exact SameStore.refl s
    · exact (State.hbm_store s _).trans (State.hbm_store _ _)

theorem State.seeLine_store (s : State) (cid : Cid) (who : Option (Nat × Word)) (l n : Nat) (write alloc : Bool) :
    SameStore s (s.seeLine cid who l n write alloc) :=
  (s.lakeTouch_store l n write alloc).trans <| (State.count_store _ _ _ _ _).trans <| (State.count_store _ _ _ _ _).trans <|
    (State.tally_store _ _ _ _).trans (State.tally_store _ _ _ _)

theorem State.seeAccess_store (s : State) (cid : Cid) (who : Option (Nat × Word)) (a n : Nat) (write noAlloc : Bool) :
    SameStore s (s.seeAccess cid who a n write noAlloc) := by
  unfold State.seeAccess
  split
  · exact SameStore.foldl _ _ s fun t l => State.seeLine_store t cid who l _ write _
  · exact State.count_store s _ _ _ _
  · exact SameStore.refl s

theorem State.seeAtomic_store (s : State) (cid : Cid) (who : Option (Nat × Word)) (a n : Nat) :
    SameStore s (s.seeAtomic cid who a n) := by
  unfold State.seeAtomic
  split
  · exact State.seeLine_store s cid who _ n true true
  · exact State.seeAccess_store s cid who a n true false

theorem State.memRead_store (s : State) (cid : Cid) (a n : Nat) (noAlloc : Bool) (who : Option (Nat × Word)) :
    SameStore s (s.memRead cid a n noAlloc who).1 :=
  (s.quotaUse_store cid a n).trans (State.seeAccess_store _ cid who a n false noAlloc)

theorem State.countLinks_store (ls : List Nat) (s : State) (src : Nat) (cid : Cid) (bytes : Nat) :
    SameStore s (s.countLinks src cid bytes ls) := by
  induction ls generalizing s src with
  | nil => exact SameStore.refl s
  | cons l ls ih =>
    unfold State.countLinks
    refine SameStore.trans ?_ (ih _ _)
    split
    · exact State.count_store s _ _ _ _
    · exact SameStore.refl s

theorem State.sendOver_store (s : State) (src dst a : Nat) (cid : Cid) (bytes : Nat) : SameStore s (s.sendOver src dst a cid bytes) := by
  unfold State.sendOver
  split
  · exact State.countLinks_store _ s src cid bytes
  · exact SameStore.refl s

theorem State.countLines_store (s : State) (src dst a n : Nat) (cid : Cid) (write : Bool) :
    SameStore s (s.countLines src dst a n cid write) := by
  unfold State.countLines
  split
  · exact SameStore.refl s
  · refine SameStore.foldl _ _ s fun t p => ?_
    split
    all_goals exact (State.sendOver_store t _ _ _ _ _).trans (State.sendOver_store _ _ _ _ _ _)

theorem State.crosses_store (s : State) (src a n : Nat) (cid : Cid) (write : Bool) : SameStore s (s.crosses src a n cid write) :=
  SameStore.foldl _ _ s fun t b => State.countLines_store t src _ b.1 b.2 cid write

/-! ### Caches and their directory (12 R253-R257) -/

theorem State.onCoh_store (s : State) (f : Coherence → Coherence) : SameStore s (s.onCoh f) := ⟨rfl, rfl⟩

theorem State.setDir_store (s : State) (line : Nat) (e : DirEntry) : SameStore s (s.setDir line e) := ⟨rfl, rfl⟩

theorem State.clearBroken_store (s : State) (a n : Nat) : SameStore s (s.clearBroken a n) := by
  unfold State.clearBroken
  split <;> exact ⟨rfl, rfl⟩

theorem State.endReservations_store (s : State) (a n : Nat) : SameStore s (s.endReservations a n) := by
  unfold State.endReservations
  split <;> exact ⟨rfl, rfl⟩

theorem State.writeBack_store (s : State) (h : Holder) (line : Nat) : SameStore s (s.writeBack h line) := by
  have hkeep : SameStore s (((s.quotaUse (s.holderCid h) (128 * line) 128).seeAccess (s.holderCid h) none (128 * line) 128 true
      (s.dirEntry line).noLake).countLines (holderDie h) (s.memDie (128 * line)) (128 * line) 128 (s.holderCid h) true) :=
    (State.quotaUse_store s _ _ _).trans <| (State.seeAccess_store _ _ _ _ _ _ _).trans (State.countLines_store _ _ _ _ _ _ _)
  exact ⟨hkeep.mem, hkeep.cells⟩

theorem State.cleanLine_store (s : State) (line : Nat) : SameStore s (s.cleanLine line) := by
  unfold State.cleanLine
  dsimp only
  split
  · split
    · exact State.writeBack_store s _ line
    · exact SameStore.refl s
  · exact SameStore.refl s

theorem State.dropLine_store (s : State) (line : Nat) : SameStore s (s.dropLine line) := by
  unfold State.dropLine
  exact (s.cleanLine_store line).trans (State.onCoh_store _ _)

theorem State.dropCopies_store (s : State) (a n : Nat) : SameStore s (s.dropCopies a n) :=
  SameStore.foldl _ _ s fun t p => State.dropLine_store t p.1

theorem State.poison_store (s : State) (line : Nat) : SameStore s (s.poison line) := by
  unfold State.poison
  split <;> exact ⟨rfl, rfl⟩

theorem State.makeRoom_store (s : State) (line : Nat) : SameStore s (s.makeRoom line) := by
  unfold State.makeRoom
  split
  · exact SameStore.refl s
  · dsimp only
    split
    next l hl =>
      have hdraw : SameStore s { s with fresh := s.fresh + 1 } := ⟨rfl, rfl⟩
      exact hdraw.trans (State.dropLine_store _ l)
    next => exact SameStore.refl s

theorem State.startHold_store (s : State) (line : Nat) (h : Holder) : SameStore s (s.startHold line h) := by
  unfold State.startHold
  split
  · exact SameStore.refl s
  · split
    · exact SameStore.refl s
    · exact State.onCoh_store s _

theorem State.lineLeaves_store (s : State) (line : Nat) (h : Holder) : SameStore s (s.lineLeaves line h) := by
  unfold State.lineLeaves
  exact State.onCoh_store s _

theorem State.othersLeave_store (s : State) (line : Nat) (h : Holder) : SameStore s (s.othersLeave line h) :=
  SameStore.foldl _ _ s fun t o => t.lineLeaves_store line o

theorem State.dropToken_store (s : State) (h : Holder) (line : Nat) : SameStore s (s.dropToken h line) := by
  unfold State.dropToken
  split
  · exact SameStore.refl s
  · exact State.onCoh_store s _

theorem State.coreHas_store (s : State) (h : Holder) (a : Nat) (modifiable noLake : Bool) :
    SameStore s (s.coreHas h a modifiable noLake) := by
  refine (s.dropToken_store h (a / 128)).trans ?_
  unfold State.coreHas
  dsimp only
  generalize s.dropToken h (a / 128) = t
  split
  · split
    · split
      · exact SameStore.refl t
      · exact State.setDir_store t _ _
    · exact (t.makeRoom_store _).trans <| (State.othersLeave_store _ _ _).trans <| (State.setDir_store _ _ _).trans
        (State.startHold_store _ _ _)
  · split
    · exact SameStore.refl t
    · refine SameStore.trans ?_ (State.startHold_store _ _ _)
      split
      · exact (t.cleanLine_store _).trans (State.setDir_store _ _ _)
      · refine (t.makeRoom_store (a / 128)).trans ?_
        split <;> exact State.setDir_store _ _ _

theorem State.fillLine_store (s : State) (cid : Cid) (who : Option (Nat × Word)) (h : Holder) (noLake : Bool) (l : Nat) :
    SameStore s (s.fillLine cid who h noLake l) := by
  unfold State.fillLine
  split
  · exact SameStore.refl s
  · exact (s.memRead_store cid l 128 noLake who).trans <| (State.countLines_store _ _ _ _ _ _ _).trans (State.poison_store _ _)

theorem State.coreLines_store (s : State) (cid : Cid) (who : Option (Nat × Word)) (h : Holder) (noLake : Bool) (a n : Nat)
    (modifiable : Bool) : SameStore s (s.coreLines cid who h noLake a n modifiable) :=
  SameStore.foldl _ _ s fun t l => (t.fillLine_store cid who h noLake l).trans (State.coreHas_store _ h l modifiable noLake)

/-! ### Atomics at their site (12 R258, R259) -/

theorem State.noteHome_store (s : State) (table line : Nat) : SameStore s (s.noteHome table line) := by
  unfold State.noteHome
  exact State.onCoh_store s _

theorem State.vaneMove_store (s : State) (table pa : Nat) (d : Int) : SameStore s (s.vaneMove table pa d) := by
  unfold State.vaneMove
  exact State.onCoh_store s _

theorem State.actHome_store (s : State) (cid : Cid) (who : Option (Nat × Word)) (table pa n : Nat) :
    SameStore s (s.actHome cid who table pa n) := by
  unfold State.actHome
  dsimp only
  refine (s.noteHome_store table (pa / 128)).trans ?_
  generalize s.noteHome table (pa / 128) = t
  refine (t.count_store (4 + t.home pa) 0x23 (some cid) 1).trans ?_
  generalize t.count (4 + t.home pa) 0x23 (some cid) 1 = u
  split
  · exact (u.dropCopies_store pa 1).trans <| (State.quotaUse_store _ cid pa n).trans (State.seeAtomic_store _ cid who pa n)
  · exact u.coreLines_store cid who _ false pa n true

theorem State.actNear_store (s : State) (cid : Cid) (who : Option (Nat × Word)) (table : Nat) (h : Holder) (noLake : Bool) (pa n : Nat) :
    SameStore s (s.actNear cid who table h noLake pa n) :=
  (s.count_store _ 0x22 (some cid) 1).trans <| (State.vaneMove_store _ _ _ _).trans (State.coreLines_store _ cid who h noLake pa n true)

theorem State.atSite_store (s : State) (cid : Cid) (who : Option (Nat × Word)) (table : Nat) (h : Holder) (noLake : Bool) (pa n : Nat) :
    SameStore s (s.atSite cid who table h noLake pa n) := by
  unfold State.atSite
  split
  · exact s.actNear_store cid who table h noLake pa n
  · exact (s.dropToken_store h (pa / 128)).trans <| (State.vaneMove_store _ _ _ _).trans (State.actHome_store _ cid who table pa n)

end Sys2Proof.Machine
end

section
/-! What a translation leaves (11 R218, R220): memory but for the record of an uncorrectable table, and the cells but for the ranges that
their caches take in. -/

namespace Sys2Proof.Machine

/-! ### The record of consumed uncorrectable data leaves the cells (18 R363, R367, R368) -/

theorem State.bgWrite_cells (s : State) (cid : Cid) (a : Nat) (bs : List Byte) (noAlloc : Bool) (who : Option (Nat × Word)) :
    (s.bgWrite cid a bs noAlloc who).cells = s.cells := by
  have h := (s.dropCopies_store a bs.length).trans <| (State.seeAccess_store _ cid who a bs.length true noAlloc).trans <|
    (State.clearBroken_store _ a bs.length).trans (State.endReservations_store _ a bs.length)
  exact h.cells

theorem State.recordWrite_cells (s : State) (die a : Nat) (bs : List Byte) : (s.recordWrite die a bs).cells = s.cells :=
  (State.countLines_store _ _ _ _ _ _ _).cells.trans (s.bgWrite_cells 0 a bs false none)

theorem State.holdErr_cells (s : State) (d : Nat) (r : ErrRec) : (s.holdErr d r).cells = s.cells := by
  unfold State.holdErr
  dsimp only
  split
  · rfl
  · split <;> simp

theorem State.request_cells (s : State) (c : Prop) [Decidable c] (reason : Nat) (soon replace : Bool) :
    (if c then s.request reason soon replace else s).cells = s.cells := by
  split <;> rfl

theorem State.storeErr_cells (s : State) (d : Nat) (r : ErrRec) : (s.storeErr d r).cells = s.cells := by
  have hrec : (if s.ownSlot (s.errSlot d) 64 then s.recordWrite d (s.errSlot d) (r.bytes (s.log d).errTail.toNat (s.errLog2 d))
      else s).cells = s.cells := by
    split
    · exact s.recordWrite_cells d _ _
    · rfl
  unfold State.storeErr
  exact (State.request_cells _ _ _ _ _).trans hrec

theorem State.writeErr_cells (s : State) (d : Nat) (r : ErrRec) : (s.writeErr d r).cells = s.cells := by
  unfold State.writeErr
  dsimp only
  split
  · exact s.holdErr_cells d r
  · split
    · split
      · rfl
      · exact s.holdErr_cells d r
    · split
      · exact s.storeErr_cells d r
      · exact s.holdErr_cells d r

theorem State.ueWord_cells (s : State) (cid : Cid) (who : Option (Nat × Word)) (w : Nat) : (s.ueWord cid who w).cells = s.cells := by
  unfold State.ueWord State.logError
  exact s.writeErr_cells _ _

theorem State.ueRecord_cells (s : State) (cid : Cid) (a n : Nat) (who : Option (Nat × Word)) :
    (s.ueRecord cid a n who).cells = s.cells := by
  unfold State.ueRecord
  exact s.ueWord_cells cid who _

/-! ### A walk (11 R218) -/

/-- The reads of a walk, as the quota, the Lake and the counters see them. -/
def State.seeWalk (s : State) (die : Nat) (who : Option (Nat × Word)) (rs : List (Cid × Nat × Nat)) : State :=
  rs.foldl (fun t r => (t.memRead r.1 r.2.1 r.2.2 false who).1.countLines die (t.memDie r.2.1) r.2.1 r.2.2 r.1 false) s

theorem State.seeWalk_store (s : State) (die : Nat) (who : Option (Nat × Word)) (rs : List (Cid × Nat × Nat)) :
    SameStore s (s.seeWalk die who rs) :=
  SameStore.foldl _ _ s fun t r => (t.memRead_store r.1 r.2.1 r.2.2 false who).trans (State.countLines_store _ _ _ _ _ _ _)

/-- What a walk gives: E_LINK without a path, else its outcome, which leaves a record when it is E_MEM_UE. -/
theorem State.makeWalk_eq (s : State) (die : Nat) (cid : Cid) (va : Nat) (who : Option (Nat × Word)) :
    let u := s.count die 0x0C (some cid) 1
    let w := u.walkOf cid va
    s.makeWalk die cid va who =
      if u.walkWay die w.1 = .cut then (u, .error stLink)
      else match w.2, w.1.getLast? with
        | .error st, some r =>
          (if st = stMemUe then (u.seeWalk die who w.1).ueRecord r.1 r.2.1 r.2.2 who else u.seeWalk die who w.1, .error st)
        | x, _ => (u.seeWalk die who w.1, x) := rfl

theorem State.makeWalk_cells (s : State) (die : Nat) (cid : Cid) (va : Nat) (who : Option (Nat × Word)) :
    (s.makeWalk die cid va who).1.cells = s.cells := by
  have hu : (s.count die 0x0C (some cid) 1).cells = s.cells := by simp
  have hsee := fun rs => ((s.count die 0x0C (some cid) 1).seeWalk_store die who rs).cells.trans hu
  rw [State.makeWalk_eq]
  split
  · exact hu
  · split
    · dsimp only
      split
      · exact (State.ueRecord_cells _ _ _ _ _).trans (hsee _)
      · exact hsee _
    · exact hsee _

theorem State.makeWalk_mem (s : State) (die : Nat) (cid : Cid) (va : Nat) (who : Option (Nat × Word))
    (h : (s.makeWalk die cid va who).2 ≠ .error stMemUe) : (s.makeWalk die cid va who).1.mem = s.mem := by
  have hu : (s.count die 0x0C (some cid) 1).mem = s.mem := by simp
  have hsee := fun rs => ((s.count die 0x0C (some cid) 1).seeWalk_store die who rs).mem.trans hu
  rw [State.makeWalk_eq] at h ⊢
  split at h
  next hcut =>
    rw [if_pos hcut]
    exact hu
  next hcut =>
    rw [if_neg hcut]
    split at h
    next st r e1 e2 =>
      have hst : st ≠ stMemUe := fun e => h (by rw [e])
      simp only [hst, if_false]
      exact hsee _
    next => exact hsee _

/-! ### A translated access -/

/-- Every cell is as it was, but for the ranges that its cache holds. -/
def SameButRanges (s t : State) : Prop := ∀ h : Nat, ∃ x, t.cell h = { s.cell h with xc := x }

theorem SameButRanges.of_cells {s t : State} (h : t.cells = s.cells) : SameButRanges s t := fun g =>
  ⟨(s.cell g).xc, by unfold State.cell; rw [h]⟩

theorem SameButRanges.job {s t : State} (h : SameButRanges s t) (g : Nat) : (t.cell g).job = (s.cell g).job := by
  obtain ⟨x, hx⟩ := h g
  rw [hx]

theorem State.install_mem (s : State) (w : Requester) (e : XEntry) : (s.install w e).mem = s.mem := by
  unfold State.install
  dsimp only
  split <;> rfl

theorem State.install_cell (s : State) (w : Requester) (e : XEntry) : SameButRanges s (s.install w e) := by
  intro h
  unfold State.install
  dsimp only
  split
  · exact ⟨(s.cell h).xc, rfl⟩
  next g hw =>
    by_cases hg : h = g
    · subst hg
      exact ⟨_, by simp; rfl⟩
    · exact ⟨(s.cell h).xc, by simp [hg]⟩

/-- What a miss of a die leaves: a walk and what it found, or a place in the queue of misses. -/
theorem State.dieMiss_keeps (s : State) (w : Requester) (cid : Cid) (va kind : Nat) :
    SameButRanges s (s.dieMiss w cid va kind).1 ∧
    ((s.dieMiss w cid va kind).2 ≠ .bad stMemUe → (s.dieMiss w cid va kind).1.mem = s.mem) := by
  unfold State.dieMiss
  dsimp only
  split
  · exact ⟨.of_cells rfl, fun _ => rfl⟩
  split
  · split <;> exact ⟨.of_cells rfl, fun _ => rfl⟩
  split
  · exact ⟨.of_cells rfl, fun _ => rfl⟩
  have hcells := s.makeWalk_cells w.die cid va w.cmd
  have hmem := s.makeWalk_mem w.die cid va w.cmd
  split
  next t e hw =>
    rw [hw] at hcells hmem
    refine ⟨fun g => ?_, fun _ => (t.install_mem w e).trans (hmem (by simp))⟩
    obtain ⟨x, hx⟩ := t.install_cell w e g
    obtain ⟨y, hy⟩ := SameButRanges.of_cells hcells g
    exact ⟨x, by rw [hx, hy]⟩
  next t st hw =>
    rw [hw] at hcells hmem
    exact ⟨.of_cells hcells, fun hst => hmem fun e => hst (by rw [Except.error.inj e])⟩

theorem State.lookup_keeps (s : State) (w : Requester) (cid : Cid) (va kind : Nat) :
    SameButRanges s (s.lookup w cid va kind).1 ∧
    ((s.lookup w cid va kind).2 ≠ .bad stMemUe → (s.lookup w cid va kind).1.mem = s.mem) := by
  unfold State.lookup
  dsimp only
  split
  · exact ⟨.of_cells rfl, fun _ => rfl⟩
  split
  · exact ⟨.of_cells rfl, fun _ => rfl⟩
  split
  · exact ⟨s.install_cell w _, fun _ => s.install_mem w _⟩
  · exact s.dieMiss_keeps w cid va kind

/-- What a translation leaves. -/
theorem State.translate_keeps (s : State) (w : Requester) (cid : Cid) (va n : Nat) (k : AccKind) :
    SameButRanges s (s.translate w cid va n k).1 ∧
    ((s.translate w cid va n k).2 ≠ .bad stMemUe → (s.translate w cid va n k).1.mem = s.mem) := by
  obtain ⟨hcell, hmem⟩ := s.lookup_keeps w cid va k.code
  unfold State.translate
  generalize s.lookup w cid va k.code = r at hcell hmem ⊢
  obtain ⟨t, f⟩ := r
  cases f with
  | bad st => exact ⟨hcell, fun h => hmem fun e => h (by rw [Found.bad.inj e])⟩
  | waits => exact ⟨hcell, fun _ => hmem (by simp)⟩
  | entry e =>
    dsimp only
    generalize (if k = .fetch then e.x else if k.isWrite then e.w else e.r) = allowed
    obtain ⟨hcells, hm⟩ : SameButRanges s t ∧ t.mem = s.mem := ⟨hcell, hmem (by simp)⟩
    split
    · exact ⟨hcells, fun _ => hm⟩
    split
    · exact ⟨hcells, fun _ => hm⟩
    split
    · exact ⟨hcells, fun _ => hm⟩
    · exact ⟨hcells, fun _ => hm⟩

/-- What any translation leaves of the cells. -/
theorem State.translate_cells (s v : State) (w : Requester) (cid : Cid) (va n : Nat) (k : AccKind) (x : Xlated)
    (h : s.translate w cid va n k = (v, x)) : SameButRanges s v := by
  obtain ⟨hcell, -⟩ := s.translate_keeps w cid va n k
  rwa [h] at hcell

/-- What a translation that gives an address leaves. -/
theorem State.translate_at (s v : State) (w : Requester) (cid : Cid) (va n : Nat) (k : AccKind) (a : Nat) (nl : Bool)
    (h : s.translate w cid va n k = (v, .at a nl)) : v.mem = s.mem ∧ SameButRanges s v := by
  obtain ⟨-, hmem⟩ := s.translate_keeps w cid va n k
  rw [h] at hmem
  exact ⟨hmem (by simp), s.translate_cells v w cid va n k _ h⟩

end Sys2Proof.Machine
end

section
/-! Proofs of spec/05_cell.md: the accesses of a control core, to its cell memory and to memory (R88, R89, R95, 12 R258). -/

namespace Sys2Proof.Machine

/-! ### Bytes of a word -/

/-- A list of bytes is what its number spells. -/
theorem leBytes_leNat (bs : List Byte) : leBytes bs.length (leNat bs) = bs := by
  induction bs with
  | nil => rfl
  | cons b bs ih =>
    have hb := b.isLt
    have hdiv : (b.toNat + 256 * leNat bs) / 256 = leNat bs := by omega
    have hlow : BitVec.ofNat 8 (b.toNat + 256 * leNat bs) = b := by
      apply BitVec.eq_of_toNat_eq
      rw [BitVec.toNat_ofNat]
      omega
    rw [List.length_cons, leNat, leBytes, hdiv, hlow, ih]

theorem width_bytes_pos (w : Width) : 0 < w.bytes := by cases w <;> decide

/-! ### Stores and read-modify-writes of memory -/

/-- No core holds a reservation on the first line of a span whose reservations have ended (12 R256). -/
theorem State.reserved_endReservations (s : State) (a n : Nat) (hn : 0 < n) (k : Core) :
    (s.endReservations a n).reserved k (a / 128) = false := by
  unfold State.endReservations
  split
  next hnone => simp [State.reserved, List.isEmpty_iff.mp hnone]
  next =>
    have hlast : a / 128 ≤ (a + n - 1) / 128 := Nat.div_le_div_right (by omega)
    simp only [State.reserved, List.any_eq_false, List.mem_filter, Bool.not_eq_true', Bool.and_eq_true, beq_iff_eq, not_and]
    intro r hr _ hline
    simp [hline, hlast] at hr

theorem State.clearBroken_coh (s : State) (a n : Nat) : (s.clearBroken a n).coh = s.coh := by
  unfold State.clearBroken
  split <;> rfl

section
variable (s : State) (cid : Cid) (who : Option (Nat × Word)) (h : Holder) (noLake : Bool) (a : Nat) (bs : List Byte)

/-- What a cached write does to memory (12 R238). -/
theorem State.cachedWrite_readByte (k : Nat) : (s.cachedWrite cid who h noLake a bs.length (leNat bs)).readByte k =
    if a ≤ k ∧ k < a + bs.length then bs.getD (k - a) 0 else s.readByte k := by
  have hkeep := (s.coreLines_store cid who h noLake a bs.length true).trans <|
    (State.endReservations_store _ a bs.length).trans (State.clearBroken_store _ a bs.length)
  unfold State.cachedWrite State.writeNat
  rw [leBytes_leNat, readByte_writeBytes, hkeep.readByte]

/-- What a cached write leaves of the cells. -/
theorem State.cachedWrite_cells (n v : Nat) : (s.cachedWrite cid who h noLake a n v).cells = s.cells :=
  ((s.coreLines_store cid who h noLake a n true).trans <|
    (State.endReservations_store _ a n).trans (State.clearBroken_store _ a n)).cells

/-- A cached write ends every reservation on its line (12 R256; log 15). -/
theorem State.cachedWrite_reserved (n v : Nat) (hn : 0 < n) (k : Core) :
    (s.cachedWrite cid who h noLake a n v).reserved k (a / 128) = false := by
  refine Eq.trans ?_ (State.reserved_endReservations (s.coreLines cid who h noLake a n true) a n hn k)
  exact congrArg (fun c : Coherence => c.resv.any fun r => r.1 == k && r.2.1 / 128 == a / 128) (State.clearBroken_coh _ a n)

end

/-- What a read-modify-write does to memory and leaves of the cells (12 R258). -/
theorem State.rmw_spec (s : State) (pa n : Nat) (fn : AtomicFn) (x y : Nat) :
    (s.rmw pa n fn x y).2 = s.readNat pa n ∧ (s.rmw pa n fn x y).1.cells = s.cells ∧
    ∀ k : Nat, (s.rmw pa n fn x y).1.readByte k = if pa ≤ k ∧ k < pa + n then
      (leBytes n (atomicNew fn (8 * n) (s.readNat pa n) x y)).getD (k - pa) 0 else s.readByte k := by
  have hkeep := (s.endReservations_store pa n).trans (State.clearBroken_store _ pa n)
  refine ⟨rfl, hkeep.cells, fun k => ?_⟩
  unfold State.rmw State.writeNat
  rw [readByte_writeBytes, leBytes_length, hkeep.readByte]

/-! ### The address of a control core's access (11 R218) -/

section
variable (s : State) (g : Nat) (j : Job) (va n : Nat) (k : AccKind)

theorem cellAddr_misaligned (h : va % n ≠ 0) : s.cellAddr g j va n k = (s, .bad stFormat) := by
  unfold State.cellAddr
  rw [if_pos h]

theorem cellAddr_window (h : va % n = 0) (hw : cellWindow ≤ va) : s.cellAddr g j va n k = (s, .window (va - cellWindow)) := by
  unfold State.cellAddr
  rw [if_neg (by simp [h]), if_pos hw]

theorem cellAddr_at (v : State) (a : Nat) (nl : Bool) (h : va % n = 0) (hw : va < cellWindow)
    (ht : s.translate (j.requester g) j.cid va n k = (v, .at a nl)) : s.cellAddr g j va n k = (v, .at a nl) := by
  unfold State.cellAddr
  rw [if_neg (by simp [h]), if_neg (Nat.not_le.2 hw), ht]

theorem cellAddr_bad (v : State) (st : Status) (h : va % n = 0) (hw : va < cellWindow)
    (ht : s.translate (j.requester g) j.cid va n k = (v, .bad st)) : s.cellAddr g j va n k = (v, .bad st) := by
  unfold State.cellAddr
  rw [if_neg (by simp [h]), if_neg (Nat.not_le.2 hw), ht]

end

/-! ### What an access does at its address -/

section
variable (s v : State) (g : CellId) (j : Job) (a n : Nat) (nl : Bool) (va : Nat)

/-- A load of memory that is reachable and neither held nor uncorrectable (12 R238). -/
theorem cellLoad_memory (rd : Nat) (sg : Bool) (haddr : s.cellAddr g j va n .coreLoad = (v, .at a nl)) (hloc : isRemote a = false)
    (hmem : v.cacheable a = true) (hway : v.ways (g.val / 64) a n = .clear) (hok : v.cacheOk j.cid (.dcache g) a n false = true)
    (hgood : v.coreBad (.dcache g) (v.badWords a n) = []) :
    s.cellLoad g j rd sg va n =
      (v.coreLines j.cid (some (j.ring, j.seq)) (.dcache g) nl a n false, .value (v.readNat a n)) := by
  unfold State.cellLoad
  rw [haddr]
  simp [hloc, hmem, hway, hok, hgood, State.cachedRead]

theorem cellStore_memory (bs : List Byte) (haddr : s.cellAddr g j va bs.length .coreStore = (v, .at a nl)) (hloc : isRemote a = false)
    (hmem : v.cacheable a = true) (hway : v.ways (g.val / 64) a bs.length = .clear)
    (hok : v.cacheOk j.cid (.dcache g) a bs.length true = true)
    (hgood : v.coreBad (.dcache g) (v.partWords a bs.length) = []) :
    s.cellStore g j va bs =
      (v.cachedWrite j.cid (some (j.ring, j.seq)) (.dcache g) nl a bs.length (leNat bs), .value 0) := by
  unfold State.cellStore
  simp only [haddr]
  simp [hloc, hmem, hway, hok, hgood]

theorem cellAtomic_memory (rd : Nat) (fn : AtomicFn) (x : Nat) (haddr : s.cellAddr g j va n .coreStore = (v, .at a nl))
    (hloc : isRemote a = false) (hmem : v.cacheable a = true) (hway : v.ways (g.val / 64) a n = .clear)
    (hok : v.siteOk j.cid (96 + g.val) (.dcache g) a n = true) (hgood : v.coreBad (.dcache g) (v.badWords a n) = []) :
    s.cellAtomic g j rd va n fn x =
      (let r := (v.atSite j.cid (some (j.ring, j.seq)) (96 + g.val) (.dcache g) nl a n).rmw a n fn x 0
       (r.1, .value r.2)) := by
  unfold State.cellAtomic
  rw [haddr]
  simp [hloc, State.cellRmw, hmem, hway, hok, hgood]

end

/-! ### The commands -/

section
variable (s : State) (g : CellId) (j : Job) (hup : s.phase = .up) (h : s.coreRuns g j)
include hup h

/-- The address of a load or store of a control core. -/
theorem exec_load_cell (w : Width) (sg : Bool) (rd rs1 : Reg) (imm : BitVec 12) (z : Bool) :
    let va := ((s.cell g).core.get rs1 + imm.signExtend 64).toNat
    exec (.load (.cell g w sg rd rs1 imm z)) s = .next (s.keepInputs
      (s.coreEnds g j rd sg w.bytes .coreLoad (s.cellLoad g j rd sg va w.bytes) (sizeOf2 z))) := by
  refine (live_up s (effLoad (.cell g w sg rd rs1 imm z)) hup).trans ?_
  rw [effLoad, State.onCore_runs s g j _ h]

theorem exec_store_cell (w : Width) (rs1 rs2 : Reg) (imm : BitVec 12) (z : Bool) :
    let va := ((s.cell g).core.get rs1 + imm.signExtend 64).toNat
    exec (.store (.cell g w rs1 rs2 imm z)) s = .next (s.keepInputs
      (s.coreEnds g j 0 false w.bytes .coreStore (s.cellStore g j va (leBytes w.bytes ((s.cell g).core.get rs2).toNat)) (sizeOf2 z))) := by
  refine (live_up s (effStore (.cell g w rs1 rs2 imm z)) hup).trans ?_
  rw [effStore, State.onCore_runs s g j _ h]

theorem exec_atomic_cas (d : Bool) (rd rs1 rs2 : Reg) :
    exec (.atomic (.cell g .cas d rd rs1 rs2)) s = .next (s.endItem g stFormat) := by
  refine (live_up s (effAtomic (.cell g .cas d rd rs1 rs2)) hup).trans ?_
  rw [effAtomic, State.onCore_runs s g j _ h]
  simp

theorem exec_atomic_cell (fn : AtomicFn) (hfn : fn ≠ .cas) (d : Bool) (rd rs1 rs2 : Reg) :
    let n := if d then 8 else 4
    exec (.atomic (.cell g fn d rd rs1 rs2)) s = .next (s.keepInputs (s.coreEnds g j rd true n .coreStore
      (s.cellAtomic g j rd ((s.cell g).core.get rs1).toNat n fn ((s.cell g).core.get rs2).toNat))) := by
  refine (live_up s (effAtomic (.cell g fn d rd rs1 rs2)) hup).trans ?_
  rw [effAtomic, State.onCore_runs s g j _ h]
  simp [hfn]

end

/-! ### Its end -/

/-- An instruction of any size retires on its cell alone (05 R88). -/
@[simp] theorem State.retire_sized_cell (s : State) (g rd n : Nat) (v : DWord) :
    (s.retire g rd v n).cell g = { s.cell g with core := (s.cell g).core.retire rd v n } := by
  unfold State.retire
  simp

@[simp] theorem State.retire_sized_mem (s : State) (g rd n : Nat) (v : DWord) : (s.retire g rd v n).mem = s.mem := rfl

/-- The cell of a core whose access has changed at most the ranges that its cache holds, once the instruction has retired. -/
theorem retire_cell_of_ranges {s v t : State} (g rd n : Nat) (x : DWord) (hv : SameButRanges s v) (ht : t.cells = v.cells) :
    ((t.retire g rd x n).cell g).core = (s.cell g).core.retire rd x n ∧ ((t.retire g rd x n).cell g).mem = (s.cell g).mem := by
  obtain ⟨y, hy⟩ := hv g
  have hcell : t.cell g = { s.cell g with xc := y } := by
    rw [← hy]
    unfold State.cell
    rw [ht]
  rw [State.retire_sized_cell, hcell]
  exact ⟨rfl, rfl⟩

/-- What a write of cell memory makes its bytes read (05 R87). -/
theorem Cell.write_mem (c : Cell) (a : Nat) (bs : List Byte) (k : Nat) :
    tabGet zeroByte (c.write a bs).mem k = if a ≤ k ∧ k < a + bs.length then bs.getD (k - a) 0 else tabGet zeroByte c.mem k :=
  tabGet_setMany zeroByte c.mem a k bs

/-! ### The clauses -/

section
variable (s : State) (g : CellId) (j : Job) (w : Width) (rd rs1 rs2 : Reg) (imm : BitVec 12) (z : Bool) (hup : s.phase = .up)
  (h : s.coreRuns g j)
include hup h

/-- A misaligned load or store ends the item (05 R95). -/
theorem exec_access_misaligned (hva : ((s.cell g).core.get rs1 + imm.signExtend 64).toNat % w.bytes ≠ 0) :
    (∀ sg, exec (.load (.cell g w sg rd rs1 imm z)) s = .next (s.endItem g stFormat)) ∧
    exec (.store (.cell g w rs1 rs2 imm z)) s = .next (s.endItem g stFormat) := by
  refine ⟨fun sg => ?_, ?_⟩
  · rw [exec_load_cell s g j hup h, State.cellLoad, cellAddr_misaligned s g j _ _ _ hva]
    exact congrArg _ (keepInputs_endItem s g stFormat)
  · rw [exec_store_cell s g j hup h, State.cellStore]
    simp only [leBytes_length, cellAddr_misaligned s g j _ _ _ hva]
    exact congrArg _ (keepInputs_endItem s g stFormat)

/-- A load in the window reads cell memory (05 R89). -/
theorem exec_load_window (sg : Bool) (hva : ((s.cell g).core.get rs1 + imm.signExtend 64).toNat % w.bytes = 0)
    (hw : cellWindow ≤ ((s.cell g).core.get rs1 + imm.signExtend 64).toNat) :
    exec (.load (.cell g w sg rd rs1 imm z)) s = .next (s.retire g rd (extended sg w.bytes
      ((s.cell g).readNat (((s.cell g).core.get rs1 + imm.signExtend 64).toNat - cellWindow) w.bytes)) (sizeOf2 z)) := by
  rw [exec_load_cell s g j hup h, State.cellLoad, cellAddr_window s g j _ _ _ hva hw]
  rfl

/-- A store in the window writes cell memory (05 R89). -/
theorem exec_store_window (hva : ((s.cell g).core.get rs1 + imm.signExtend 64).toNat % w.bytes = 0)
    (hw : cellWindow ≤ ((s.cell g).core.get rs1 + imm.signExtend 64).toNat) :
    exec (.store (.cell g w rs1 rs2 imm z)) s = .next ((s.setCell g
      ((s.cell g).write (((s.cell g).core.get rs1 + imm.signExtend 64).toNat - cellWindow)
        (leBytes w.bytes ((s.cell g).core.get rs2).toNat))).retire g 0 0 (sizeOf2 z)) := by
  rw [exec_store_cell s g j hup h, State.cellStore]
  simp only [leBytes_length, cellAddr_window s g j _ _ _ hva hw]
  rfl

/-- An atomic in the window acts on cell memory in place (log 66). -/
theorem exec_atomic_window (fn : AtomicFn) (hfn : fn ≠ .cas) (d : Bool)
    (hva : ((s.cell g).core.get rs1).toNat % (if d then 8 else 4) = 0) (hw : cellWindow ≤ ((s.cell g).core.get rs1).toNat) :
    let n := if d then 8 else 4
    let off := ((s.cell g).core.get rs1).toNat - cellWindow
    let old := (s.cell g).readNat off n
    exec (.atomic (.cell g fn d rd rs1 rs2)) s = .next ((s.setCell g
      ((s.cell g).write off (leBytes n (atomicNew fn (8 * n) old ((s.cell g).core.get rs2).toNat 0)))).retire g rd
        (BitVec.ofInt 64 (signedOf (8 * n) old)) 4) := by
  dsimp only
  rw [exec_atomic_cell s g j hup h fn hfn, State.cellAtomic, cellAddr_window s g j _ _ _ hva hw]
  rfl

/-- A load of translated memory (05 R89, 11 R218). -/
theorem exec_load_memory (sg : Bool) (v : State) (a : Nat) (nl : Bool)
    (hva : ((s.cell g).core.get rs1 + imm.signExtend 64).toNat % w.bytes = 0)
    (hlow : ((s.cell g).core.get rs1 + imm.signExtend 64).toNat < cellWindow) (hloc : isRemote a = false) (hmem : v.cacheable a = true)
    (hway : v.ways (g.val / 64) a w.bytes = .clear)
    (ht : s.translate (j.requester g) j.cid ((s.cell g).core.get rs1 + imm.signExtend 64).toNat w.bytes .coreLoad = (v, .at a nl))
    (hok : v.cacheOk j.cid (.dcache g) a w.bytes false = true) (hgood : v.coreBad (.dcache g) (v.badWords a w.bytes) = []) :
    ∃ t, exec (.load (.cell g w sg rd rs1 imm z)) s = .next t ∧ t.mem = s.mem ∧
      (t.cell g).core = (s.cell g).core.retire rd (extended sg w.bytes (s.readNat a w.bytes)) (sizeOf2 z) ∧
      (t.cell g).mem = (s.cell g).mem := by
  obtain ⟨hvmem, hranges⟩ := State.translate_at s v _ _ _ _ _ a nl ht
  have hread : v.readNat a w.bytes = s.readNat a w.bytes := by rw [State.readNat, State.readNat, State.readBytes, State.readBytes, hvmem]
  have hlines := v.coreLines_store j.cid (some (j.ring, j.seq)) (.dcache g) nl a w.bytes false
  refine ⟨_, exec_load_cell s g j hup h w sg rd rs1 imm z, ?_⟩
  rw [cellLoad_memory s v g j a w.bytes nl _ rd sg (cellAddr_at s g j _ _ _ v a nl hva hlow ht) hloc hmem hway hok hgood, hread]
  exact ⟨hlines.mem.trans hvmem, retire_cell_of_ranges g rd (sizeOf2 z) _ hranges hlines.cells⟩

/-- A store to translated memory (05 R89, 11 R218, 12 R256). -/
theorem exec_store_memory (v : State) (a : Nat) (nl : Bool)
    (hva : ((s.cell g).core.get rs1 + imm.signExtend 64).toNat % w.bytes = 0)
    (hlow : ((s.cell g).core.get rs1 + imm.signExtend 64).toNat < cellWindow) (hloc : isRemote a = false) (hmem : v.cacheable a = true)
    (hway : v.ways (g.val / 64) a w.bytes = .clear)
    (ht : s.translate (j.requester g) j.cid ((s.cell g).core.get rs1 + imm.signExtend 64).toNat w.bytes .coreStore = (v, .at a nl))
    (hok : v.cacheOk j.cid (.dcache g) a w.bytes true = true) (hgood : v.coreBad (.dcache g) (v.partWords a w.bytes) = []) :
    ∃ t, exec (.store (.cell g w rs1 rs2 imm z)) s = .next t ∧ (t.cell g).core = (s.cell g).core.retire 0 0 (sizeOf2 z) ∧
      (t.cell g).mem = (s.cell g).mem ∧ (∀ k : Core, t.reserved k (a / 128) = false) ∧
      ∀ k : Nat, t.readByte k =
        if a ≤ k ∧ k < a + w.bytes then (leBytes w.bytes ((s.cell g).core.get rs2).toNat).getD (k - a) 0 else s.readByte k := by
  obtain ⟨hvmem, hranges⟩ := State.translate_at s v _ _ _ _ _ a nl ht
  have hread : ∀ k, v.readByte k = s.readByte k := fun k => by rw [State.readByte, State.readByte, hvmem]
  generalize hbs : leBytes w.bytes ((s.cell g).core.get rs2).toNat = bs
  have hlen : bs.length = w.bytes := by rw [← hbs, leBytes_length]
  refine ⟨_, exec_store_cell s g j hup h w rs1 rs2 imm z, ?_⟩
  rw [hbs]
  simp only [← hlen] at hva hway ht hok hgood ⊢
  rw [cellStore_memory s v g j a nl _ bs (cellAddr_at s g j _ _ _ v a nl hva hlow ht) hloc hmem hway hok hgood]
  obtain ⟨hcore, hcmem⟩ := retire_cell_of_ranges g 0 (sizeOf2 z) (extended false bs.length 0) hranges
    (v.cachedWrite_cells j.cid (some (j.ring, j.seq)) (.dcache g) nl a bs.length (leNat bs))
  refine ⟨hcore, hcmem, fun k => ?_, fun k => ?_⟩
  · exact v.cachedWrite_reserved j.cid _ (.dcache g) nl a bs.length (leNat bs) (hlen ▸ width_bytes_pos w) k
  · rw [← hread]
    exact v.cachedWrite_readByte j.cid _ (.dcache g) nl a bs k

/-- An access whose translation fails ends the item with its status (05 R95, 11 R218). -/
theorem exec_load_untranslated (sg : Bool) (v : State) (st : Status)
    (hva : ((s.cell g).core.get rs1 + imm.signExtend 64).toNat % w.bytes = 0)
    (hlow : ((s.cell g).core.get rs1 + imm.signExtend 64).toNat < cellWindow)
    (ht : s.translate (j.requester g) j.cid ((s.cell g).core.get rs1 + imm.signExtend 64).toNat w.bytes .coreLoad = (v, .bad st)) :
    ∃ t, exec (.load (.cell g w sg rd rs1 imm z)) s = .next t ∧ t.mem = v.mem ∧ (t.cell g).job = some { j with ended := some st } := by
  refine ⟨_, exec_load_cell s g j hup h w sg rd rs1 imm z, ?_⟩
  obtain ⟨hjob, hend, -⟩ := h
  have hvjob := ((s.translate_cells v _ _ _ _ _ _ ht).job g).trans hjob
  rw [State.cellLoad, cellAddr_bad s g j _ _ _ v st hva hlow ht]
  exact ⟨by simp [State.coreEnds], State.endItem_job v g j st hvjob hend⟩

/-- An atomic on translated memory (12 R258). -/
theorem exec_atomic_memory (fn : AtomicFn) (hfn : fn ≠ .cas) (d : Bool) (v : State) (a : Nat) (nl : Bool) (n : Nat)
    (hn : n = if d then 8 else 4) (hva : ((s.cell g).core.get rs1).toNat % n = 0)
    (hlow : ((s.cell g).core.get rs1).toNat < cellWindow) (hloc : isRemote a = false)
    (ht : s.translate (j.requester g) j.cid ((s.cell g).core.get rs1).toNat n .coreStore = (v, .at a nl))
    (hmem : v.cacheable a = true) (hway : v.ways (g.val / 64) a n = .clear) (hok : v.siteOk j.cid (96 + g.val) (.dcache g) a n = true)
    (hgood : v.coreBad (.dcache g) (v.badWords a n) = []) :
    ∃ t, exec (.atomic (.cell g fn d rd rs1 rs2)) s = .next t ∧ (t.cell g).mem = (s.cell g).mem ∧
      (t.cell g).core = (s.cell g).core.retire rd (BitVec.ofInt 64 (signedOf (8 * n) (s.readNat a n))) 4 ∧
      ∀ k : Nat, t.readByte k = if a ≤ k ∧ k < a + n then
        (leBytes n (atomicNew fn (8 * n) (s.readNat a n) ((s.cell g).core.get rs2).toNat 0)).getD (k - a) 0 else s.readByte k := by
  obtain ⟨hvmem, hranges⟩ := State.translate_at s v _ _ _ _ _ a nl ht
  have hsite := v.atSite_store j.cid (some (j.ring, j.seq)) (96 + g.val) (.dcache g) nl a n
  have hstore : ∀ k, (v.atSite j.cid (some (j.ring, j.seq)) (96 + g.val) (.dcache g) nl a n).readByte k = s.readByte k := fun k => by
    rw [hsite.readByte, State.readByte, State.readByte, hvmem]
  have hread : (v.atSite j.cid (some (j.ring, j.seq)) (96 + g.val) (.dcache g) nl a n).readNat a n = s.readNat a n := by
    rw [hsite.readNat, State.readNat, State.readNat, State.readBytes, State.readBytes, hvmem]
  obtain ⟨hold, hcells, hbytes⟩ := State.rmw_spec (v.atSite j.cid (some (j.ring, j.seq)) (96 + g.val) (.dcache g) nl a n) a n fn
    ((s.cell g).core.get rs2).toNat 0
  refine ⟨_, exec_atomic_cell s g j hup h fn hfn d rd rs1 rs2, ?_⟩
  rw [← hn, cellAtomic_memory s v g j a n nl _ rd fn _ (cellAddr_at s g j _ _ _ v a nl hva hlow ht) hloc hmem hway hok hgood]
  obtain ⟨hcore, hcmem⟩ := retire_cell_of_ranges g rd 4 (extended true n (s.readNat a n)) hranges (hcells.trans hsite.cells)
  simp only [hold, hread]
  refine ⟨hcmem, hcore, fun k => ?_⟩
  rw [← hstore, ← hread]
  exact hbytes k

end

/-- Settles O28: the address decides where an access acts, and its outcome how the instruction ends. -/
theorem controlCoresAccessMemory : Obligations.ControlCoresAccessMemory := by
  unfold Obligations.ControlCoresAccessMemory
  intro s g j w rd rs1 rs2 imm z hup h
  refine ⟨exec_access_misaligned s g j w rd rs1 rs2 imm z hup h, fun d => exec_atomic_cas s g j hup h d rd rs1 rs2,
    fun hva hw => ⟨fun sg => exec_load_window s g j w rd rs1 imm z hup h sg hva hw, ?_⟩, ?_, ?_, ?_, ?_⟩
  · refine ⟨_, exec_store_window s g j w rs1 rs2 imm z hup h hva hw, by simp, by simp [Cell.write], fun k => ?_⟩
    simp [Cell.write_mem]
  · intro fn d m hfn hva hw
    refine ⟨_, exec_atomic_window s g j rd rs1 rs2 hup h fn hfn d hva hw, by simp, by simp [Cell.write, m], fun k => ?_⟩
    simp [Cell.write_mem, m]
  · intro v a nl hva hlow hloc hmem hway
    refine ⟨fun ht hok hgood sg => exec_load_memory s g j w rd rs1 imm z hup h sg v a nl hva hlow hloc hmem hway ht hok hgood,
      fun ht hok hgood => ?_⟩
    obtain ⟨t, hexec, hcore, hcmem, hresv, hbytes⟩ :=
      exec_store_memory s g j w rs1 rs2 imm z hup h v a nl hva hlow hloc hmem hway ht hok hgood
    refine ⟨t, hexec, ?_, ?_, hcmem, hresv, hbytes⟩
    · rw [hcore]
      rfl
    · rw [hcore]
      rfl
  · intro v st hva hlow ht sg
    exact exec_load_untranslated s g j w rd rs1 imm z hup h sg v st hva hlow ht
  · intro fn d v a nl m hfn hva hlow hloc ht hmem hway hok hgood
    obtain ⟨t, hexec, hcmem, hcore, hbytes⟩ :=
      exec_atomic_memory s g j rd rs1 rs2 hup h fn hfn d v a nl m rfl hva hlow hloc ht hmem hway hok hgood
    refine ⟨t, hexec, hcmem, by rw [hcore], ?_, hbytes⟩
    simp [hcore]

end Sys2Proof.Machine
end

section
/-! What a translation reads (11 R218, R220): nothing of the counters, of the commands or of the cells but the ranges that the requester's
cache holds, so states that agree in the rest translate alike. -/

namespace Sys2Proof.Machine

/-- A state without its counters, its commands and its cells. -/
def State.bare (s : State) : State := { s with logs := [], cmds := [], cells := [] }

/-- States that agree but for these. -/
structure Alike (s t : State) : Prop where
  bare : s.bare = t.bare

theorem Alike.refl (s : State) : Alike s s := ⟨rfl⟩

theorem Alike.symm {s t : State} (h : Alike s t) : Alike t s := ⟨h.bare.symm⟩

theorem Alike.trans {s t u : State} (h : Alike s t) (k : Alike t u) : Alike s u := ⟨h.bare.trans k.bare⟩

/-- What reads neither of the three reads alike. -/
theorem Alike.reads {α : Type} {s t : State} (h : Alike s t) (f : State → α) (hf : ∀ s, f s = f s.bare) : f s = f t := by
  rw [hf s, hf t, h.bare]

/-- What does not let them decide the rest does alike. -/
theorem Alike.op {s t : State} (h : Alike s t) (f : State → State) (hf : ∀ s, (f s).bare = (f s.bare).bare) : Alike (f s) (f t) :=
  ⟨by rw [hf s, hf t, h.bare]⟩

theorem Alike.foldl {α : Type} (f : State → α → State) (hf : ∀ s t a, Alike s t → Alike (f s a) (f t a)) (l : List α)
    {s t : State} (h : Alike s t) : Alike (l.foldl f s) (l.foldl f t) := by
  induction l generalizing s t with
  | nil => exact h
  | cons a l ih => exact ih (hf s t a h)

/-- A fold that changes nothing else. -/
theorem Alike.foldl_self {α : Type} (f : State → α → State) (hf : ∀ s a, Alike s (f s a)) (l : List α) (s : State) :
    Alike s (l.foldl f s) :=
  foldl_keeps (Alike s) f l s (Alike.refl s) fun t a h => h.trans (hf t a)

/-! ### Counters -/

theorem State.count_alike (s : State) (die event : Nat) (who : Option Cid) (n : Nat) : Alike s (s.count die event who n) := by
  obtain ⟨x, hx⟩ := State.count_only s die event who n
  rw [hx]
  exact ⟨rfl⟩

theorem State.tally_alike (s : State) (who : Option (Nat × Word)) (k n : Nat) : Alike s (s.tally who k n) := by
  obtain ⟨x, hx⟩ := State.tally_only s who k n
  rw [hx]
  exact ⟨rfl⟩

theorem State.countLinks_alike (ls : List Nat) (s : State) (src : Nat) (cid : Cid) (bytes : Nat) :
    Alike s (s.countLinks src cid bytes ls) := by
  induction ls generalizing s src with
  | nil => exact Alike.refl s
  | cons l ls ih =>
    unfold State.countLinks
    refine Alike.trans ?_ (ih _ _)
    split
    · exact State.count_alike s _ _ _ _
    · exact Alike.refl s

theorem State.sendOver_alike (s : State) (src dst a : Nat) (cid : Cid) (bytes : Nat) : Alike s (s.sendOver src dst a cid bytes) := by
  unfold State.sendOver
  split
  · exact State.countLinks_alike _ s src cid bytes
  · exact Alike.refl s

theorem State.countLines_alike (s : State) (src dst a n : Nat) (cid : Cid) (write : Bool) :
    Alike s (s.countLines src dst a n cid write) := by
  unfold State.countLines
  split
  · exact Alike.refl s
  · refine Alike.foldl_self _ (fun t p => ?_) _ s
    split
    all_goals exact (State.sendOver_alike t _ _ _ _ _).trans (State.sendOver_alike _ _ _ _ _ _)

/-! ### The quota and the Lake -/

section
variable {s t : State} (h : Alike s t)
include h

theorem Alike.quotaUse (cid : Cid) (a n : Nat) : Alike (s.quotaUse cid a n) (t.quotaUse cid a n) := by
  have hfj1 : s.fj1 = t.fj1 := h.reads State.fj1 fun _ => rfl
  unfold State.quotaUse
  rw [hfj1]
  split
  · split
    · exact Alike.foldl _ (fun u v st huv => huv.op (fun u : State =>
        { u with hbm := { u.hbm with quota := tabSet quotaDflt u.hbm.quota (12 * u.partitionOf cid + st)
                                                (tabGet quotaDflt u.hbm.quota (12 * u.partitionOf cid + st) + u.stackBytes a n st) } })
        fun _ => rfl) _ h
    · exact h
  · exact h

theorem Alike.lakeTouch (a n : Nat) (write alloc : Bool) : Alike (s.lakeTouch a n write alloc).1 (t.lakeTouch a n write alloc).1 :=
  h.op (fun s => (s.lakeTouch a n write alloc).1) fun s => by
    have hplace : s.bare.hbmPlace a = s.hbmPlace a := rfl
    have hway : ∀ c q, s.bare.lakeWay c q = s.lakeWay c q := fun _ _ => rfl
    unfold State.lakeTouch
    dsimp only
    rw [hplace, hway]
    split
    · cases write <;> rfl
    · cases alloc <;> rfl

omit h in
/-- Two counts and two tallies. -/
theorem State.counts_alike (s : State) (die e₁ e₂ n₁ n₂ k₁ k₂ m₁ m₂ : Nat) (cid : Option Cid) (who : Option (Nat × Word)) :
    Alike s ((((s.count die e₁ cid n₁).count die e₂ cid n₂).tally who k₁ m₁).tally who k₂ m₂) :=
  (State.count_alike s die e₁ cid n₁).trans <| (State.count_alike _ die e₂ cid n₂).trans <|
    (State.tally_alike _ who k₁ m₁).trans (State.tally_alike _ who k₂ m₂)

theorem Alike.seeLine (cid : Cid) (who : Option (Nat × Word)) (l n : Nat) (write alloc : Bool) :
    Alike (s.seeLine cid who l n write alloc) (t.seeLine cid who l n write alloc) :=
  (State.counts_alike _ _ _ _ _ _ _ _ _ _ _ _).symm.trans <|
    (h.lakeTouch l n write alloc).trans (State.counts_alike _ _ _ _ _ _ _ _ _ _ _ _)

theorem Alike.seeAccess (cid : Cid) (who : Option (Nat × Word)) (a n : Nat) (write noAlloc : Bool) :
    Alike (s.seeAccess cid who a n write noAlloc) (t.seeAccess cid who a n write noAlloc) := by
  unfold State.seeAccess
  split
  · refine Alike.foldl _ (fun u v l huv => ?_) _ h
    dsimp only
    exact huv.seeLine cid who l _ write _
  · exact (State.count_alike s _ _ _ _).symm.trans (h.trans (State.count_alike t _ _ _ _))
  · exact h

theorem Alike.memRead (cid : Cid) (a n : Nat) (noAlloc : Bool) (who : Option (Nat × Word)) :
    Alike (s.memRead cid a n noAlloc who).1 (t.memRead cid a n noAlloc who).1 :=
  (h.quotaUse cid a n).seeAccess cid who a n false noAlloc

/-! ### Paths and walks -/

omit h in
theorem State.pathsOf_bare (s : State) (dst n src : Nat) : s.pathsOf dst n src = s.bare.pathsOf dst n src := by
  induction n generalizing src with
  | zero => rfl
  | succ n ih =>
    simp only [State.pathsOf, ← ih]
    rfl

omit h in
theorem State.way_bare (s : State) (src dst a : Nat) : s.way src dst a = s.bare.way src dst a := by
  have hpath : ∀ odd, s.path src dst odd = s.bare.path src dst odd := fun odd => by
    simp only [State.path, ← State.pathsOf_bare]
    rfl
  unfold State.way
  rw [← hpath]
  rfl

theorem Alike.ways (src a n : Nat) : s.ways src a n = t.ways src a n :=
  h.reads (fun s => s.ways src a n) fun s => by
    unfold State.ways
    simp only [← State.way_bare]
    rfl

theorem Alike.quiet (a n : Nat) (write : Bool) (k : Option Holder) : s.quiet a n write k = t.quiet a n write k :=
  h.reads (fun s => s.quiet a n write k) fun _ => rfl

theorem Alike.quotaOk (cid : Cid) (a n : Nat) : s.quotaOk cid a n = t.quotaOk cid a n :=
  h.reads (fun s => s.quotaOk cid a n) fun _ => rfl

theorem Alike.brokenIn (a n : Nat) : s.brokenIn a n = t.brokenIn a n := h.reads (fun s => s.brokenIn a n) fun _ => rfl

theorem Alike.partlyBroken (a n : Nat) : s.partlyBroken a n = t.partlyBroken a n :=
  h.reads (fun s => s.partlyBroken a n) fun _ => rfl

theorem Alike.walkWay (die : Nat) (rs : List (Cid × Nat × Nat)) : s.walkWay die rs = t.walkWay die rs :=
  h.reads (fun s => s.walkWay die rs) fun s => by
    unfold State.walkWay State.memWays
    simp only [← State.way_bare]
    rfl

omit h in
theorem State.bisect_bare (s : State) (cid : Cid) (base va n lo hi below : Nat) (best : Option XEntry) :
    s.bisect cid base va n lo hi below best = s.bare.bisect cid base va n lo hi below best := by
  induction n generalizing lo hi below best with
  | zero => rfl
  | succ n ih =>
    simp only [State.bisect, ← ih]
    rfl

theorem Alike.walkOf (cid : Cid) (va : Nat) : s.walkOf cid va = t.walkOf cid va :=
  h.reads (fun s => s.walkOf cid va) fun s => by
    have hctx : s.bare.contextRead cid = s.contextRead cid := rfl
    unfold State.walkOf
    simp only [← State.bisect_bare, hctx]

theorem Alike.walkReady (die : Nat) (cid : Cid) (va : Nat) : s.walkReady die cid va = t.walkReady die cid va := by
  unfold State.walkReady
  simp only [h.walkOf, h.walkWay, h.quotaOk]

theorem Alike.seeWalk (die : Nat) (who : Option (Nat × Word)) (rs : List (Cid × Nat × Nat)) :
    Alike (s.seeWalk die who rs) (t.seeWalk die who rs) :=
  Alike.foldl _ (fun _ _ r huv => (State.countLines_alike _ _ _ _ _ _ _).symm.trans <|
    (huv.memRead r.1 r.2.1 r.2.2 false who).trans (State.countLines_alike _ _ _ _ _ _ _)) rs h

end

/-- Two outcomes are alike: the same, from states that are alike where the outcome is a good one. -/
def AlikeOut {α : Type} (good : α → Prop) (p q : State × α) : Prop := p.2 = q.2 ∧ (good p.2 → Alike p.1 q.1)

section
variable {s t : State} (h : Alike s t)
include h

theorem Alike.makeWalk (die : Nat) (cid : Cid) (va : Nat) (who : Option (Nat × Word)) :
    AlikeOut (fun r => ∃ e, r = .ok e) (s.makeWalk die cid va who) (t.makeWalk die cid va who) := by
  have hu : Alike (s.count die 0x0C (some cid) 1) (t.count die 0x0C (some cid) 1) :=
    (State.count_alike s _ _ _ _).symm.trans (h.trans (State.count_alike t _ _ _ _))
  rw [State.makeWalk_eq, State.makeWalk_eq, hu.walkOf, hu.walkWay]
  split
  · exact ⟨rfl, fun hok => by cases hok; contradiction⟩
  · split
    next => exact ⟨rfl, fun ⟨e, he⟩ => by cases he⟩
    next => exact ⟨rfl, fun _ => hu.seeWalk die who _⟩

omit h in
theorem State.setCell_alike (s : State) (g : Nat) (x : Cell) : Alike s (s.setCell g x) := ⟨rfl⟩

theorem Alike.install (w : Requester) (e : XEntry) : Alike (s.install w e) (t.install w e) := by
  have hdie : Alike (s.setOchre w.die { s.ochre w.die with xc := (e :: (s.ochre w.die).xc.filter (· != e)).take 2048 })
      (t.setOchre w.die { t.ochre w.die with xc := (e :: (t.ochre w.die).xc.filter (· != e)).take 2048 }) :=
    h.op (fun s => s.setOchre w.die { s.ochre w.die with xc := (e :: (s.ochre w.die).xc.filter (· != e)).take 2048 }) fun _ => rfl
  unfold State.install
  dsimp only
  split
  · exact hdie
  · exact (State.setCell_alike _ _ _).symm.trans (hdie.trans (State.setCell_alike _ _ _))

theorem Alike.dieMiss (w : Requester) (cid : Cid) (va kind : Nat) :
    AlikeOut (fun f => ∀ st, f ≠ .bad st) (s.dieMiss w cid va kind) (t.dieMiss w cid va kind) := by
  have ho : s.ochre w.die = t.ochre w.die := h.reads (fun s => s.ochre w.die) fun _ => rfl
  unfold State.dieMiss
  simp only [ho, h.walkReady]
  split
  · exact ⟨rfl, fun _ => h⟩
  split
  · refine ⟨rfl, fun _ => ?_⟩
    dsimp only
    split
    · exact h
    · exact h.op (fun s => s.setOchre w.die _) fun _ => rfl
  split
  · exact ⟨rfl, fun _ => h⟩
  obtain ⟨hout, hstate⟩ := h.makeWalk w.die cid va w.cmd
  generalize s.makeWalk w.die cid va w.cmd = p at hout hstate
  generalize t.makeWalk w.die cid va w.cmd = q at hout hstate
  obtain ⟨u, r⟩ := p
  obtain ⟨v, r'⟩ := q
  obtain rfl : r = r' := hout
  cases r with
  | ok e => exact ⟨rfl, fun _ => (hstate ⟨e, rfl⟩).install w e⟩
  | error st => exact ⟨rfl, fun hne => absurd rfl (hne st)⟩

/-- The range that the requester's own cache holds for an address. -/
def State.cellRange (s : State) (w : Requester) (cid : Cid) (va : Nat) : Option XEntry :=
  match w.cell with
  | none => none
  | some g => (s.cell g).xc.find? fun (e : XEntry) => e.covers cid va

omit h in
theorem State.lookup_eq (s : State) (w : Requester) (cid : Cid) (va kind : Nat) :
    s.lookup w cid va kind =
      if cellWindow ≤ va then (s, .bad stRange)
      else match s.cellRange w cid va with
      | some e => (s, .entry e)
      | none =>
        match (s.ochre w.die).xc.find? fun (e : XEntry) => e.covers cid va with
        | some e => (s.install w e, .entry e)
        | none => s.dieMiss w cid va kind := rfl

/-- Where the requester is a cell, its cache holds the same ranges. -/
theorem Alike.lookup (w : Requester) (cid : Cid) (va kind : Nat) (hxc : ∀ g, w.cell = some g → (s.cell g).xc = (t.cell g).xc) :
    AlikeOut (fun f => ∀ st, f ≠ .bad st) (s.lookup w cid va kind) (t.lookup w cid va kind) := by
  have ho : s.ochre w.die = t.ochre w.die := h.reads (fun s => s.ochre w.die) fun _ => rfl
  have hcell : s.cellRange w cid va = t.cellRange w cid va := by
    unfold State.cellRange
    cases hw : w.cell with
    | none => rfl
    | some g => simp only [hxc g hw]
  rw [State.lookup_eq, State.lookup_eq, ho, hcell]
  split
  · exact ⟨rfl, fun _ => h⟩
  split
  · exact ⟨rfl, fun _ => h⟩
  split
  · exact ⟨rfl, fun _ => h.install w _⟩
  · exact h.dieMiss w cid va kind

theorem Alike.translate (w : Requester) (cid : Cid) (va n : Nat) (k : AccKind)
    (hxc : ∀ g, w.cell = some g → (s.cell g).xc = (t.cell g).xc) :
    AlikeOut (fun x => ∀ st, x ≠ .bad st) (s.translate w cid va n k) (t.translate w cid va n k) := by
  obtain ⟨hout, hstate⟩ := h.lookup w cid va k.code hxc
  unfold State.translate
  generalize s.lookup w cid va k.code = p at hout hstate ⊢
  generalize t.lookup w cid va k.code = q at hout hstate ⊢
  obtain ⟨u, f⟩ := p
  obtain ⟨v, f'⟩ := q
  obtain rfl : f = f' := hout
  cases f with
  | bad st => exact ⟨rfl, fun hne => absurd rfl (hne st)⟩
  | waits => exact ⟨rfl, fun _ => hstate (by simp)⟩
  | entry e =>
    have huv : Alike u v := hstate (by simp)
    have hloc : ∀ a, u.localise a = v.localise a := fun a => huv.reads (fun s => s.localise a) fun _ => rfl
    have hcheck : ∀ a, u.checkLocal cid k.isWrite a n e.nolake = v.checkLocal cid k.isWrite a n e.nolake := fun a =>
      huv.reads (fun s => s.checkLocal cid k.isWrite a n e.nolake) fun _ => rfl
    dsimp only
    generalize (if k = .fetch then e.x else if k.isWrite then e.w else e.r) = allowed
    rw [hloc, hcheck]
    split
    · exact ⟨rfl, fun _ => huv⟩
    split
    · exact ⟨rfl, fun _ => huv⟩
    split
    · exact ⟨rfl, fun _ => huv⟩
    · exact ⟨rfl, fun _ => huv⟩

end

end Sys2Proof.Machine
end

section
/-! The stream engine and migration (05 R100, R101, 13 R271): O19. -/

namespace Sys2Proof.Machine

/-! ### Bytes read from a table -/

theorem tabGetMany_length {α : Type} (d : Nat → α) (t : Tab α) (k n : Nat) : (tabGetMany d t k n).length = n := by
  induction n generalizing k with
  | zero => rfl
  | succ n ih => simp [tabGetMany, ih]

theorem tabGetMany_getD {α : Type} (d : Nat → α) (t : Tab α) (k n i : Nat) (x : α) (h : i < n) :
    (tabGetMany d t k n).getD i x = tabGet d t (k + i) := by
  induction n generalizing k i with
  | zero => omega
  | succ n ih =>
    cases i with
    | zero => rfl
    | succ i =>
      have hstep : k + 1 + i = k + (i + 1) := by omega
      rw [tabGetMany, List.getD_cons_succ, ih (k + 1) i (by omega), hstep]

/-- The one piece of a row that lies in one granule. -/
theorem Cell.read_row (c : Cell) (off n va : Nat) : (((c.read off n).drop (va - va)).take n) = c.read off n := by
  rw [Nat.sub_self, List.drop_zero]
  exact List.take_of_length_le (Nat.le_of_eq (tabGetMany_length ..))

/-! ### Local memory: reads and writes of one piece (11 R218, 12 R236) -/

section
variable (s : State) (w : Requester) (cid : Cid) (noAlloc : Bool) {a : Nat}

theorem State.readHere_memory {n : Nat} (hmem : isMemory a = true) (hquiet : s.quiet a n false none = true)
    (hquota : s.quotaOk cid a n = true) (hgood : s.brokenIn a n = false) :
    s.readHere w cid a n noAlloc = ((s.memRead cid a n noAlloc w.cmd).1, .bytes (s.readBytes a n)) := by
  unfold isMemory at hmem
  unfold State.readHere
  split
  next hp => simp [hp] at hmem
  next hp => simp [hp] at hmem
  next => simp [hquiet, hquota, hgood, State.memRead]

theorem State.writeHere_memory {bs : List Byte} (hmem : isMemory a = true) (hquiet : s.quiet a bs.length true none = true)
    (hquota : s.quotaOk cid a bs.length = true) (hgood : s.partlyBroken a bs.length = false) :
    s.writeHere w cid a bs noAlloc = (s.memWrite cid a bs noAlloc w.cmd, .done) := by
  unfold isMemory at hmem
  unfold State.writeHere
  split
  next hp => simp [hp] at hmem
  next hp => simp [hp] at hmem
  next => simp [hquiet, hquota, hgood]

theorem State.readLocal_memory {n : Nat} (hmem : isMemory a = true) (hway : s.ways w.die a n = .clear)
    (hquiet : s.quiet a n false none = true) (hquota : s.quotaOk cid a n = true) (hgood : s.brokenIn a n = false) :
    s.readLocal w cid a n noAlloc =
      ((s.memRead cid a n noAlloc w.cmd).1.crosses w.die a n cid false, .bytes (s.readBytes a n)) := by
  unfold State.readLocal
  rw [hway, s.readHere_memory w cid noAlloc hmem hquiet hquota hgood]

theorem State.writeLocal_memory {bs : List Byte} (hmem : isMemory a = true) (hway : s.ways w.die a bs.length = .clear)
    (hquiet : s.quiet a bs.length true none = true) (hquota : s.quotaOk cid a bs.length = true)
    (hgood : s.partlyBroken a bs.length = false) :
    s.writeLocal w cid a bs noAlloc = ((s.memWrite cid a bs noAlloc w.cmd).crosses w.die a bs.length cid true, .done) := by
  unfold State.writeLocal
  rw [hway, s.writeHere_memory w cid noAlloc hmem hquiet hquota hgood]

theorem State.bgWrite_readByte (bs : List Byte) (who : Option (Nat × Word)) (k : Nat) :
    (s.bgWrite cid a bs noAlloc who).readByte k = if a ≤ k ∧ k < a + bs.length then bs.getD (k - a) 0 else s.readByte k := by
  have hkeep := (s.dropCopies_store a bs.length).trans <| (State.seeAccess_store _ cid who a bs.length true noAlloc).trans <|
    (State.clearBroken_store _ a bs.length).trans (State.endReservations_store _ a bs.length)
  unfold State.bgWrite
  rw [readByte_writeBytes, hkeep.readByte]

theorem State.memWrite_readByte (bs : List Byte) (who : Option (Nat × Word)) (k : Nat) :
    (s.memWrite cid a bs noAlloc who).readByte k = if a ≤ k ∧ k < a + bs.length then bs.getD (k - a) 0 else s.readByte k := by
  unfold State.memWrite
  rw [State.bgWrite_readByte, (s.quotaUse_store cid a bs.length).readByte]

theorem State.memWrite_cells (bs : List Byte) (who : Option (Nat × Word)) : (s.memWrite cid a bs noAlloc who).cells = s.cells :=
  (State.bgWrite_cells _ cid a bs noAlloc who).trans (s.quotaUse_store cid a bs.length).cells

variable {v : State} {nl : Bool}

/-- A read of reachable memory gives its bytes and leaves memory and the cells. -/
theorem State.readPiece_memory {va n : Nat} {k : AccKind} (ht : s.translate w cid va n k = (v, .at a nl)) (hloc : isRemote a = false)
    (hmem : isMemory a = true) (hway : v.ways w.die a n = .clear) (hquiet : v.quiet a n false none = true)
    (hquota : v.quotaOk cid a n = true) (hgood : v.brokenIn a n = false) :
    ∃ u, s.readPiece w cid va n k noAlloc = (u, .bytes (v.readBytes a n)) ∧ SameStore v u := by
  refine ⟨_, ?_, (v.memRead_store cid a n (noAlloc || nl) w.cmd).trans (State.crosses_store _ w.die a n cid false)⟩
  unfold State.readPiece
  rw [ht]
  simp only [hloc, Bool.false_eq_true, if_false]
  exact v.readLocal_memory w cid _ hmem hway hquiet hquota hgood

/-- A write of reachable memory stores its bytes and leaves the cells. -/
theorem State.writePiece_memory {va : Nat} {bs : List Byte} {k : AccKind} (ht : s.translate w cid va bs.length k = (v, .at a nl))
    (hloc : isRemote a = false) (hmem : isMemory a = true) (hway : v.ways w.die a bs.length = .clear)
    (hquiet : v.quiet a bs.length true none = true) (hquota : v.quotaOk cid a bs.length = true)
    (hgood : v.partlyBroken a bs.length = false) :
    ∃ u, s.writePiece w cid va bs k noAlloc = (u, .done) ∧ u.cells = v.cells ∧
      ∀ k : Nat, u.readByte k = if a ≤ k ∧ k < a + bs.length then bs.getD (k - a) 0 else v.readByte k := by
  have hcross := State.crosses_store (v.memWrite cid a bs (noAlloc || nl) w.cmd) w.die a bs.length cid true
  refine ⟨_, ?_, hcross.cells.trans (v.memWrite_cells cid (noAlloc || nl) bs w.cmd),
    fun k => (hcross.readByte k).trans (v.memWrite_readByte cid (noAlloc || nl) bs w.cmd k)⟩
  unfold State.writePiece
  rw [ht]
  simp only [hloc, Bool.false_eq_true, if_false]
  exact v.writeLocal_memory w cid _ hmem hway hquiet hquota hgood

theorem State.readPiece_bad {va n : Nat} {k : AccKind} {st : Status} (ht : (s.translate w cid va n k).2 = .bad st) :
    s.readPiece w cid va n k noAlloc = ((s.translate w cid va n k).1, .bad st) := by
  unfold State.readPiece
  generalize s.translate w cid va n k = r at ht
  obtain ⟨t, x⟩ := r
  obtain rfl : x = .bad st := ht
  rfl

theorem State.writePiece_bad {va : Nat} {bs : List Byte} {k : AccKind} {st : Status}
    (ht : (s.translate w cid va bs.length k).2 = .bad st) :
    s.writePiece w cid va bs k noAlloc = ((s.translate w cid va bs.length k).1, .bad st) := by
  unfold State.writePiece
  generalize s.translate w cid va bs.length k = r at ht
  obtain ⟨t, x⟩ := r
  obtain rfl : x = .bad st := ht
  rfl

end

/-! ### The engine's queue -/

/-- The first descriptor that is not done becomes done. -/
theorem filter_modify_done (f : StreamDesc → StreamDesc) (hf : ∀ q, (f q).done = true) (l : List StreamDesc) (k : Nat)
    (h : (l.findIdx? fun q => !q.done) = some k) :
    ((l.modify k f).filter fun q => !q.done) = (l.filter fun q => !q.done).tail := by
  induction l generalizing k with
  | nil => simp at h
  | cons q l ih =>
    rw [List.findIdx?_cons] at h
    cases hq : q.done with
    | false =>
      obtain rfl : 0 = k := by simpa [hq] using h
      simp [hf, hq]
    | true =>
      simp only [hq, Bool.not_true, Bool.false_eq_true, if_false, Option.map_eq_some_iff] at h
      obtain ⟨i, hi, rfl⟩ := h
      simp [hq, ih i hi]

section
variable (s : State) (g : Nat) (j : Job) (d : SDesc)

theorem State.onDesc_cell (f : StreamDesc → StreamDesc) : ∃ q, (s.onDesc g f).cell g =
    { s.cell g with str := { (s.cell g).str with queue := q } } ∧
    q = (s.cell g).str.queue.modify (((s.cell g).str.queue.findIdx? fun q => !q.done).getD 0) f :=
  ⟨_, by unfold State.onDesc; simp, rfl⟩

theorem State.onDesc_mem (f : StreamDesc → StreamDesc) : (s.onDesc g f).mem = s.mem := by
  unfold State.onDesc
  simp

theorem State.countStream_store (n : Nat) : SameStore s (s.countStream g j n) :=
  (s.count_store _ _ _ n).trans (State.tally_store _ _ _ n)

/-! ### The state in which a row moves -/

/-- How a descriptor's rows reach memory. -/
def SDesc.access (d : SDesc) : AccKind := if d.store then .streamWrite else .streamRead

/-- A fine-path access is counted before its row moves. -/
def State.rowCounted (s : State) (g : Nat) (j : Job) (d : SDesc) (va : Nat) : State :=
  if d.gather then s.countFine (j.requester g) j.cid va d.access else s

theorem State.rowCounted_is (va : Nat) :
    s.rowCounted g j d va = s ∨ ∃ die, s.rowCounted g j d va = s.count die 0x0B (some j.cid) 1 := by
  unfold State.rowCounted State.countFine
  split
  · split
    · split
      · exact .inr ⟨_, rfl⟩
      · exact .inl rfl
    · exact .inl rfl
  · exact .inl rfl

theorem State.rowCounted_alike (va : Nat) : Alike s (s.rowCounted g j d va) := by
  obtain h | ⟨die, h⟩ := s.rowCounted_is g j d va
  all_goals rw [h]
  · exact Alike.refl s
  · exact s.count_alike _ _ _ _

theorem State.rowCounted_store (va : Nat) : SameStore s (s.rowCounted g j d va) := by
  obtain h | ⟨die, h⟩ := s.rowCounted_is g j d va
  all_goals rw [h]
  · exact SameStore.refl s
  · exact s.count_store _ _ _ _

/-! ### One row (05 R100, R101) -/

section
variable {i va off n : Nat} (hrow : (s.cell g).rowAt d i = (va, off, n)) (hone : granulePieces va n = [(va, n)])
include hrow hone

theorem moveRow_load (t : State) (bs : List Byte) (hload : d.store = false)
    (hread : (s.rowCounted g j d va).readPiece (j.requester g) j.cid va n .streamRead (d.gather || d.noAlloc) = (t, .bytes bs)) :
    s.moveRow g j d i = (t.setCell g ((t.cell g).write off bs), .moved) := by
  unfold State.rowCounted SDesc.access at hread
  unfold State.moveRow
  simp only [hrow, hone, hload, Bool.false_eq_true, if_false] at hread ⊢
  simp [State.loadPieces, hread]

theorem moveRow_load_bad (t : State) (st : Status) (hload : d.store = false)
    (hread : (s.rowCounted g j d va).readPiece (j.requester g) j.cid va n .streamRead (d.gather || d.noAlloc) = (t, .bad st)) :
    s.moveRow g j d i = (t.setCell g { t.cell g with mem := (s.cell g).mem }, .bad st) := by
  unfold State.rowCounted SDesc.access at hread
  unfold State.moveRow
  simp only [hrow, hone, hload, Bool.false_eq_true, if_false] at hread ⊢
  simp [State.loadPieces, hread]

theorem moveRow_store (t : State) (hstore : d.store = true)
    (hwrite : (s.rowCounted g j d va).writePiece (j.requester g) j.cid va ((s.cell g).read off n) .streamWrite (d.gather || d.noAlloc) =
      (t, .done)) :
    s.moveRow g j d i = (t, .moved) := by
  unfold State.rowCounted SDesc.access at hwrite
  unfold State.moveRow
  simp only [hrow, hone, hstore, if_true] at hwrite ⊢
  simp only [State.storePieces, Cell.read_row, hwrite]

theorem moveRow_store_bad (t : State) (st : Status) (hstore : d.store = true)
    (hwrite : (s.rowCounted g j d va).writePiece (j.requester g) j.cid va ((s.cell g).read off n) .streamWrite (d.gather || d.noAlloc) =
      (t, .bad st)) :
    s.moveRow g j d i = (t, .bad st) := by
  unfold State.rowCounted SDesc.access at hwrite
  unfold State.moveRow
  simp only [hrow, hone, hstore, if_true] at hwrite ⊢
  simp only [State.storePieces, State.badPiece, Cell.read_row, hwrite, List.findSome?_cons, Option.getD_some]

end

theorem moveRows_last (i : Nat) (t : State) (h : s.moveRow g j d i = (t, .moved)) :
    s.moveRows g j d 1 i = (t.countStream g j (if d.gather then 32 else d.rowb)).onDesc g
      fun q => { q with moved := i + 1, done := true } := by
  rw [State.moveRows, h]
  rfl

theorem moveRows_bad (n i : Nat) (t : State) (st : Status) (h : s.moveRow g j d i = (t, .bad st)) :
    s.moveRows g j d (n + 1) i = t.endItem g st := by
  rw [State.moveRows, h]

end

/-! ### The clauses -/

section
variable (s : State) (g : CellId) (j : Job) (d : SDesc)

/-- The cell once its next row has no response to wait for. -/
def Cell.unsent (c : Cell) : Cell := { c with str := { c.str with sent := false } }

theorem setSent_cell : (s.setSent g false).cell g = (s.cell g).unsent := by
  unfold State.setSent
  simp [Cell.unsent]

theorem rowAt_unsent (i : Nat) : (s.cell g).unsent.rowAt d i = (s.cell g).rowAt d i := rfl

theorem rowStart_cell (va : Nat) : ((s.setSent g false).rowCounted g j d va).cell g = (s.cell g).unsent := by
  rw [((s.setSent g false).rowCounted_store g j d va).cell, setSent_cell]

theorem rowStart_mem (va : Nat) : ((s.setSent g false).rowCounted g j d va).mem = s.mem := by
  rw [((s.setSent g false).rowCounted_store g j d va).mem]
  unfold State.setSent
  simp

/-- The row translates as it does from the state before. -/
theorem rowStart_translate (va n : Nat) (k : AccKind) :
    AlikeOut (fun x => ∀ st, x ≠ .bad st) (s.translate (j.requester g) j.cid va n k)
      (((s.setSent g false).rowCounted g j d va).translate (j.requester g) j.cid va n k) := by
  have halike : Alike s ((s.setSent g false).rowCounted g j d va) :=
    (s.setCell_alike g.val _).trans ((s.setSent g false).rowCounted_alike g j d va)
  refine halike.translate (j.requester g) j.cid va n k fun h hh => ?_
  obtain rfl : g.val = h := Option.some.inj hh
  rw [rowStart_cell]
  rfl

theorem rowStart_translate_at {v : State} {va n a : Nat} {k : AccKind} {nl : Bool}
    (ht : s.translate (j.requester g) j.cid va n k = (v, .at a nl)) :
    ∃ w x, ((s.setSent g false).rowCounted g j d va).translate (j.requester g) j.cid va n k = (w, .at a nl) ∧ Alike v w ∧
      w.mem = s.mem ∧ w.cell g = { (s.cell g).unsent with xc := x } := by
  obtain ⟨hout, hstate⟩ := rowStart_translate s g j d va n k
  rw [ht] at hout hstate
  generalize hw : ((s.setSent g false).rowCounted g j d va).translate (j.requester g) j.cid va n k = r at hout hstate
  obtain ⟨w, y⟩ := r
  obtain rfl : Xlated.at a nl = y := hout
  obtain ⟨hmem, hcell⟩ := State.translate_at _ w _ _ _ _ _ a nl hw
  obtain ⟨x, hx⟩ := hcell g
  rw [rowStart_cell] at hx
  exact ⟨w, x, rfl, hstate (by simp), hmem.trans (rowStart_mem s g j d va), hx⟩

theorem rowStart_translate_bad {va n : Nat} {k : AccKind} {st : Status} (ht : (s.translate (j.requester g) j.cid va n k).2 = .bad st) :
    ∃ w x, ((s.setSent g false).rowCounted g j d va).translate (j.requester g) j.cid va n k = (w, .bad st) ∧
      (st ≠ stMemUe → w.mem = s.mem) ∧ w.cell g = { (s.cell g).unsent with xc := x } := by
  obtain ⟨hout, -⟩ := rowStart_translate s g j d va n k
  obtain ⟨hcell, hmem⟩ := ((s.setSent g false).rowCounted g j d va).translate_keeps (j.requester g) j.cid va n k
  rw [ht] at hout
  generalize ((s.setSent g false).rowCounted g j d va).translate (j.requester g) j.cid va n k = r at hout hcell hmem
  obtain ⟨w, y⟩ := r
  obtain rfl : Xlated.bad st = y := hout
  obtain ⟨x, hx⟩ := hcell g
  rw [rowStart_cell] at hx
  exact ⟨w, x, rfl, fun hst => (hmem fun e => hst (Xlated.bad.inj e)).trans (rowStart_mem s g j d va), hx⟩

/-- The last row's descriptor is done. -/
theorem rowDone {q : StreamDesc} (hq : ((s.cell g).str.queue.find? fun q => !q.done) = some q) (r : State) (b i : Nat)
    (hqueue : (r.cell g).str.queue = (s.cell g).str.queue) :
    let t := s.keepInputs ((r.countStream g j b).onDesc g fun q => { q with moved := i, done := true })
    t.mem = r.mem ∧ (t.cell g).mem = (r.cell g).mem ∧
      ((t.cell g).str.queue.filter fun q => !q.done) = ((s.cell g).str.queue.filter fun q => !q.done).tail := by
  have hstore := r.countStream_store g j b
  obtain ⟨l, hl, hmod⟩ := (r.countStream g j b).onDesc_cell g fun q => { q with moved := i, done := true }
  rw [hstore.cell, hqueue] at hmod
  have hdone : (l.filter fun q => !q.done) = ((s.cell g).str.queue.filter fun q => !q.done).tail := by
    obtain ⟨k, hk⟩ : ∃ k, ((s.cell g).str.queue.findIdx? fun q => !q.done) = some k := by
      rw [← Option.isSome_iff_exists, List.findIdx?_isSome, List.any_eq_true]
      exact ⟨q, List.mem_of_find?_eq_some hq, by simpa using List.find?_some hq⟩
    rw [hk] at hmod
    rw [hmod]
    exact filter_modify_done _ (fun _ => rfl) _ k hk
  refine ⟨?_, ?_, ?_⟩
  · simpa using ((r.countStream g j b).onDesc_mem g _).trans hstore.mem
  · simp [hl, hstore.cell]
  · simpa [hl] using hdone

/-! ### The row of a descriptor, after the wait for responses -/

section
variable {i va off n : Nat} (hrow : (s.cell g).rowAt d i = (va, off, n)) (hone : granulePieces va n = [(va, n)])
include hrow hone

/-- A failed translation decides the row (05 R101). -/
theorem moveRow_fails {st : Status} (ht : (s.translate (j.requester g) j.cid va n d.access).2 = .bad st) :
    ∃ u, (s.setSent g false).moveRow g j d i = (u, .bad st) ∧ (st ≠ stMemUe → u.mem = s.mem) ∧
      (u.cell g).job = (s.cell g).job := by
  rw [← rowAt_unsent, ← setSent_cell] at hrow
  obtain ⟨w, x, hw, hmem, hcell⟩ := rowStart_translate_bad s g j d ht
  cases hkind : d.store with
  | false =>
    rw [show d.access = .streamRead by simp [SDesc.access, hkind]] at hw
    have hread := State.readPiece_bad _ (j.requester g) j.cid (d.gather || d.noAlloc) (congrArg Prod.snd hw)
    rw [hw] at hread
    exact ⟨_, moveRow_load_bad _ g j d hrow hone w st hkind hread, fun hst => by simpa using hmem hst,
      by rw [State.setCell_cell, if_pos rfl, hcell]; rfl⟩
  | true =>
    have hlen : (((s.setSent g false).cell g).read off n).length = n := tabGetMany_length ..
    rw [show d.access = .streamWrite by simp [SDesc.access, hkind], ← hlen] at hw
    have hwrite := State.writePiece_bad _ (j.requester g) j.cid (d.gather || d.noAlloc) (congrArg Prod.snd hw)
    rw [hw] at hwrite
    exact ⟨w, moveRow_store_bad _ g j d hrow hone w st hkind hwrite, hmem, by rw [hcell]; rfl⟩

section
variable {v : State} {a : Nat} {nl : Bool} (hloc : isRemote a = false) (hmem : isMemory a = true)
  (hway : v.ways (g.val / 64) a n = .clear) (hquota : v.quotaOk j.cid a n = true)
include hloc hmem hway hquota

/-- A load copies memory to cell memory (05 R100). -/
theorem moveRow_loads (hload : d.store = false) (ht : s.translate (j.requester g) j.cid va n .streamRead = (v, .at a nl))
    (hquiet : v.quiet a n false none = true) (hgood : v.brokenIn a n = false) :
    ∃ (u : State) (x : List XEntry),
      (s.setSent g false).moveRow g j d i = (u.setCell g ((u.cell g).write off (s.readBytes a n)), .moved) ∧ u.mem = s.mem ∧
      u.cell g = { (s.cell g).unsent with xc := x } := by
  rw [← rowAt_unsent, ← setSent_cell] at hrow
  obtain ⟨w, x, hw, halike, hwmem, hwcell⟩ := rowStart_translate_at s g j d ht
  rw [halike.ways] at hway
  rw [halike.quiet] at hquiet
  rw [halike.quotaOk] at hquota
  rw [halike.brokenIn] at hgood
  obtain ⟨u, hread, hseen⟩ :=
    State.readPiece_memory _ (j.requester g) j.cid (d.gather || d.noAlloc) hw hloc hmem hway hquiet hquota hgood
  have hbytes : w.readBytes a n = s.readBytes a n := by rw [State.readBytes, hwmem, State.readBytes]
  rw [hbytes] at hread
  exact ⟨u, x, moveRow_load _ g j d hrow hone u _ hload hread, hseen.mem.trans hwmem, (hseen.cell g).trans hwcell⟩

/-- A store copies cell memory to memory (05 R100). -/
theorem moveRow_stores (hstore : d.store = true) (ht : s.translate (j.requester g) j.cid va n .streamWrite = (v, .at a nl))
    (hquiet : v.quiet a n true none = true) (hgood : v.partlyBroken a n = false) :
    ∃ u x, (s.setSent g false).moveRow g j d i = (u, .moved) ∧ u.cell g = { (s.cell g).unsent with xc := x } ∧
      ∀ k : Nat, u.readByte k = if a ≤ k ∧ k < a + n then tabGet zeroByte (s.cell g).mem (off + (k - a)) else s.readByte k := by
  rw [← rowAt_unsent, ← setSent_cell] at hrow
  obtain ⟨w, x, hw, halike, hwmem, hwcell⟩ := rowStart_translate_at s g j d ht
  rw [halike.ways] at hway
  rw [halike.quiet] at hquiet
  rw [halike.quotaOk] at hquota
  rw [halike.partlyBroken] at hgood
  have hlen : (((s.setSent g false).cell g).read off n).length = n := tabGetMany_length ..
  rw [← hlen] at hw hway hquiet hquota hgood
  obtain ⟨u, hwrite, hcells, hbyte⟩ :=
    State.writePiece_memory _ (j.requester g) j.cid (d.gather || d.noAlloc) hw hloc hmem hway hquiet hquota hgood
  refine ⟨u, x, moveRow_store _ g j d hrow hone u hstore hwrite, ?_, fun k => ?_⟩
  · rw [← hwcell, State.cell, hcells, State.cell]
  · rw [hbyte, hlen, setSent_cell, State.readByte, hwmem, State.readByte]
    split
    next hk => exact tabGetMany_getD _ _ off n _ _ (by omega)
    next => rfl

end

end

/-! ### The descriptor's last row -/

section
variable {q : StreamDesc} (hup : s.phase = .up) (h : s.engineRuns g j) (hitem : j.kind = .item)
  (hq : ((s.cell g).str.queue.find? fun q => !q.done) = some q) (hstall : (s.cell g).str.stall = none) (howed : s.streamOwed g j = false)
  (hrows : (SDesc.decode q.desc).rows = q.moved + 1)
include hup h hitem hq hstall howed hrows

theorem exec_streamTransfer_last : exec (.streamTransfer g) s =
    .next (s.keepInputs ((s.setSent g false).moveRows g j (SDesc.decode q.desc) 1 q.moved)) := by
  have hone : (SDesc.decode q.desc).rows - q.moved = 1 := by omega
  have hnot : ¬ j.kind = .piece := by simp [hitem]
  refine (live_up s (effStreamTransfer g) hup).trans ?_
  rw [effStreamTransfer, State.onEngine_runs s g j _ h]
  simp only [hnot, if_false]
  unfold State.streamItem
  simp [hq, hstall, howed, hone]

section
variable {va off n : Nat} (hrow : (s.cell g).rowAt (SDesc.decode q.desc) q.moved = (va, off, n)) (hone : granulePieces va n = [(va, n)])
include hrow hone

theorem exec_streamTransfer_fails {st : Status}
    (ht : (s.translate (j.requester g) j.cid va n (SDesc.decode q.desc).access).2 = .bad st) :
    ∃ t, exec (.streamTransfer g) s = .next t ∧ (st ≠ stMemUe → t.mem = s.mem) ∧
      (t.cell g).job = some { j with ended := some st } := by
  obtain ⟨u, hmove, hmem, hjob⟩ := moveRow_fails s g j _ hrow hone ht
  refine ⟨_, exec_streamTransfer_last s g j hup h hitem hq hstall howed hrows, ?_⟩
  obtain ⟨hj, hrun, -⟩ := h
  rw [moveRows_bad _ g j _ 0 q.moved u st hmove]
  exact ⟨fun hst => by simpa using hmem hst, by simpa using u.endItem_job g j st (hjob.trans hj) hrun⟩

section
variable {v : State} {a : Nat} {nl : Bool} (hloc : isRemote a = false) (hmem : isMemory a = true)
  (hway : v.ways (g.val / 64) a n = .clear) (hquota : v.quotaOk j.cid a n = true)
include hloc hmem hway hquota

theorem exec_streamTransfer_loads (hload : (SDesc.decode q.desc).store = false)
    (ht : s.translate (j.requester g) j.cid va n .streamRead = (v, .at a nl))
    (hquiet : v.quiet a n false none = true) (hgood : v.brokenIn a n = false) :
    ∃ t, exec (.streamTransfer g) s = .next t ∧ t.mem = s.mem ∧
      (∀ k : Nat, tabGet zeroByte (t.cell g).mem k =
        if off ≤ k ∧ k < off + n then s.readByte (a + (k - off)) else tabGet zeroByte (s.cell g).mem k) ∧
      ((t.cell g).str.queue.filter fun q => !q.done) = ((s.cell g).str.queue.filter fun q => !q.done).tail := by
  obtain ⟨u, x, hmove, hstay, hcell⟩ := moveRow_loads s g j _ hrow hone hloc hmem hway hquota hload ht hquiet hgood
  obtain ⟨hdmem, hdcell, hdone⟩ := rowDone s g j hq (u.setCell g ((u.cell g).write off (s.readBytes a n)))
    (if (SDesc.decode q.desc).gather then 32 else (SDesc.decode q.desc).rowb) (q.moved + 1) (by simp [Cell.write, hcell, Cell.unsent])
  refine ⟨_, exec_streamTransfer_last s g j hup h hitem hq hstall howed hrows, ?_⟩
  rw [moveRows_last _ g j _ q.moved _ hmove]
  refine ⟨hdmem.trans hstay, fun k => ?_, hdone⟩
  rw [hdcell, State.setCell_cell, if_pos rfl, Cell.write_mem, State.readBytes, tabGetMany_length, hcell]
  split
  next hk => exact tabGetMany_getD _ _ a n _ _ (by omega)
  next => rfl

theorem exec_streamTransfer_stores (hstore : (SDesc.decode q.desc).store = true)
    (ht : s.translate (j.requester g) j.cid va n .streamWrite = (v, .at a nl))
    (hquiet : v.quiet a n true none = true) (hgood : v.partlyBroken a n = false) :
    ∃ t, exec (.streamTransfer g) s = .next t ∧ (t.cell g).mem = (s.cell g).mem ∧
      (∀ k : Nat, t.readByte k = if a ≤ k ∧ k < a + n then tabGet zeroByte (s.cell g).mem (off + (k - a)) else s.readByte k) ∧
      ((t.cell g).str.queue.filter fun q => !q.done) = ((s.cell g).str.queue.filter fun q => !q.done).tail := by
  obtain ⟨u, x, hmove, hcell, hbyte⟩ := moveRow_stores s g j _ hrow hone hloc hmem hway hquota hstore ht hquiet hgood
  obtain ⟨hdmem, hdcell, hdone⟩ := rowDone s g j hq u (if (SDesc.decode q.desc).gather then 32 else (SDesc.decode q.desc).rowb)
    (q.moved + 1) (by simp [hcell, Cell.unsent])
  refine ⟨_, exec_streamTransfer_last s g j hup h hitem hq hstall howed hrows, ?_⟩
  rw [moveRows_last _ g j _ q.moved _ hmove]
  refine ⟨hdcell.trans (by rw [hcell]; rfl), fun k => ?_, hdone⟩
  rw [State.readByte, hdmem]
  exact hbyte k

end

end

end

end

/-! ### Migration (13 R271) -/

section
variable (s : State) (g : CellId) (j : Job) {q : StreamDesc} {rest : List StreamDesc} {c : Cmd} (hup : s.phase = .up)
  (h : s.engineRuns g j) (hpiece : j.kind = .piece) (hcmd : s.cmd j.ring j.seq = some c) (hq : (s.cell g).str.queue = q :: rest)
  (hmig : c.mig = true)

section
include hup h hpiece hcmd hq hmig

theorem exec_streamTransfer_mig : exec (.streamTransfer g) s = .next (s.keepInputs (s.migPiece g c j.index)) := by
  refine (live_up s (effStreamTransfer g) hup).trans ?_
  rw [effStreamTransfer, State.onEngine_runs s g j _ h, if_pos hpiece]
  unfold State.streamPiece
  rw [hcmd, hq]
  simp [hmig]

end

variable {i : Nat} (hread : s.migCheck c.mcid false (c.src + 65536 * i) (c.pieceLen i) = stOk)
  (hwrite : s.migCheck c.mcid true (c.dst + 65536 * i) (c.pieceLen i) = stOk)

theorem migPiece_unreadable (hread : s.migCheck c.mcid false (c.src + 65536 * i) (c.pieceLen i) ≠ stOk) :
    s.migPiece g c i = s.endItem g (s.migCheck c.mcid false (c.src + 65536 * i) (c.pieceLen i)) := by
  unfold State.migPiece
  simp [hread]

include hread in
theorem migPiece_unwritable (hwrite : s.migCheck c.mcid true (c.dst + 65536 * i) (c.pieceLen i) ≠ stOk) :
    s.migPiece g c i = s.endItem g (s.migCheck c.mcid true (c.dst + 65536 * i) (c.pieceLen i)) := by
  unfold State.migPiece
  simp [hread, hwrite]

include hread hwrite in
theorem migPiece_waits (hshare : s.migrateShare = 0) : s.migPiece g c i = s := by
  unfold State.migPiece
  simp [hread, hwrite, hshare]

/-- What both ends of a migration piece that copies see before its bytes are stored. -/
def State.migSeen (s : State) (c : Cmd) (i : Nat) : State :=
  let n := c.pieceLen i
  let dst := c.dst + 65536 * i
  let who := some (c.ring, c.seq)
  let t := (s.seeAccess c.mcid who (c.src + 65536 * i) n false c.noLake).seeAccess c.mcid who dst n true c.noLake
  ((t.clearBroken dst n).endReservations dst n).dropCopies dst n

theorem State.migSeen_store (c : Cmd) (i : Nat) : SameStore s (s.migSeen c i) :=
  (s.seeAccess_store _ _ _ _ _ _).trans <| (State.seeAccess_store _ _ _ _ _ _ _).trans <| (State.clearBroken_store _ _ _).trans <|
    (State.endReservations_store _ _ _).trans (State.dropCopies_store _ _ _)

/-- What a migration piece that copies leaves before it ends: its bytes stored, broken code words marked as such, the bytes counted. -/
def State.migCopied (s : State) (g : Nat) (c : Cmd) (i : Nat) : State :=
  let n := c.pieceLen i
  let src := c.src + 65536 * i
  let dst := c.dst + 65536 * i
  let broken := (s.badWords src n).map fun k => (k * 32 - src + dst) / 32
  let t := (s.migSeen c i).writeBytes dst (s.readBytes src n)
  (State.count { t with hbm := { t.hbm with broken := t.hbm.broken ++ broken.filter fun k => !t.hbm.broken.contains k } }
    (g / 64) 0x06 (some c.mcid) n).tally (some (c.ring, c.seq)) 4 n

include hread hwrite in
theorem migPiece_copies (hshare : s.migrateShare ≠ 0) (hsrc : isMemory (c.src + 65536 * i) = true)
    (hdst : isMemory (c.dst + 65536 * i) = true) (hfrom : s.ways (g.val / 64) (c.src + 65536 * i) (c.pieceLen i) = .clear)
    (hto : s.ways (g.val / 64) (c.dst + 65536 * i) (c.pieceLen i) = .clear)
    (hquiet : s.quiet (c.src + 65536 * i) (c.pieceLen i) false none = true)
    (hfree : s.quiet (c.dst + 65536 * i) (c.pieceLen i) true none = true) :
    s.migPiece g c i = (s.migCopied g c i).endItem g stOk := by
  unfold State.migPiece
  simp only [hread, hwrite, hshare, hsrc, hdst, hfrom, hto, hquiet, hfree, ne_eq, not_true_eq_false, if_false, Bool.not_true,
    Bool.or_self, Bool.false_eq_true]
  rfl

theorem migCopied_cells (i : Nat) : (s.migCopied g c i).cells = s.cells :=
  ((State.count_store _ _ _ _ _).trans (State.tally_store _ _ _ _)).cells.trans (s.migSeen_store c i).cells

theorem migCopied_readByte (i k : Nat) : (s.migCopied g c i).readByte k =
    if c.dst + 65536 * i ≤ k ∧ k < c.dst + 65536 * i + c.pieceLen i then
      s.readByte (c.src + 65536 * i + (k - (c.dst + 65536 * i))) else s.readByte k := by
  refine (((State.count_store _ _ _ _ _).trans (State.tally_store _ _ _ _)).readByte k).trans ?_
  refine (readByte_writeBytes (s.migSeen c i) _ k _).trans ?_
  rw [State.readBytes, tabGetMany_length, (s.migSeen_store c i).readByte]
  split
  next hk => exact tabGetMany_getD _ _ _ _ _ _ (by omega)
  next => rfl

end

/-- Settles O19: the row's access sees the state that its translation left, which agrees in all that decides it with the one that the
translation from the state before leaves. -/
theorem streamRowsMove : Obligations.StreamRowsMove := by
  unfold Obligations.StreamRowsMove
  refine ⟨?_, ?_⟩
  · intro s v g j q a nl hup h hitem hq hstall howed d va off n hrows hone
    refine ⟨fun st ht => exec_streamTransfer_fails s g j hup h hitem hq hstall howed hrows rfl hone ht,
      fun ht hloc hmem hway hquota => ⟨?_, ?_⟩⟩
    · intro hload hquiet hgood
      rw [hload] at ht
      exact exec_streamTransfer_loads s g j hup h hitem hq hstall howed hrows rfl hone hloc hmem hway hquota hload ht hquiet hgood
    · intro hstore hquiet hgood
      rw [hstore] at ht
      exact exec_streamTransfer_stores s g j hup h hitem hq hstall howed hrows rfl hone hloc hmem hway hquota hstore ht hquiet hgood
  · intro s g j q rest c hup h hpiece hcmd hq hmig n src dst
    rw [exec_streamTransfer_mig s g j hup h hpiece hcmd hq hmig]
    refine ⟨fun hread => ?_, fun hread hwrite => ?_, fun hread hwrite hshare => ?_, ?_⟩
    · rw [migPiece_unreadable s g hread, keepInputs_endItem]
    · rw [migPiece_unwritable s g hread hwrite, keepInputs_endItem]
    · rw [migPiece_waits s g hread hwrite hshare, keepInputs_self]
    · intro hread hwrite hshare hsrc hdst hfrom hto hquiet hfree
      obtain ⟨hjob, hrun, -⟩ := h
      have hjob' : ((s.migCopied g c j.index).cell g).job = some j := by
        rw [State.cell, migCopied_cells]
        exact hjob
      have hended := (s.migCopied g c j.index).endItem_job g j stOk hjob' hrun
      rw [migPiece_copies s g hread hwrite hshare hsrc hdst hfrom hto hquiet hfree]
      exact ⟨_, rfl, by simpa using hended, fun k => by simpa [State.readByte] using migCopied_readByte s g j.index k⟩

end Sys2Proof.Machine
end

section
/-! The rules of the matrix engine's state that the proofs of spec/06_matrix_engine.md use: its banks and blocks, the elements of a tile,
the counters and marks that a block leaves, and the form of an answer that changes one cell (06 R115, R116). -/

namespace Sys2Proof.Machine

/-! ### Banks and blocks (06 R115) -/

section
variable (m : MatrixEngine) (k : Bool) (b : Bank) (i : Nat) (f : MatBlock → MatBlock)

@[simp] theorem MatrixEngine.setBank_bank_self : (m.setBank k b).bank k = b := by cases k <;> rfl

@[simp] theorem MatrixEngine.setBank_bank_other : (m.setBank k b).bank (!k) = m.bank (!k) := by cases k <;> rfl

@[simp] theorem MatrixEngine.setBank_queue : (m.setBank k b).queue = m.queue := by cases k <;> rfl

@[simp] theorem MatrixEngine.onBlock_bank : (m.onBlock i f).bank k = m.bank k := rfl

@[simp] theorem MatrixEngine.onBlock_queue : (m.onBlock i f).queue = m.queue.modify i f := rfl

end

/-! ### Elements of a tile (06 R116) -/

theorem mem_tileIndex (m n r c : Nat) : (r, c) ∈ tileIndex m n ↔ r < m ∧ c < n := by
  simp [tileIndex]

/-- Elements written one after the other at their keys: each position of the list reads its value, every other its old one. The columns
stay below 128, so positions have distinct keys. -/
theorem tabGet_foldl_tile (f : Nat × Nat → Elem × Bool) (l : List (Nat × Nat)) (hl : ∀ ij ∈ l, ij.2 < 128) (t : Tab Elem × Bool)
    (r c : Nat) (hc : c < 128) :
    tabGet elemDflt (l.foldl (fun t ij => (tabSet elemDflt t.1 (128 * ij.1 + ij.2) (f ij).1, t.2 || (f ij).2)) t).1 (128 * r + c) =
      if (r, c) ∈ l then (f (r, c)).1 else tabGet elemDflt t.1 (128 * r + c) := by
  induction l generalizing t with
  | nil => simp
  | cons ij l ih =>
    obtain ⟨i, j⟩ := ij
    have hj : j < 128 := hl (i, j) List.mem_cons_self
    rw [List.foldl_cons, ih (fun x hx => hl x (List.mem_cons_of_mem _ hx)), tabGet_set]
    by_cases hmem : (r, c) ∈ l
    · simp [hmem]
    · have hkey : 128 * r + c = 128 * i + j ↔ (r, c) = (i, j) := by
        rw [Prod.mk.injEq]
        omega
      by_cases heq : (r, c) = (i, j)
      · rw [if_neg hmem, if_pos (hkey.2 heq), if_pos (heq ▸ List.mem_cons_self), heq]
      · rw [if_neg hmem, if_neg (mt hkey.1 heq), if_neg (by simp [heq, hmem])]

/-! ### Marks and counters leave memory and the cells (03 R54, 20 R387, R395) -/

theorem SameStore.ite {s t u : State} (b : Prop) [Decidable b] (ht : SameStore s t) (hu : SameStore s u) :
    SameStore s (if b then t else u) := by
  split
  · exact ht
  · exact hu

theorem State.setCmd_store (s : State) (c : Cmd) : SameStore s (s.setCmd c) := ⟨rfl, rfl⟩

theorem State.setSliceNf_store (s : State) (d : Nat) : SameStore s (s.setSliceNf d) := ⟨by simp, by simp⟩

theorem State.setLongOvf_store (s : State) (d : Nat) : SameStore s (s.setLongOvf d) := ⟨by simp, by simp⟩

theorem State.overflowed_store (s : State) (d r : Nat) (q : Word) : SameStore s (s.overflowed d r q) := by
  unfold State.overflowed
  dsimp only
  split
  · exact (s.setLongOvf_store d).trans (State.setCmd_store _ _)
  · exact s.setLongOvf_store d

theorem State.report_store (s : State) (r : Nat) (q : Word) (f : Tint → Tint) : SameStore s (s.report r q f) := by
  unfold State.report
  split
  · exact SameStore.ite _ (State.setCmd_store s _) (SameStore.refl s)
  · exact SameStore.refl s

theorem State.keepInputs_store (s t : State) : SameStore t (s.keepInputs t) := ⟨by simp, by simp⟩

/-- An overflow marks the command and changes nothing else of it. -/
theorem State.overflowed_cmd (s : State) (d r : Nat) (q : Word) :
    (s.overflowed d r q).cmd r q = (s.cmd r q).map fun c => { c with longOvf := true } := by
  unfold State.overflowed
  dsimp only
  have hcmd : (s.setLongOvf d).cmd r q = s.cmd r q := by simp
  rw [← hcmd]
  cases h : (s.setLongOvf d).cmd r q with
  | none => exact h
  | some c =>
    obtain ⟨hring, hseq⟩ := State.cmd_some _ r q c h
    exact State.setCmd_cmd _ r q c { c with longOvf := true } h hring hseq

/-- What the engines read of a command does not depend on its overflow mark. -/
theorem State.overflowed_psetOf (s : State) (d : Nat) (j : Job) (b : MBlk) :
    (s.overflowed d j.ring j.seq).psetOf j b = s.psetOf j b := by
  unfold State.psetOf State.params
  rw [State.overflowed_cmd]
  cases s.cmd j.ring j.seq <;> rfl

/-! ### Answers that change one cell -/

/-- The answer is a state in which cell g is x, and memory and the other cells are those of s. -/
structure AnswersCell (o : Host.Outcome State Fault Refusal) (s : State) (g : Nat) (x : Cell) : Prop where
  next : ∃ t, o = .next t ∧ t.mem = s.mem ∧ t.cell g = x ∧ ∀ h, h ≠ g → t.cell h = s.cell h

theorem AnswersCell.of_store {s t : State} {g : Nat} {x : Cell} (h : SameStore (s.setCell g x) t) : AnswersCell (.next t) s g x :=
  ⟨t, rfl, h.mem, by simp [h.cell], fun k hk => by simp [h.cell, hk]⟩

/-- The same where the cell changed once before, with what was read there. -/
theorem AnswersCell.of_changed {s v t : State} {g : Nat} {c x : Cell} (hv : SameStore (s.setCell g c) v)
    (ht : SameStore (v.setCell g x) t) : AnswersCell (.next t) s g x :=
  ⟨t, rfl, ht.mem.trans hv.mem, by simp [ht.cell], fun k hk => by simp [ht.cell, hv.cell, hk]⟩

/-- The answer of a command of an engine that acts for an item is its effect on the cell and the item. -/
theorem live_onEngine (s : State) (g : Nat) (j : Job) (hup : s.phase = .up) (h : s.engineRuns g j) (eff : State → State)
    (f : Cell → Job → State) (heff : eff s = s.onEngine g f) : s.live eff = .next (s.keepInputs (f (s.cell g) j)) := by
  rw [live_up s eff hup, heff, State.onEngine_runs s g j f h]

end Sys2Proof.Machine
end

section
/-! Proofs of spec/06_matrix_engine.md: what a block leaves in its bank (R116-R118, 03 R54). -/

namespace Sys2Proof.Machine

/-- Each element of the block's tile is its start value plus its products (06 R116). -/
theorem accumulate_get (x : Cell) (b : MBlk) (p : PSet) (r c : Nat) (hn : b.n ≤ 128) (hr : r < b.m) (hc : c < b.n) :
    (x.accumulate b p).1.get r c = (x.accElem b p r c).1 := by
  have hcols : ∀ ij ∈ tileIndex b.m b.n, ij.2 < 128 := fun ij hij => by
    have := ((mem_tileIndex b.m b.n ij.1 ij.2).1 hij).2
    omega
  refine (tabGet_foldl_tile (fun ij => x.accElem b p ij.1 ij.2) (tileIndex b.m b.n) hcols _ r c (by omega)).trans ?_
  rw [if_pos ((mem_tileIndex b.m b.n r c).2 ⟨hr, hc⟩)]

/-- The cell after its queued block i has accumulated: the bank and the block's phase are new (06 R116, R118). -/
def Cell.accumulated (x : Cell) (i : Nat) (b : MBlk) (p : PSet) : Cell :=
  { x with matrix := (x.matrix.setBank b.bank (x.accumulate b p).1).onBlock i fun q =>
      { q with phase := if b.dst = 0 && b.rxm = 0 then .done else .accumulated } }

/-- A block of one group that may start leaves the cell with its accumulated bank; its other marks are counters and flags. -/
theorem exec_matrixBlockStart (s : State) (g : CellId) (j : Job) (i : Nat) (q : MatBlock) (hup : s.phase = .up) (h : s.engineRuns g j)
    (hstart : s.startable j (s.cell g).matrix = some i) (hq : (s.cell g).matrix.queue[i]? = some q)
    (hkind : (s.cell g).kindsMatch q.dec (s.psetOf j q.dec) = true) (hgroups : q.dec.groups ≤ 1) :
    AnswersCell (exec (.matrixBlockStart g) s) s g ((s.cell g).accumulated i q.dec (s.psetOf j q.dec)) := by
  have hone : ¬ 1 < q.dec.groups := by omega
  have hexec := live_onEngine s g j hup h (effMatrixBlockStart g) _ rfl
  simp only [hstart, hq, hkind, hone, Bool.not_true, Bool.false_eq_true, if_false] at hexec
  rw [show exec (.matrixBlockStart g) s = _ from hexec]
  refine AnswersCell.of_store (SameStore.trans ?_ (State.keepInputs_store s _))
  refine SameStore.trans ?_ ((State.count_store _ _ _ _ _).trans (State.tally_store _ _ _ _))
  refine SameStore.trans ?_ (SameStore.ite _ (State.setSliceNf_store _ _) (SameStore.refl _))
  exact SameStore.ite _ (State.overflowed_store _ _ _ _) (SameStore.refl _)

/-- Settles O6: the cell that the start leaves, read bank by bank and element by element. -/
theorem matrixBlockAccumulates : Obligations.MatrixBlockAccumulates := by
  unfold Obligations.MatrixBlockAccumulates
  intro s g j i q hup h hstart hq hkind hgroups hn
  obtain ⟨t, hexec, hmem, hcell, -⟩ := (exec_matrixBlockStart s g j i q hup h hstart hq hkind hgroups).next
  refine ⟨t, hexec, hmem, ?_⟩
  rw [hcell]
  refine ⟨rfl, ?_, ?_, fun r c hr hc => ?_, ?_, ?_⟩
  · simp [Cell.accumulated, Cell.accumulate]
  · simp [Cell.accumulated, Cell.accumulate]
  · simpa [Cell.accumulated] using accumulate_get (s.cell g) q.dec (s.psetOf j q.dec) r c hn hr hc
  · simp [Cell.accumulated]
  · simp [Cell.accumulated, hq]

end Sys2Proof.Machine
end

section
/-! Proofs of spec/06_matrix_engine.md: the drain, the drain queue and the completion of tickets (R119, R122, 05 R93, R102, R103). -/

namespace Sys2Proof.Machine

/-! ### What a drain leaves in its cell (06 R119) -/

/-- The cell with queued block i complete. -/
def Cell.blockDone (c : Cell) (i : Nat) : Cell := { c with matrix := c.matrix.onBlock i fun q => { q with phase := .done } }

/-- The cell after its queued block i has drained with a parameter set and a narrowing mode. -/
def Cell.afterDrain (c : Cell) (i : Nat) (b : MBlk) (p : PSet) (strict : Bool) : Cell :=
  let tile := if b.drains then c.drainTile b p strict else []
  let done := c.blockDone i
  if b.dst = 1 then
    tile.foldl (fun c t => c.write (b.ooff + (if b.lo then t.2.1 else t.1) * 32 * b.ldo + (if b.lo then t.1 else t.2.1) * (p.out.bits / 8))
      t.2.2.1) done
  else if b.dst = 2 then { done with dq := done.dq ++ [{ fmt := p.fout, bytes := queueBytes b p tile }] }
  else done

/-- The narrowing mode of the command that an item serves (02 R36, R38). -/
def State.strictOf (s : State) (j : Job) : Bool := ((s.cmd j.ring j.seq).map Cmd.strict).getD false

/-- Writes of cell memory depend on its contents alone and change nothing else. -/
theorem Cell.foldl_write {α : Type} (addr : α → Nat) (bytes : α → List Byte) (l : List α) (c d : Cell) (h : d.mem = c.mem) :
    l.foldl (fun k x => k.write (addr x) (bytes x)) d = { d with mem := (l.foldl (fun k x => k.write (addr x) (bytes x)) c).mem } := by
  induction l generalizing c d with
  | nil => rw [List.foldl_nil, List.foldl_nil, ← h]
  | cons x l ih =>
    rw [List.foldl_cons, List.foldl_cons, ih (c.write (addr x) (bytes x)) (d.write (addr x) (bytes x)) (by simp [Cell.write, h])]
    rfl

section
variable (c : Cell) (i : Nat) (b : MBlk) (p : PSet) (strict : Bool)

@[simp] theorem Cell.afterDrain_matrix : (c.afterDrain i b p strict).matrix = (c.blockDone i).matrix := by
  unfold Cell.afterDrain
  dsimp only
  split
  · rw [Cell.foldl_write _ _ _ _ _ rfl]
  · split <;> rfl

theorem Cell.afterDrain_mem (h : b.dst ≠ 1) : (c.afterDrain i b p strict).mem = c.mem := by
  unfold Cell.afterDrain
  rw [if_neg h]
  split <;> rfl

theorem Cell.afterDrain_dq (h : b.dst ≠ 2) : (c.afterDrain i b p strict).dq = c.dq := by
  unfold Cell.afterDrain
  dsimp only
  rw [if_neg h]
  split
  · rw [Cell.foldl_write _ _ _ _ _ rfl]
    rfl
  · rfl

theorem Cell.afterDrain_written (h : b.dst = 1) : (c.afterDrain i b p strict).mem =
    ((c.drainTile b p strict).foldl (fun k x => k.write (b.ooff + (if b.lo then x.2.1 else x.1) * 32 * b.ldo +
      (if b.lo then x.1 else x.2.1) * (p.out.bits / 8)) x.2.2.1) c).mem := by
  have hdrains : b.drains = true := by simp [MBlk.drains, h]
  unfold Cell.afterDrain
  rw [if_pos h, if_pos hdrains, Cell.foldl_write _ _ _ c (c.blockDone i) rfl]

theorem Cell.afterDrain_queued (h : b.dst = 2) :
    (c.afterDrain i b p strict).dq = c.dq ++ [{ fmt := p.fout, bytes := queueBytes b p (c.drainTile b p strict) }] := by
  have hdrains : b.drains = true := by simp [MBlk.drains, h]
  simp [Cell.afterDrain, Cell.blockDone, h, hdrains]

end

/-- A drain changes its cell and the reports of its command. -/
theorem State.drain_store (s : State) (g : Nat) (j : Job) (i : Nat) (b : MBlk) :
    SameStore (s.setCell g ((s.cell g).afterDrain i b (s.psetOf j b) (s.strictOf j))) (s.drain g j i b) :=
  State.report_store _ _ _ _

theorem State.overflowed_strictOf (s : State) (d : Nat) (j : Job) : (s.overflowed d j.ring j.seq).strictOf j = s.strictOf j := by
  unfold State.strictOf
  rw [State.overflowed_cmd]
  cases s.cmd j.ring j.seq <;> rfl

/-! ### MATRIX_DRAIN and DRAIN_QUEUE_PUSH -/

/-- The cell once the landed streams of a block have been added in its bank (06 R122). -/
def Cell.withLanded (c : Cell) (b : MBlk) : Cell := { c with matrix := c.matrix.setBank b.bank (c.addLanded b).1 }

/-- The cell with queued block i waiting for room in the drain queue (05 R103). -/
def Cell.stalled (c : Cell) (i : Nat) : Cell := { c with matrix := c.matrix.onBlock i fun q => { q with phase := .stalled } }

/-- The state between a drain's addition of the landed streams and its output (03 R54, 06 R122). -/
def State.withLanded (s : State) (g : Nat) (j : Job) (b : MBlk) : State :=
  if ((s.cell g).addLanded b).2 then (s.setCell g ((s.cell g).withLanded b)).overflowed (g / 64) j.ring j.seq
  else s.setCell g ((s.cell g).withLanded b)

section
variable (s : State) (g : Nat) (j : Job) (b : MBlk)

theorem State.withLanded_store : SameStore (s.setCell g ((s.cell g).withLanded b)) (s.withLanded g j b) :=
  SameStore.ite _ (State.overflowed_store _ _ _ _) (SameStore.refl _)

@[simp] theorem State.withLanded_cell : (s.withLanded g j b).cell g = (s.cell g).withLanded b := by
  rw [(s.withLanded_store g j b).cell, State.setCell_cell, if_pos rfl]

@[simp] theorem State.withLanded_psetOf : (s.withLanded g j b).psetOf j b = s.psetOf j b := by
  unfold State.withLanded
  split
  · exact State.overflowed_psetOf _ _ j b
  · rfl

@[simp] theorem State.withLanded_strictOf : (s.withLanded g j b).strictOf j = s.strictOf j := by
  unfold State.withLanded
  split
  · exact State.overflowed_strictOf _ _ j
  · rfl

end

section
variable (s : State) (g : CellId) (j : Job) (i : Nat) (q : MatBlock) (hup : s.phase = .up) (h : s.engineRuns g j)
  (hq : (s.cell g).matrix.queue[i]? = some q)
include hup h hq

section
variable (hdrain : (s.cell g).matrix.drainable = some i) (hkinds : (s.cell g).landedKinds q.dec = true)
include hdrain hkinds

/-- A drain whose streams have the bank's kind adds them; then its block stalls for want of room, or drains. -/
theorem exec_matrixDrain_eq : exec (.matrixDrain g) s = .next (s.keepInputs
    (if q.dec.dst = 2 && !(s.cell g).queueRoom (s.psetOf j q.dec).out then
       (s.withLanded g j q.dec).setCell g (((s.cell g).withLanded q.dec).stalled i)
     else (s.withLanded g j q.dec).drain g j i q.dec)) := by
  have hexec := live_onEngine s g j hup h (effMatrixDrain g) _ rfl
  simp only [hdrain, hq, hkinds, Bool.not_true, Bool.false_eq_true, if_false] at hexec
  rw [← s.withLanded_cell g j q.dec, ← s.withLanded_psetOf g j q.dec]
  exact hexec

theorem exec_matrixDrain_stalls (hdst : q.dec.dst = 2) (hroom : (s.cell g).queueRoom (s.psetOf j q.dec).out = false) :
    AnswersCell (exec (.matrixDrain g) s) s g (((s.cell g).withLanded q.dec).stalled i) := by
  rw [exec_matrixDrain_eq s g j i q hup h hq hdrain hkinds, if_pos (by simp [hdst, hroom])]
  exact AnswersCell.of_changed (s.withLanded_store g j q.dec) (State.keepInputs_store s _)

theorem exec_matrixDrain_drains (hroom : q.dec.dst ≠ 2 ∨ (s.cell g).queueRoom (s.psetOf j q.dec).out = true) :
    AnswersCell (exec (.matrixDrain g) s) s g
      (((s.cell g).withLanded q.dec).afterDrain i q.dec (s.psetOf j q.dec) (s.strictOf j)) := by
  rw [exec_matrixDrain_eq s g j i q hup h hq hdrain hkinds, if_neg (by rcases hroom with hr | hr <;> simp [hr])]
  have hstore := ((s.withLanded g j q.dec).drain_store g j i q.dec).trans (State.keepInputs_store s _)
  rw [s.withLanded_cell, s.withLanded_psetOf, s.withLanded_strictOf] at hstore
  exact AnswersCell.of_changed (s.withLanded_store g j q.dec) hstore

end

section
variable (hstalled : ((s.cell g).matrix.queue.findIdx? fun q => q.phase = .stalled) = some i)
include hstalled

theorem exec_drainQueuePush_waits (hroom : (s.cell g).queueRoom (s.psetOf j q.dec).out = false) :
    exec (.drainQueuePush g) s = .next s := by
  refine (live_onEngine s g j hup h (effDrainQueuePush g) _ rfl).trans ?_
  simp [hstalled, hq, hroom]

theorem exec_drainQueuePush_pushes (hroom : (s.cell g).queueRoom (s.psetOf j q.dec).out = true) :
    AnswersCell (exec (.drainQueuePush g) s) s g ((s.cell g).afterDrain i q.dec (s.psetOf j q.dec) (s.strictOf j)) := by
  have hexec := live_onEngine s g j hup h (effDrainQueuePush g) _ rfl
  simp only [hstalled, hq, hroom, if_true] at hexec
  rw [show exec (.drainQueuePush g) s = _ from hexec]
  exact AnswersCell.of_store ((s.drain_store g j i q.dec).trans (State.keepInputs_store s _))

end

end

/-! ### MATRIX_TICKET_COMPLETE (05 R93) -/

section
variable (s : State) (g : CellId) (j : Job) (hup : s.phase = .up) (h : s.engineRuns g j)
include hup h

theorem exec_matrixTicketComplete_matrix (q : MatBlock) (rest : List MatBlock) (hq : (s.cell g).matrix.queue = q :: rest) :
    exec (.matrixTicketComplete g .matrix) s = .next (if q.phase = .done then
      s.setCell g { s.cell g with matrix := { (s.cell g).matrix with queue := rest, done := q.ticket } } else s) := by
  refine (live_onEngine s g j hup h (effMatrixTicketComplete g .matrix) _ rfl).trans ?_
  simp [hq, keepInputs_ite]

theorem exec_matrixTicketComplete_vector (q : VecInstr) (rest : List VecInstr) (hq : (s.cell g).vec.queue = q :: rest) :
    exec (.matrixTicketComplete g .vector) s = .next (if q.done then
      s.setCell g { s.cell g with vec := { (s.cell g).vec with queue := rest, done := q.ticket } } else s) := by
  refine (live_onEngine s g j hup h (effMatrixTicketComplete g .vector) _ rfl).trans ?_
  simp [hq, keepInputs_ite]

theorem exec_matrixTicketComplete_stream (q : StreamDesc) (rest : List StreamDesc) (hq : (s.cell g).str.queue = q :: rest) :
    exec (.matrixTicketComplete g .stream) s = .next (if q.done then
      s.setCell g { s.cell g with str := { (s.cell g).str with queue := rest, done := q.ticket } } else s) := by
  refine (live_onEngine s g j hup h (effMatrixTicketComplete g .stream) _ rfl).trans ?_
  simp [hq, keepInputs_ite]

theorem exec_matrixTicketComplete_nothing :
    ((s.cell g).matrix.queue = [] → exec (.matrixTicketComplete g .matrix) s = .next s) ∧
    ((s.cell g).vec.queue = [] → exec (.matrixTicketComplete g .vector) s = .next s) ∧
    ((s.cell g).str.queue = [] → exec (.matrixTicketComplete g .stream) s = .next s) := by
  refine ⟨fun hq => ?_, fun hq => ?_, fun hq => ?_⟩
  · refine (live_onEngine s g j hup h (effMatrixTicketComplete g .matrix) _ rfl).trans ?_
    simp [hq]
  · refine (live_onEngine s g j hup h (effMatrixTicketComplete g .vector) _ rfl).trans ?_
    simp [hq]
  · refine (live_onEngine s g j hup h (effMatrixTicketComplete g .stream) _ rfl).trans ?_
    simp [hq]

end

/-- Settles O7: the cell that a drain or a stall leaves, read field by field; a push is a drain; a ticket completes at the head. -/
theorem matrixDrainsIntoQueue : Obligations.MatrixDrainsIntoQueue := by
  unfold Obligations.MatrixDrainsIntoQueue
  refine ⟨?_, ?_, ?_⟩
  · intro s g j i q c p strict hup h hdrain hq hkinds hp hstrict hc
    subst hp hstrict hc
    by_cases hroom : q.dec.dst ≠ 2 ∨ (s.cell g).queueRoom (s.psetOf j q.dec).out = true
    · obtain ⟨t, hexec, hmem, hcell, hother⟩ := (exec_matrixDrain_drains s g j i q hup h hq hdrain hkinds hroom).next
      refine ⟨t, hexec, hmem, hother, ?_⟩
      rw [hcell]
      refine ⟨?_, ?_, fun _ => ?_, fun hdst => ?_, fun hdst => ?_, fun hdst => ?_, fun hdst _ => ?_, fun hdst hfull => ?_⟩
      · simp [Cell.withLanded, Cell.blockDone]
      · simp [Cell.withLanded, Cell.blockDone]
      · simp [Cell.withLanded, Cell.blockDone, hq]
      · exact Cell.afterDrain_mem _ i q.dec _ _ hdst
      · exact Cell.afterDrain_dq _ i q.dec _ _ hdst
      · exact Cell.afterDrain_written _ i q.dec _ _ hdst
      · exact Cell.afterDrain_queued _ i q.dec _ _ hdst
      · simp [hdst, hfull] at hroom
    · obtain ⟨hdst, hfull⟩ : q.dec.dst = 2 ∧ (s.cell g).queueRoom (s.psetOf j q.dec).out = false := by simpa using hroom
      obtain ⟨t, hexec, hmem, hcell, hother⟩ := (exec_matrixDrain_stalls s g j i q hup h hq hdrain hkinds hdst hfull).next
      refine ⟨t, hexec, hmem, hother, ?_⟩
      rw [hcell]
      simp [Cell.stalled, Cell.withLanded, hdst, hfull, hq]
  · intro s g j i q hup h hstalled hq
    refine ⟨exec_drainQueuePush_waits s g j i q hup h hq hstalled, fun hroom => ?_⟩
    obtain ⟨t, hexec, hmem, hcell, hother⟩ := (exec_drainQueuePush_pushes s g j i q hup h hq hstalled hroom).next
    refine ⟨t, hexec, hmem, hother, ?_⟩
    rw [hcell]
    refine ⟨by simp [Cell.blockDone, hq], fun hdst => ⟨?_, ?_⟩⟩
    · exact Cell.afterDrain_mem _ i q.dec _ _ (by simp [hdst])
    · exact Cell.afterDrain_queued _ i q.dec _ _ hdst
  · intro s g j hup h
    refine ⟨fun q rest hq => ?_, fun q rest hq => ?_, fun q rest hq => ?_, exec_matrixTicketComplete_nothing s g j hup h⟩
    · rw [exec_matrixTicketComplete_matrix s g j hup h q rest hq]
      exact ⟨fun hd => by rw [if_pos hd], fun hd => by rw [if_neg hd]⟩
    · rw [exec_matrixTicketComplete_vector s g j hup h q rest hq]
      exact ⟨fun hd => by rw [if_pos hd], fun hd => by simp [hd]⟩
    · rw [exec_matrixTicketComplete_stream s g j hup h q rest hq]
      exact ⟨fun hd => by rw [if_pos hd], fun hd => by simp [hd]⟩

end Sys2Proof.Machine
end

section
/-! Proofs of spec/06_matrix_engine.md: READY messages and raw streams (R122, R123, 15 R319, R323). -/

namespace Sys2Proof.Machine

/-! ### Messages and streams of a neighbour (06 R122) -/

section
variable (m : MatrixEngine) (k : Bool) (l : List Ready) (o : List (BitVec 16))

@[simp] theorem MatrixEngine.setNet_net : (m.setNet k l).net k = l := by cases k <;> rfl

@[simp] theorem MatrixEngine.setReady_ready : (m.setReady k l).ready k = l := by cases k <;> rfl

@[simp] theorem MatrixEngine.setReady_net : (m.setReady k l).net k = m.net k := by cases k <;> rfl

@[simp] theorem MatrixEngine.setReady_queue : (m.setReady k l).queue = m.queue := by cases k <;> rfl

@[simp] theorem MatrixEngine.setOut_queue : (m.setOut k o).queue = m.queue := by cases k <;> rfl

end

/-- A sent stream is under way at its receiver, behind those of the same side. -/
theorem State.sendRaw_mem_raw (s : State) (g p : Nat) (x : RawStream) :
    x ∈ ((s.sendRaw g p x).cell p).matrix.rawLo ++ ((s.sendRaw g p x).cell p).matrix.rawHi := by
  unfold State.sendRaw
  dsimp only
  rw [State.setCell_cell, if_pos rfl]
  split <;> simp

theorem State.sendRaw_cell_ne (s : State) (g p h : Nat) (x : RawStream) (hne : h ≠ p) : (s.sendRaw g p x).cell h = s.cell h := by
  simp [State.sendRaw, hne]

/-! ### READY_RECEIVED -/

section
variable (s : State) (g : CellId) (side : Bool) (r : Ready) (rest : List Ready) (hup : s.phase = .up)
  (hnet : (s.cell g).matrix.net side = r :: rest)
include hup hnet

theorem exec_readyReceived_waits (hwait : 8 ≤ ((s.cell g).matrix.ready side).length ∨ s.sideWay (sideCell g side) g ≠ .clear) :
    exec (.readyReceived g side) s = .next s := by
  refine (live_up s (effReadyReceived g side) hup).trans ?_
  simp [effReadyReceived, hnet, hwait]

theorem exec_readyReceived_takes (hroom : ((s.cell g).matrix.ready side).length < 8) (hway : s.sideWay (sideCell g side) g = .clear) :
    exec (.readyReceived g side) s = .next (s.setCell g { s.cell g with
      matrix := ((s.cell g).matrix.setNet side rest).setReady side ((s.cell g).matrix.ready side ++ [r]) }) := by
  refine (live_up s (effReadyReceived g side) hup).trans ?_
  simp [effReadyReceived, hnet, hway, Nat.not_le.2 hroom]

end

/-! ### RAW_STREAM_SEND -/

/-- The status of the comparison of a READY message with the block that sends, OK where they agree (06 R123). -/
def Ready.compare (r : Ready) (cid : Cid) (b : MBlk) : Status :=
  if r.cid ≠ cid then stAccess else if r.m ≠ b.m || r.n ≠ b.n then stFormat else stOk

/-- The sender once the stream for a READY message has left: the message is used and the block is done. -/
def Cell.sent (c : Cell) (i : Nat) (r : Ready) (b : MBlk) : Cell :=
  { c with matrix := (c.matrix.setReady b.peer ((c.matrix.ready b.peer).erase r)).onBlock i fun q => { q with phase := .done } }

/-- The stream that answers a READY message from cell g: the bank's containers, or the failed comparison alone (06 R122, R123). -/
def Cell.streamFor (c : Cell) (g : Nat) (r : Ready) (cid : Cid) (b : MBlk) : RawStream :=
  { tag := r.tag, src := g,
    bytes := if r.compare cid b = stOk then (c.matrix.bank b.bank).containers b.m b.n else [], bad := r.compare cid b }

section
variable (s : State) (g : CellId) (j : Job) (i : Nat) (r : Ready) (q : MatBlock) (hup : s.phase = .up) (h : s.engineRuns g j)
  (hsend : (s.cell g).matrix.sendable = some (i, r)) (hq : (s.cell g).matrix.queue[i]? = some q)
include hup h hsend hq

/-- A block whose READY has come and whose way carries nothing (15 R319, R323). -/
theorem exec_rawStreamSend_held (hway : s.sideWay g (sideCell g q.dec.peer) ≠ .clear) :
    exec (.rawStreamSend g) s =
      .next (if s.sideWay g (sideCell g q.dec.peer) = .cut then s.endItem g stLink else s) := by
  refine (live_onEngine s g j hup h (effRawStreamSend g) _ rfl).trans ?_
  simp [hsend, hq, hway, keepInputs_ite]

/-- Over an open way the stream leaves; counters apart, the sender then ends its item where the comparison failed (06 R123). -/
theorem exec_rawStreamSend_open (hway : s.sideWay g (sideCell g q.dec.peer) = .clear) :
    ∃ v : State, SameStore ((s.setCell g ((s.cell g).sent i r q.dec)).sendRaw g (sideCell g q.dec.peer)
        ((s.cell g).streamFor g r j.cid q.dec)) v ∧
      exec (.rawStreamSend g) s = .next (s.keepInputs
        (if r.compare j.cid q.dec = stOk then v else v.endItem g (r.compare j.cid q.dec))) := by
  have hexec := live_onEngine s g j hup h (effRawStreamSend g) _ rfl
  simp only [hsend, hq, hway, ne_eq, not_true_eq_false, if_false] at hexec
  refine ⟨_, ?_, hexec⟩
  refine SameStore.trans ?_ (SameStore.ite _ (SameStore.refl _) (State.sendOver_store _ _ _ _ _ _))
  exact State.count_store _ _ _ _ _

/-- A stream whose comparison succeeds is under way at the neighbour and its block is done. -/
theorem exec_rawStreamSend_sends (hway : s.sideWay g (sideCell g q.dec.peer) = .clear) (hne : sideCell g q.dec.peer ≠ g.val)
    (hok : r.compare j.cid q.dec = stOk) :
    ∃ t, exec (.rawStreamSend g) s = .next t ∧ t.mem = s.mem ∧ t.cell g = (s.cell g).sent i r q.dec ∧
      (s.cell g).streamFor g r j.cid q.dec ∈
        (t.cell (sideCell g q.dec.peer)).matrix.rawLo ++ (t.cell (sideCell g q.dec.peer)).matrix.rawHi := by
  obtain ⟨v, hv, hexec⟩ := exec_rawStreamSend_open s g j i r q hup h hsend hq hway
  rw [if_pos hok] at hexec
  have hstore := hv.trans (State.keepInputs_store s v)
  refine ⟨_, hexec, hstore.mem, ?_, ?_⟩
  · rw [hstore.cell, State.sendRaw_cell_ne _ _ _ _ _ hne.symm, State.setCell_cell, if_pos rfl]
  · rw [hstore.cell]
    exact State.sendRaw_mem_raw _ _ _ _

/-- A comparison that fails ends the sender's item with its status. -/
theorem exec_rawStreamSend_fails (hway : s.sideWay g (sideCell g q.dec.peer) = .clear) (hne : sideCell g q.dec.peer ≠ g.val)
    (hbad : r.compare j.cid q.dec ≠ stOk) :
    ∃ t, exec (.rawStreamSend g) s = .next t ∧ (t.cell g).job = some { j with ended := some (r.compare j.cid q.dec) } := by
  obtain ⟨v, hv, hexec⟩ := exec_rawStreamSend_open s g j i r q hup h hsend hq hway
  rw [if_neg hbad] at hexec
  obtain ⟨hjob, hrun, -⟩ := h
  have hvjob : (v.cell g).job = some j := by
    rw [hv.cell, State.sendRaw_cell_ne _ _ _ _ _ hne.symm, State.setCell_cell, if_pos rfl]
    exact hjob
  exact ⟨_, hexec, by simpa using v.endItem_job g j _ hvjob hrun⟩

end

/-! ### RAW_STREAM_LANDED -/

/-- The cell once the oldest stream of a side, of a given tag, has come off its way: its tag is free again. -/
def Cell.tookRaw (c : Cell) (side : Bool) (tag : BitVec 16) (rest : List RawStream) : Cell :=
  let m := if side then { c.matrix with rawHi := rest } else { c.matrix with rawLo := rest }
  { c with matrix := m.setOut side ((m.out side).erase tag) }

@[simp] theorem Cell.tookRaw_fields (c : Cell) (side : Bool) (tag : BitVec 16) (rest : List RawStream) :
    (c.tookRaw side tag rest).job = c.job ∧ (c.tookRaw side tag rest).mem = c.mem ∧
      (c.tookRaw side tag rest).matrix.queue = c.matrix.queue := by
  cases side <;> exact ⟨rfl, rfl, rfl⟩

/-- The cell once a stream has landed for its queued block i (06 R122). -/
def Cell.landRaw (c : Cell) (side : Bool) (i : Nat) (b : MBlk) (bytes : List Byte) : Cell :=
  { c.write (b.landing side) bytes with
    matrix := c.matrix.onBlock i fun q => { q with landed := q.landed ||| sideBit side } }

section
variable (s : State) (g : CellId) (side : Bool) (j : Job) (x : RawStream) (rest : List RawStream) (i : Nat) (q : MatBlock)
  (hup : s.phase = .up) (hjob : (s.cell g).job = some j) (hrun : j.ended = none)
  (hraw : (if side then (s.cell g).matrix.rawHi else (s.cell g).matrix.rawLo) = x :: rest)
  (hwants : ((s.cell g).matrix.queue.findIdx? fun q =>
    q.dec.tag = x.tag.toNat && bitOf q.dec.rxm side.toNat && (q.landed &&& sideBit side) = 0) = some i)
  (hq : (s.cell g).matrix.queue[i]? = some q)
include hup hraw

theorem exec_rawStreamLanded_held (hok : x.bad = stOk) (hway : s.sideWay x.src g ≠ .clear) :
    exec (.rawStreamLanded g side) s = .next s := by
  refine (live_up s (effRawStreamLanded g side) hup).trans ?_
  simp [effRawStreamLanded, hraw, hok, hway]

include hjob hrun hwants hq

/-- A stream that comes off its way for a running item's block lands, or ends the item with the status that it carries. -/
theorem exec_rawStreamLanded_open (hway : x.bad = stOk → s.sideWay x.src g = .clear) :
    exec (.rawStreamLanded g side) s = .next (s.keepInputs
      (if x.bad ≠ stOk then (s.setCell g ((s.cell g).tookRaw side x.tag rest)).endItem g x.bad
       else (s.setCell g ((s.cell g).tookRaw side x.tag rest)).setCell g
         (((s.cell g).tookRaw side x.tag rest).landRaw side i q.dec x.bytes))) := by
  have hrunning : ((s.cell g).tookRaw side x.tag rest).running = some j := by
    rw [Cell.running_some]
    simp [hjob, hrun]
  have hwants' : ((s.cell g).tookRaw side x.tag rest).matrix.queue.findIdx? (fun q =>
      q.dec.tag = x.tag.toNat && bitOf q.dec.rxm side.toNat && (q.landed &&& sideBit side) = 0) = some i := by
    simpa using hwants
  have hq' : ((s.cell g).tookRaw side x.tag rest).matrix.queue[i]? = some q := by simpa using hq
  have hgoes : (x.bad = stOk && s.sideWay x.src g ≠ .clear) = false := by
    by_cases hok : x.bad = stOk
    · simp [hok, hway hok]
    · simp [hok]
  refine (live_up s (effRawStreamLanded g side) hup).trans ?_
  unfold Cell.tookRaw at hrunning hwants' hq'
  simp only [effRawStreamLanded, hraw, hgoes, hrunning, hwants', hq', Bool.false_eq_true, if_false]
  rfl

theorem exec_rawStreamLanded_lands (hok : x.bad = stOk) (hway : s.sideWay x.src g = .clear) :
    AnswersCell (exec (.rawStreamLanded g side) s) s g (((s.cell g).tookRaw side x.tag rest).landRaw side i q.dec x.bytes) := by
  rw [exec_rawStreamLanded_open s g side j x rest i q hup hjob hrun hraw hwants hq fun _ => hway, if_neg (by simp [hok])]
  exact AnswersCell.of_changed (SameStore.refl _) (State.keepInputs_store s _)

theorem exec_rawStreamLanded_fails (hbad : x.bad ≠ stOk) :
    ∃ t, exec (.rawStreamLanded g side) s = .next t ∧ (t.cell g).job = some { j with ended := some x.bad } := by
  rw [exec_rawStreamLanded_open s g side j x rest i q hup hjob hrun hraw hwants hq fun hok => absurd hok hbad, if_pos hbad]
  have hended := (s.setCell g ((s.cell g).tookRaw side x.tag rest)).endItem_job g j x.bad (by simpa using hjob) hrun
  exact ⟨_, rfl, by simpa using hended⟩

end

/-- Settles O8: the answers of the three commands by way, room and comparison, read field by field. -/
theorem rawStreamsCrossSideLinks : Obligations.RawStreamsCrossSideLinks := by
  unfold Obligations.RawStreamsCrossSideLinks
  refine ⟨?_, ?_, ?_⟩
  · intro s g side r rest hup hnet
    refine ⟨fun hfull => exec_readyReceived_waits s g side r rest hup hnet (.inl hfull),
      fun hway => exec_readyReceived_waits s g side r rest hup hnet (.inr hway),
      fun hroom hway => ⟨_, exec_readyReceived_takes s g side r rest hup hnet hroom hway, ?_⟩⟩
    simp
  · intro s g j i r q hup h hsend hq hne
    refine ⟨fun hstall => ?_, fun hcut => ?_, fun hway => ⟨fun hcid hm hn => ?_, fun hcid => ?_, fun hcid hshape => ?_⟩⟩
    · rw [exec_rawStreamSend_held s g j i r q hup h hsend hq (by simp [hstall]), hstall]
      rfl
    · rw [exec_rawStreamSend_held s g j i r q hup h hsend hq (by simp [hcut]), if_pos hcut]
    · have hok : r.compare j.cid q.dec = stOk := by simp [Ready.compare, hcid, hm, hn]
      obtain ⟨t, hexec, hmem, hcell, hraw⟩ := exec_rawStreamSend_sends s g j i r q hup h hsend hq hway hne hok
      refine ⟨t, hexec, hmem, ?_, ?_, by simpa [Cell.streamFor, hok] using hraw⟩
      · simp [hcell, Cell.sent, hq]
      · simp [hcell, Cell.sent]
    · have hbad : r.compare j.cid q.dec = stAccess := by simp [Ready.compare, hcid]
      simpa [hbad] using exec_rawStreamSend_fails s g j i r q hup h hsend hq hway hne (by rw [hbad]; decide)
    · have hbad : r.compare j.cid q.dec = stFormat := by simp [Ready.compare, hcid, hshape]
      simpa [hbad] using exec_rawStreamSend_fails s g j i r q hup h hsend hq hway hne (by rw [hbad]; decide)
  · intro s g side j x rest i q hup hjob hrun hraw hwants hq
    refine ⟨exec_rawStreamLanded_held s g side x rest hup hraw, fun hok hway => ?_,
      exec_rawStreamLanded_fails s g side j x rest i q hup hjob hrun hraw hwants hq⟩
    obtain ⟨t, hexec, hmem, hcell, -⟩ := (exec_rawStreamLanded_lands s g side j x rest i q hup hjob hrun hraw hwants hq hok hway).next
    refine ⟨t, hexec, hmem, ?_, fun k => ?_⟩
    · simp [hcell, Cell.landRaw, hq]
    · rw [hcell]
      simpa [Cell.landRaw] using Cell.write_mem ((s.cell g).tookRaw side x.tag rest) (q.dec.landing side) x.bytes k

end Sys2Proof.Machine
end

section
/-! The rules of the vector engine's state that the proofs of spec/07_vector_engine.md use: its queue and its tile buffers, what an
instruction that has acted leaves in its cell, and that it leaves everything else (07 R128, R129, R146). -/

namespace Sys2Proof.Machine

/-! ### The engine's queue -/

/-- Once the first element with a property has lost it, those that have it are the others. -/
theorem filter_modify_first {α : Type} (p : α → Bool) (f : α → α) (hf : ∀ a, p (f a) = false) (l : List α) (k : Nat)
    (h : l.findIdx? p = some k) : (l.modify k f).filter p = (l.filter p).tail := by
  induction l generalizing k with
  | nil => simp at h
  | cons a l ih =>
    rw [List.findIdx?_cons] at h
    cases ha : p a with
    | true =>
      obtain rfl : 0 = k := by simpa [ha] using h
      simp [hf, ha]
    | false =>
      simp only [ha, Bool.false_eq_true, if_false, Option.map_eq_some_iff] at h
      obtain ⟨i, hi, rfl⟩ := h
      simp [ha, ih i hi]

/-- A cell whose vector engine has carried out its next instruction (07 R146). -/
def Cell.vecActed (c : Cell) : Cell :=
  { c with vec := { c.vec with
      queue := c.vec.queue.modify ((c.vec.queue.findIdx? fun q => !q.done).getD 0) fun q => { q with done := true } } }

@[simp] theorem Cell.vecActed_fields (c : Cell) :
    c.vecActed.job = c.job ∧ c.vecActed.mem = c.mem ∧ c.vecActed.dq = c.dq ∧ c.vecActed.vec.tb = c.vec.tb ∧
      c.vecActed.vec.narrow = c.vec.narrow ∧ c.vecActed.vec.wide = c.vec.wide ∧ c.vecActed.vec.nflags = c.vec.nflags ∧
      c.vecActed.vec.wflags = c.vec.wflags ∧ c.vecActed.vec.terms = c.vec.terms :=
  ⟨rfl, rfl, rfl, rfl, rfl, rfl, rfl, rfl, rfl⟩

theorem Cell.vecActed_waiting (c : Cell) (q : VecInstr) (h : (c.vec.queue.find? fun q => !q.done) = some q) :
    c.vecActed.vec.queue.filter (fun q => !q.done) = (c.vec.queue.filter fun q => !q.done).tail := by
  have hsome : (c.vec.queue.findIdx? fun q => !q.done).isSome = true := by
    simpa using ⟨q, List.mem_of_find?_eq_some h, by simpa using List.find?_some h⟩
  obtain ⟨k, hk⟩ := Option.isSome_iff_exists.1 hsome
  unfold Cell.vecActed
  simp only [hk, Option.getD_some]
  exact filter_modify_first _ _ (fun _ => rfl) _ k hk

/-! ### Tile buffers (07 R129) -/

/-- The cell with bytes written from byte 0 of a tile buffer on. -/
def Cell.putTile (c : Cell) (d : Nat) (bs : List Byte) : Cell := { c with vec := c.vec.put d bs }

@[simp] theorem Cell.putTile_fields (c : Cell) (d : Nat) (bs : List Byte) :
    (c.putTile d bs).job = c.job ∧ (c.putTile d bs).mem = c.mem ∧ (c.putTile d bs).dq = c.dq ∧
      (c.putTile d bs).vec.queue = c.vec.queue ∧ (c.putTile d bs).vec.narrow = c.vec.narrow ∧
      (c.putTile d bs).vec.wide = c.vec.wide ∧ (c.putTile d bs).vec.nflags = c.vec.nflags ∧
      (c.putTile d bs).vec.wflags = c.vec.wflags ∧ (c.putTile d bs).vec.terms = c.vec.terms :=
  ⟨rfl, rfl, rfl, rfl, rfl, rfl, rfl, rfl, rfl⟩

theorem Cell.putTile_tb (c : Cell) (d : Nat) (bs : List Byte) (k : Nat) :
    tabGet zeroByte (c.putTile d bs).vec.tb k =
      if 65536 * d ≤ k ∧ k < 65536 * d + bs.length then bs.getD (k - 65536 * d) 0 else tabGet zeroByte c.vec.tb k :=
  tabGet_setMany zeroByte c.vec.tb (65536 * d) k bs

/-- The cell with another content of its vector engine. -/
def Cell.withVec (c : Cell) (v : VectorEngine) : Cell := { c with vec := v }

@[simp] theorem Cell.withVec_fields (c : Cell) (v : VectorEngine) :
    (c.withVec v).job = c.job ∧ (c.withVec v).mem = c.mem ∧ (c.withVec v).vec = v := ⟨rfl, rfl, rfl⟩

/-! ### Steps that change one cell -/

/-- Memory is as it was, cell g is x, and the other cells are as they were. -/
structure OnlyCell (s t : State) (g : Nat) (x : Cell) : Prop where
  mem : t.mem = s.mem
  here : t.cell g = x
  others : ∀ h, h ≠ g → t.cell h = s.cell h

section
variable {s t u : State} {g : Nat} {x y : Cell}

theorem OnlyCell.refl : OnlyCell s s g (s.cell g) := ⟨rfl, rfl, fun _ _ => rfl⟩

theorem OnlyCell.store (h : OnlyCell s t g x) (k : SameStore t u) : OnlyCell s u g x :=
  ⟨k.mem.trans h.mem, (k.cell g).trans h.here, fun i hi => (k.cell i).trans (h.others i hi)⟩

theorem OnlyCell.setCell (h : OnlyCell s t g x) : OnlyCell s (t.setCell g y) g y :=
  ⟨by simpa using h.mem, by simp, fun i hi => by simpa [hi] using h.others i hi⟩

/-! ### What an instruction that has acted leaves (07 R146) -/

theorem State.vecDone_store (s : State) (g : Nat) (j : Job) (n : Nat) :
    SameStore (s.setCell g (s.cell g).vecActed) (s.vecDone g j n) :=
  (State.count_store _ (g / 64) 0x04 (some j.cid) n).trans (State.tally_store _ (some (j.ring, j.seq)) 2 n)

theorem OnlyCell.done (h : OnlyCell s t g x) (j : Job) (n : Nat) : OnlyCell s (t.vecDone g j n) g x.vecActed := by
  have hacted : OnlyCell s (t.setCell g (t.cell g).vecActed) g x.vecActed := h.here ▸ h.setCell
  exact hacted.store (State.vecDone_store t g j n)

theorem OnlyCell.put (h : OnlyCell s t g x) (j : Job) (w : VWord) (bs : List Byte) :
    OnlyCell s (t.vecPut g j w bs) g (x.putTile w.d bs).vecActed := by
  have hput : OnlyCell s (t.setCell g ((t.cell g).putTile w.d bs)) g (x.putTile w.d bs) := h.here ▸ h.setCell
  exact hput.done j w.e

/-- A reduction that only accumulates writes no bytes (07 R138). -/
theorem OnlyCell.result (h : OnlyCell s t g x) (j : Job) (w : VWord) (bs : List Byte) :
    OnlyCell s (if w.rsc = 3 then t.vecDone g j w.e else t.vecPut g j w bs) g
      (x.putTile w.d (if w.rsc = 3 then [] else bs)).vecActed := by
  split
  · exact h.done j w.e
  · exact h.put j w bs

variable {j : Job} {w : VWord}

theorem OnlyCell.frame (h : OnlyCell s t g x.vecActed) (hnext : s.vecNext g j w) (hjob : x.job = (s.cell g).job)
    (hqueue : x.vec.queue = (s.cell g).vec.queue) : VecFrame s t g := by
  obtain ⟨-, q, hq, -⟩ := hnext
  refine ⟨h.mem, h.others, ?_, ?_⟩
  · simp [h.here, hjob]
  · rw [h.here, Cell.vecActed_waiting x q (by rw [hqueue, hq]), hqueue]

theorem OnlyCell.tile {bs : List Byte} (h : OnlyCell s t g (x.putTile w.d bs).vecActed) (hmem : x.mem = (s.cell g).mem)
    (htb : x.vec.tb = (s.cell g).vec.tb) : VecTile s t g w.d bs := by
  refine ⟨by simp [h.here, hmem], fun k => ?_⟩
  simpa [h.here, htb] using Cell.putTile_tb x w.d bs k

/-- What an instruction that writes D and no accumulator leaves. -/
theorem OnlyCell.wrote {bs : List Byte} (h : OnlyCell s t g (x.putTile w.d bs).vecActed) (hnext : s.vecNext g j w)
    (hjob : x.job = (s.cell g).job) (hmem : x.mem = (s.cell g).mem) (hvec : x.vec = (s.cell g).vec) : VecWrote s t g w.d bs := by
  refine ⟨h.frame hnext (by simp [hjob]) (by simp [hvec]), ?_, h.tile hmem (by rw [hvec])⟩
  simp [VecAccsKept, h.here, hvec]

/-- What an instruction that writes cell memory and no tile buffer leaves. -/
theorem OnlyCell.stored (h : OnlyCell s t g x.vecActed) (hnext : s.vecNext g j w) (hx : x = { s.cell g with mem := x.mem }) :
    VecFrame s t g ∧ VecAccsKept s t g ∧ (t.cell g).vec.tb = (s.cell g).vec.tb ∧ (t.cell g).mem = x.mem := by
  have hvec : x.vec = (s.cell g).vec := by rw [hx]
  refine ⟨h.frame hnext (by rw [hx]) (by rw [hvec]), ?_, by simp [h.here, hvec], by simp [h.here]⟩
  simp [VecAccsKept, h.here, hvec]

end

/-! ### The commands of the vector engine -/

/-- An instruction that puts bytes in D and does nothing else. -/
theorem vecPut_wrote (s : State) (g : CellId) (j : Job) (w : VWord) (h : s.vecNext g j w) (bs : List Byte) :
    VecWrote s (s.keepInputs (s.vecPut g j w bs)) g w.d bs :=
  ((OnlyCell.refl.put j w bs).store (State.keepInputs_store s _)).wrote h rfl rfl rfl

section
variable (s : State) (g : CellId) (j : Job) (w : VWord) (hup : s.phase = .up) (h : s.vecNext g j w)
include hup h

/-- The answer of a vector command to the engine's next instruction, where that is of its operation. -/
theorem live_onVec (lo hi : Nat) (hlo : lo ≤ w.op) (hhi : w.op ≤ hi) (eff : State → State) (f : Cell → Job → VWord → State)
    (heff : eff s = s.onVec g lo hi f) : s.live eff = .next (s.keepInputs (f (s.cell g) j w)) := by
  rw [live_up s eff hup, heff, State.onVec_next s g lo hi j w f h, if_pos (by simp [hlo, hhi])]

/-- The same for a command of one operation code. -/
theorem live_onOp (op : Nat) (hop : w.op = op) (eff : State → State) (f : Cell → Job → VWord → State)
    (heff : eff s = s.onVec g op op f) : s.live eff = .next (s.keepInputs (f (s.cell g) j w)) :=
  live_onVec s g j w hup h op op (Nat.le_of_eq hop.symm) (Nat.le_of_eq hop) eff f heff

theorem live_vecPut (op : Nat) (hop : w.op = op) (eff : State → State) (bytes : Cell → VWord → List Byte)
    (heff : eff s = s.onVec g op op fun c j w => s.vecPut g j w (bytes c w)) :
    ∃ t, s.live eff = .next t ∧ VecWrote s t g w.d (bytes (s.cell g) w) :=
  ⟨_, live_onOp s g j w hup h op hop eff _ heff, vecPut_wrote s g j w h _⟩

end

end Sys2Proof.Machine
end

section
/-! Proofs of spec/07_vector_engine.md: element arithmetic, smoothing steps, conversions and functions (R133-R137). -/

namespace Sys2Proof.Machine

/-! ### Element arithmetic (07 R133, R134) -/

/-- The results of an operation on two sources, as they are packed in D. -/
def VWord.binary (w : VWord) (v : VectorEngine) (f : Num → Num → Num) : List Byte :=
  packRows w.cls w.m w.c ((w.pairs v).map fun p => (w.cls.round .ieee (f p.1 p.2)).code)

/-- The results of an operation on one source, as they are packed in D. -/
def VWord.unary (w : VWord) (v : VectorEngine) (f : Num → Num) : List Byte :=
  packRows w.cls w.m w.c ((w.xs v).map fun x => (w.cls.round .ieee (f x)).code)

/-- The results of a narrowing rounding of each code of S1, as they are packed in D. -/
def VWord.narrowed (w : VWord) (v : VectorEngine) (f : Nat → Written) : List Byte :=
  packRows w.dst w.m w.c ((v.codes w.s1 w.src w.m w.c).map fun x => (f x).code)

section
variable (s : State) (g : CellId) (j : Job) (w : VWord) (hup : s.phase = .up) (h : s.vecNext g j w)
include hup h

theorem live_vecBinary (op : Nat) (eff : State → State) (f : VWord → Num → Num → Num)
    (heff : eff s = s.onVec g op op fun c j w => s.vecBinary g c j w (f w)) (hop : w.op = op) :
    ∃ t, s.live eff = .next t ∧ VecWrote s t g w.d (w.binary (s.cell g).vec (f w)) :=
  live_vecPut s g j w hup h op hop eff (fun c w => w.binary c.vec (f w)) heff

theorem live_vecUnary (op : Nat) (eff : State → State) (f : Num → Num)
    (heff : eff s = s.onVec g op op fun c j w => s.vecUnary g c j w f) (hop : w.op = op) :
    ∃ t, s.live eff = .next t ∧ VecWrote s t g w.d (w.unary (s.cell g).vec f) :=
  live_vecPut s g j w hup h op hop eff (fun c w => w.unary c.vec f) heff

/-! ### Smoothing steps (02 R50, 07 R136) -/

section
variable (op : Nat) (eff : State → State) (f : Num → Num → Num)
  (heff : eff s = s.onVec g op op fun c j w => s.vecSmooth g c j w f) (hop : w.op = op)
include heff hop

theorem live_vecSmooth_good (hall : (w.factors (s.cell g).vec).all Num.isPosFinite = true) :
    ∃ t, s.live eff = .next t ∧ VecWrote s t g w.d (w.binary (s.cell g).vec f) := by
  refine ⟨_, live_onOp s g j w hup h op hop eff _ heff, ?_⟩
  rw [State.vecSmooth, if_pos hall]
  exact vecPut_wrote s g j w h _

theorem live_vecSmooth_bad (hall : (w.factors (s.cell g).vec).all Num.isPosFinite = false) :
    s.live eff = .next (s.endItem g stFormat) := by
  rw [live_onOp s g j w hup h op hop eff _ heff, State.vecSmooth, if_neg (by simp [hall]), keepInputs_endItem]

end

/-! ### Conversions (07 R135) -/

/-- A conversion's report to Tint watch changes its command alone (07 R147). -/
theorem live_vecNarrow (op : Nat) (eff : State → State) (f : Job → VWord → Nat → Written)
    (heff : eff s = s.onVec g op op fun c j w => s.vecNarrow g c j w (f j w)) (hop : w.op = op) :
    ∃ t, s.live eff = .next t ∧ VecWrote s t g w.d (w.narrowed (s.cell g).vec (f j w)) := by
  refine ⟨_, live_onOp s g j w hup h op hop eff _ heff, ?_⟩
  simp only [State.vecNarrow, List.map_map]
  have hreport (r : Tint → Tint) : OnlyCell s (if w.tw then s.report j.ring j.seq r else s) g (s.cell g) :=
    OnlyCell.refl.store (SameStore.ite _ (State.report_store s _ _ _) (SameStore.refl s))
  exact (((hreport _).put j w _).store (State.keepInputs_store s _)).wrote h rfl rfl rfl

theorem exec_expv (hop : w.op = 0x08) : ∃ t, exec (.expv g) s = .next t ∧
    VecWrote s t g w.d ((w.xs (s.cell g).vec).flatMap fun x =>
      leBytes 2 (match alignExp [x] with | some e => (e % 65536).toNat | none => 0x7FFF)) := by
  obtain ⟨t, hexec, hwrote⟩ := live_vecPut s g j w hup h 8 hop (effExpv g) _ rfl
  rw [List.flatMap_map] at hwrote
  exact ⟨t, hexec, hwrote⟩

theorem exec_func (hlo : 0x40 ≤ w.op) (hhi : w.op ≤ 0x5F) : ∃ t, exec (.func g) s = .next t ∧
    VecWrote s t g w.d (packRows .fp32 w.m w.c ((w.xs (s.cell g).vec).map fun x => vectorFunction (w.op - 0x40) (fp32 w.rs2) x)) :=
  ⟨_, live_onVec s g j w hup h 0x40 0x5F hlo hhi (effFunc g) _ rfl, vecPut_wrote s g j w h _⟩

end

/-- Settles O9: each operation has a shape above, with its own function of the elements. -/
theorem vectorArithmeticAndConversions : Obligations.VectorArithmeticAndConversions := by
  unfold Obligations.VectorArithmeticAndConversions
  refine ⟨fun s g j w hup h => ?_, fun s g j w hup h => ?_⟩
  · refine ⟨live_vecBinary s g j w hup h _ (effAdd g) (fun _ => Num.add) rfl,
      live_vecBinary s g j w hup h _ (effSub g) (fun _ x b => x.add b.neg) rfl,
      live_vecBinary s g j w hup h _ (effMul g) (fun _ => Num.mul) rfl,
      live_vecBinary s g j w hup h _ (effDiv g) (fun _ => Num.div) rfl,
      live_vecBinary s g j w hup h _ (effFma g) (fun w x b => (x.mul b).add w.addend) rfl,
      live_vecBinary s g j w hup h _ (effMax g) (fun _ => Num.maxOf) rfl,
      live_vecBinary s g j w hup h _ (effMin g) (fun _ => Num.minOf) rfl,
      live_vecUnary s g j w hup h _ (effSqrt g) Num.sqrt rfl, live_vecUnary s g j w hup h _ (effAbs g) Num.abs rfl,
      live_vecUnary s g j w hup h _ (effNeg g) Num.neg rfl, fun hall => ⟨?_, ?_⟩, fun hall => ⟨?_, ?_⟩⟩
    · exact fun hop => live_vecSmooth_good s g j w hup h _ (effSdiv g) Num.div rfl hop hall
    · exact fun hop => live_vecSmooth_good s g j w hup h _ (effSmul g) Num.mul rfl hop hall
    · exact fun hop => live_vecSmooth_bad s g j w hup h _ (effSdiv g) Num.div rfl hop hall
    · exact fun hop => live_vecSmooth_bad s g j w hup h _ (effSmul g) Num.mul rfl hop hall
  · exact ⟨live_vecNarrow s g j w hup h _ (effCvt g) (fun j w => convert w.src w.dst (s.modeOf j)) rfl,
      live_vecNarrow s g j w hup h _ (effQuant g)
        (fun j w x => quantise w.dst (s.modeOf j) (fp32 w.rs2) (signedOf 16 w.rs3) (w.src.value x)) rfl,
      live_vecNarrow s g j w hup h _ (effDequant g)
        (fun j w => dequantise w.src w.dst (s.modeOf j) (fp32 w.rs2) (signedOf 16 w.rs3)) rfl,
      exec_expv s g j w hup h, exec_func s g j w hup h⟩

end Sys2Proof.Machine
end

section
/-! Proofs of spec/07_vector_engine.md: the moves between cell memory, the tile buffers and the drain queue (R133, R145, 02 R26,
05 R102, R103). -/

namespace Sys2Proof.Machine

/-! ### Rows as they are moved (02 R26, 07 R129) -/

section
variable (f : Fmt) (c : Nat) (bs : List Byte)

theorem cleanRow_length : (cleanRow f c bs).length = bs.length := by
  unfold cleanRow
  split
  · exact List.length_modify ..
  · rfl

/-- The last byte of a row of odd length loses its pad nibble, every other byte stays. -/
theorem cleanRow_getD (i : Nat) (hi : i < bs.length) : (cleanRow f c bs).getD i 0 =
    if f.bits = 4 ∧ c % 2 = 1 ∧ i + 1 = bs.length then bs.getD i 0 &&& 0x0F else bs.getD i 0 := by
  have hlast : bs.length - 1 = i ↔ i + 1 = bs.length := by omega
  unfold cleanRow
  by_cases hodd : f.bits = 4 ∧ c % 2 = 1
  · simp only [hodd, decide_true, Bool.and_self, if_true, true_and, ← hlast]
    by_cases heq : bs.length - 1 = i
    · simp [List.getD_eq_getElem?_getD, heq, hi]
    · simp [List.getD_eq_getElem?_getD, heq]
  · rw [if_neg (by simpa using hodd), if_neg fun hlast => hodd ⟨hlast.1, hlast.2.1⟩]

end

/-! ### Rows written to cell memory one after the other -/

section
variable (a : Nat → Nat) (row : Nat → List Byte) (c : Cell) (k : Nat)

theorem Cell.foldl_write_outside (l : List Nat) (h : ∀ r ∈ l, ¬(a r ≤ k ∧ k < a r + (row r).length)) :
    tabGet zeroByte (l.foldl (fun c r => c.write (a r) (row r)) c).mem k = tabGet zeroByte c.mem k := by
  induction l generalizing c with
  | nil => rfl
  | cons r l ih =>
    rw [List.foldl_cons, ih _ fun q hq => h q (List.mem_cons_of_mem _ hq), Cell.write_mem, if_neg (h r List.mem_cons_self)]

/-- A byte of a row that no later row covers reads as that row's byte. -/
theorem Cell.foldl_write_last (m r : Nat) (hr : r < m) (hk : a r ≤ k ∧ k < a r + (row r).length)
    (hlater : ∀ q, r < q → q < m → ¬(a q ≤ k ∧ k < a q + (row q).length)) :
    tabGet zeroByte ((List.range m).foldl (fun c r => c.write (a r) (row r)) c).mem k = (row r).getD (k - a r) 0 := by
  induction m with
  | zero => omega
  | succ m ih =>
    rw [List.range_succ, List.foldl_append, List.foldl_cons, List.foldl_nil, Cell.write_mem]
    by_cases heq : r = m
    · rw [← heq, if_pos hk]
    · rw [if_neg (hlater m (by omega) (by omega)), ih (by omega) fun q hq hm => hlater q hq (by omega)]

end

/-! ### What VST writes (07 R145) -/

/-- Row r of S1 as VST stores it. -/
def VWord.storedRow (w : VWord) (v : VectorEngine) (r : Nat) : List Byte :=
  cleanRow w.src w.c (((v.bytes w.s1 (shapeBytes w.src w.m w.c)).drop (r * rowBytes w.src w.c)).take (rowBytes w.src w.c))

/-- The cell with the rows of S1 stored. -/
def Cell.storeRows (c : Cell) (w : VWord) : Cell :=
  (List.range w.m).foldl (fun x r => x.write (w.cellOff + r * w.cellStride) (w.storedRow c.vec r)) c

section
variable (w : VWord) (v : VectorEngine) (c : Cell)

theorem Cell.storeRows_only : c.storeRows w = { c with mem := (c.storeRows w).mem } := Cell.foldl_write _ _ _ c c rfl

theorem VWord.row_end_le (r : Nat) (hr : r < w.m) : r * rowBytes w.src w.c + rowBytes w.src w.c ≤ shapeBytes w.src w.m w.c := by
  rw [shapeBytes, ← Nat.succ_mul]
  exact Nat.mul_le_mul_right _ hr

/-- The bytes of a row before its pad nibble is cleared. -/
theorem rawRow_length (r : Nat) (hr : r < w.m) :
    (((v.bytes w.s1 (shapeBytes w.src w.m w.c)).drop (r * rowBytes w.src w.c)).take (rowBytes w.src w.c)).length =
      rowBytes w.src w.c := by
  have hend := w.row_end_le r hr
  simp only [List.length_take, List.length_drop, VectorEngine.bytes, tabGetMany_length]
  omega

theorem VWord.storedRow_length (r : Nat) (hr : r < w.m) : (w.storedRow v r).length = rowBytes w.src w.c := by
  rw [VWord.storedRow, cleanRow_length, rawRow_length w v r hr]

theorem VWord.storedRow_getD (r i : Nat) (hr : r < w.m) (hi : i < rowBytes w.src w.c) : (w.storedRow v r).getD i 0 =
    if w.src.bits = 4 ∧ w.c % 2 = 1 ∧ i + 1 = rowBytes w.src w.c
    then tabGet zeroByte v.tb (65536 * w.s1 + (r * rowBytes w.src w.c + i)) &&& 0x0F
    else tabGet zeroByte v.tb (65536 * w.s1 + (r * rowBytes w.src w.c + i)) := by
  have hlen := rawRow_length w v r hr
  have hend := w.row_end_le r hr
  have hbyte : (((v.bytes w.s1 (shapeBytes w.src w.m w.c)).drop (r * rowBytes w.src w.c)).take (rowBytes w.src w.c)).getD i 0 =
      tabGet zeroByte v.tb (65536 * w.s1 + (r * rowBytes w.src w.c + i)) := by
    rw [← tabGetMany_getD zeroByte v.tb (65536 * w.s1) (shapeBytes w.src w.m w.c) _ 0 (by omega)]
    simp [List.getD_eq_getElem?_getD, hi, VectorEngine.bytes]
  rw [VWord.storedRow, cleanRow_getD _ _ _ i (by omega), hlen, hbyte]

end

/-! ### The commands -/

section
variable (s : State) (g : CellId) (j : Job) (w : VWord) (hup : s.phase = .up) (h : s.vecNext g j w)
include hup h

theorem exec_vld (hop : w.op = 0x01) : ∃ t, exec (.vld g) s = .next t ∧ VecWrote s t g w.d ((List.range w.m).flatMap fun r =>
    cleanRow w.src w.c ((s.cell g).read (w.cellOff + r * w.cellStride) (rowBytes w.src w.c))) :=
  live_vecPut s g j w hup h 1 hop (effVld g)
    (fun c w => (List.range w.m).flatMap fun r => cleanRow w.src w.c (c.read (w.cellOff + r * w.cellStride) (rowBytes w.src w.c))) rfl

/-- VST stores the rows; its report to Tint watch changes its command alone (07 R147). -/
theorem exec_vst (hop : w.op = 0x02) : ∃ t, exec (.vst g) s = .next t ∧ OnlyCell s t g ((s.cell g).storeRows w).vecActed := by
  refine ⟨_, live_onOp s g j w hup h 2 hop (effVst g) _ rfl, ?_⟩
  have hstored : OnlyCell s (s.setCell g ((s.cell g).storeRows w)) g ((s.cell g).storeRows w) := OnlyCell.refl.setCell
  have hreport (r : Tint → Tint) : OnlyCell s (if w.tw then (s.setCell g ((s.cell g).storeRows w)).report j.ring j.seq r
      else s.setCell g ((s.cell g).storeRows w)) g ((s.cell g).storeRows w) :=
    hstored.store (SameStore.ite _ (State.report_store _ _ _ _) (SameStore.refl _))
  exact ((hreport _).done j w.e).store (State.keepInputs_store s _)

/-! POP by the head of the drain queue (05 R102, R103). -/

section
variable (hop : w.op = 0x03)
include hop

theorem exec_pop_empty (hdq : (s.cell g).dq = []) : exec (.pop g) s = .next
    (if ((s.cell g).matrix.queue.any fun q => q.dec.dst = 2 && q.phase ≠ .done) = true then s else s.endItem g stState) := by
  refine (live_onOp s g j w hup h 3 hop (effPop g) _ rfl).trans ?_
  simp only [hdq]
  rw [keepInputs_ite, keepInputs_self, keepInputs_endItem]

section
variable (x : QueueTile) (rest : List QueueTile) (hdq : (s.cell g).dq = x :: rest)
include hdq

theorem exec_pop_mismatch (hfmt : x.fmt ≠ w.f1) : exec (.pop g) s = .next (s.endItem g stFormat) := by
  refine (live_onOp s g j w hup h 3 hop (effPop g) _ rfl).trans ?_
  simp only [hdq]
  rw [if_pos hfmt, keepInputs_endItem]

theorem exec_pop_takes (hfmt : x.fmt = w.f1) :
    ∃ t, exec (.pop g) s = .next t ∧ (t.cell g).dq = rest ∧ VecWrote s t g w.d x.bytes := by
  have htook : OnlyCell s (s.setCell g { s.cell g with dq := rest }) g { s.cell g with dq := rest } := OnlyCell.refl.setCell
  have hput := (htook.put j w x.bytes).store (State.keepInputs_store s _)
  refine ⟨_, (live_onOp s g j w hup h 3 hop (effPop g) _ rfl).trans ?_, by rw [hput.here]; rfl, hput.wrote h rfl rfl rfl⟩
  simp only [hdq]
  rw [if_neg (not_not_intro hfmt)]

end

end

end

/-- Settles O10: VLD and POP fill D; VST is read byte by byte, a byte by the last row that covers it. -/
theorem vectorMoves : Obligations.VectorMoves := by
  unfold Obligations.VectorMoves
  intro s g j w hup h
  refine ⟨exec_vld s g j w hup h, fun hop => ?_, fun hop => ⟨fun hdq hwill => ?_, fun hdq hnone => ?_, fun x rest hdq =>
    ⟨exec_pop_mismatch s g j w hup h hop x rest hdq, exec_pop_takes s g j w hup h hop x rest hdq⟩⟩⟩
  · obtain ⟨t, hexec, ht⟩ := exec_vst s g j w hup h hop
    obtain ⟨hframe, haccs, htb, hmem⟩ := ht.stored h ((s.cell g).storeRows_only w)
    refine ⟨t, hexec, hframe, haccs, htb, fun r i hr hi hlater => ?_, fun k houtside => ?_⟩
    · rw [hmem, Cell.storeRows, Cell.foldl_write_last _ _ _ _ w.m r hr, Nat.add_sub_cancel_left, w.storedRow_getD _ r i hr hi]
      · rw [w.storedRow_length _ r hr]
        omega
      · intro q hq hm
        rw [w.storedRow_length _ q hm]
        exact hlater q hq hm
    · rw [hmem, Cell.storeRows, Cell.foldl_write_outside]
      intro r hr
      have hr := List.mem_range.1 hr
      rw [w.storedRow_length _ r hr]
      exact houtside r hr
  · rw [exec_pop_empty s g j w hup h hop hdq, if_pos hwill]
  · rw [exec_pop_empty s g j w hup h hop hdq, if_neg (by rw [hnone]; exact Bool.false_ne_true)]

end Sys2Proof.Machine
end

section
/-! Proofs of spec/07_vector_engine.md: exact sums and extrema (R138-R140). -/

namespace Sys2Proof.Machine

/-! ### Accumulators (07 R128, R130) -/

/-- An accumulator takes a value that fits it. -/
theorem accBits_toInt (k : Nat) (free : BitVec (k + 1)) (v : Int) (hlo : -(2 ^ k : Int) ≤ v) (hhi : v < 2 ^ k) :
    (accBits (k + 1) free v).toInt = v := by
  unfold accBits
  rw [Nat.add_sub_cancel, if_pos (by simp [hlo, hhi])]
  exact BitVec.toInt_ofInt_eq_self (Nat.succ_pos k) (by simpa using hlo) (by simpa using hhi)

/-- The term counter holds a saturated count. -/
theorem toNat_satTerms (n : Nat) : (BitVec.ofNat 32 (satTerms n)).toNat = satTerms n := by
  rw [BitVec.toNat_ofNat, Nat.mod_eq_of_lt]
  unfold satTerms
  omega

/-- The unit of the narrow or of the wide accumulator. -/
def accUnit (narrow : Bool) : Nat := if narrow then narrowUnit else wideUnit

/-- What the narrow or the wide accumulator holds. -/
def VectorEngine.held (v : VectorEngine) (narrow : Bool) : Sum :=
  if narrow then { v := v.narrow.toInt, f := v.nflags } else { v := v.wide.toInt, f := v.wflags }

/-- The engine with a sum of n terms in one accumulator, whose bits are free beyond its width (07 R130; log 4). -/
def VectorEngine.summed (v : VectorEngine) (narrow : Bool) (x : BitVec 320) (y : BitVec 4352) (a : Sum) (n : Nat) : VectorEngine :=
  match narrow with
  | true => { v with narrow := accBits 320 x a.v, nflags := a.f, terms := BitVec.ofNat 32 n }
  | false => { v with wide := accBits 4352 y a.v, wflags := a.f, terms := BitVec.ofNat 32 n }

/-- One accumulator of u holds the sum a, where it fits, with its flags, and the other is as in v (07 R138, R139). -/
def AccIs (narrow : Bool) (v u : VectorEngine) (a : Sum) : Prop :=
  match narrow with
  | true => (-(2 ^ 319 : Int) ≤ a.v ∧ a.v < 2 ^ 319 → u.narrow.toInt = a.v) ∧ u.nflags = a.f ∧
      u.wide = v.wide ∧ u.wflags = v.wflags
  | false => (-(2 ^ 4351 : Int) ≤ a.v ∧ a.v < 2 ^ 4351 → u.wide.toInt = a.v) ∧ u.wflags = a.f ∧
      u.narrow = v.narrow ∧ u.nflags = v.nflags

section
variable (v : VectorEngine) (narrow : Bool) (x : BitVec 320) (y : BitVec 4352) (a : Sum) (n : Nat)

@[simp] theorem VectorEngine.summed_fields :
    (v.summed narrow x y a n).queue = v.queue ∧ (v.summed narrow x y a n).tb = v.tb ∧
      (v.summed narrow x y a n).terms = BitVec.ofNat 32 n := by
  cases narrow <;> exact ⟨rfl, rfl, rfl⟩

theorem VectorEngine.summed_acc : AccIs narrow v (v.summed narrow x y a n) a := by
  cases narrow with
  | true => exact ⟨fun hfits => accBits_toInt 319 x a.v hfits.1 hfits.2, rfl, rfl, rfl⟩
  | false => exact ⟨fun hfits => accBits_toInt 4351 y a.v hfits.1 hfits.2, rfl, rfl, rfl⟩

end

/-! ### Sums over the scopes (07 R138) -/

/-- With RSC 2 and 3 there is one scope, the whole. -/
theorem VWord.scopes_whole {α : Type} (w : VWord) (xs : List α) (h : 2 ≤ w.rsc) : w.scopes xs = [xs] := by
  unfold VWord.scopes
  split
  · omega
  · omega
  · rfl

/-- A scope that begins from a cleared accumulator: its result behind the earlier ones, and what it leaves (07 R138). -/
def scopeStep (q : Nat) (t : List Num × Sum × Nat) (l : List Num) : List Num × Sum × Nat :=
  let a := l.foldl (Sum.term q) Sum.clear
  (t.1 ++ [a.value q (satTerms l.length)], a, satTerms l.length)

theorem foldl_scopeStep (q : Nat) (scopes : List (List Num)) (t : List Num × Sum × Nat) : (scopes.foldl (scopeStep q) t).1 =
    t.1 ++ scopes.map fun l => (l.foldl (Sum.term q) Sum.clear).value q (satTerms l.length) := by
  induction scopes generalizing t with
  | nil => rw [List.foldl_nil, List.map_nil, List.append_nil]
  | cons l scopes ih => rw [List.foldl_cons, ih, List.map_cons, scopeStep, List.append_assoc, List.singleton_append]

section
variable (q : Nat) (start : Sum) (n0 : Nat)

/-- With RSC 0 and 1 each scope begins from a cleared accumulator. -/
theorem sumScopes_steps (scopes : List (List Num)) :
    sumScopes q start n0 true scopes = scopes.foldl (scopeStep q) ([], start, n0) := by
  simp only [sumScopes, if_true, Nat.zero_add]
  rfl

theorem sumScopes_results (scopes : List (List Num)) : (sumScopes q start n0 true scopes).1 =
    scopes.map fun l => (l.foldl (Sum.term q) Sum.clear).value q (satTerms l.length) := by
  rw [sumScopes_steps, foldl_scopeStep, List.nil_append]

/-- The last scope leaves the accumulator and the count. -/
theorem sumScopes_last (scopes : List (List Num)) (l : List Num) (hl : scopes.getLast? = some l) :
    (sumScopes q start n0 true scopes).2 = (l.foldl (Sum.term q) Sum.clear, satTerms l.length) := by
  obtain ⟨init, rfl⟩ := List.getLast?_eq_some_iff.1 hl
  rw [sumScopes_steps, List.foldl_append]
  rfl

theorem sumScopes_whole (xs : List Num) : sumScopes q start n0 false [xs] =
    ([(xs.foldl (Sum.term q) start).value q (satTerms (n0 + xs.length))], xs.foldl (Sum.term q) start,
      satTerms (n0 + xs.length)) := rfl

end

/-- The results of RSUM or RDOT over its scopes, and what it leaves as sum and count. -/
def VWord.sums (w : VWord) (v : VectorEngine) (narrow : Bool) (terms : List Num) : List Num × Sum × Nat :=
  sumScopes (accUnit narrow) (if 2 ≤ w.rsc && w.acc then v.held narrow else Sum.clear)
    (if 2 ≤ w.rsc && w.acc then v.terms.toNat else 0) (w.rsc < 2) (w.scopes terms)

/-- What RSUM or RDOT writes to D. -/
def VWord.sumBytes (w : VWord) (v : VectorEngine) (narrow : Bool) (terms : List Num) : List Byte :=
  if w.rsc = 3 then [] else packRow w.dst ((w.sums v narrow terms).1.map fun r => (w.dst.round .ieee r).code)

section
variable (w : VWord) (v : VectorEngine) (narrow : Bool) (terms : List Num)

theorem VWord.sumBytes_each (hrsc : w.rsc < 2) : w.sumBytes v narrow terms = packRow w.dst ((w.scopes terms).map fun l =>
    (w.dst.round .ieee ((l.foldl (Sum.term (accUnit narrow)) Sum.clear).value (accUnit narrow) (satTerms l.length))).code) := by
  rw [VWord.sumBytes, if_neg (by omega), VWord.sums, decide_eq_true hrsc, sumScopes_results, List.map_map]
  rfl

theorem VWord.sums_each (hrsc : w.rsc < 2) (l : List Num) (hl : (w.scopes terms).getLast? = some l) :
    (w.sums v narrow terms).2 = (l.foldl (Sum.term (accUnit narrow)) Sum.clear, satTerms l.length) := by
  rw [VWord.sums, decide_eq_true hrsc, sumScopes_last _ _ _ _ l hl]

/-- The sum that an instruction of whole scope leaves (07 R138). -/
def VWord.total : Sum := terms.foldl (Sum.term (accUnit narrow)) (if w.acc then v.held narrow else Sum.clear)

/-- The terms that such an instruction leaves counted (07 R130). -/
def VWord.counted : Nat := satTerms ((if w.acc then v.terms.toNat else 0) + terms.length)

theorem VWord.sums_whole (hrsc : 2 ≤ w.rsc) : w.sums v narrow terms =
    ([(w.total v narrow terms).value (accUnit narrow) (w.counted v terms)], w.total v narrow terms, w.counted v terms) := by
  rw [VWord.sums, decide_eq_false (p := w.rsc < 2) (by omega), w.scopes_whole terms hrsc, sumScopes_whole, decide_eq_true hrsc,
    Bool.true_and]
  rfl

end

/-! ### RSUM and RDOT -/

/-- The terms of RDOT (07 R138). -/
def VWord.products (w : VWord) (v : VectorEngine) : List Num := (w.pairs v).map fun p => p.1.mul p.2

section
variable (s : State) (g : CellId) (j : Job) (w : VWord) (h : s.vecNext g j w) (narrow : Bool) (terms : List Num)

theorem State.draw_store (n : Nat) : SameStore s (s.draw n).1 := ⟨rfl, rfl⟩

/-- What a sum leaves of the state: its cell with the accumulator used, and D where it writes. -/
theorem vecSum_only : ∃ x y, OnlyCell s (s.keepInputs (s.vecSum g (s.cell g) j w narrow terms)) g
    (((s.cell g).withVec ((s.cell g).vec.summed narrow x y (w.sums (s.cell g).vec narrow terms).2.1
      (w.sums (s.cell g).vec narrow terms).2.2)).putTile w.d (w.sumBytes (s.cell g).vec narrow terms)).vecActed := by
  have hdrawn (n : Nat) (x : Cell) : OnlyCell s ((s.draw n).1.setCell g x) g x :=
    (OnlyCell.refl.store (State.draw_store s n)).setCell
  cases narrow with
  | true =>
    exact ⟨(s.draw 320).2, 0, ((hdrawn 320 _).result j w _).store (State.keepInputs_store s _)⟩
  | false =>
    exact ⟨0, (s.draw 4352).2, ((hdrawn 4352 _).result j w _).store (State.keepInputs_store s _)⟩

include h

theorem vecSum_leaves (t : State) (ht : t = s.keepInputs (s.vecSum g (s.cell g) j w narrow terms)) :
    VecFrame s t g ∧ VecTile s t g w.d (w.sumBytes (s.cell g).vec narrow terms) ∧
      AccIs narrow (s.cell g).vec (t.cell g).vec (w.sums (s.cell g).vec narrow terms).2.1 ∧
      (t.cell g).vec.terms = BitVec.ofNat 32 (w.sums (s.cell g).vec narrow terms).2.2 := by
  subst ht
  obtain ⟨x, y, ht⟩ := vecSum_only s g j w narrow terms
  refine ⟨ht.frame h rfl (by simp), ht.tile rfl (by simp), ?_, by simp [ht.here]⟩
  rw [ht.here]
  exact VectorEngine.summed_acc _ narrow x y _ _

variable (hup : s.phase = .up) (op : Nat) (eff : State → State) (narrowOf : VWord → Bool)
  (termsOf : VWord → VectorEngine → List Num)
  (heff : eff s = s.onVec g op op fun c j w => s.vecSum g c j w (narrowOf w) (termsOf w c.vec)) (hop : w.op = op)
  (hnarrow : narrowOf w = narrow)
include hup heff hop hnarrow

theorem live_vecSum_each (hrsc : w.rsc < 2) : ∃ t, s.live eff = .next t ∧ VecFrame s t g ∧
    VecTile s t g w.d (packRow w.dst ((w.scopes (termsOf w (s.cell g).vec)).map fun l =>
      (w.dst.round .ieee ((l.foldl (Sum.term (accUnit narrow)) Sum.clear).value (accUnit narrow) (satTerms l.length))).code)) ∧
    ∀ l, (w.scopes (termsOf w (s.cell g).vec)).getLast? = some l → (t.cell g).vec.terms.toNat = satTerms l.length ∧
      AccIs narrow (s.cell g).vec (t.cell g).vec (l.foldl (Sum.term (accUnit narrow)) Sum.clear) := by
  subst hnarrow
  obtain ⟨hframe, htile, hacc, hterms⟩ := vecSum_leaves s g j w h (narrowOf w) (termsOf w (s.cell g).vec) _ rfl
  refine ⟨_, live_onOp s g j w hup h op hop eff _ heff, hframe, ?_, fun l hl => ?_⟩
  · rwa [VWord.sumBytes_each _ _ _ _ hrsc] at htile
  · rw [VWord.sums_each w _ _ _ hrsc l hl] at hacc hterms
    exact ⟨by rw [hterms, toNat_satTerms], hacc⟩

theorem live_vecSum_whole (hrsc : 2 ≤ w.rsc) : ∃ t, s.live eff = .next t ∧ VecFrame s t g ∧
    AccIs narrow (s.cell g).vec (t.cell g).vec (w.total (s.cell g).vec narrow (termsOf w (s.cell g).vec)) ∧
    (t.cell g).vec.terms.toNat = w.counted (s.cell g).vec (termsOf w (s.cell g).vec) ∧
    VecTile s t g w.d (if w.rsc = 3 then [] else packRow w.dst
      [(w.dst.round .ieee ((w.total (s.cell g).vec narrow (termsOf w (s.cell g).vec)).value (accUnit narrow)
        (w.counted (s.cell g).vec (termsOf w (s.cell g).vec)))).code]) := by
  subst hnarrow
  obtain ⟨hframe, htile, hacc, hterms⟩ := vecSum_leaves s g j w h (narrowOf w) (termsOf w (s.cell g).vec) _ rfl
  rw [VWord.sums_whole w _ _ _ hrsc] at hacc hterms
  rw [VWord.sumBytes, VWord.sums_whole w _ _ _ hrsc] at htile
  exact ⟨_, live_onOp s g j w hup h op hop eff _ heff, hframe, hacc, by rw [hterms]; exact toNat_satTerms _, htile⟩

end

/-! ### RMAX, RMIN and RAMAX (07 R140) -/

/-- The extrema of the scopes, as they are packed in D. -/
def VWord.extrema (w : VWord) (v : VectorEngine) (f : Num → Num → Num) (m : Num → Num) : List Byte :=
  if w.rsc = 3 then []
  else packRow w.cls (((w.scopes ((w.xs v).map m)).map (extremum f)).map fun r => (w.cls.round .ieee r).code)

theorem live_vecExtreme (s : State) (g : CellId) (j : Job) (w : VWord) (hup : s.phase = .up) (h : s.vecNext g j w) (op : Nat)
    (eff : State → State) (f : Num → Num → Num) (m : Num → Num)
    (heff : eff s = s.onVec g op op fun c j w => s.vecExtreme g c j w f m) (hop : w.op = op) :
    ∃ t, s.live eff = .next t ∧ VecWrote s t g w.d (w.extrema (s.cell g).vec f m) :=
  ⟨_, live_onOp s g j w hup h op hop eff _ heff,
    ((OnlyCell.refl.result j w _).store (State.keepInputs_store s _)).wrote h rfl rfl rfl⟩

/-- Settles O11: RSUM by its class and RDOT are sums of their terms, over each scope or over the whole; the others are extrema. -/
theorem vectorReductions : Obligations.VectorReductions := by
  unfold Obligations.VectorReductions
  intro s g j w hup h
  have rsumEach (narrow : Bool) := live_vecSum_each s g j w h narrow hup _ (effRsum g) (fun w => !w.wide) VWord.xs rfl
  have rsumWhole (narrow : Bool) := live_vecSum_whole s g j w h narrow hup _ (effRsum g) (fun w => !w.wide) VWord.xs rfl
  have rdotEach := live_vecSum_each s g j w h false hup _ (effRdot g) (fun _ => false) VWord.products rfl
  have rdotWhole := live_vecSum_whole s g j w h false hup _ (effRdot g) (fun _ => false) VWord.products rfl
  refine ⟨fun hop hrsc => ?_, fun hop => rdotEach hop rfl, fun hop hrsc _ hw => rsumWhole true hop (by simp [hw]) hrsc,
    fun hop hrsc _ hw => rsumWhole false hop (by simp [hw]) hrsc, fun hop hrsc _ => rdotWhole hop rfl hrsc,
    live_vecExtreme s g j w hup h _ (effRmax g) Num.maxOf id rfl, live_vecExtreme s g j w hup h _ (effRmin g) Num.minOf id rfl,
    live_vecExtreme s g j w hup h _ (effRamax g) Num.maxOf Num.abs rfl⟩
  cases hw : w.wide with
  | false =>
    obtain ⟨t, hexec, hframe, htile, hlast⟩ := rsumEach true hop (by simp [hw]) hrsc
    exact ⟨t, hexec, hframe, htile, fun l hl => ⟨(hlast l hl).1, fun _ => (hlast l hl).2, nofun⟩⟩
  | true =>
    obtain ⟨t, hexec, hframe, htile, hlast⟩ := rsumEach false hop (by simp [hw]) hrsc
    exact ⟨t, hexec, hframe, htile, fun l hl => ⟨(hlast l hl).1, nofun, fun _ => (hlast l hl).2⟩⟩

end Sys2Proof.Machine
end

section
/-! Proofs of spec/07_vector_engine.md: statistics, the exact-state record and the sliced operand set (R142-R144). -/

namespace Sys2Proof.Machine

/-- The engine with both accumulators, their flags and the count replaced, whose bits are free beyond their width (07 R130; log 4). -/
def VectorEngine.withState (v : VectorEngine) (x : BitVec 320) (y : BitVec 4352) (p : Sum × Sum × Nat) :
    VectorEngine :=
  { v with narrow := accBits 320 x p.1.v, nflags := p.1.f, wide := accBits 4352 y p.2.1.v, wflags := p.2.1.f,
           terms := BitVec.ofNat 32 p.2.2 }

/-- The accumulators hold two sums, each where it fits, with their flags, and the counter a count (07 R130, R139). -/
structure AccsAre (u : VectorEngine) (p : Sum × Sum × Nat) : Prop where
  narrow : -(2 ^ 319 : Int) ≤ p.1.v → p.1.v < 2 ^ 319 → u.narrow.toInt = p.1.v
  wide : -(2 ^ 4351 : Int) ≤ p.2.1.v → p.2.1.v < 2 ^ 4351 → u.wide.toInt = p.2.1.v
  nflags : u.nflags = p.1.f
  wflags : u.wflags = p.2.1.f
  terms : u.terms = BitVec.ofNat 32 p.2.2

theorem VectorEngine.withState_accs (v : VectorEngine) (x : BitVec 320) (y : BitVec 4352) (p : Sum × Sum × Nat) :
    AccsAre (v.withState x y p) p :=
  ⟨accBits_toInt 319 x p.1.v, accBits_toInt 4351 y p.2.1.v, rfl, rfl, rfl⟩

theorem AccsAre.acted {c : Cell} {p : Sum × Sum × Nat} (h : AccsAre c.vec p) : AccsAre c.vecActed.vec p :=
  ⟨h.narrow, h.wide, h.nflags, h.wflags, h.terms⟩

theorem AccsAre.put {c : Cell} {p : Sum × Sum × Nat} (h : AccsAre c.vec p) (d : Nat) (bs : List Byte) :
    AccsAre (c.putTile d bs).vec p := ⟨h.narrow, h.wide, h.nflags, h.wflags, h.terms⟩

/-! ### RSTAT (07 R142) -/

/-- What RSTAT continues from: what the accumulators and the counter hold, or nothing. -/
def VWord.statStart (w : VWord) (v : VectorEngine) : Sum × Sum × Nat :=
  if 2 ≤ w.rsc && w.acc then (v.held true, v.held false, v.terms.toNat) else (Sum.clear, Sum.clear, 0)

/-- The sums and the count of each scope. -/
def VWord.stats (w : VWord) (v : VectorEngine) : List (Sum × Sum × Nat) :=
  (w.scopes (w.xs v)).map (statTerms (if w.rsc = 0 then (Sum.clear, Sum.clear, 0) else w.statStart v))

/-- The mean and the reciprocal standard deviation of a scope. -/
def VWord.statOf (w : VWord) (t : Sum × Sum × Nat) : Num × Option Num := statPair t.1 t.2.1 t.2.2 (fp32 w.rs2)

/-- The codes that RSTAT writes for a scope; z stands where there is no deviation (log 4). -/
def VWord.statCodes (w : VWord) (z : Nat) (t : Sum × Sum × Nat) : List Nat :=
  [toFp32 (w.statOf t).1, ((w.statOf t).2.map toFp32).getD z]

/-- What RSTAT writes to D. -/
def VWord.statBytes (w : VWord) (v : VectorEngine) (z : Nat) : List Byte :=
  if w.rsc = 3 then [] else packRow .fp32 ((w.stats v).flatMap (w.statCodes z))

/-- The sums and the count of one row (07 R142). -/
def rowStat (l : List Num) : Sum × Sum × Nat :=
  (l.foldl (Sum.term narrowUnit) Sum.clear, l.foldl (fun a x => Sum.term wideUnit a (x.mul x)) Sum.clear, satTerms l.length)

/-- The sums and the count that an instruction of whole scope leaves. -/
def VWord.wholeStat (w : VWord) (v : VectorEngine) : Sum × Sum × Nat :=
  (w.total v true (w.xs v), w.total v false ((w.xs v).map fun x => x.mul x), w.counted v (w.xs v))

section
variable (w : VWord) (v : VectorEngine)

theorem VWord.stats_whole (hrsc : 2 ≤ w.rsc) : w.stats v = [w.wholeStat v] := by
  rw [VWord.stats, w.scopes_whole _ hrsc, VWord.statStart, if_neg (by omega), decide_eq_true hrsc, Bool.true_and, List.map_singleton]
  simp only [VWord.wholeStat, VWord.total, VWord.counted, statTerms, accUnit, List.foldl_map]
  cases w.acc <;> rfl

/-- With RSC 0 each row begins from nothing. -/
theorem VWord.stats_rows (hrsc : w.rsc = 0) : w.stats v = (w.scopes (w.xs v)).map rowStat := by
  rw [VWord.stats, if_pos hrsc]
  refine List.map_congr_left fun l _ => ?_
  rw [statTerms, Nat.zero_add, rowStat]

/-- What a whole scope gives, by where it begins. -/
theorem VWord.statOf_whole : w.statOf (w.wholeStat v) =
    if w.acc then statPair ((w.xs v).foldl (Sum.term narrowUnit) (v.held true))
      ((w.xs v).foldl (fun a x => Sum.term wideUnit a (x.mul x)) (v.held false)) (satTerms (v.terms.toNat + (w.xs v).length))
      (fp32 w.rs2)
    else w.statOf (rowStat (w.xs v)) := by
  cases hacc : w.acc
  all_goals simp only [VWord.statOf, VWord.wholeStat, VWord.total, VWord.counted, rowStat, accUnit, hacc, List.foldl_map, reduceIte,
    Nat.zero_add, Bool.false_eq_true]

theorem VWord.statCodes_of_some (z : Nat) (t : Sum × Sum × Nat) (d : Num) (hd : (w.statOf t).2 = some d) :
    w.statCodes z t = [toFp32 (w.statOf t).1, toFp32 d] := by
  rw [VWord.statCodes, hd]
  rfl

/-- Where a scope has a deviation, no free value is written. -/
theorem VWord.statCodes_determined (z z' : Nat) (t : Sum × Sum × Nat) (h : (w.statOf t).2.isSome = true) :
    w.statCodes z t = w.statCodes z' t := by
  obtain ⟨d, hd⟩ := Option.isSome_iff_exists.1 h
  rw [w.statCodes_of_some z t d hd, w.statCodes_of_some z' t d hd]

end

section
variable (s : State) (g : CellId) (j : Job) (w : VWord) (hup : s.phase = .up) (h : s.vecNext g j w)
include hup h

theorem exec_rstat (hop : w.op = 0x25) : ∃ t x y z, exec (.rstat g) s = .next t ∧
    OnlyCell s t g (((s.cell g).withVec ((s.cell g).vec.withState x y
      ((w.stats (s.cell g).vec).getLastD (w.statStart (s.cell g).vec)))).putTile w.d (w.statBytes (s.cell g).vec z)).vecActed := by
  refine ⟨_, (s.draw 320).2, ((s.draw 320).1.draw 4352).2, (((s.draw 320).1.draw 4352).1.draw 32).2.toNat,
    live_onOp s g j w hup h 0x25 hop (effRstat g) _ rfl, ?_⟩
  have hdrawn (x : Cell) : OnlyCell s ((((s.draw 320).1.draw 4352).1.draw 32).1.setCell g x) g x :=
    (((OnlyCell.refl.store (State.draw_store _ _)).store (State.draw_store _ _)).store (State.draw_store _ _)).setCell
  exact ((hdrawn _).result j w _).store (State.keepInputs_store s _)

theorem exec_rstat_rows (hop : w.op = 0x25) (hrsc : w.rsc = 0) : ∃ t, exec (.rstat g) s = .next t ∧ VecFrame s t g ∧
    ((∀ l ∈ w.scopes (w.xs (s.cell g).vec), (w.statOf (rowStat l)).2.isSome = true) →
      VecTile s t g w.d (packRow .fp32 ((w.scopes (w.xs (s.cell g).vec)).flatMap fun l => w.statCodes 0 (rowStat l)))) := by
  obtain ⟨t, x, y, z, hexec, ht⟩ := exec_rstat s g j w hup h hop
  refine ⟨t, hexec, ht.frame h rfl rfl, fun hall => ?_⟩
  have hcodes : (w.scopes (w.xs (s.cell g).vec)).map (fun l => w.statCodes z (rowStat l)) =
      (w.scopes (w.xs (s.cell g).vec)).map fun l => w.statCodes 0 (rowStat l) :=
    List.map_congr_left fun l hl => w.statCodes_determined z 0 (rowStat l) (hall l hl)
  have htile := ht.tile rfl rfl
  rwa [VWord.statBytes, if_neg (by omega), w.stats_rows _ hrsc, List.flatMap_map, List.flatMap_def, hcodes,
    ← List.flatMap_def] at htile

theorem exec_rstat_whole (hop : w.op = 0x25) (hrsc : 2 ≤ w.rsc) : ∃ t z, exec (.rstat g) s = .next t ∧ VecFrame s t g ∧
    AccsAre (t.cell g).vec (w.wholeStat (s.cell g).vec) ∧
    VecTile s t g w.d (if w.rsc = 3 then [] else packRow .fp32 (w.statCodes z (w.wholeStat (s.cell g).vec))) := by
  obtain ⟨t, x, y, z, hexec, ht⟩ := exec_rstat s g j w hup h hop
  have htile := ht.tile rfl rfl
  rw [VWord.statBytes, w.stats_whole _ hrsc, List.flatMap_singleton] at htile
  refine ⟨t, z, hexec, ht.frame h rfl rfl, ?_, htile⟩
  rw [ht.here, w.stats_whole _ hrsc]
  exact ((VectorEngine.withState_accs _ x y (w.wholeStat (s.cell g).vec)).put _ _).acted

end

/-! ### The exact-state record (07 R143) -/

section
variable (n v : Nat) (bs : List Byte)

theorem byteAt_eq_field (i : Nat) : byteAt bs i = field bs i 1 := by
  rw [byteAt, field, List.take_one, List.head?_drop, List.getD_eq_getElem?_getD]
  cases bs[i]? <;> rfl

/-- A field behind the bytes of another number. -/
theorem field_append_skip (i k : Nat) (hi : n ≤ i) : field (leBytes n v ++ bs) i k = field bs (i - n) k := by
  simp [field, List.drop_append, List.drop_eq_nil_of_le, hi]

theorem field_append_head : field (leBytes n v ++ bs) 0 n = v % 256 ^ n := by
  simp [field, leNat_leBytes]

theorem field_leBytes : field (leBytes n v) 0 n = v % 256 ^ n := by
  simpa using field_append_head n v []

theorem toNat_mod_bytes (x : BitVec (8 * n)) : x.toNat % 256 ^ n = x.toNat := by
  have hbase : (256 : Nat) = 2 ^ 8 := rfl
  rw [hbase, ← Nat.pow_mul, Nat.mod_eq_of_lt x.isLt]

end

theorem AccFlags.byte_lt (f : AccFlags) : f.byte < 256 := by
  have hbit (b : Bool) : b.toNat ≤ 1 := by cases b <;> decide
  have hnan := hbit f.nan
  have hpinf := hbit f.pinf
  have hninf := hbit f.ninf
  have hnz := hbit f.nz
  unfold AccFlags.byte
  omega

/-- The parts of the record in their order. -/
theorem VectorEngine.record_parts (v : VectorEngine) : v.record =
    leBytes 40 v.narrow.toNat ++ (leBytes 1 v.nflags.byte ++ (leBytes 7 0 ++ (leBytes 544 v.wide.toNat ++
      (leBytes 1 v.wflags.byte ++ (leBytes 3 0 ++ (leBytes 4 v.terms.toNat ++ leBytes 40 0)))))) := by
  simp only [VectorEngine.record, List.append_assoc]

/-- Each field of the record is the number at its place. -/
theorem VectorEngine.record_fields (v : VectorEngine) : v.record.length = 640 ∧ field v.record 0 40 = v.narrow.toNat ∧
    byteAt v.record 40 = v.nflags.byte ∧ field v.record 41 7 = 0 ∧ field v.record 48 544 = v.wide.toNat ∧
    byteAt v.record 592 = v.wflags.byte ∧ field v.record 596 4 = v.terms.toNat ∧ field v.record 600 40 = 0 := by
  have hflag (f : AccFlags) : f.byte % 256 ^ 1 = f.byte := Nat.mod_eq_of_lt f.byte_lt
  have hnarrow : v.narrow.toNat % 256 ^ 40 = v.narrow.toNat := toNat_mod_bytes 40 v.narrow
  have hwide : v.wide.toNat % 256 ^ 544 = v.wide.toNat := toNat_mod_bytes 544 v.wide
  have hterms : v.terms.toNat % 256 ^ 4 = v.terms.toNat := toNat_mod_bytes 4 v.terms
  refine ⟨by simp only [VectorEngine.record, List.length_append, leBytes_length], ?_⟩
  simp only [byteAt_eq_field, VectorEngine.record_parts, field_append_skip, field_append_head, field_leBytes, Nat.reduceLeDiff,
    Nat.reduceSub, hnarrow, hwide, hterms, hflag, Nat.zero_mod, and_self]

theorem exec_rxs (s : State) (g : CellId) (j : Job) (w : VWord) (hup : s.phase = .up) (h : s.vecNext g j w) (hop : w.op = 0x26) :
    ∃ t, exec (.rxs g) s = .next t ∧ VecWrote s t g w.d (s.cell g).vec.record :=
  live_vecPut s g j w hup h 0x26 hop (effRxs g) (fun c _ => c.vec.record) rfl

/-- The sums and the count of the accumulators with those of a record added (07 R143). -/
def VectorEngine.plusRecord (v : VectorEngine) (r : List Byte) : Sum × Sum × Nat :=
  ({ v := v.narrow.toInt + (BitVec.ofNat 320 (field r 0 40)).toInt, f := v.nflags.orByte (byteAt r 40) },
   { v := v.wide.toInt + (BitVec.ofNat 4352 (field r 48 544)).toInt, f := v.wflags.orByte (byteAt r 592) },
   satTerms (v.terms.toNat + field r 596 4))

theorem exec_rxa (s : State) (g : CellId) (j : Job) (w : VWord) (hup : s.phase = .up) (h : s.vecNext g j w) (hop : w.op = 0x27) :
    ∃ t x y, exec (.rxa g) s = .next t ∧ OnlyCell s t g ((s.cell g).withVec ((s.cell g).vec.withState x y
      ((s.cell g).vec.plusRecord ((s.cell g).vec.bytes w.s1 640)))).vecActed := by
  refine ⟨_, (s.draw 320).2, ((s.draw 320).1.draw 4352).2, live_onOp s g j w hup h 0x27 hop (effRxa g) _ rfl, ?_⟩
  have hdrawn (x : Cell) : OnlyCell s (((s.draw 320).1.draw 4352).1.setCell g x) g x :=
    ((OnlyCell.refl.store (State.draw_store _ _)).store (State.draw_store _ _)).setCell
  exact ((hdrawn _).done j w.e).store (State.keepInputs_store s _)

/-! ### SLICE (04 R77-R79, 07 R144) -/

/-- The exponents supplied to SLICE fail the check of 04 R78. -/
def VWord.givenBad (w : VWord) (c : Cell) : Bool :=
  w.given && !(List.range w.vecs).all fun i => givenOk (c.givenExp w i) (w.vector (w.xs c.vec) i)

/-- The cell with the parts that SLICE writes. -/
def Cell.sliced (c : Cell) (w : VWord) : Cell := (c.sliceParts w (w.xs c.vec)).foldl (fun c p => c.write p.1 p.2) c

theorem Cell.sliced_only (c : Cell) (w : VWord) : c.sliced w = { c with mem := (c.sliced w).mem } :=
  Cell.foldl_write _ _ _ c c rfl

section
variable (s : State) (g : CellId) (j : Job) (w : VWord) (hup : s.phase = .up) (h : s.vecNext g j w) (hop : w.op = 0x07)
include hup h hop

theorem exec_slice_bad (hbad : w.givenBad (s.cell g) = true) : exec (.slice g) s = .next (s.endItem g stFormat) := by
  refine (live_onOp s g j w hup h 7 hop (effSlice g) _ rfl).trans ?_
  unfold VWord.givenBad at hbad
  rw [if_pos hbad, keepInputs_endItem]

/-- SLICE writes its parts; its note of an element that is not finite changes a register alone (04 R79). -/
theorem exec_slice_good (hgood : w.givenBad (s.cell g) = false) :
    ∃ t, exec (.slice g) s = .next t ∧ OnlyCell s t g ((s.cell g).sliced w).vecActed := by
  refine ⟨_, live_onOp s g j w hup h 7 hop (effSlice g) _ rfl, ?_⟩
  unfold VWord.givenBad at hgood
  rw [if_neg (by rw [hgood]; exact Bool.false_ne_true)]
  have hsliced : OnlyCell s (s.setCell g ((s.cell g).sliced w)) g ((s.cell g).sliced w) := OnlyCell.refl.setCell
  have hnoted := hsliced.store (SameStore.ite ((w.xs (s.cell g).vec).all Num.isFinite = true) (SameStore.refl _)
    (State.setSliceNf_store _ (g / 64)))
  exact (hnoted.done j w.e).store (State.keepInputs_store s _)

end

/-- Settles O12: RSTAT by its scope, the record field by field, RXA by the sums it adds, and SLICE by the check of its exponents. -/
theorem vectorExactState : Obligations.VectorExactState := by
  unfold Obligations.VectorExactState
  intro s g j w hup h
  refine ⟨fun hop hrsc => ?_, fun hop hrsc _ => ?_, fun hop => ?_, fun hop => ?_, fun hop =>
    ⟨exec_slice_bad s g j w hup h hop, fun hgood => ?_⟩⟩
  · exact exec_rstat_rows s g j w hup h hop hrsc
  · obtain ⟨t, z, hexec, hframe, haccs, htile⟩ := exec_rstat_whole s g j w hup h hop hrsc
    refine ⟨t, hexec, hframe, haccs.narrow, haccs.wide, haccs.nflags, haccs.wflags, ?_, fun hall => ?_, fun d hwritten hd => ?_⟩
    · rw [haccs.terms]
      exact toNat_satTerms _
    · rwa [if_pos hall] at htile
    · have hwhole := w.statOf_whole (s.cell g).vec
      rwa [if_neg (by omega), w.statCodes_of_some z _ d (hwhole ▸ hd), hwhole] at htile
  · obtain ⟨t, hexec, hwrote⟩ := exec_rxs s g j w hup h hop
    exact ⟨t, (s.cell g).vec.record, hexec, hwrote, (s.cell g).vec.record_fields⟩
  · obtain ⟨t, x, y, hexec, ht⟩ := exec_rxa s g j w hup h hop
    have haccs : AccsAre (t.cell g).vec ((s.cell g).vec.plusRecord ((s.cell g).vec.bytes w.s1 640)) := by
      rw [ht.here]
      exact (VectorEngine.withState_accs _ x y _).acted
    refine ⟨t, hexec, ht.frame h rfl rfl, by rw [ht.here]; rfl, by rw [ht.here]; rfl, ?_, ?_, haccs.nflags, haccs.wflags, ?_⟩
    · rintro n rfl hlo hhi
      exact haccs.narrow hlo hhi
    · rintro n rfl hlo hhi
      exact haccs.wide hlo hhi
    · rw [haccs.terms]
      exact toNat_satTerms _
  · obtain ⟨t, hexec, ht⟩ := exec_slice_good s g j w hup h hop hgood
    exact ⟨t, hexec, ht.stored h ((s.cell g).sliced_only w)⟩

end Sys2Proof.Machine
end

section
/-! What an access to memory and a record leave of the repairs of HBM: its channels, its bands, the rows whose repair is due and the rows
repaired (10 R209-R211), while the Lake, the counters, the quota, the caches and the logs see them. -/

namespace Sys2Proof.Machine

/-- The parts of the state in which lanes, rows, bands and channels are repaired and retire. -/
structure HbmHealth where
  chans : Tab Channel
  bands : Tab BandState
  rowDue : List (Nat × Nat × Nat)
  repaired : List (Nat × Nat × Nat)

def State.hbmHealth (s : State) : HbmHealth :=
  { chans := s.hbm.chans, bands := s.hbm.bands, rowDue := s.hbm.rowDue, repaired := s.flash.rows }

/-- The state has a given health: what of it the parts of the state then read as. -/
theorem State.hbmHealth_eq_iff (s : State) (h : HbmHealth) :
    s.hbmHealth = h ↔ s.hbm.chans = h.chans ∧ s.hbm.bands = h.bands ∧ s.hbm.rowDue = h.rowDue ∧ s.flash.rows = h.repaired := by
  cases h
  simp only [State.hbmHealth, HbmHealth.mk.injEq]

theorem State.hbmHealth_congr {s t : State} (hhbm : t.hbm = s.hbm) (hflash : t.flash = s.flash) : t.hbmHealth = s.hbmHealth := by
  unfold State.hbmHealth
  rw [hhbm, hflash]

theorem State.chan_of_health {s t : State} (h : t.hbmHealth = s.hbmHealth) (c : Nat) : t.chan c = s.chan c :=
  congrArg (fun x : HbmHealth => tabGet chanDflt x.chans c) h

theorem State.band_of_health {s t : State} (h : t.hbmHealth = s.hbmHealth) (c b : Nat) : t.band c b = s.band c b :=
  congrArg (fun x : HbmHealth => tabGet bandDflt x.bands (128 * c + b)) h

theorem foldl_hbmHealth {α : Type} (f : State → α → State) (l : List α) (s : State) (hf : ∀ t a, (f t a).hbmHealth = t.hbmHealth) :
    (l.foldl f s).hbmHealth = s.hbmHealth :=
  foldl_keeps (fun t => t.hbmHealth = s.hbmHealth) f l s rfl fun t a h => (hf t a).trans h

theorem ite_hbmHealth {c : Prop} [Decidable c] {s t u : State} (ht : t.hbmHealth = s.hbmHealth) (hu : u.hbmHealth = s.hbmHealth) :
    (if c then t else u).hbmHealth = s.hbmHealth := by
  split
  · exact ht
  · exact hu

/-! ### Registers, logs, counters (18 R367, 20 R387) -/

section
variable (s : State)

@[simp] theorem State.setReg_hbmHealth (a : Nat) (v : Word) : (s.setReg a v).hbmHealth = s.hbmHealth := rfl
@[simp] theorem State.setRegBit_hbmHealth (a i : Nat) : (s.setRegBit a i).hbmHealth = s.hbmHealth := rfl
@[simp] theorem State.setHost_hbmHealth (c : Nat) (x : HostCore) : (s.setHost c x).hbmHealth = s.hbmHealth := rfl
@[simp] theorem State.setLog_hbmHealth (d : Nat) (l : DieLog) : (s.setLog d l).hbmHealth = s.hbmHealth := rfl
@[simp] theorem State.raise_hbmHealth (die vector : Nat) : (s.raise die vector).hbmHealth = s.hbmHealth := rfl
@[simp] theorem State.request_hbmHealth (reason : Nat) (soon replace : Bool) :
    (s.request reason soon replace).hbmHealth = s.hbmHealth := rfl
@[simp] theorem State.setRegion_hbmHealth (r : Nat) (x : Region) : (s.setRegion r x).hbmHealth = s.hbmHealth := rfl
theorem State.withCap_hbmHealth (v : DWord) : { s with hbm := { s.hbm with cap := v } }.hbmHealth = s.hbmHealth := rfl
@[simp] theorem State.keepCap_hbmHealth : s.keepCap.hbmHealth = s.hbmHealth := s.withCap_hbmHealth _
theorem State.withLfsr_hbmHealth (x : Tab (BitVec 16)) : { s with hbm := { s.hbm with lfsr := x } }.hbmHealth = s.hbmHealth := rfl
theorem State.withQuota_hbmHealth (x : Tab Nat) : { s with hbm := { s.hbm with quota := x } }.hbmHealth = s.hbmHealth := rfl
@[simp] theorem State.setLakeLine_hbmHealth (k : Nat) (l : LakeLine) : (s.setLakeLine k l).hbmHealth = s.hbmHealth := rfl
theorem State.withDegradeGen_hbmHealth (v : Word) : { s with degradeGen := v }.hbmHealth = s.hbmHealth := rfl
theorem State.setChan_hbmHealth (c : Nat) (x : Channel) :
    (s.setChan c x).hbmHealth = { s.hbmHealth with chans := tabSet chanDflt s.hbmHealth.chans c x } := rfl
theorem State.setBand_hbmHealth (c b : Nat) (x : BandState) :
    (s.setBand c b x).hbmHealth = { s.hbmHealth with bands := tabSet bandDflt s.hbmHealth.bands (128 * c + b) x } := rfl
@[simp] theorem State.onCoh_hbmHealth (f : Coherence → Coherence) : (s.onCoh f).hbmHealth = s.hbmHealth := rfl
@[simp] theorem State.keepInputs_hbmHealth (t : State) : (s.keepInputs t).hbmHealth = t.hbmHealth := rfl

@[simp] theorem State.count_hbmHealth (die event : Nat) (who : Option Cid) (n : Nat) :
    (s.count die event who n).hbmHealth = s.hbmHealth := State.hbmHealth_congr (by simp) (by simp)

@[simp] theorem State.tally_hbmHealth (who : Option (Nat × Word)) (k n : Nat) : (s.tally who k n).hbmHealth = s.hbmHealth :=
  State.hbmHealth_congr (by simp) (by simp)

@[simp] theorem State.writeBytes_hbmHealth (a : Nat) (bs : List Byte) : (s.writeBytes a bs).hbmHealth = s.hbmHealth :=
  State.hbmHealth_congr (by simp) (by simp)

/-! ### A die's own write of a record (10 R201, R207, 12 R240) -/

@[simp] theorem State.quotaUse_hbmHealth (cid : Cid) (a n : Nat) : (s.quotaUse cid a n).hbmHealth = s.hbmHealth := by
  unfold State.quotaUse
  split
  · exact ite_hbmHealth (foldl_hbmHealth _ _ s fun t _ => t.withQuota_hbmHealth _) rfl
  · rfl

@[simp] theorem State.lakeTouch_hbmHealth (a n : Nat) (write alloc : Bool) :
    (s.lakeTouch a n write alloc).1.hbmHealth = s.hbmHealth := by
  unfold State.lakeTouch
  dsimp only
  split
  · exact ite_hbmHealth (s.setLakeLine_hbmHealth _ _) rfl
  · split
    · rfl
    · exact (State.setLakeLine_hbmHealth _ _ _).trans (s.withLfsr_hbmHealth _)

@[simp] theorem State.seeLine_hbmHealth (cid : Cid) (who : Option (Nat × Word)) (l n : Nat) (write alloc : Bool) :
    (s.seeLine cid who l n write alloc).hbmHealth = s.hbmHealth := by
  simp [State.seeLine]

@[simp] theorem State.seeAccess_hbmHealth (cid : Cid) (who : Option (Nat × Word)) (a n : Nat) (write noAlloc : Bool) :
    (s.seeAccess cid who a n write noAlloc).hbmHealth = s.hbmHealth := by
  unfold State.seeAccess
  split
  · exact foldl_hbmHealth _ _ s fun t l => t.seeLine_hbmHealth cid who l _ write _
  · exact s.count_hbmHealth _ _ _ _
  · rfl

@[simp] theorem State.countLinks_hbmHealth (src : Nat) (cid : Cid) (bytes : Nat) (ls : List Nat) :
    (s.countLinks src cid bytes ls).hbmHealth = s.hbmHealth := by
  induction ls generalizing s src with
  | nil => rfl
  | cons l ls ih => exact (ih _ _).trans (ite_hbmHealth (s.count_hbmHealth _ _ _ _) rfl)

@[simp] theorem State.sendOver_hbmHealth (src dst a : Nat) (cid : Cid) (bytes : Nat) :
    (s.sendOver src dst a cid bytes).hbmHealth = s.hbmHealth := by
  unfold State.sendOver
  split
  · exact s.countLinks_hbmHealth src cid bytes _
  · rfl

@[simp] theorem State.countLines_hbmHealth (src dst a n : Nat) (cid : Cid) (write : Bool) :
    (s.countLines src dst a n cid write).hbmHealth = s.hbmHealth := by
  unfold State.countLines
  exact ite_hbmHealth rfl (foldl_hbmHealth _ _ s fun t p => ite_hbmHealth (by simp) (by simp))

@[simp] theorem State.writeBack_hbmHealth (h : Holder) (line : Nat) : (s.writeBack h line).hbmHealth = s.hbmHealth := by
  have hseen : (((s.quotaUse (s.holderCid h) (128 * line) 128).seeAccess (s.holderCid h) none (128 * line) 128 true
      (s.dirEntry line).noLake).countLines (holderDie h) (s.memDie (128 * line)) (128 * line) 128 (s.holderCid h) true).hbmHealth =
      s.hbmHealth := by simp
  exact hseen

@[simp] theorem State.cleanLine_hbmHealth (line : Nat) : (s.cleanLine line).hbmHealth = s.hbmHealth := by
  unfold State.cleanLine
  dsimp only
  split
  · exact ite_hbmHealth (s.writeBack_hbmHealth _ line) rfl
  · rfl

@[simp] theorem State.dropCopies_hbmHealth (a n : Nat) : (s.dropCopies a n).hbmHealth = s.hbmHealth :=
  foldl_hbmHealth _ _ s fun t p => by simp [State.dropLine]

@[simp] theorem State.clearBroken_hbmHealth (a n : Nat) : (s.clearBroken a n).hbmHealth = s.hbmHealth := by
  unfold State.clearBroken
  split <;> rfl

@[simp] theorem State.endReservations_hbmHealth (a n : Nat) : (s.endReservations a n).hbmHealth = s.hbmHealth := by
  unfold State.endReservations
  split <;> rfl

@[simp] theorem State.recordWrite_hbmHealth (die a : Nat) (bs : List Byte) : (s.recordWrite die a bs).hbmHealth = s.hbmHealth := by
  simp [State.recordWrite, State.bgWrite]

/-! ### Error records and trace records (18 R367, R368, 20 R392) -/

@[simp] theorem State.holdErr_hbmHealth (d : Nat) (r : ErrRec) : (s.holdErr d r).hbmHealth = s.hbmHealth := by
  unfold State.holdErr
  exact ite_hbmHealth (s.setLog_hbmHealth _ _) (ite_hbmHealth (s.setLog_hbmHealth _ _) (s.setRegBit_hbmHealth _ _))

@[simp] theorem State.storeErr_hbmHealth (d : Nat) (r : ErrRec) : (s.storeErr d r).hbmHealth = s.hbmHealth := by
  have hrec (a : Nat) (bs : List Byte) : (if s.ownSlot a 64 then s.recordWrite d a bs else s).hbmHealth = s.hbmHealth :=
    ite_hbmHealth (s.recordWrite_hbmHealth d a bs) rfl
  unfold State.storeErr
  exact ite_hbmHealth (hrec _ _) (hrec _ _)

@[simp] theorem State.writeErr_hbmHealth (d : Nat) (r : ErrRec) : (s.writeErr d r).hbmHealth = s.hbmHealth := by
  have hheld := s.holdErr_hbmHealth d r
  unfold State.writeErr
  exact ite_hbmHealth hheld (ite_hbmHealth (ite_hbmHealth rfl hheld) (ite_hbmHealth (s.storeErr_hbmHealth d r) hheld))

@[simp] theorem State.goFatal_hbmHealth : s.goFatal.hbmHealth = s.hbmHealth :=
  foldl_hbmHealth _ _ _ fun _ _ => ite_hbmHealth rfl rfl

@[simp] theorem State.logError_hbmHealth (die : Nat) (e : ErrorEvent) : (s.logError die e).hbmHealth = s.hbmHealth := by
  unfold State.logError
  dsimp only
  split
  · refine ite_hbmHealth rfl (ite_hbmHealth rfl ?_)
    split
    · rfl
    · simp
  · exact (State.writeErr_hbmHealth _ _ _).trans s.goFatal_hbmHealth
  · exact s.writeErr_hbmHealth _ _

@[simp] theorem State.traceGlobal_hbmHealth (die : Nat) (r : TraceRec) : (s.traceGlobal die r).hbmHealth = s.hbmHealth := by
  have hheld : (s.holdTrace die r).hbmHealth = s.hbmHealth := ite_hbmHealth rfl rfl
  have hstored : (s.storeTrace die r).hbmHealth = s.hbmHealth := ite_hbmHealth (s.recordWrite_hbmHealth die _ _) rfl
  unfold State.traceGlobal
  exact ite_hbmHealth rfl (ite_hbmHealth hheld hstored)

/-- A degrade event leaves the health that its change leaves (18 R372). -/
theorem State.degrade_hbmHealth (die inst detail : Nat) (f : State → State) :
    (s.degrade die inst detail f).hbmHealth = (f { s with degradeGen := s.degradeGen + 1 }).hbmHealth := by
  unfold State.degrade
  dsimp only
  rw [State.traceGlobal_hbmHealth, State.logError_hbmHealth]
  rfl

@[simp] theorem State.markRegions_hbmHealth (f : Nat × Nat → Bool) : (s.markRegions f).hbmHealth = s.hbmHealth :=
  foldl_hbmHealth _ _ s fun _ _ => ite_hbmHealth rfl rfl

/-! ### Channels and bands that retire (10 R210, R211) -/

/-- A channel in service retires, and its lanes stay as they are. -/
theorem State.retireChannel_chan (c : Nat) (h : (s.chan c).state = .inService) :
    (s.retireChannel c).chan c = { s.chan c with state := .retiring } := by
  have hhealth : (s.retireChannel c).hbmHealth = (s.setChan c { s.chan c with state := .retiring }).hbmHealth := by
    unfold State.retireChannel
    dsimp only
    rw [if_neg (not_not_intro h), State.logError_hbmHealth, State.degrade_hbmHealth, State.keepCap_hbmHealth,
      State.request_hbmHealth, State.markRegions_hbmHealth, State.setChan_hbmHealth, State.setChan_hbmHealth,
      State.withDegradeGen_hbmHealth]
  rw [State.chan_of_health hhealth, State.setChan_chan, if_pos rfl]

/-- A band that is not offline is a retiring band once its retirement has been asked for. -/
theorem State.retireBand_band (c b : Nat) (h : s.band c b ≠ .offline) : (s.retireBand c b).band c b = .retiring := by
  by_cases hretiring : s.band c b = .retiring
  · simp [State.retireBand, hretiring]
  · have hhealth : (s.retireBand c b).hbmHealth = (s.setBand c b .retiring).hbmHealth := by
      unfold State.retireBand
      rw [if_neg (by simp [h, hretiring]), State.logError_hbmHealth, State.degrade_hbmHealth, State.keepCap_hbmHealth,
        State.request_hbmHealth, State.markRegions_hbmHealth, State.setBand_hbmHealth, State.setBand_hbmHealth,
        State.withDegradeGen_hbmHealth]
    rw [State.band_of_health hhealth, State.setBand_band, if_pos rfl]

end

end Sys2Proof.Machine
end

section
/-! Proofs of spec/10_memory_system.md: way groups, zeroing, patrol scrub, spare lanes, soft repair and retirement (R196, R204, R207,
R209-R211). -/

namespace Sys2Proof.Machine

section
variable (s : State) (hup : s.phase = .up)

/-! ### Way groups (10 R204) -/

theorem State.setLakeLine_lakeLine (k j : Nat) (l : LakeLine) :
    (s.setLakeLine k l).lakeLine j = if j = k then l else s.lakeLine j := tabGet_set ..

/-- Powering a group off changes which ways are powered, and nothing of the lines or of memory. -/
theorem State.groupOff_keeps (slice k : Nat) :
    (s.groupOff slice k).mem = s.mem ∧ ∀ j, (s.groupOff slice k).lakeLine j = s.lakeLine j := by
  unfold State.groupOff
  dsimp only
  split <;> exact ⟨rfl, fun _ => rfl⟩

include hup

theorem exec_lakeWayClean_powered (st : StackId) (set way : Nat)
    (h : bitOf (tabGet cleanDflt s.hbm.cleaning st.val).toNat (way / 4) = false) : exec (.lakeWayClean st set way) s = .next s := by
  refine (live_up s (effLakeWayClean st set way) hup).trans ?_
  simp [effLakeWayClean, h]

/-- A line of a group that powers down is counted when it is written back, and becomes invalid. -/
theorem exec_lakeWayClean_cleaning (st : StackId) (set way : Nat)
    (h : bitOf (tabGet cleanDflt s.hbm.cleaning st.val).toNat (way / 4) = true) :
    ∃ t, exec (.lakeWayClean st set way) s = .next t ∧ t.mem = s.mem ∧
      ∀ k, t.lakeLine k = if k = lakeKey st.val set way then lineDflt (lakeKey st.val set way) else s.lakeLine k := by
  refine ⟨_, live_up s (effLakeWayClean st set way) hup, ?_⟩
  unfold effLakeWayClean
  simp only [h, Bool.not_true, Bool.false_eq_true, ↓reduceIte]
  obtain ⟨u, hu, hmem, hhbm⟩ : ∃ u, (if (s.lakeLine (lakeKey st.val set way)).dirty = true then s.count (st.val / 3) 0x0A none 128
      else s) = u ∧ u.mem = s.mem ∧ u.hbm = s.hbm := by
    refine ⟨_, rfl, ?_⟩
    split
    · exact ⟨by simp, by simp⟩
    · exact ⟨rfl, rfl⟩
  rw [hu]
  obtain ⟨hoff, hlines⟩ := (u.setLakeLine (lakeKey st.val set way) (lineDflt (lakeKey st.val set way))).groupOff_keeps st.val (way / 4)
  refine ⟨hoff.trans hmem, fun k => (hlines k).trans ?_⟩
  rw [State.setLakeLine_lakeLine]
  unfold State.lakeLine
  rw [hhbm]

/-! ### Zeroing (10 R196) -/

theorem exec_bandZeroed (c : ChanId) (b : Nat) :
    exec (.bandZeroed c b) s = .next (if s.band c b = .zeroing then s.setBand c b .free else s) := by
  refine (live_up s (effBandZeroed c b) hup).trans ?_
  unfold effBandZeroed
  rw [keepInputs_ite]
  rfl

end

/-! ### Patrol scrub (10 R207, 18 R364) -/

/-- What patrol scrub keeps while the log of its die is off: memory, the map, the log's switch and the words that it has marked. -/
structure ScrubKeeps (d : Nat) (s t : State) : Prop where
  mem : t.mem = s.mem
  regions : t.hbm.regions = s.hbm.regions
  off : t.errEn d = false
  broken : ∀ w ∈ s.hbm.broken, w ∈ t.hbm.broken

theorem ScrubKeeps.trans {d : Nat} {s t u : State} (h : ScrubKeeps d s t) (k : ScrubKeeps d t u) : ScrubKeeps d s u :=
  ⟨k.mem.trans h.mem, k.regions.trans h.regions, k.off, fun w hw => k.broken w (h.broken w hw)⟩

theorem ScrubKeeps.hbmPlace {d : Nat} {s t : State} (h : ScrubKeeps d s t) (a : Nat) : t.hbmPlace a = s.hbmPlace a := by
  unfold State.hbmPlace State.region
  rw [h.regions]

theorem ScrubKeeps.mapped {d : Nat} {s t : State} (h : ScrubKeeps d s t) (a : Nat) (ha : inHbm a = true) : t.mapped a = s.mapped a := by
  unfold inHbm at ha
  unfold State.mapped
  split at ha
  next r hr => simp only [hr, State.region, h.regions]
  next => contradiction

/-- The die that logs what is found on a stack (18 R367). -/
theorem logOfDie_stack (st : StackId) : logOfDie (0x10 + st.val) = st.val / 3 := by
  have hst := st.isLt
  unfold logOfDie
  rw [if_neg (by omega), if_pos (by simp; omega)]
  congr 1
  omega

theorem ScrubKeeps.refl {d : Nat} {s : State} (hoff : s.errEn d = false) : ScrubKeeps d s s := ⟨rfl, rfl, hoff, fun _ hw => hw⟩

/-- A record that cannot be written is held: the logs change, and a register that says when one is lost (18 R368). -/
theorem State.holdErr_only (s : State) (d : Nat) (r : ErrRec) : ∃ x y, s.holdErr d r = { s with logs := x, regs := y } := by
  unfold State.holdErr
  dsimp only
  split
  · exact ⟨_, _, rfl⟩
  · split
    · exact ⟨_, _, rfl⟩
    · exact ⟨_, _, rfl⟩

theorem State.holdErr_errEn (s : State) (d : Nat) (r : ErrRec) : (s.holdErr d r).errEn d = s.errEn d := by
  unfold State.holdErr
  dsimp only
  split
  · rfl
  · split
    · rfl
    · simp [State.errEn, State.setRegBit]

/-- A contained error of a stack whose log is off is held on its die (18 R368). -/
theorem logError_off (s : State) (st : StackId) (e : ErrorEvent) (he : e.sev = .contained) (hoff : s.errEn (st.val / 3) = false) :
    ScrubKeeps (st.val / 3) s (s.logError (0x10 + st.val) e) ∧ (s.logError (0x10 + st.val) e).hbm.broken = s.hbm.broken := by
  obtain ⟨r, hheld⟩ : ∃ r, s.logError (0x10 + st.val) e = s.holdErr (st.val / 3) r := by
    refine ⟨{ e := e, die := 0x10 + st.val, count := 1, first := s.time, last := s.time }, ?_⟩
    unfold State.logError State.writeErr
    simp only [he, logOfDie_stack, hoff, Bool.not_false, ↓reduceIte]
  have hswitch := (s.holdErr_errEn (st.val / 3) r).trans hoff
  obtain ⟨x, y, honly⟩ := s.holdErr_only (st.val / 3) r
  rw [hheld]
  refine ⟨⟨?_, ?_, hswitch, fun w hw => ?_⟩, ?_⟩
  all_goals rw [honly]
  exact hw

theorem scrubRecord_keeps (s : State) (st : StackId) (a : Nat) (hoff : s.errEn (st.val / 3) = false) :
    ScrubKeeps (st.val / 3) s (s.scrubRecord st.val a) ∧ (s.scrubRecord st.val a).hbm.broken = s.hbm.broken := by
  obtain ⟨hkeeps, hbroken⟩ := logError_off { s with hbm := { s.hbm with scrubbed := tabPut s.hbm.scrubbed (a / 32) s.time } } st
    { plainEvent 0x01 .contained (s.hbmPlace a).1 0 with
      addr := BitVec.ofNat 64 (a / 32 * 32), owner := (s.owner (a / 2 ^ 21)).owner } rfl hoff
  exact ⟨⟨hkeeps.mem, hkeeps.regions, hkeeps.off, hkeeps.broken⟩, hbroken⟩

/-- A word that scrub finds broken is listed once. -/
def State.markBroken (s : State) (w : Nat) : State :=
  if s.hbm.broken.contains w then s else { s with hbm := { s.hbm with broken := s.hbm.broken ++ [w] } }

theorem markBroken_keeps (s : State) (d w : Nat) (hoff : s.errEn d = false) :
    ScrubKeeps d s (s.markBroken w) ∧ w ∈ (s.markBroken w).hbm.broken := by
  unfold State.markBroken
  split
  next hlisted => exact ⟨ScrubKeeps.refl hoff, by simpa using hlisted⟩
  next => exact ⟨⟨rfl, rfl, hoff, fun _ hw => List.mem_append_left _ hw⟩, List.mem_append_right _ (List.mem_singleton.mpr rfl)⟩

/-- A word of the stack that scrub finds is marked, and its record comes once in 24 h. -/
theorem scrubFinds_eq (s : State) (stack a : Nat) : s.scrubFinds stack a =
    if !inHbm a || !s.mapped a || (s.hbmPlace a).1 / 32 ≠ stack then s
    else match tabFind (s.markBroken (a / 32)).hbm.scrubbed (a / 32) with
      | some t => if ((s.markBroken (a / 32)).time - t).toNat < dayNs then s.markBroken (a / 32)
        else (s.markBroken (a / 32)).scrubRecord stack a
      | none => (s.markBroken (a / 32)).scrubRecord stack a := rfl

/-- What scrub finds on its stack is marked; what it is told of other places changes nothing. -/
theorem scrubFinds_keeps (s : State) (st : StackId) (a : Nat) (hoff : s.errEn (st.val / 3) = false) :
    ScrubKeeps (st.val / 3) s (s.scrubFinds st.val a) ∧
    (inHbm a = true → s.mapped a = true → (s.hbmPlace a).1 / 32 = st.val → a / 32 ∈ (s.scrubFinds st.val a).hbm.broken) := by
  obtain ⟨hmark, hmem⟩ := markBroken_keeps s (st.val / 3) (a / 32) hoff
  obtain ⟨hrecord, hbroken⟩ := scrubRecord_keeps (s.markBroken (a / 32)) st a hmark.off
  have hrecorded := And.intro (hmark.trans hrecord) fun (_ : inHbm a = true) (_ : s.mapped a = true)
    (_ : (s.hbmPlace a).1 / 32 = st.val) => hbroken.symm ▸ hmem
  rw [scrubFinds_eq]
  split
  next helse =>
    refine ⟨ScrubKeeps.refl hoff, fun ha hmapped hplace => ?_⟩
    simp [ha, hmapped, hplace] at helse
  next =>
    split
    · split
      · exact ⟨hmark, fun _ _ _ => hmem⟩
      · exact hrecorded
    · exact hrecorded

section
variable (s : State) (hup : s.phase = .up)
include hup

/-- A pass that is not behind scrubs the words known to be broken, then the ones it finds. -/
theorem exec_patrolScrubPass_finds (st : StackId) (a : DWord) (ha : inHbm a.toNat = true) (hmapped : s.mapped a.toNat = true)
    (hplace : (s.hbmPlace a.toNat).1 / 32 = st.val) (hoff : s.errEn (st.val / 3) = false) :
    ∃ t, exec (.patrolScrubPass st false [a]) s = .next t ∧ t.mem = s.mem ∧ a.toNat / 32 ∈ t.hbm.broken ∧
      ∀ w ∈ s.hbm.broken, w ∈ t.hbm.broken := by
  obtain ⟨u, hu, hknown⟩ : ∃ u, (s.hbm.broken.map (32 * ·)).foldl (fun t b => t.scrubFinds st.val b) s = u ∧
      ScrubKeeps (st.val / 3) s u :=
    ⟨_, rfl, foldl_keeps (ScrubKeeps (st.val / 3) s) _ _ s (ScrubKeeps.refl hoff) fun t b ht =>
      ht.trans (scrubFinds_keeps t st b ht.off).1⟩
  obtain ⟨hfound, hmarked⟩ := scrubFinds_keeps u st a.toNat hknown.off
  have hall := hknown.trans hfound
  have heff : effPatrolScrubPass st false [a] s = u.scrubFinds st.val a.toNat := by
    rw [← hu]
    simp [effPatrolScrubPass, List.foldl_append]
  refine ⟨_, live_up s (effPatrolScrubPass st false [a]) hup, ?_⟩
  rw [heff]
  refine ⟨hall.mem, hmarked ha ?_ ?_, hall.broken⟩
  · rwa [hknown.mapped a.toNat ha]
  · rwa [hknown.hbmPlace]

theorem exec_patrolScrubPass_behind (st : StackId) (hnone : s.hbm.broken = []) :
    exec (.patrolScrubPass st true []) s = .next (s.setRegBit (umberBar 0 + 0xA004) 0) := by
  have heff : effPatrolScrubPass st true [] s = s.setRegBit (umberBar 0 + 0xA004) 0 := by
    simp [effPatrolScrubPass, hnone]
  refine (live_up s (effPatrolScrubPass st true []) hup).trans ?_
  rw [heff]
  rfl

/-! ### Spare lanes (10 R209, R211) -/

theorem exec_hbmLaneFailure (c : ChanId) (lane : Nat) (hin : (s.chan c).state ≠ .offline) (hlane : lane ∉ (s.chan c).failed) :
    exec (.hbmLaneFailure c lane) s = .next (s.keepInputs
      (if 4 ≤ (s.chan c).spares + (s.chan c).failed.length then
        (s.setChan c { s.chan c with failed := (s.chan c).failed ++ [lane] }).retireChannel c
      else s.setChan c { s.chan c with failed := (s.chan c).failed ++ [lane] })) := by
  refine (live_up s (effHbmLaneFailure c lane) hup).trans ?_
  simp [effHbmLaneFailure, hin, hlane]

theorem exec_hbmLaneFailure_waits (c : ChanId) (lane : Nat) (hin : (s.chan c).state ≠ .offline) (hlane : lane ∉ (s.chan c).failed)
    (hspare : (s.chan c).spares + (s.chan c).failed.length < 4) :
    exec (.hbmLaneFailure c lane) s = .next (s.setChan c { s.chan c with failed := (s.chan c).failed ++ [lane] }) := by
  rw [exec_hbmLaneFailure s hup c lane hin hlane, if_neg (by omega)]
  rfl

theorem exec_hbmLaneFailure_retires (c : ChanId) (lane : Nat) (hin : (s.chan c).state = .inService) (hlane : lane ∉ (s.chan c).failed)
    (hnone : 4 ≤ (s.chan c).spares + (s.chan c).failed.length) :
    ∃ t, exec (.hbmLaneFailure c lane) s = .next t ∧
      t.chan c = { s.chan c with state := .retiring, failed := (s.chan c).failed ++ [lane] } := by
  refine ⟨_, exec_hbmLaneFailure s hup c lane (by simp [hin]) hlane, ?_⟩
  rw [if_pos hnone, State.chan_of_health (s.keepInputs_hbmHealth _), State.retireChannel_chan, State.setChan_chan, if_pos rfl]
  rw [State.setChan_chan, if_pos rfl]
  exact hin

/-- Spares take the place of failed lanes, as many as are left; their records and the service request leave the channel. -/
theorem exec_hbmRetrain (c : ChanId) (hin : (s.chan c).state ≠ .offline) (hfailed : (s.chan c).failed ≠ [])
    (hspare : (s.chan c).spares < 4) :
    ∃ t, exec (.hbmRetrain c) s = .next t ∧ t.chan c =
      { s.chan c with spares := (s.chan c).spares + min (s.chan c).failed.length (4 - (s.chan c).spares)
                      failed := (s.chan c).failed.drop (min (s.chan c).failed.length (4 - (s.chan c).spares)) } := by
  have hlen := List.length_pos_iff.mpr hfailed
  have hmoved : min (s.chan c).failed.length (4 - (s.chan c).spares) ≠ 0 := by omega
  refine ⟨_, live_up s (effHbmRetrain c) hup, ?_⟩
  unfold effHbmRetrain
  dsimp only
  rw [if_neg (by simp [hin, hmoved])]
  refine (State.chan_of_health ((s.keepInputs_hbmHealth _).trans (ite_hbmHealth ((State.request_hbmHealth _ _ _ _).trans ?_) ?_)) c).trans
    ((s.setChan_chan c c _).trans (if_pos rfl))
  all_goals exact foldl_hbmHealth _ _ _ fun t l => t.logError_hbmHealth _ _

/-! ### Soft repair (10 R210) -/

theorem exec_rowSoftRepair_other (c : ChanId) (b row : Nat) (hdue : (c.val, b, row) ∉ s.hbm.rowDue) (k : Bool) :
    exec (.rowSoftRepair c b row k) s = .next s := by
  refine (live_up s (effRowSoftRepair c b row k) hup).trans ?_
  simp [effRowSoftRepair, hdue]

end

/-- The state in which the repair of a row is no longer due. -/
def State.repairEnds (s : State) (row : Nat × Nat × Nat) : State :=
  { s with hbm := { s.hbm with rowDue := s.hbm.rowDue.filter (· != row) } }

theorem State.not_mem_repairEnds (s : State) (row : Nat × Nat × Nat) : row ∉ (s.repairEnds row).hbm.rowDue := by
  simp [State.repairEnds]

/-- The state in which a row waits for its hard repair. -/
def State.noteRepaired (s : State) (row : Nat × Nat × Nat) : State :=
  { s with flash := { s.flash with rows := if s.flash.rows.contains row then s.flash.rows else s.flash.rows ++ [row] } }

theorem State.mem_noteRepaired (s : State) (row : Nat × Nat × Nat) : row ∈ (s.noteRepaired row).flash.rows := by
  unfold State.noteRepaired
  dsimp only
  split
  next hlisted => simpa using hlisted
  next => simp

section
variable (s : State) (hup : s.phase = .up)
include hup

theorem exec_rowSoftRepair_due (c : ChanId) (b row : Nat) (hdue : (c.val, b, row) ∈ s.hbm.rowDue) (k : Bool) :
    exec (.rowSoftRepair c b row k) s = .next (s.keepInputs
      (if k then ((s.repairEnds (c.val, b, row)).noteRepaired (c.val, b, row)).logError (0x10 + c.val / 32) (plainEvent 0x27 .event c row)
      else (s.repairEnds (c.val, b, row)).retireBand c b)) := by
  refine (live_up s (effRowSoftRepair c b row k) hup).trans ?_
  unfold effRowSoftRepair
  rw [if_neg (by simpa using hdue)]
  rfl

theorem exec_rowSoftRepair_repairs (c : ChanId) (b row : Nat) (hdue : (c.val, b, row) ∈ s.hbm.rowDue) :
    ∃ t, exec (.rowSoftRepair c b row true) s = .next t ∧ (c.val, b, row) ∈ t.flash.rows ∧ (c.val, b, row) ∉ t.hbm.rowDue ∧
      t.hbm.bands = s.hbm.bands := by
  refine ⟨_, exec_rowSoftRepair_due s hup c b row hdue true, ?_⟩
  rw [if_pos rfl]
  obtain ⟨_, hbands, hdues, hrows⟩ := (State.hbmHealth_eq_iff _ _).mp
    (State.logError_hbmHealth ((s.repairEnds (c.val, b, row)).noteRepaired (c.val, b, row)) (0x10 + c.val / 32)
      (plainEvent 0x27 .event c row))
  exact ⟨hrows ▸ State.mem_noteRepaired _ _,
    fun hleft => s.not_mem_repairEnds _ ((congrArg ((c.val, b, row) ∈ ·) hdues).mp hleft), hbands⟩

theorem exec_rowSoftRepair_retires (c : ChanId) (b row : Nat) (hdue : (c.val, b, row) ∈ s.hbm.rowDue) (hin : s.band c b ≠ .offline) :
    ∃ t, exec (.rowSoftRepair c b row false) s = .next t ∧ t.band c b = .retiring := by
  refine ⟨_, exec_rowSoftRepair_due s hup c b row hdue false, ?_⟩
  rw [State.band_of_health (s.keepInputs_hbmHealth _), if_neg Bool.false_ne_true]
  exact State.retireBand_band (s.repairEnds (c.val, b, row)) c b hin

end

/-- Settles O21: each clause is what its command does above, by whether the group powers down, the band is being zeroed, a spare is left
or the repair is due. -/
theorem hbmMaintenance : Obligations.HbmMaintenance := by
  unfold Obligations.HbmMaintenance
  intro s hup
  refine ⟨fun st set way => ⟨exec_lakeWayClean_powered s hup st set way, fun hdown => ?_⟩,
    fun c b => ⟨fun hzeroing => ?_, fun hother => ?_⟩, exec_patrolScrubPass_finds s hup,
    fun hnone st => exec_patrolScrubPass_behind s hup st hnone,
    fun c lane hlane => ⟨fun hin => exec_hbmLaneFailure_waits s hup c lane hin hlane, fun hin hnone => ?_⟩,
    fun c hin hfailed hspare => ?_, fun c b row => ⟨fun hdue => ⟨exec_rowSoftRepair_repairs s hup c b row hdue,
      exec_rowSoftRepair_retires s hup c b row hdue⟩, exec_rowSoftRepair_other s hup c b row⟩⟩
  · obtain ⟨t, hexec, hmem, hlines⟩ := exec_lakeWayClean_cleaning s hup st set way hdown
    exact ⟨t, hexec, hmem, (hlines _).trans (if_pos rfl), fun k hk => (hlines k).trans (if_neg hk)⟩
  · rw [exec_bandZeroed s hup, if_pos hzeroing]
  · rw [exec_bandZeroed s hup, if_neg hother]
  · obtain ⟨t, hexec, hchan⟩ := exec_hbmLaneFailure_retires s hup c lane hin hlane hnone
    exact ⟨t, hexec, by rw [hchan], by rw [hchan]⟩
  · obtain ⟨t, hexec, hchan⟩ := exec_hbmRetrain s hup c hin hfailed hspare
    have hdrop : (s.chan c).failed.drop (min (s.chan c).failed.length (4 - (s.chan c).spares)) =
        (s.chan c).failed.drop (4 - (s.chan c).spares) := by
      rcases Nat.le_total (s.chan c).failed.length (4 - (s.chan c).spares) with hle | hle
      · rw [Nat.min_eq_left hle, List.drop_length, List.drop_eq_nil_of_le hle]
      · rw [Nat.min_eq_right hle]
    exact ⟨t, hexec, by rw [hchan], by rw [hchan, hdrop], by rw [hchan]⟩

end Sys2Proof.Machine
end

section
/-! What lies apart from memory (10 R201, R208, 12 R254, 18 R363, R367): an access to memory and the record of uncorrectable data change
memory, its caches, the counters and what a die's log keeps, and no other part of the state. -/

namespace Sys2Proof.Machine

/-- A state without its memory, its caches and counters, and what a record of a die's log changes. -/
def State.apart (s : State) : State :=
  { s with mem := [], older := [], hbm := State.reset.hbm, coh := State.reset.coh, logs := [], cmds := [], regs := [], svc := 0,
           irqs := [] }

/-- Every other part of the state is as it was. -/
structure SameApart (s t : State) : Prop where
  apart : t.apart = s.apart

theorem SameApart.refl (s : State) : SameApart s s := ⟨rfl⟩

theorem SameApart.trans {s t u : State} (h : SameApart s t) (k : SameApart t u) : SameApart s u := ⟨k.apart.trans h.apart⟩

theorem SameApart.foldl {α : Type} (f : State → α → State) (l : List α) (s : State) (hf : ∀ s a, SameApart s (f s a)) :
    SameApart s (l.foldl f s) :=
  foldl_keeps (SameApart s) f l s (.refl s) fun t a h => h.trans (hf t a)

theorem SameApart.ite {s t u : State} (b : Prop) [Decidable b] (ht : SameApart s t) (hu : SameApart s u) :
    SameApart s (if b then t else u) := by
  split
  · exact ht
  · exact hu

theorem SameApart.ochres {s t : State} (h : SameApart s t) : t.ochres = s.ochres := (congrArg State.ochres h.apart : t.apart.ochres = s.apart.ochres)
theorem SameApart.roots {s t : State} (h : SameApart s t) : t.roots = s.roots := (congrArg State.roots h.apart : t.apart.roots = s.apart.roots)
theorem SameApart.xlt {s t : State} (h : SameApart s t) : t.xlt = s.xlt := (congrArg State.xlt h.apart : t.apart.xlt = s.apart.xlt)

theorem State.withHbm_apart (s : State) (x : Hbm) : SameApart s { s with hbm := x } := ⟨rfl⟩
theorem State.setLog_apart (s : State) (d : Nat) (x : DieLog) : SameApart s (s.setLog d x) := ⟨rfl⟩
theorem State.request_apart (s : State) (reason : Nat) (soon replace : Bool) : SameApart s (s.request reason soon replace) := ⟨rfl⟩
theorem State.raise_apart (s : State) (die vector : Nat) : SameApart s (s.raise die vector) := ⟨rfl⟩

/-! ### Counters, quota, Lake (10 R201, R208, 20 R387) -/

theorem State.count_apart (s : State) (die event : Nat) (who : Option Cid) (n : Nat) : SameApart s (s.count die event who n) := by
  obtain ⟨x, hx⟩ := State.count_only s die event who n
  rw [hx]
  exact ⟨rfl⟩

theorem State.tally_apart (s : State) (who : Option (Nat × Word)) (k n : Nat) : SameApart s (s.tally who k n) := by
  obtain ⟨x, hx⟩ := State.tally_only s who k n
  rw [hx]
  exact ⟨rfl⟩

theorem State.quotaUse_apart (s : State) (cid : Cid) (a n : Nat) : SameApart s (s.quotaUse cid a n) := by
  unfold State.quotaUse
  split
  · exact .ite _ (.foldl _ _ s fun t _ => t.withHbm_apart _) (.refl s)
  · exact .refl s

theorem State.lakeTouch_apart (s : State) (a n : Nat) (write alloc : Bool) : SameApart s (s.lakeTouch a n write alloc).1 := by
  unfold State.lakeTouch
  dsimp only
  split
  · exact .ite _ (s.withHbm_apart _) (.refl s)
  · split
    · exact .refl s
    · exact (s.withHbm_apart _).trans (State.withHbm_apart _ _)

theorem State.seeLine_apart (s : State) (cid : Cid) (who : Option (Nat × Word)) (l n : Nat) (write alloc : Bool) :
    SameApart s (s.seeLine cid who l n write alloc) :=
  (s.lakeTouch_apart l n write alloc).trans <| (State.count_apart _ _ _ _ _).trans <| (State.count_apart _ _ _ _ _).trans <|
    (State.tally_apart _ _ _ _).trans (State.tally_apart _ _ _ _)

theorem State.seeAccess_apart (s : State) (cid : Cid) (who : Option (Nat × Word)) (a n : Nat) (write noAlloc : Bool) :
    SameApart s (s.seeAccess cid who a n write noAlloc) := by
  unfold State.seeAccess
  split
  · exact .foldl _ _ s fun t l => t.seeLine_apart cid who l _ write _
  · exact s.count_apart _ _ _ _
  · exact .refl s

theorem State.memRead_apart (s : State) (cid : Cid) (a n : Nat) (noAlloc : Bool) (who : Option (Nat × Word)) :
    SameApart s (s.memRead cid a n noAlloc who).1 :=
  (s.quotaUse_apart cid a n).trans (State.seeAccess_apart _ cid who a n false noAlloc)

theorem State.countLinks_apart (ls : List Nat) (s : State) (src : Nat) (cid : Cid) (bytes : Nat) :
    SameApart s (s.countLinks src cid bytes ls) := by
  induction ls generalizing s src with
  | nil => exact .refl s
  | cons l ls ih => exact (SameApart.ite _ (s.count_apart _ _ _ _) (.refl s)).trans (ih _ _)

theorem State.sendOver_apart (s : State) (src dst a : Nat) (cid : Cid) (bytes : Nat) : SameApart s (s.sendOver src dst a cid bytes) := by
  unfold State.sendOver
  split
  · exact State.countLinks_apart _ s src cid bytes
  · exact .refl s

theorem State.countLines_apart (s : State) (src dst a n : Nat) (cid : Cid) (write : Bool) :
    SameApart s (s.countLines src dst a n cid write) := by
  have hround (t : State) (a out back : Nat) : SameApart t ((t.sendOver src dst a cid out).sendOver dst src a cid back) :=
    (t.sendOver_apart _ _ _ _ _).trans (State.sendOver_apart _ _ _ _ _ _)
  unfold State.countLines
  exact .ite _ (.refl s) (.foldl _ _ s fun t p => .ite _ (hround t _ _ _) (hround t _ _ _))

/-! ### Cached copies, and a write in the background (12 R240, R254) -/

theorem State.writeBack_apart (s : State) (h : Holder) (line : Nat) : SameApart s (s.writeBack h line) := by
  have hseen : SameApart s (((s.quotaUse (s.holderCid h) (128 * line) 128).seeAccess (s.holderCid h) none (128 * line) 128 true
      (s.dirEntry line).noLake).countLines (holderDie h) (s.memDie (128 * line)) (128 * line) 128 (s.holderCid h) true) :=
    (s.quotaUse_apart _ _ _).trans <| (State.seeAccess_apart _ _ _ _ _ _ _).trans (State.countLines_apart _ _ _ _ _ _ _)
  exact hseen.trans ⟨rfl⟩

theorem State.dropLine_apart (s : State) (line : Nat) : SameApart s (s.dropLine line) := by
  have hclean : SameApart s (s.cleanLine line) := by
    unfold State.cleanLine
    dsimp only
    split
    · exact .ite _ (s.writeBack_apart _ line) (.refl s)
    · exact .refl s
  exact hclean.trans ⟨rfl⟩

theorem State.dropCopies_apart (s : State) (a n : Nat) : SameApart s (s.dropCopies a n) :=
  .foldl _ _ s fun t p => t.dropLine_apart p.1

theorem State.clearBroken_apart (s : State) (a n : Nat) : SameApart s (s.clearBroken a n) := .ite _ (.refl s) ⟨rfl⟩

theorem State.endReservations_apart (s : State) (a n : Nat) : SameApart s (s.endReservations a n) := .ite _ (.refl s) ⟨rfl⟩

theorem State.bgWrite_apart (s : State) (cid : Cid) (a : Nat) (bs : List Byte) (noAlloc : Bool) (who : Option (Nat × Word)) :
    SameApart s (s.bgWrite cid a bs noAlloc who) :=
  (s.dropCopies_apart a bs.length).trans <| (State.seeAccess_apart _ cid who a bs.length true noAlloc).trans <|
    (State.clearBroken_apart _ a bs.length).trans <| (State.endReservations_apart _ a bs.length).trans ⟨rfl⟩

theorem State.memWrite_apart (s : State) (cid : Cid) (a : Nat) (bs : List Byte) (noAlloc : Bool) (who : Option (Nat × Word)) :
    SameApart s (s.memWrite cid a bs noAlloc who) :=
  (s.quotaUse_apart cid a bs.length).trans (State.bgWrite_apart _ cid a bs noAlloc who)

/-! ### The record of uncorrectable data (18 R363, R367, R368) -/

theorem State.holdErr_apart (s : State) (d : Nat) (r : ErrRec) : SameApart s (s.holdErr d r) := by
  obtain ⟨x, y, honly⟩ := s.holdErr_only d r
  rw [honly]
  exact ⟨rfl⟩

theorem State.recordWrite_apart (s : State) (die a : Nat) (bs : List Byte) : SameApart s (s.recordWrite die a bs) :=
  (s.bgWrite_apart 0 a bs false none).trans (State.countLines_apart _ _ _ _ _ _ _)

theorem State.storeErr_apart (s : State) (d : Nat) (r : ErrRec) : SameApart s (s.storeErr d r) := by
  have hsignal (t : State) (x : DieLog) (c : Prop) [Decidable c] (v : Nat) :
      SameApart t ((if c then (t.setLog d x).request 24 true false else t.setLog d x).raise d v) :=
    .trans (.ite _ ((t.setLog_apart d x).trans (State.request_apart _ _ _ _)) (t.setLog_apart d x)) (State.raise_apart _ _ _)
  unfold State.storeErr
  exact .trans (.ite _ (s.recordWrite_apart d _ _) (.refl s)) (hsignal _ _ _ _)

theorem State.writeErr_apart (s : State) (d : Nat) (r : ErrRec) : SameApart s (s.writeErr d r) :=
  .ite _ (s.holdErr_apart d r) <| .ite _ (.ite _ (s.setLog_apart d _) (s.holdErr_apart d r)) <| .ite _ (s.storeErr_apart d r) (s.holdErr_apart d r)

/-- The record of consumed uncorrectable data is a contained one. -/
theorem State.ueRecord_apart (s : State) (cid : Cid) (a n : Nat) (who : Option (Nat × Word)) : SameApart s (s.ueRecord cid a n who) :=
  s.writeErr_apart _ _

/-! ### A walk (11 R218) -/

theorem State.seeWalk_apart (s : State) (die : Nat) (who : Option (Nat × Word)) (rs : List (Cid × Nat × Nat)) :
    SameApart s (s.seeWalk die who rs) :=
  .foldl _ _ s fun t r => (t.memRead_apart r.1 r.2.1 r.2.2 false who).trans (State.countLines_apart _ _ _ _ _ _ _)

theorem State.makeWalk_apart (s : State) (die : Nat) (cid : Cid) (va : Nat) (who : Option (Nat × Word)) :
    SameApart s (s.makeWalk die cid va who).1 := by
  have hcount := s.count_apart die 0x0C (some cid) 1
  have hsee := fun rs => hcount.trans (State.seeWalk_apart _ die who rs)
  rw [State.makeWalk_eq]
  split
  · exact hcount
  · split
    · exact .ite _ ((hsee _).trans (State.ueRecord_apart _ _ _ _ _)) (hsee _)
    · exact hsee _

end Sys2Proof.Machine
end

section
/-! Proofs of spec/11_translation.md: invalidation (R221, R222, R223). First what changing every listed value of a table gives, then what
each step of a broadcast does, then the statement. -/

namespace Sys2Proof.Machine

/-! ### Changing every listed value -/

theorem exists_of_mem_tabMap {α : Type} [DecidableEq α] {d : Nat → α} {t : Tab α} {f : Nat → α → α} {p : Nat × α}
    (hp : p ∈ tabMap d t f) : ∃ q ∈ t, (q.1, f q.1 q.2) = p := List.mem_map.mp (List.mem_filter.mp hp).1

theorem State.exists_of_mem_mapOchres {s : State} {f : Nat → Ochre → Ochre} {p : Nat × Ochre} (hp : p ∈ (s.mapOchres f).ochres) :
    ∃ q ∈ s.ochres, (q.1, f q.1 q.2) = p := exists_of_mem_tabMap hp

theorem State.exists_of_mem_mapCells {s : State} {f : Nat → Cell → Cell} {p : Nat × Cell} (hp : p ∈ (s.mapCells f).cells) :
    ∃ q ∈ s.cells, (q.1, f q.1 q.2) = p := exists_of_mem_tabMap hp

@[simp] theorem State.mapCells_ochres (s : State) (f : Nat → Cell → Cell) : (s.mapCells f).ochres = s.ochres := rfl
@[simp] theorem State.mapOchres_cells (s : State) (f : Nat → Ochre → Ochre) : (s.mapOchres f).cells = s.cells := rfl

/-! ### An XLT_INV of a host core that issues (11 R221, 12 R243, R249) -/

theorem State.wakeHost_only (s : State) (c : HostId) : ∃ x, s.wakeHost c = { s with hostsOn := x } := by
  unfold State.wakeHost
  split
  · exact ⟨s.hostsOn, rfl⟩
  · exact ⟨_, rfl⟩

theorem State.onHost_ready (s : State) (c : HostId) (h : s.hostReady c) (f : State → State) : s.onHost c f = f (s.wakeHost c) := by
  obtain ⟨hruns, hfree, hbarrier, hbuffer⟩ := h
  have hreleased : s.released = true := (Bool.and_eq_true_iff.mp hruns).1
  have hdue : (s.host c).due.isSome = false := by
    unfold State.hostFree at hfree
    simp only [Bool.and_eq_true, Option.isNone_iff_eq_none] at hfree
    rw [hfree.1.2]
    rfl
  simp [State.onHost, hreleased, hbuffer, State.drainBuffer, hdue, hfree, State.passBarrier, hbarrier]

section
variable (s : State) (c : HostId)

@[simp] theorem State.wakeHost_host (k : Nat) : (s.wakeHost c).host k = s.host k := by
  obtain ⟨x, hx⟩ := s.wakeHost_only c
  rw [hx]
  rfl

@[simp] theorem State.wakeHost_hostOwed (k : Nat) : (s.wakeHost c).hostOwed k = s.hostOwed k := by
  obtain ⟨x, hx⟩ := s.wakeHost_only c
  rw [hx]
  rfl

@[simp] theorem State.wakeHost_xlt : (s.wakeHost c).xlt = s.xlt := by
  obtain ⟨x, hx⟩ := s.wakeHost_only c
  rw [hx]

@[simp] theorem State.wakeHost_mem : (s.wakeHost c).mem = s.mem := by
  obtain ⟨x, hx⟩ := s.wakeHost_only c
  rw [hx]

theorem State.commits_now (hbuffer : (s.host c).buffer = []) (howed : s.hostOwed c = false) (f : State → State) :
    s.commits c f = f s := by
  simp [State.commits, State.behindStores, hbuffer, howed]

theorem exec_xltInv_ready (u : UmberId) (data : List Byte) (hup : s.phase = .up) (h : s.hostReady c) (howed : s.hostOwed c = false)
    (hlen : data.length = 32) : exec (.xltInv c u data) s = .next (s.keepInputs
      (if s.invFull then (s.wakeHost c).setHost c { s.host c with invStore := some (u.val, data) }
       else (s.wakeHost c).queueInv u data)) := by
  refine (live_up s _ hup).trans ?_
  have hfull : (s.wakeHost c).invFull = s.invFull := by simp [State.invFull]
  unfold effXltInv
  rw [if_neg (fun h => h hlen), s.onHost_ready c h, State.commits_now _ c (by simpa using h.2.2.2) (by simpa using howed), hfull,
    State.wakeHost_host]

end

@[simp] theorem State.queueInv_fields (s : State) (u : Nat) (data : List Byte) :
    (s.queueInv u data).xlt.queue = s.xlt.queue ++ [(invOf data).1] ∧ (s.queueInv u data).xlt.gen = s.xlt.gen ∧
    (s.queueInv u data).mem = s.mem := ⟨rfl, rfl, rfl⟩

/-! ### The broadcast (11 R222, R223, R226, R231) -/

theorem State.askAts_only (s : State) (p : Nat) (rid : BitVec 16) (wipes : List (BitVec 20)) :
    ∃ x, s.askAts p rid wipes = { s with roots := x } := by
  unfold State.askAts
  dsimp only
  split
  · exact ⟨s.roots, rfl⟩
  · exact ⟨_, rfl⟩

/-- What asking the functions of a port for acknowledgements changes (11 R231). -/
theorem State.askPort_only (x : State × List (Nat × Nat)) (cid : Cid) (all : Bool) (p : Nat) :
    ∃ r, (State.askPort x cid all p).1 = { x.1 with roots := r } := by
  refine foldl_keeps (fun y : State × List (Nat × Nat) => ∃ r, y.1 = { x.1 with roots := r }) _ _ x ⟨x.1.roots, rfl⟩ ?_
  rintro ⟨t, owed⟩ rid ⟨r, rfl⟩
  dsimp only
  split
  · exact ⟨r, rfl⟩
  · obtain ⟨r', hr'⟩ := State.askAts_only { x.1 with roots := r } p rid
      (if all then State.pasidsOf { x.1 with roots := r } p rid cid else [])
    exact ⟨r', by rw [hr']⟩

theorem State.askPorts_only (s : State) (cid : Cid) (all : Bool) (ports : List Nat) :
    ∃ r, (ports.foldl (fun x p => State.askPort x cid all p) (s, [])).1 = { s with roots := r } := by
  refine foldl_keeps (fun y : State × List (Nat × Nat) => ∃ r, y.1 = { s with roots := r }) _ _ _ ⟨s.roots, rfl⟩ ?_
  rintro ⟨t, owed⟩ p ⟨r, rfl⟩
  obtain ⟨r', hr'⟩ := State.askPort_only ({ s with roots := r }, owed) cid all p
  exact ⟨r', hr'⟩

/-- The slot that a broadcast frees may take a waiting store: what that leaves (11 R221). -/
@[simp] theorem State.acceptInv_fields (s : State) : s.acceptInv.xlt.gen = s.xlt.gen ∧ s.acceptInv.mem = s.mem ∧
    s.acceptInv.soVal = s.soVal ∧ s.acceptInv.ochres = s.ochres ∧ s.acceptInv.cells = s.cells := by
  unfold State.acceptInv
  split
  · exact ⟨rfl, rfl, rfl, rfl, rfl⟩
  · split <;> exact ⟨rfl, rfl, rfl, rfl, rfl⟩

@[simp] theorem State.acceptInv_parts (s : State) :
    (∀ d, s.acceptInv.ochre d = s.ochre d) ∧ ∀ g, s.acceptInv.cell g = s.cell g := by
  simp [State.ochre, State.cell]

/-- Dropping the entries that fail a test and making the walks that meet another start again. -/
def State.dropAndRestart (s : State) (keep : XEntry → Bool) (f : Walk → Bool) : State := (s.keepEntries keep).staleWalks f

@[simp] theorem State.dropAndRestart_fields (s : State) (keep : XEntry → Bool) (f : Walk → Bool) :
    (s.dropAndRestart keep f).xlt = s.xlt ∧ (s.dropAndRestart keep f).mem = s.mem ∧ (s.dropAndRestart keep f).soVal = s.soVal :=
  ⟨rfl, rfl, rfl⟩

theorem State.dropAndRestart_ochre (s : State) (keep : XEntry → Bool) (f : Walk → Bool) (d : Nat) :
    (∀ e ∈ ((s.dropAndRestart keep f).ochre d).xc, keep e = true) ∧
    ∀ w ∈ ((s.dropAndRestart keep f).ochre d).walks, f w = true → w.stale = true := by
  refine tabGet_of (fun o : Ochre => (∀ e ∈ o.xc, keep e = true) ∧ ∀ w ∈ o.walks, f w = true → w.stale = true) ochreDflt _ d
    ⟨fun e he => absurd he List.not_mem_nil, fun w hw => absurd hw List.not_mem_nil⟩ ?_
  intro p hp
  rw [State.dropAndRestart, State.staleWalks] at hp
  obtain ⟨q, hq, rfl⟩ := State.exists_of_mem_mapOchres hp
  rw [State.keepEntries, State.mapCells_ochres] at hq
  obtain ⟨o, -, rfl⟩ := State.exists_of_mem_mapOchres hq
  refine ⟨fun e he => (List.mem_filter.mp he).2, fun w hw hf => ?_⟩
  obtain ⟨v, -, rfl⟩ := List.mem_map.mp hw
  by_cases hv : f v = true
  · simp [hv]
  · simp [hv] at hf

theorem State.dropAndRestart_cell (s : State) (keep : XEntry → Bool) (f : Walk → Bool) (g : Nat) :
    ∀ e ∈ ((s.dropAndRestart keep f).cell g).xc, keep e = true := by
  refine tabGet_of (fun c : Cell => ∀ e ∈ c.xc, keep e = true) cellDflt _ g (fun e he => absurd he List.not_mem_nil) ?_
  intro p hp
  rw [State.dropAndRestart, State.staleWalks, State.mapOchres_cells] at hp
  obtain ⟨c, -, rfl⟩ := State.exists_of_mem_mapCells hp
  exact fun e he => (List.mem_filter.mp he).2

/-- A broadcast takes the next generation, asks the ports and, when the generation wraps, flushes; then it drops the entries of its range
and makes the walks of its CID start again. -/
theorem effInvalidationBroadcast_queued (s : State) (b : Inv) (q : List Inv) (h : s.xlt.queue = b :: q) :
    ∃ u : State, u.xlt.gen = s.xlt.gen + 1 ∧ u.mem = s.mem ∧ u.soVal = s.soVal ∧
      effInvalidationBroadcast s = (u.dropAndRestart (fun e => !b.drops e) fun w => w.cid == b.cid).acceptInv := by
  obtain ⟨r, hr⟩ := s.askPorts_only b.cid b.all (List.range 4)
  unfold effInvalidationBroadcast
  rw [h]
  dsimp only
  rw [hr]
  refine ⟨_, ?_, ?_, ?_, rfl⟩
  all_goals split <;> rfl

/-! ### The end of a walk (11 R222) -/

theorem State.drainPorts_idle (s : State) (h : s.portsIdle) : s.drainPorts = s := by
  refine foldl_keeps (· = s) _ _ s rfl ?_
  rintro t p rfl
  simp [State.drainPort, h p]

theorem State.portsIdle_of_roots {s t : State} (h : t.roots = s.roots) (hs : s.portsIdle) : t.portsIdle := fun p => by
  unfold State.root
  rw [h]
  exact hs p

/-- A walk that begins now is of the generation in force, and what it reads leaves the dies and the ports. -/
theorem State.beginWalk_spec (s : State) (d : Nat) (cid : Cid) (va kind : Nat) :
    SameApart s (s.beginWalk d cid va kind).1 ∧ (s.beginWalk d cid va kind).2.cid = cid ∧ (s.beginWalk d cid va kind).2.va = va ∧
    (s.beginWalk d cid va kind).2.gen = s.xlt.gen ∧ (s.beginWalk d cid va kind).2.stale = false := by
  refine ⟨s.makeWalk_apart d cid va none, ?_⟩
  unfold State.beginWalk
  generalize s.makeWalk d cid va none = r
  obtain ⟨t, e | st⟩ := r <;> exact ⟨rfl, rfl, rfl, rfl⟩

section
variable (s : State) (d : DieId) (i : Nat) (w : Walk) (hup : s.phase = .up) (hidle : s.portsIdle) (hw : (s.ochre d).walks[i]? = some w)
include hup hidle hw

theorem exec_walkFinish_stale (hstale : w.stale = true) : ∃ t, exec (.walkFinish d i) s = .next t ∧ (t.ochre d).xc = (s.ochre d).xc ∧
    ∃ v, (t.ochre d).walks[i]? = some v ∧ v.cid = w.cid ∧ v.va = w.va ∧ v.gen = s.xlt.gen ∧ v.stale = false := by
  obtain ⟨happart, hnew⟩ := s.beginWalk_spec d w.cid w.va w.kind
  generalize hb : s.beginWalk d w.cid w.va w.kind = r at happart hnew
  obtain ⟨u, v⟩ := r
  have hochre : u.ochre d = s.ochre d := by
    unfold State.ochre
    rw [happart.ochres]
  have hfinish : s.finishWalk d i = u.setOchre d { s.ochre d with walks := (s.ochre d).walks.set i v } := by
    simp [State.finishWalk, hw, hstale, hb, hochre]
  have hidle' : (s.finishWalk d i).portsIdle := State.portsIdle_of_roots (by simpa [hfinish] using happart.roots) hidle
  have hin : i < (s.ochre d).walks.length := (List.getElem?_eq_some_iff.mp hw).1
  refine ⟨_, live_up s _ hup, ?_⟩
  unfold effWalkFinish
  rw [State.drainPorts_idle _ hidle', hfinish]
  exact ⟨by simp, v, by simp [hin], hnew⟩

theorem exec_walkFinish_installs (hfresh : w.stale = false) (hqueue : (s.ochre d).missQ = []) (e : XEntry) (he : w.found = some e) :
    ∃ t, exec (.walkFinish d i) s = .next t ∧ e ∈ (t.ochre d).xc ∧ (t.ochre d).walks = (s.ochre d).walks.eraseIdx i ∧
      t.mem = s.mem := by
  have hfinish : s.finishWalk d i = (s.setOchre d { s.ochre d with walks := (s.ochre d).walks.eraseIdx i }).install (walkReq d) e := by
    simp [State.finishWalk, hw, hfresh, he, State.queuedMisses, State.install, walkReq, areaReq, hqueue]
  have hidle' : (s.finishWalk d i).portsIdle :=
    State.portsIdle_of_roots (by simp [hfinish, State.install, walkReq, areaReq]) hidle
  refine ⟨_, live_up s _ hup, ?_⟩
  unfold effWalkFinish
  rw [State.drainPorts_idle _ hidle', hfinish]
  simp [State.install, walkReq, areaReq]

end

/-! ### Completion (11 R223) -/

theorem effInvalidationComplete_flying (s : State) (b : Inv) (q : List Inv) (h : s.xlt.flying = b :: q) :
    effInvalidationComplete s =
      if s.invDone b then ({ s with xlt := { s.xlt with flying := q } } : State).signal b.so.toNat 1 else s := by
  unfold effInvalidationComplete
  rw [h]

/-- Settles O22: the store, the broadcast, the end of a walk and the completion, each by what its command does above. -/
theorem invalidationReachesEveryCache : Obligations.InvalidationReachesEveryCache := by
  unfold Obligations.InvalidationReachesEveryCache
  refine ⟨?_, ?_, ?_, ?_⟩
  · intro s c u data hup hready howed hlen
    have hexec := exec_xltInv_ready s c u data hup hready howed hlen
    refine ⟨fun hroom => ⟨_, hexec, ?_⟩, fun hfull => ⟨_, hexec, ?_⟩⟩
    · have hnot : s.invFull = false := decide_eq_false (Nat.not_le.mpr hroom)
      simp [hnot]
    · have hyes : s.invFull = true := decide_eq_true hfull
      simp [hyes]
  · intro s b q hup hqueue
    obtain ⟨u, hgen, hmem, hso, heff⟩ := effInvalidationBroadcast_queued s b q hqueue
    have hochre := u.dropAndRestart_ochre (fun e => !b.drops e) fun w => w.cid == b.cid
    have hcell := u.dropAndRestart_cell (fun e => !b.drops e) fun w => w.cid == b.cid
    refine ⟨_, live_up s _ hup, ?_⟩
    rw [heff]
    refine ⟨by simpa using hgen, by simpa using hmem, by simpa using hso, fun d e he => ?_, fun g e he => ?_, fun d w hw hcid => ?_⟩
    · simpa using (hochre d).1 e (by simpa using he)
    · simpa using hcell g e (by simpa using he)
    · exact (hochre d).2 w (by simpa using hw) (beq_iff_eq.mpr hcid)
  · intro s d i w hup hidle hw
    exact ⟨exec_walkFinish_stale s d i w hup hidle hw, exec_walkFinish_installs s d i w hup hidle hw⟩
  · intro s b q hup hflying
    have hexec : exec .invalidationComplete s = .next (s.keepInputs (effInvalidationComplete s)) := live_up s _ hup
    rw [effInvalidationComplete_flying s b q hflying] at hexec
    refine ⟨fun hwaits => ?_, fun hdone hgood => ⟨_, hexec, ?_⟩⟩
    · rw [hexec, hwaits]
      rfl
    · have hgood' : ({ s with xlt := { s.xlt with flying := q } } : State).soBroken b.so.toNat = false := hgood
      rw [hdone, if_pos rfl, State.signal, hgood', if_neg Bool.false_ne_true]
      refine ⟨rfl, by simp; rfl, fun o ho => by simp [ho]; rfl⟩

end Sys2Proof.Machine
end

section
/-! Refutation of a statement of spec/11_translation.md: walks and fault records (R220, R227, R228). The write of a fault record ends with
its trace record (20 R392, R393), which goes to the context's area as an engine's write does. Where CID 0 maps that area onto the
registers of the die, the trace record meets XLT_RESUME and resolves the very record that has been written. -/

namespace Sys2Proof.Machine

/-- A range of CID 0 over the first 64 KiB of O0's registers (11 R217, 13 R260). -/
def registerRange : XEntry :=
  { cid := 0, start := 0, length := 0x10000, pbase := 0x0F0000000000, r := true, w := true, x := false, mig := false, nolake := false }

/-- The one pending record of O0, with FID 0, not written yet. -/
def pendingFault : FaultRec :=
  { fid := 0, va := 0x100000, cid := 0, req := 0, kind := 2, cause := 0, prg := 0, cmd := none, written := false }

/-- At DEVTIME 0: the fault queue of O0 at 0x800000, enabled and empty, and the observation directory at 0x400000. The entry of CID 0
switches its trace ring on, at virtual address 0x1000: through `registerRange`, O0's registers from 0x1000 on. Bytes 20-23 of a trace
record, the high half of its time, fall on XLT_RESUME at 0x1014, where 0 is RETRY of FID 0. -/
def traceMeetsResume : State :=
  { State.reset with
    time := 0
    ochres := [(0, { Ochre.reset with xc := [registerRange], faults := [pendingFault] })]
    regs := [(ochreBar 0 + 0x1000, 0x800000), (ochreBar 0 + 0x1008, 1), (umberBar 0 + 0x4010, 0x400000)]
    mem := [(0x400008, 4), (0x400009, 2), (0x40000A, 6), (0x400019, 0x10)] }

theorem traceMeetsResume_premises :
    traceMeetsResume.phase = .up ∧ traceMeetsResume.fqEn 0 = true ∧ traceMeetsResume.fqFull 0 = false ∧
    traceMeetsResume.recordWay 0 (traceMeetsResume.fqSlot 0) 32 = true ∧
    ((traceMeetsResume.ochre 0).faults.find? fun f => !f.written) = some pendingFault := by decide +kernel

/-- The command that writes the record leaves no record pending. -/
theorem exec_faultRecordWrite_traceMeetsResume :
    answers (exec (.faultRecordWrite 0) traceMeetsResume) (fun t => (t.ochre 0).faults = []) = true := by decide +kernel

/-- Refutes O23: in `traceMeetsResume` the record that FAULT_RECORD_WRITE writes is not among the pending ones afterwards, marked or not,
because its own trace record has resolved it. -/
theorem not_walksAndFaultRecords : ¬ Obligations.WalksAndFaultRecords := by
  unfold Obligations.WalksAndFaultRecords
  rintro ⟨-, -, hwrite, -⟩
  obtain ⟨hup, hen, hroom, hway, hfirst⟩ := traceMeetsResume_premises
  obtain ⟨-, hmarks⟩ := hwrite traceMeetsResume 0 hup
  obtain ⟨t, hexec, -, hmarked, -⟩ := hmarks pendingFault hen hroom (fun _ => hway) hfirst
  have hnone : (t.ochre 0).faults = [] := by
    simpa [hexec, answers] using exec_faultRecordWrite_traceMeetsResume
  have hmem : { pendingFault with written := true } ∈ (t.ochre 0).faults := hmarked
  simp [hnone] at hmem

end Sys2Proof.Machine
end

section
/-! Proofs of spec/11_translation.md: third devices (R229, R230, R231), with 13 R286, 17 R356 and 21 R411. First what a translation leaves of
the root ports, then a device's request, ATS and PRI, and the PASID map, then the statement. -/

namespace Sys2Proof.Machine

/-! ### What a translation leaves of the root ports (11 R218, R220) -/

theorem State.install_roots (s : State) (w : Requester) (e : XEntry) : (s.install w e).roots = s.roots := by
  unfold State.install
  dsimp only
  split <;> rfl

theorem State.dieMiss_roots (s : State) (w : Requester) (cid : Cid) (va kind : Nat) :
    (s.dieMiss w cid va kind).1.roots = s.roots := by
  have hwalk := (s.makeWalk_apart w.die cid va w.cmd).roots
  unfold State.dieMiss
  dsimp only
  split
  · rfl
  split
  · split <;> rfl
  split
  · rfl
  split
  next t e hw =>
    rw [hw] at hwalk
    exact (t.install_roots w e).trans hwalk
  next t st hw =>
    rw [hw] at hwalk
    exact hwalk

theorem State.lookup_roots (s : State) (w : Requester) (cid : Cid) (va kind : Nat) : (s.lookup w cid va kind).1.roots = s.roots := by
  rw [State.lookup_eq]
  split
  · rfl
  split
  · rfl
  split
  · exact s.install_roots w _
  · exact s.dieMiss_roots w cid va kind

theorem State.lookup_root (s : State) (w : Requester) (cid : Cid) (va kind p : Nat) :
    (s.lookup w cid va kind).1.root p = s.root p := by
  unfold State.root
  rw [s.lookup_roots]

/-- A search that finds an entry leaves memory. -/
theorem State.lookup_entry_mem (s : State) (w : Requester) (cid : Cid) (va kind : Nat) (e : XEntry)
    (h : (s.lookup w cid va kind).2 = .entry e) : (s.lookup w cid va kind).1.mem = s.mem :=
  (s.lookup_keeps w cid va kind).2 (by simp [h])

/-! ### The address of a device's request (11 R229, R230) -/

/-- The state that the search for an address leaves. -/
theorem State.devAddr_state (s : State) (p : Nat) (cid : Cid) (q : DeviceRequest) :
    (s.devAddr p cid q).1 = if q.translated then s else (s.lookup (portReq p) cid q.addr.toNat 0).1 := by
  unfold State.devAddr
  dsimp only
  split
  · rfl
  · obtain ⟨t, e | st | -⟩ := s.lookup (portReq p) cid q.addr.toNat 0
    · exact (apply_ite Prod.fst _ _ _).trans (ite_self t)
    · rfl
    · rfl

theorem State.devAddr_root (s : State) (p : Nat) (cid : Cid) (q : DeviceRequest) (k : Nat) :
    (s.devAddr p cid q).1.root k = s.root k := by
  rw [State.devAddr_state]
  split
  · rfl
  · exact s.lookup_root _ _ _ _ k

theorem State.devAddr_at_mem (s v : State) (p : Nat) (cid : Cid) (q : DeviceRequest) (a : Nat) (nl : Bool)
    (h : s.devAddr p cid q = (v, .at a nl)) : v.mem = s.mem := by
  have hstate : v = if q.translated then s else (s.lookup (portReq p) cid q.addr.toNat 0).1 := by
    rw [← s.devAddr_state p cid q, h]
  have hfound := s.lookup_entry_mem (portReq p) cid q.addr.toNat 0
  rw [hstate]
  unfold State.devAddr at h
  dsimp only at h
  split at h
  next htrans => rw [if_pos htrans]
  next htrans =>
    rw [if_neg htrans]
    generalize s.lookup (portReq p) cid q.addr.toNat 0 = r at h hfound
    obtain ⟨t, e | st | -⟩ := r
    · exact hfound e rfl
    · simp at h
    · simp at h

/-! ### A device's request whose turn has come (11 R229, 13 R286) -/

section
variable (s : State) (p : RootId) (q : DeviceRequest) (hfirst : (s.root p).posted = []) (hclear : s.behindWrites p q.rid [] = false)
include hfirst hclear

/-- A request with nothing before it is tried at once. -/
theorem State.devRequest_first (relaxed : Bool) (t : State) (htry : s.devTry p q = (t, true)) : s.devRequest p q relaxed = t := by
  simp [State.devRequest, State.drainPort, hfirst, hclear, htry]

end

/-- A device's access to memory that every check passes is performed at its home (11 R233). -/
theorem State.devLocal_memory (v : State) (p : Nat) (cid : Cid) (a : Nat) (nl : Bool) (q : DeviceRequest) (hmem : isMemory a = true)
    (hn : accBytes q.access ≠ 0) (hmapped : v.spanMapped a (accBytes q.access) = true) (hopen : v.sealedCid cid = false)
    (hown : v.ownOk cid (accWrites q.access) a (accBytes q.access) = true) (hway : v.ways (4 + p / 2) a (accBytes q.access) = .clear)
    (htakes : v.homeTakes cid a q.access = true) (hgood : v.meetsBroken a q.access = false) :
    v.devLocal p cid a nl q = match q.access with
      | .write _ => ((v.homeAccess cid a nl q.access).1, true)
      | _ => ((v.homeAccess cid a nl q.access).1.answerDev p csOk (v.homeAccess cid a nl q.access).2, true) := by
  unfold isMemory at hmem
  unfold State.devLocal
  simp only [hmapped, hopen, hown, hway, htakes, hgood, hn, decide_false, Bool.not_true, Bool.false_and, Bool.or_false,
    Bool.false_eq_true, if_false]
  split
  next hp => simp [hp] at hmem
  next hp _ => simp [hp] at hmem
  next hp _ => simp [hp] at hmem
  next => rfl

section
variable (s v : State) (p : RootId) (q : DeviceRequest) (cid : Cid) (a : Nat) (nl : Bool) (hcid : s.devCid p q.rid q.pasid = some cid)
  (haddr : s.devAddr p cid q = (v, .at a nl)) (hlocal : isRemote a = false) (hmem : isMemory a = true)
  (hopen : v.sealedCid cid = false) (hway : v.ways (4 + p.val / 2) a (accBytes q.access) = .clear)
  (htakes : v.homeTakes cid a q.access = true) (hmapped : v.spanMapped a (accBytes q.access) = true)
  (hown : v.ownOk cid (accWrites q.access) a (accBytes q.access) = true) (hgood : v.meetsBroken a q.access = false)
include hcid haddr hlocal hmem hopen hway htakes hmapped hown hgood

theorem State.devTry_write (bs : List Byte) (hacc : q.access = .write bs) (hbs : bs ≠ []) :
    s.devTry p q = ((v.memWrite cid a bs nl).count (4 + p.val / 2) 0x28 (some cid) bs.length, true) := by
  have hn : accBytes q.access ≠ 0 := by simpa [hacc, accBytes] using hbs
  have hdone := v.devLocal_memory p cid a nl q hmem hn hmapped hopen hown hway htakes hgood
  simp only [hacc, State.homeAccess] at hdone
  simp [State.devTry, hacc, hcid, haddr, hlocal, hdone, accWrites, accBytes]

theorem State.devTry_read (n : Nat) (hacc : q.access = .read n) (hn : n ≠ 0) :
    s.devTry p q = ((v.memRead cid a n nl).1.answerDev p csOk (v.readBytes a n), true) := by
  have hn' : accBytes q.access ≠ 0 := by simpa [hacc, accBytes] using hn
  have hdone := v.devLocal_memory p cid a nl q hmem hn' hmapped hopen hown hway htakes hgood
  simp only [hacc, State.homeAccess] at hdone
  simp [State.devTry, hacc, hcid, haddr, hlocal, hdone, accWrites, State.memRead]

variable (hup : s.phase = .up) (hfirst : (s.root p).posted = []) (hclear : s.behindWrites p q.rid [] = false)
include hup hfirst hclear

/-- A write of a device stores its bytes and nothing else, posted or not, in order or relaxed (11 R229, R233, 13 R286). -/
theorem exec_deviceWrite (bs : List Byte) (hacc : q.access = .write bs) (hbs : bs ≠ []) (e : Instr)
    (he : e ∈ ([.thirdDeviceRequest p q, .postedWrite p q false, .postedWrite p q true] : List Instr)) :
    ∃ t, exec e s = .next t ∧ ∀ k : Nat, t.readByte k = if a ≤ k ∧ k < a + bs.length then bs.getD (k - a) 0 else s.readByte k := by
  have htry := State.devTry_write s v p q cid a nl hcid haddr hlocal hmem hopen hway htakes hmapped hown hgood bs hacc hbs
  have hdone := fun relaxed => State.devRequest_first s p q hfirst hclear relaxed _ htry
  have hexec : exec e s = .next (s.keepInputs ((v.memWrite cid a bs nl).count (4 + p.val / 2) 0x28 (some cid) bs.length)) := by
    simp only [List.mem_cons, List.not_mem_nil, or_false] at he
    rcases he with rfl | rfl | rfl
    · exact (live_up s _ hup).trans (by rw [effThirdDeviceRequest, hdone])
    · exact (live_up s _ hup).trans (by simp only [effPostedWrite, hacc, hdone])
    · exact (live_up s _ hup).trans (by simp only [effPostedWrite, hacc, hdone])
  refine ⟨_, hexec, fun k => ?_⟩
  have hsame : v.readByte k = s.readByte k := by
    unfold State.readByte
    rw [s.devAddr_at_mem v p cid q a nl haddr]
  rw [← hsame, ← v.memWrite_readByte cid nl bs none k]
  simp

/-- A read of a device is answered with the bytes of memory, which stays (11 R229, R233). -/
theorem exec_deviceRead (n : Nat) (hacc : q.access = .read n) (hn : n ≠ 0) :
    ∃ t, exec (.thirdDeviceRequest p q) s = .next t ∧ t.mem = s.mem ∧ (t.root p).answer = some (csOk, s.readBytes a n) := by
  have htry := State.devTry_read s v p q cid a nl hcid haddr hlocal hmem hopen hway htakes hmapped hown hgood n hacc hn
  have hsame := s.devAddr_at_mem v p cid q a nl haddr
  refine ⟨_, live_up s _ hup, ?_⟩
  rw [effThirdDeviceRequest, State.devRequest_first s p q hfirst hclear false _ htry]
  refine ⟨?_, ?_⟩
  · simpa [State.answerDev] using (v.memRead_store cid a n nl none).mem.trans hsame
  · simp [State.answerDev, State.readBytes, hsame]

end

/-- A read of a device without a CID or an address is refused, and the refusal logged (11 R229). -/
theorem exec_deviceRead_refused (s v : State) (p : RootId) (q : DeviceRequest) (n : Nat) (hup : s.phase = .up) (hacc : q.access = .read n)
    (hfirst : (s.root p).posted = []) (hclear : s.behindWrites p q.rid [] = false)
    (hnone : s.devCid p q.rid q.pasid = none ∧ v = s ∨
      ∃ cid, s.devCid p q.rid q.pasid = some cid ∧ s.devAddr p cid q = (v, .unsupported)) :
    ∃ t, exec (.thirdDeviceRequest p q) s = .next t ∧ t.mem = v.mem ∧ (t.root p).answer = some (csUnsupported, []) ∧
      (t.root p).aer = (s.root p).aer + 1 := by
  have htry : s.devTry p q = (v.refuseDev p (.read n) csUnsupported, true) ∧ v.root p = s.root p := by
    rcases hnone with ⟨hcid, rfl⟩ | ⟨cid, hcid, haddr⟩
    · exact ⟨by simp [State.devTry, hacc, hcid], rfl⟩
    · have hroot := s.devAddr_root p cid q p
      rw [haddr] at hroot
      exact ⟨by simp [State.devTry, hacc, hcid, haddr], hroot⟩
  refine ⟨_, live_up s _ hup, ?_⟩
  rw [effThirdDeviceRequest, State.devRequest_first s p q hfirst hclear false _ htry.1]
  simp [State.refuseDev, State.answerDev, State.logAer, htry.2]

/-! ### ATS and PRI (11 R227, R230) -/

section
variable (s : State) (p : RootId) (rid : BitVec 16) (hup : s.phase = .up)
include hup

/-- A function that lost ATS gets Unsupported Request. -/
theorem exec_atsTranslationRequest_off (pasid : Option (BitVec 20)) (va : DWord) (hoff : rid ∈ (s.root p).atsOff) :
    ∃ t, exec (.atsTranslationRequest p rid pasid va) s = .next t ∧ (t.root p).answer = some (csUnsupported, []) ∧
      (t.root p).ats = (s.root p).ats := by
  refine ⟨_, live_up s _ hup, ?_⟩
  simp [effAtsTranslationRequest, hoff, State.refuseDev, State.answerDev, State.logAer]

/-- A MIG range is reported with neither R nor W. -/
theorem exec_atsTranslationRequest_mig (pasid : Option (BitVec 20)) (va : DWord) (cid : Cid) (e : XEntry)
    (hon : rid ∉ (s.root p).atsOff) (hcid : s.devCid p rid pasid = some cid)
    (hentry : (s.lookup (portReq p) cid va.toNat 0).2 = .entry e) (hmig : e.mig = true) :
    ∃ t, exec (.atsTranslationRequest p rid pasid va) s = .next t ∧ t.mem = s.mem ∧
      (t.root p).answer = some (csOk, atsBytes 0 (atsSize e va.toNat) false false) := by
  have hmem := s.lookup_entry_mem (portReq p) cid va.toNat 0 e hentry
  obtain ⟨t, hfound⟩ : ∃ t, s.lookup (portReq p) cid va.toNat 0 = (t, .entry e) := ⟨_, Prod.ext rfl hentry⟩
  rw [hfound] at hmem
  refine ⟨_, live_up s _ hup, ?_⟩
  simpa [effAtsTranslationRequest, hon, hcid, hfound, hmig, State.answerDev] using hmem

/-- A PRI request appends a fault record of its own kind and cause. -/
theorem exec_priPageRequest (pasid : Option (BitVec 20)) (va : DWord) (cid : Cid) (prg : BitVec 16)
    (hcid : s.devCid p rid pasid = some cid) :
    ∃ t, exec (.priPageRequest p rid pasid va prg) s = .next t ∧
      ∃ f, (t.ochre (portReq p).die).faults = (s.ochre (portReq p).die).faults ++ [f] ∧ f.cause = 2 ∧ f.kind = 8 ∧ f.cid = cid ∧
        f.va = vaGranule va.toNat ∧ f.prg = prg ∧ f.written = false := by
  refine ⟨_, live_up s _ hup, ?_⟩
  simp [effPriPageRequest, hcid]

end

/-! ### Invalidate Requests of a port (11 R231) -/

/-- A function that owes nothing has nothing to acknowledge. -/
theorem RootPort.acked_none (r : RootPort) (rid : BitVec 16) (h : (r.atsOwed.any fun x => x.rid == rid) = false) : r.acked rid = r := by
  have hfind : (r.atsOwed.find? fun x => x.rid == rid) = none := by simpa using h
  simp [RootPort.acked, hfind]

/-- An acknowledgement ends the oldest request and what the function holds under its PASIDs, and no other. -/
theorem RootPort.acked_some (r : RootPort) (rid : BitVec 16) (x : AtsReq) (h : (r.atsOwed.find? fun x => x.rid == rid) = some x) :
    (∀ y, y ∈ (r.acked rid).atsOwed ↔ y ∈ r.atsOwed ∧ y ≠ x) ∧
      ∀ f : BitVec 16 × BitVec 20, f ∈ (r.acked rid).ats ↔ f ∈ r.ats ∧ ¬ (f.1 = rid ∧ f.2 ∈ x.wipes) := by
  simp only [RootPort.acked, h]
  exact ⟨fun y => by simp, fun f => by simp [Decidable.imp_iff_not_or]⟩

/-- A function that lost ATS owes nothing and holds nothing. -/
theorem RootPort.loseAts_fields (r : RootPort) (rid : BitVec 16) :
    rid ∈ (r.loseAts rid).atsOff ∧ (r.loseAts rid).atsEvt = true ∧ (∀ y ∈ (r.loseAts rid).atsOwed, y.rid ≠ rid) ∧
      ∀ f ∈ (r.loseAts rid).ats, f.1 ≠ rid := by
  simp [RootPort.loseAts]

section
variable (s : State) (p : RootId) (rid : BitVec 16) (hup : s.phase = .up)
include hup

theorem exec_atsInvalidateCompletion : exec (.atsInvalidateCompletion p rid) s = .next (s.setRoot p ((s.root p).acked rid)) :=
  live_up s _ hup

theorem exec_atsInvalidateTimeout : exec (.atsInvalidateTimeout p rid) s =
    .next (if (s.root p).atsOwed.any fun x => x.rid == rid then s.setRoot p ((s.root p).loseAts rid) else s) :=
  (live_up s _ hup).trans (by unfold effAtsInvalidateTimeout; split <;> rfl)

/-- Where the function owes nothing, neither an acknowledgement nor a timeout changes the port. -/
theorem exec_atsInvalidate_none (hnone : ((s.root p).atsOwed.any fun x => x.rid == rid) = false) :
    (∃ t, exec (.atsInvalidateCompletion p rid) s = .next t ∧ t.root p = s.root p ∧ t.mem = s.mem) ∧
      exec (.atsInvalidateTimeout p rid) s = .next s := by
  rw [exec_atsInvalidateCompletion s p rid hup, exec_atsInvalidateTimeout s p rid hup, RootPort.acked_none _ _ hnone]
  simp [hnone]

/-- An acknowledgement of a request that is owed. -/
theorem exec_atsInvalidateCompletion_some (x : AtsReq) (hfind : ((s.root p).atsOwed.find? fun x => x.rid == rid) = some x) :
    ∃ t, exec (.atsInvalidateCompletion p rid) s = .next t ∧ t.mem = s.mem ∧ x ∉ (t.root p).atsOwed ∧
      (∀ y ∈ (s.root p).atsOwed, y ≠ x → y ∈ (t.root p).atsOwed) ∧
      ∀ f : BitVec 16 × BitVec 20, f ∈ (t.root p).ats ↔ f ∈ (s.root p).ats ∧ ¬ (f.1 = rid ∧ f.2 ∈ x.wipes) := by
  obtain ⟨howed, hats⟩ := RootPort.acked_some _ rid x hfind
  refine ⟨_, exec_atsInvalidateCompletion s p rid hup, by simp, ?_⟩
  simp only [State.setRoot_root, if_true]
  exact ⟨fun hx => ((howed x).1 hx).2 rfl, fun y hy hne => (howed y).2 ⟨hy, hne⟩, hats⟩

/-- A timeout of a request that is owed. -/
theorem exec_atsInvalidateTimeout_some (x : AtsReq) (hfind : ((s.root p).atsOwed.find? fun x => x.rid == rid) = some x) :
    ∃ t, exec (.atsInvalidateTimeout p rid) s = .next t ∧ t.mem = s.mem ∧ rid ∈ (t.root p).atsOff ∧ (t.root p).atsEvt = true ∧
      (∀ y ∈ (t.root p).atsOwed, y.rid ≠ rid) ∧ ∀ f ∈ (t.root p).ats, f.1 ≠ rid := by
  have howes : ((s.root p).atsOwed.any fun x => x.rid == rid) = true :=
    List.any_eq_true.2 ⟨x, List.mem_of_find?_eq_some hfind, by simpa using List.find?_some hfind⟩
  refine ⟨_, exec_atsInvalidateTimeout s p rid hup, ?_⟩
  simp only [howes, if_true, State.setRoot_root]
  exact ⟨by simp, RootPort.loseAts_fields _ rid⟩

end

/-! ### The PASID map (17 R356, 21 R411) -/

theorem State.setReg_reg64 (s : State) (a : Nat) (lo hi : Word) : ((s.setReg a lo).setReg (a + 4) hi).reg64 a = hi ++ lo := by
  simp [State.reg64]

/-- What an entry takes from a write of its high half. -/
def pasidNew (lo hi : Word) : Nat := lo.toNat + (hi &&& 0x800FFFFF).toNat * 2 ^ 32

theorem pasidNew_high (lo hi : Word) (i : Nat) : pasidNew lo hi / 2 ^ (32 + i) = (hi &&& 0x800FFFFF).toNat / 2 ^ i := by
  rw [Nat.pow_add, ← Nat.div_div_eq_div_mul, pasidNew, Nat.add_mul_div_right _ _ (by decide), Nat.div_eq_of_lt lo.isLt, Nat.zero_add]

theorem pasidNew_valid (lo hi : Word) : bitOf (pasidNew lo hi) 63 = bitOf hi.toNat 31 := by
  have hbit := BitVec.getLsbD_and (x := hi) (y := 0x800FFFFF) (i := 31)
  unfold bitOf
  rw [pasidNew_high lo hi 31]
  simpa [BitVec.getLsbD, Nat.testBit_eq_decide_div_mod_eq] using hbit

theorem pasidNew_pasid (lo hi : Word) : bitsOf (pasidNew lo hi) 51 32 = hi.toNat % 2 ^ 20 := by
  have hlow : (hi &&& 0x800FFFFF).toNat % 2 ^ 20 = hi.toNat % 2 ^ 20 := by
    rw [BitVec.toNat_and, Nat.and_mod_two_pow]
    exact (Nat.and_two_pow_sub_one_eq_mod (hi.toNat % 2 ^ 20) 20).trans (Nat.mod_mod _ _)
  unfold bitsOf
  rw [pasidNew_high lo hi 0]
  simpa using hlow

theorem pasidNew_rid (lo hi : Word) : bitsOf (pasidNew lo hi) 15 0 = lo.toNat % 2 ^ 16 := by
  simp only [bitsOf, pasidNew]
  omega

theorem pasidNew_cid (lo hi : Word) : (BitVec.ofNat 16 (pasidNew lo hi / 2 ^ 16) : Cid) = BitVec.ofNat 16 (lo.toNat / 2 ^ 16) := by
  apply BitVec.eq_of_toNat_eq
  simp only [BitVec.toNat_ofNat, pasidNew]
  omega

section
variable (s : State) (p : RootId) (e : Fin 4096) (hi : Word) (hvalid : bitOf hi.toNat 31 = true)
include hvalid

/-- An entry for a requester ID and PASID that another entry has is not written (21 R411). -/
theorem exec_pasidEntryWrite_duplicate (hup : s.phase = .up) (i : Fin 4096) (hne : i ≠ e) (hin : bitOf (s.pasidEntry p i) 63 = true)
    (hrid : bitsOf (s.pasidEntry p i) 15 0 =
      (s.lowHalf (rootBlock p + 0x8000 + 8 * e.val) (s.reg (rootBlock p + 0x8000 + 8 * e.val))).toNat % 2 ^ 16)
    (hpasid : bitsOf (s.pasidEntry p i) 51 32 = hi.toNat % 2 ^ 20) :
    ∃ t, exec (.pasidEntryWrite p e hi) s = .next t ∧ (t.root p).dup = true ∧ t.regs = s.regs := by
  refine ⟨_, live_up s _ hup, ?_⟩
  unfold effPasidEntryWrite
  dsimp only
  rw [← pasidNew, pasidNew_valid, pasidNew_rid, pasidNew_pasid, hvalid, if_pos]
  · simp
  · refine Bool.and_eq_true_iff.2 ⟨rfl, List.any_eq_true.2 ⟨i, List.mem_range.2 i.isLt, ?_⟩⟩
    have hneq : i.val ≠ e.val := fun h => hne (Fin.ext h)
    have hsame : ∀ k, (s.unhold (rootBlock p + 0x8000 + 8 * e.val)).pasidEntry p k = s.pasidEntry p k := fun _ => rfl
    simp [hsame, hneq, hin, hrid, hpasid]

variable (hempty : ∀ k : Fin 4096, bitOf (s.pasidEntry p k) 63 = false)
include hempty

/-- What a write to a map without an entry does: it is dropped for a SEALED CID, and else the entry takes both halves (17 R356). -/
theorem effPasidEntryWrite_empty (a : Nat) (ha : a = rootBlock p + 0x8000 + 8 * e.val) (lo : Word) (hlo : lo = s.lowHalf a (s.reg a)) :
    effPasidEntryWrite p e hi s = if s.sealedCid (BitVec.ofNat 16 (lo.toNat / 2 ^ 16)) then s.unhold a
      else (((s.unhold a).setReg a lo).setReg (a + 4) (hi &&& 0x800FFFFF)).setRoot p
        { s.root p with granted := (s.root p).granted.filter (· != e.val) } := by
  have hnone : ((List.range 4096).any fun i => i ≠ e.val && bitOf ((s.unhold a).pasidEntry p i) 63 &&
      bitsOf ((s.unhold a).pasidEntry p i) 15 0 = lo.toNat % 2 ^ 16 && bitsOf ((s.unhold a).pasidEntry p i) 51 32 = hi.toNat % 2 ^ 20) =
      false := by
    refine List.any_eq_false.2 fun i hi => ?_
    have hout : bitOf ((s.unhold a).pasidEntry p i) 63 = false := hempty ⟨i, List.mem_range.1 hi⟩
    simp [hout]
  have hold : bitOf (s.reg64 a).toNat 63 = false := by
    rw [ha]
    exact hempty e
  have hopen : ∀ cid, (s.unhold a).sealedCid cid = s.sealedCid cid := fun _ => rfl
  unfold effPasidEntryWrite
  dsimp only
  rw [← pasidNew, pasidNew_valid, pasidNew_rid, pasidNew_pasid, pasidNew_cid, hvalid, ← ha, ← hlo, hnone, hopen, hold]
  rfl

variable (hup : s.phase = .up)
include hup

/-- In a map without an entry, one of a SEALED CID is not written. -/
theorem exec_pasidEntryWrite_sealed
    (hsealed : s.sealedCid (BitVec.ofNat 16
      ((s.lowHalf (rootBlock p + 0x8000 + 8 * e.val) (s.reg (rootBlock p + 0x8000 + 8 * e.val))).toNat / 2 ^ 16)) = true) :
    ∃ t, exec (.pasidEntryWrite p e hi) s = .next t ∧ t.regs = s.regs ∧ (t.root p).dup = (s.root p).dup := by
  refine ⟨_, live_up s _ hup, ?_⟩
  rw [effPasidEntryWrite_empty s p e hi hvalid hempty _ rfl _ rfl, hsealed, if_pos rfl]
  simp

/-- In a map without an entry, one of another CID is written, with its reserved bits 0. -/
theorem exec_pasidEntryWrite_open
    (hopen : s.sealedCid (BitVec.ofNat 16
      ((s.lowHalf (rootBlock p + 0x8000 + 8 * e.val) (s.reg (rootBlock p + 0x8000 + 8 * e.val))).toNat / 2 ^ 16)) = false) :
    ∃ t, exec (.pasidEntryWrite p e hi) s = .next t ∧ t.reg64 (rootBlock p + 0x8000 + 8 * e.val) =
      (hi &&& 0x800FFFFF) ++ s.lowHalf (rootBlock p + 0x8000 + 8 * e.val) (s.reg (rootBlock p + 0x8000 + 8 * e.val)) := by
  refine ⟨_, live_up s _ hup, ?_⟩
  rw [effPasidEntryWrite_empty s p e hi hvalid hempty _ rfl _ rfl, hopen, if_neg Bool.false_ne_true]
  simp only [keepInputs_parts]
  exact State.setReg_reg64 (s.unhold _) _ _ _

end

/-- RP_DEFCID takes a CID that is not SEALED, and no other (17 R356, 21 R411). -/
theorem exec_rpDefcidWrite (s : State) (p : RootId) (cid : Cid) (hup : s.phase = .up) :
    exec (.rpDefcidWrite p cid) s = .next (if s.sealedCid cid then s else s.setReg (rootBlock p) (cid.setWidth 32)) := by
  refine (live_up s _ hup).trans (congrArg Host.Outcome.next ?_)
  unfold effRpDefcidWrite
  split
  · exact keepInputs_self s
  · exact keepInputs_eq s _ (by simp) (by simp) (by simp)

/-- Settles O24, clause by clause: a device's access, its refusal, ATS and PRI, and the registers of a port. -/
theorem thirdDevicesUnderOwnership : Obligations.ThirdDevicesUnderOwnership := by
  refine ⟨?_, ?_, ?_, ?_⟩
  · intro s v p q cid a nl hup hcid haddr hlocal hmem hopen hfirst hclear hway htakes
    refine ⟨fun bs hacc hbs hmapped hown hgood => ?_, fun n hacc hn hmapped hown hgood => ?_⟩
    · exact exec_deviceWrite s v p q cid a nl hcid haddr hlocal hmem hopen hway htakes (by simpa [hacc, accBytes] using hmapped)
        (by simpa [hacc, accBytes, accWrites] using hown) (by simpa [hacc, State.meetsBroken] using hgood) hup hfirst hclear bs hacc hbs
    · exact exec_deviceRead s v p q cid a nl hcid haddr hlocal hmem hopen hway htakes (by simpa [hacc, accBytes] using hmapped)
        (by simpa [hacc, accBytes, accWrites] using hown) (by simpa [hacc, accBytes, State.meetsBroken] using hgood) hup hfirst hclear n hacc hn
  · intro s p q n hup hacc hfirst hclear v hnone
    exact exec_deviceRead_refused s v p q n hup hacc hfirst hclear hnone
  · intro s p rid pasid va hup
    exact ⟨exec_atsTranslationRequest_off s p rid hup pasid va, exec_atsTranslationRequest_mig s p rid hup pasid va,
      exec_priPageRequest s p rid hup pasid va, exec_atsInvalidate_none s p rid hup,
      fun x hfind => ⟨exec_atsInvalidateCompletion_some s p rid hup x hfind, exec_atsInvalidateTimeout_some s p rid hup x hfind⟩⟩
  · intro s p e i hi cid hup
    have hdef := exec_rpDefcidWrite s p cid hup
    exact ⟨fun hne hvalid hin hrid hpasid => exec_pasidEntryWrite_duplicate s p e hi hvalid hup i hne hin hrid hpasid,
      fun hempty hvalid => ⟨exec_pasidEntryWrite_sealed s p e hi hvalid hempty hup, exec_pasidEntryWrite_open s p e hi hvalid hempty hup⟩,
      fun h => by simpa [h] using hdef, fun h => by simpa [h] using hdef⟩

end Sys2Proof.Machine
end
